-- ==== Sys2Proof/Word.lean ====
section
/-! DEFINITION. The word types of the Poquel: bytes, 64-bit words and register fields (spec 00 R4, 04 R96). -/

namespace Sys2Proof

/-- One byte of memory. -/
abbrev Byte := BitVec 8

/-- A 64-bit scalar value (03 R69). -/
abbrev Word := BitVec 64

/-- A five-bit operand field of a head or a tail (04 R96, R105). -/
abbrev Reg := BitVec 5

end Sys2Proof
end

