-- ==== Sys2Proof/Config.lean ====
section
/-! DEFINITION. What an implementation fixes and the manual leaves open: the free values of the model. Each is an
opaque constant without a body, so nothing can be proved about which value it has (log 3, 6, 7, 8). -/

namespace Sys2Proof

/-- Nanoseconds that pass before the `n`-th reading of TIME (03 R86; log 6). -/
opaque Config.timeGap : Nat → Nat

/-- Whether a cached translation of page `p` still serves in step `n`, or has been dropped and is walked again
(15 R381; log 7). -/
opaque Config.tlbServes : Nat → Nat → Bool

/-- The byte of DRAM that a warm reset leaves where the latest store was lost (16 R421; log 8). -/
opaque Config.lostByte : Nat → Nat → Byte

/-- Byte `i` of the random draw that the security logic makes in step `n` (15 R398; log 8). -/
opaque Config.randomByte : Nat → Nat → Byte

/-- The fixed hash of a 128-byte line's address that chooses its home slice (01 R19; log 8). -/
opaque Config.homeSlice : Nat → Nat

/-- The cluster, by its number among the device's, that the doorbell of the control block at an address belongs to
(01 R35; log 71). -/
opaque Config.doorbellCluster : Nat → Nat

/-- The fabric port a job takes among those the winning route permits (17 R437; log 8). -/
opaque Config.portHash : Nat → Nat → Nat → Nat

/-- The bytes a remote device delivers to the `k`-th byte of job `j`, read in step `n` (09 R228; log 8). -/
opaque Config.remoteByte : Nat → Nat → Nat → Byte

/-- The trap cause with which the remote device of job `j` refuses it when it completes in step `n`; 0 for none
(09 R227; 15 R393; log 8). -/
opaque Config.remoteCause : Nat → Nat → Nat

/-- Whether the members of the collective that job `j` belongs to agree (09 R229; log 8). -/
opaque Config.membersAgree : Nat → Nat → Bool

/-- What the boot chain measures after the Plate: the bytes of component `i` (15 R395, R396; log 8). -/
opaque Config.bootComponent : Nat → List Byte

/-- The key, security version and signature of firmware image `i` (15 R395; log 8). -/
opaque Config.firmwareKey : Nat → List Byte
opaque Config.firmwareVersion : Nat → Nat
opaque Config.firmwareSignature : Nat → List Byte

/-- The public Plate key in the boot ROM (15 R394, R395; log 8). -/
opaque Config.plateKey : List Byte

/-- Record `k` of the Plate that an update package wrote, and its signature (15 R394; log 8): 0 the repair maps and
enables, 1 the sealed identity seed, 2 the firmware root key hash, 3 the minimum security version, 4 the identity
certificate. -/
opaque Config.plateRecord : List Byte → Nat → List Byte
opaque Config.plateSignature : List Byte → Nat → List Byte

/-- What the security logic unseals with the key that the hub die's physically unclonable function derives (15 R397; log 8). -/
opaque Config.unseal : List Byte → List Byte

/-- The sequence number and the signature of an update package (15 R394; log 8). -/
opaque Config.packageSequence : List Byte → Nat
opaque Config.packageSignature : List Byte → List Byte

/-- The rate code and the width that the link of a root port trains to, which the other end has a say in (17 R434; log 79). -/
opaque Config.portLink : Nat → Nat × Nat

/-- The identity words of the root ports, and what functions behind them answer in step `n` to a configuration read (17 R434;
log 79). -/
opaque Config.portIdentity : Nat
opaque Config.deviceConfig : Nat → Nat → BitVec 32

/-- The part number YJ-SNP-1536-768 in ASCII, zero-padded to 24 bytes (01 R27; 15 R398). -/
def Config.partNumber : List Byte :=
  [0x59, 0x4A, 0x2D, 0x53, 0x4E, 0x50, 0x2D, 0x31, 0x35, 0x33, 0x36, 0x2D, 0x37, 0x36, 0x38] ++ List.replicate 9 0

end Sys2Proof
end

