-- ==== Sys2Proof/Syntax.lean ====
section
/-! DEFINITION. The syntax of the Poquel: one constructor for every row of spec/opcode_table.json. Rows with an encoding
are hart instructions (04 R110); rows without one are whole steps of the device's other agents (95). Operand fields keep
the names and widths of the tail layouts of 04 R105. -/

namespace Sys2Proof

/-- A branch or loop target: line offset and slot (04 R101). -/
structure Target where
  slot : BitVec 5
  loff : BitVec 16
  deriving DecidableEq, Repr

/-- Operands of tail layout SM: scalar loads, stores and prefetch (04 R105, 05 R141). -/
structure SMOps where
  x : Reg
  y : Reg
  fr : Bool
  width : BitVec 3
  off : BitVec 24
  deriving DecidableEq, Repr

/-- Operands of tail layout VA: scalar FP and vector arithmetic (04 R105). -/
structure VAOps where
  x : Reg
  y : Reg
  z : Reg
  w : Reg
  rm : BitVec 3
  sat : Bool
  co : Bool
  ci : Bool
  xm : BitVec 3
  mask : BitVec 3
  ty : BitVec 4
  deriving DecidableEq, Repr

/-- Operands of tail layout VM: vector memory, matrix and movement (04 R105). -/
structure VMOps where
  x : Reg
  y : Reg
  z : Reg
  imm : BitVec 18
  sub : Reg
  mask : BitVec 3
  ty : BitVec 4
  wait : BitVec 8
  deriving DecidableEq, Repr

/-- A request that reaches this device over the fabric (15 R392). -/
structure RemoteRequest where
  devid : Nat
  srcAsid : Nat
  write : Bool
  va : Word
  bytes : List Byte
  len : Nat
  deriving DecidableEq, Repr

/-- A PCI Express request as it reaches the IOMMU (17 R435): the address that it asks for, its requester by segment, bus, device
and function (the segment from bit 16), and its Relaxed Ordering attribute. -/
structure InboundRequest where
  pa : Nat
  write : Bool
  bytes : List Byte
  requester : Nat := 0
  relaxed : Bool := false
  deriving DecidableEq, Repr

/-- What the power controller reads each millisecond (17 R444, R446). -/
structure ThermalReading where
  temps : List Word
  power : Nat
  deriving DecidableEq, Repr

/-- The unit that a management request or a wake names (16 R416; 02 R66). -/
inductive UnitName where
  | hart (h : Nat)
  | core (c : Nat)
  | cluster (c : Nat)
  | die (d : Nat)
  deriving DecidableEq, Repr

/-- A link of the module (17 R427, R434, R436, R448). -/
inductive LinkName where
  | ucie (n : Nat)
  | fabric (n : Nat)
  | pcie (n : Nat)
  deriving DecidableEq, Repr

/-- The instructions and device steps of the Poquel; those without operands stand last. -/
inductive Instr where
  -- 05 R119 to R121
  | add (d a b : Reg) | sub (d a b : Reg) | mul (d a b : Reg) | mulh (d a b : Reg) | mulhn (d a b : Reg)
  | div (d a b : Reg) | divn (d a b : Reg) | rem (d a b : Reg) | remn (d a b : Reg)
  | and (d a b : Reg) | or (d a b : Reg) | xor (d a b : Reg)
  | shl (d a b : Reg) | shr (d a b : Reg) | sra (d a b : Reg) | rot (d a b : Reg)
  | slt (d a b : Reg) | sltn (d a b : Reg)
  | min (d a b : Reg) | max (d a b : Reg) | minn (d a b : Reg) | maxn (d a b : Reg)
  | clmul (d a b : Reg) | clmulh (d a b : Reg)
  | clz (d a : Reg) | ctz (d a : Reg) | pop (d a : Reg)
  | sext (d a w : Reg) | zext (d a w : Reg)
  -- 05 R122 to R125
  | addi (d a : Reg) (imm : BitVec 16) | andi (d a : Reg) (imm : BitVec 16) | ori (d a : Reg) (imm : BitVec 16)
  | xori (d a : Reg) (imm : BitVec 16) | shli (d a : Reg) (imm : BitVec 16) | shri (d a : Reg) (imm : BitVec 16)
  | srai (d a : Reg) (imm : BitVec 16) | slti (d a : Reg) (imm : BitVec 16)
  | limm (d : Reg) (imm : BitVec 48) | addpc (d : Reg) (imm : BitVec 32)
  | sel (d c a b : Reg)
  -- 05 R126 to R129
  | fadd (o : VAOps) | fsub (o : VAOps) | fmul (o : VAOps) | ffma (o : VAOps) | fcvt (o : VAOps) | fcmp (o : VAOps)
  -- 05 R130 to R132
  | beq (a b : Reg) (t : Target) | bne (a b : Reg) (t : Target) | blt (a b : Reg) (t : Target)
  | bge (a b : Reg) (t : Target) | bltn (a b : Reg) (t : Target) | bgen (a b : Reg) (t : Target)
  | jmp (t : Target) | call (t : Target) | jmpr (d a : Reg)
  -- 05 R133 to R140
  | loop (c a : Reg) (t : Target) | loopm (c a : Reg) (t : Target) (stages : BitVec 8)
  | loopi (c : Reg) (count : BitVec 16) (t : Target)
  -- 10 R274
  | trap (imm : BitVec 16) | srr (d : Reg) (n : BitVec 12) | srw (a : Reg) (n : BitVec 12)
  -- 05 R141 to R147
  | ld (o : SMOps) | st (o : SMOps) | pref (o : SMOps)
  -- 10 R240 to R242
  | amoAdd (d a v : Reg) (sz : Bool) | amoAnd (d a v : Reg) (sz : Bool) | amoOr (d a v : Reg) (sz : Bool)
  | amoXor (d a v : Reg) (sz : Bool) | amoMin (d a v : Reg) (sz : Bool) | amoMax (d a v : Reg) (sz : Bool)
  | amoMinn (d a v : Reg) (sz : Bool) | amoMaxn (d a v : Reg) (sz : Bool) | amoSwap (d a v : Reg) (sz : Bool)
  | amoFadd (d a v : Reg) (sz : Bool) | cas (d a e n : Reg) (sz : Bool)
  -- 10 R245 to R248
  | waitw (v a m : Reg) (cc : BitVec 2) (sz : Bool) (code : BitVec 4)
  | waitSatisfied (hart : Nat) | watchPoll (hart : Nat) | waitBoundExpired (hart : Nat)
  -- 10 R249 to R253
  | pbinit (c a : Reg) | pbarr (d a : Reg) | pbexp (b a : Reg) | pbwait (p a : Reg) (code : BitVec 4)
  | pbwaitComplete (hart : Nat)
  -- 06 R148 to R153
  | vcfg (count : BitVec 2) (shares : BitVec 3) (ew : BitVec 2) | shareGrant (core : Nat)
  | vsetl (d a : Reg) | vsetr (d a : Reg) | gang (d a : Reg) | gangTimeout (hart : Nat)
  -- 06 R171
  | mand (d a b : Reg) | mor (d a b : Reg) | mxor (d a b : Reg) | mnot (d a : Reg) | mset (d a : Reg)
  | mpop (d a : Reg) | mfirst (d a : Reg) | mmov (d a : Reg)
  -- 06 R156 to R165
  | vadd (o : VAOps) | vsub (o : VAOps) | vmul (o : VAOps) | vfma (o : VAOps) | vfms (o : VAOps) | vdiv (o : VAOps)
  | vsqrt (o : VAOps) | vrsq (o : VAOps) | vexp2 (o : VAOps) | vmin (o : VAOps) | vmax (o : VAOps)
  | vabs (o : VAOps) | vneg (o : VAOps) | vand (o : VAOps) | vor (o : VAOps) | vxor (o : VAOps)
  | vshl (o : VAOps) | vshr (o : VAOps) | vsra (o : VAOps) | vclmul (o : VAOps) | vdot (o : VAOps)
  | vhad (o : VAOps) | vcvt (o : VAOps)
  -- 06 R161
  | vaddVs (o : VAOps) | vsubVs (o : VAOps) | vmulVs (o : VAOps) | vfmaVs (o : VAOps) | vfmsVs (o : VAOps)
  | vdivVs (o : VAOps) | vminVs (o : VAOps) | vmaxVs (o : VAOps) | vandVs (o : VAOps) | vorVs (o : VAOps)
  | vxorVs (o : VAOps) | vshlVs (o : VAOps) | vshrVs (o : VAOps) | vsraVs (o : VAOps) | vclmulVs (o : VAOps)
  | vdotVs (o : VAOps)
  -- 06 R167 to R169
  | vsel (o : VAOps) | vmv (o : VAOps) | vbcast (o : VAOps) | vslide (o : VAOps) | vperm (o : VAOps)
  | viota (o : VAOps) | vcmp (o : VAOps) | vred (o : VAOps)
  -- 07 R175 to R195, 09 R236
  | vld (o : VMOps) | vlds (o : VMOps) | vldx (o : VMOps) | vldff (o : VMOps) | vldt (o : VMOps) | vpref (o : VMOps)
  | vst (o : VMOps) | vsts (o : VMOps) | vstx (o : VMOps) | vamo (o : VMOps) | vlock (o : VMOps) | vunlock (o : VMOps)
  | stmap (o : VMOps) | stwb (o : VMOps) | stunmap (o : VMOps)
  -- 08 R199 to R210
  | oclaim (o : VMOps) | orel (o : VMOps) | oldv (o : VMOps) | opa (o : VMOps) | aclaim (o : VMOps) | arel (o : VMOps)
  | aclr (o : VMOps) | axt (o : VMOps) | asave (o : VMOps) | aload (o : VMOps)
  -- 09 R217 to R229
  | vcopy (o : VMOps) | vcopyJob (o : VMOps) | vcopyx (o : VMOps)
  | jobStart (job n : Nat) | jobComplete (job : Nat) | remoteAccessTimeout (job : Nat)
  | collectiveJoinTimeout (job : Nat) | remoteAccessReceived (r : RemoteRequest)
  | vstrm (o : VMOps) | vstrmx (o : VMOps)
  | waitk (set : BitVec 8) | cwp (d : Reg) (k : BitVec 3)
  -- 09 R233 to R238
  | topen (d a : Reg) (t : BitVec 3) | trel (t : BitVec 3) | tstat (d : Reg) (t : BitVec 3)
  | refreshCloseRow (row : Nat) | tetherReopened (row : Nat)
  -- 10 R254 to R265
  | qinit (a t : Reg) | enq (v a z : Reg) (code : BitVec 4) | deq (d a z : Reg) (code : BitVec 4)
  | venq (v a : Reg) (m : BitVec 3) (code : BitVec 4) | vdeq (d a : Reg) (m : BitVec 3) (code : BitVec 4)
  | spoolReservationGrant (q : Nat) | spoolTakingGrant (q : Nat)
  | enqt (v a z : Reg) (p : BitVec 3) | deqt (d a z : Reg) (p : BitVec 3) | qstat (d a : Reg)
  | spoolNotifyDelay (q : Nat) | doorbellStore (pa : Nat) (v : Word) | headLatchStore (pa : Nat) (v : Word)
  -- 10 R267 to R272, R275; 04 R102
  | spawn (r : Reg) | joinw (j : Reg) | launch (d q p : Reg) | jstat (d q i : Reg) | cancel (q i : Reg)
  | tlbinv (a b : Reg) | stagePrefix (p : BitVec 3)
  -- 02 R48 to R58
  | takePacket (spool : Nat) | dispatchPacket (spool : Nat) | placementMessage (pkt cluster : Nat)
  | gondolaCopyMessage (cluster : Nat) | startClusterGroup (cluster : Nat) (cores : List Nat)
  | startTask (cluster hart : Nat) | packetComplete (pkt : Nat)
  | wakeComplete (u : UnitName) | gateCluster (cluster : Nat) | gateDie (die : Nat)
  -- 14 R359, 16 R404 to R414
  | preemptStarvation (cluster : Nat) | preemptRequest (hart : Nat) | resumeHartGroup (group : Nat)
  | faultreplyResume (index : Nat) | faultreplyKill (index : Nat)
  -- 15 R388 to R391, 17 R433, R430
  | watchEntryFired (entry : Nat)
  | lspoolRegister (v : Word) | lspoolRemove (v : Word)
  -- 16 R421, 14 R373, 17 R428, 15 R399
  | devidsetWrite (v : Word) | gatectlWrite (v : Word) | registerWrite (pa : Nat) (v : Word)
  -- 17 R446, 16 R418 to R424, 17 R435, R448
  | thermalStepEval (r : ThermalReading) | patrolScrub (pa : Nat) (bad : Bool) | uncorrectableError (pa : Nat)
  | linkDown (l : LinkName) | pcieInboundRequest (r : InboundRequest)
  | mgmtHalt (u : UnitName) | mgmtResume (hart : Nat) | mgmtStep (hart : Nat)
  | mgmtWriteState (hart off : Nat) (v : Word) | mgmtWarmReset (orderly : Bool)
  | ucieLinkTrained (n : Nat) | stackTrainingComplete (n : Nat) (pass : Bool) | pciePortReady (n : Nat)
  | applicationCoreStore (pa : Nat) (bytes : List Byte) | linkUp (l : LinkName)
  -- without operands: 10 R243, R273, R274; 06 R151; 16 R405; 15 R388 to R399; 17 R429, R433; 14 R373; 16 R421; 04 R101, R107
  | nop | next | halt | eret | ill | yield | fence | fenceSv | fenceVs | vdrain | vrel | faultRecordWrite
  | invpage | invasid | invall | ctxload | ctxdestroy | watchElement
  | resetOrderlyWarm | resetWarm | keelRestart | keelHeartbeatTimeout | keelRestartComplete
  | quote | extend | identity | plateupd | mailboxComplete | coldReset | fetchFault | unallocatedEncoding
  deriving DecidableEq, Repr

end Sys2Proof
end

