-- ==== Sys2Proof/Machine/State.lean ====
section
/-! DEFINITION. The state of the Poquel as plain data (INVENTORY.md, State): harts, cores, clusters, contexts, memory,
the hub, the Keel and the Plate, and the state after reset. Sparse tables list only what differs from a default. -/

namespace Sys2Proof.Machine

/-- Why the machine stops: never. Every trap, poisoned read, refused packet and failed boot of the spec has its own next
state, so no constructor is needed (safe). -/
inductive Fault where
  deriving DecidableEq, Repr

/-- Why an instruction has no meaning. -/
inductive Refusal where
  /-- Raised only by an arm of `exec` that has no meaning yet. Safe: nothing is claimed of such a step. -/
  | notModelled (mnemonic : String)
  deriving DecidableEq, Repr

/-- A sparse table: keys strictly rising, no entry equal to the table's default. -/
abbrev SMap (α : Type) := List (Nat × α)

/-- The two modes of a hart (15 R383). -/
inductive Mode where
  | user | system
  deriving DecidableEq, Repr

/-- The condition of a stored byte (12 R317; 16 R419; 07 R144). -/
inductive Taint where
  /-- Sound data. -/
  | sound
  /-- Poisoned by format decode: reads take 0x0B. -/
  | decode
  /-- Poisoned by an uncorrectable soft error: reads take 0x14. -/
  | error
  deriving DecidableEq, Repr, Inhabited

/-- A copy token (03 R75). -/
inductive Token where
  | idle
  | pending (job : Nat)
  | done (length : Nat)
  deriving DecidableEq, Repr

/-- A loop counter with its loop record (03 R85; 05 R133). `stamp` orders loops by when they started (R136). -/
structure Loop where
  busy : Bool := false
  count : BitVec 32 := 0
  body : Word := 0
  fin : Word := 0
  mode : Mode := .user
  modulo : Bool := false
  stages : Nat := 0
  total : Nat := 0
  index : Nat := 0
  stamp : Nat := 0
  deriving DecidableEq, Repr

/-- The register bytes of a vector register, slot or tile. -/
abbrev Bytes := SMap Byte
/-- The bits of a mask register. -/
abbrev Bits := SMap Bool

/-- An open chain group and the latch `ch` it carries (03 R78; 06 R166): what its members have held back. `lost` says that
a member whose stage predicate is 0 stood where the latch had to be read; `wrote` names the mask bits that `masks` sets. -/
structure Chain where
  first : Word
  members : Nat
  latch : Bytes
  vstart : Nat
  lost : Bool := false
  masks : SMap Bits := []
  wrote : SMap Bits := []
  flags : BitVec 5 := 0
  deriving DecidableEq, Repr

/-- What an uncorrectable soft error has poisoned among the parts of a hart, until an instruction writes it whole (16 R418
to R420): scalar and FP registers, elements of vector and mask registers, 32-byte sectors of its operand slots and rows of
its accumulator banks. -/
structure Spoiled where
  s : BitVec 32 := 0
  f : BitVec 16 := 0
  v : SMap Bits := []
  m : SMap Bits := []
  slots : SMap Bits := []
  banks : SMap Bits := []
  deriving DecidableEq, Repr

/-- A task record with the tags its Gondola adds (02 R59, R60) and the core that spawned it. -/
structure Task where
  entry : Word
  arg : Word
  wid : Word
  join : Word
  asid : Nat
  packet : Nat
  gen : Nat
  table : Word
  core : Nat
  deriving DecidableEq, Repr

/-- What a hart runs (02 R41, R59): nothing, strip `strip` of a hart group of a packet, or a task. -/
inductive Work where
  | none
  | group (packet g2 g3 g4 g5 strip : Nat)
  | task (t : Task)
  deriving DecidableEq, Repr

/-- What a waiting hart waits for (14 R347). -/
inductive Wait where
  /-- shares, in `vcfg` -/
  | shares
  /-- the members of a gang -/
  | gang
  /-- copy tokens, in `waitk` or a wait mask -/
  | tokens
  /-- a watched word, in `waitw`: the byte location, mask, comparison, size -/
  | word (loc : Nat) (mask value : Word) (ne eight : Bool) (hit : Bool)
  /-- a join counter reading zero -/
  | join (loc : Nat) (hit : Bool)
  /-- a phase barrier leaving a phase -/
  | barrier (loc : Nat) (phase : BitVec 6) (hit : Bool)
  /-- a held arrival at a phase barrier -/
  | arrival (loc : Nat)
  /-- a spool, whose control block lies at `loc` -/
  | spool (loc : Nat)
  /-- a slot of the cluster task spool -/
  | spawn
  /-- a reopening tether -/
  | tether
  /-- outstanding work, in `next` or `fence` -/
  | drain
  /-- a DRAM stack that has not passed its check (17 R440, R448) -/
  | stack
  /-- a copy channel for the job at the head of the store queue (09 R218) -/
  | channel
  deriving DecidableEq, Repr

/-- What a hart does (14 R347; 16 R404, R410, R416). -/
inductive Run where
  | free
  | running
  /-- Waiting at the instruction at its PC; `eval` is the address that a wait bound's trap reports. -/
  | waiting (w : Wait) (eval : Word)
  deriving DecidableEq, Repr

/-- The vector configuration (03 R87): registers named, shares, element width code. -/
structure VConf where
  count : Nat
  shares : Nat
  ew : BitVec 2
  deriving DecidableEq, Repr

/-- The copy of a gang's shared stream load that a member has not yet taken (02 R61; 09 R232): handle, register,
tile elements fetched and the tile. -/
structure Feed where
  handle : Nat
  reg : Nat
  elems : List Nat
  data : Bytes
  deriving DecidableEq, Repr

/-- Where a byte run lies once its address has been resolved (17 R425; 07 R186). A `ram` location below 2^48 is a DRAM
physical address; 2^48 + c * 2^19 + o is byte o of the scratchpad of core c. -/
inductive Place where
  | ram (loc : Nat)
  | derived (pa : Nat)
  | latch (pa : Nat)
  | imsic (pa : Nat)
  | window (pa : Nat)
  deriving DecidableEq, Repr

/-- An access of a hart that its instruction has checked and left to the queue of its stream (07 R198; 13 R323, R324): a
store of bytes; a load of `n` bytes into a scalar register, an FP register boxed by `high`, element `t` of a vector register
or, from byte `at`, an operand slot; byte `k` of a bank's image; the read-modify-write of an element of `vamo`, whose old
value goes to a register's element where `old` names one; the release of a lock word for a context, or its acquisition by
element `t` of a `vlock`, with its two mask registers; the commit of `n` slots of a spool from index `i`, or their freeing
once they have been read (10 R259); that all 32 bytes of the sector at `l` have been written by the accesses before it in the
queue, so that its poison goes (16 R419). -/
inductive Pending where
  | store (p : Place) (bytes : List Byte)
  | toScalar (p : Place) (r : Reg) (n : Nat) (sign : Bool)
  | toFp (p : Place) (r : Reg) (n : Nat) (high : Word)
  | toElement (p : Place) (r t n : Nat)
  | toSlot (p : Place) (slot start n : Nat)
  | toBank (p : Place) (bank k : Nat)
  | atomic (p : Place) (op n v : Nat) (old : Option (Nat × Nat))
  | unlock (p : Place) (asid : Nat)
  | lock (p : Place) (asid md ms t : Nat)
  | commit (q i n : Nat)
  | freeSlots (q n : Nat)
  | cover (l : Nat)
  deriving DecidableEq, Repr

/-- What a stream has performed before its turn (13 R324, R325, R328; log 4): reads of bytes as they stood together at one
point, which serve `uses` accesses while the stream's logical time is at most `expires`; a store that replaced `old`; the first
reads of a job. -/
inductive Ahead where
  | read (uses expires : Nat) (bytes : List Host.Cell)
  | wrote (loc : Nat) (bytes old : List Byte)
  | job (bytes : List Host.Cell)
  deriving DecidableEq, Repr

/-- An access that a stream of a hart has performed before its turn. It is `due` while the stream has made no access that had
to come before it. -/
structure Early where
  hart : Nat
  vector : Bool
  item : Ahead
  due : Bool := true
  deriving DecidableEq, Repr

/-- The registers of one hart (03 R67), and what its Gondola keeps of it: its work, the cancel generation it was
dispatched under, when it was placed (14 R359) and the lock words that raise its priority, each with the priority that it
raises to (14 R367). While `lag` is set, plain loads and stores wait in the queue of their stream, oldest access first,
each access a list of its elements (13 R323; log 4). `image` are the bytes of a bank image that have arrived and the number
that have not. `lines` are copies of instruction lines that it may go on executing until a fence, each by its location (04
R103; log 11). -/
structure Hart where
  s : SMap Word := []
  f : SMap Word := []
  pc : Word := 0
  fetched : List Byte := []
  qual : Bool := false
  mode : Mode := .user
  asid : Nat := 0
  frm : BitVec 3 := 0
  fflags : BitVec 5 := 0
  lc0 : Loop := {}
  lc1 : Loop := {}
  pred : BitVec 8 := 0
  wid : Word := 0
  qpmin : BitVec 24 := 0x080808
  qpcap : BitVec 24 := 0x808080
  epc : Word := 0
  ecause : BitVec 10 := 0
  eval : Word := 0
  estat : Word := 0
  escratch : Word := 0
  conf : Option VConf := none
  vl : Nat := 0
  vrows : Nat := 1
  vstart : Nat := 0
  v : SMap Bytes := []
  m : SMap Bits := []
  spoiled : Spoiled := {}
  gang : Option (BitVec 32) := none
  gangLead : Nat := 0
  gangFeed : List Feed := []
  tokens : SMap Token := []
  chain : Option Chain := none
  cursors : SMap Nat := []
  pass : SMap Bits := []
  seg : Bool := false
  scalarTime : Nat := 0
  vectorTime : Nat := 0
  lines : List (Nat × List Byte) := []
  image : Option (Nat × Bytes) := none
  loops : Nat := 0
  work : Work := .none
  gen : Nat := 0
  placed : Nat := 0
  raised : SMap Nat := []
  lag : Bool := false
  scalarQueue : List (List Pending) := []
  vectorQueue : List (List Pending) := []
  run : Run := .free
  halted : Bool := false
  stepping : Bool := false
  deriving DecidableEq, Repr

/-- The states that `tstat` reports (09 R235, R238). -/
inductive TetherState where
  | held | reopening | dropped
  deriving DecidableEq, Repr

/-- A tether handle in use (09 R234). -/
structure Tether where
  owner : Nat
  va : Word
  row : Nat
  st : TetherState
  deriving DecidableEq, Repr

/-- The state of a line of a stash (07 R194). -/
inductive LineState where
  | absent | clean | dirty
  deriving DecidableEq, Repr

/-- A stash entry (07 R193, R196): scratch offset, global virtual address, length, and the physical page of each page of the
global range, none where the next touch translates it again. -/
structure Stash where
  off : Nat
  va : Word
  len : Nat
  readonly : Bool
  pages : List (Option Nat)
  lines : SMap LineState
  deriving DecidableEq, Repr

/-- A cached translation (15 R381): the leaf found for a 4 KiB page, `glob` where it or an entry above it has G set. -/
structure TlbEntry where
  asid : Nat
  page : Nat
  leaf : Nat
  level : Nat
  glob : Bool
  deriving DecidableEq, Repr

/-- One core (03 R67, Core). -/
structure CoreState where
  slotOwner : SMap (Option Nat) := []
  slots : SMap Bytes := []
  bankOwner : SMap (Option Nat) := []
  banks : SMap (SMap (BitVec 48)) := []
  bankOvf : SMap Bool := []
  tethers : SMap (Option Tether) := []
  shareQueue : List (Nat × Nat) := []
  holder : Option Nat := none
  stash : List Stash := []
  tlb : List TlbEntry := []
  deriving DecidableEq, Repr

/-- A cluster group on its way to a Gondola or waiting in its queue (02 R57). -/
structure Placement where
  packet : Nat
  g4 : Nat
  g5 : Nat
  deriving DecidableEq, Repr

/-- A context as CTXLOAD reads it (15 R379), with its no-splice list (11 R297) and its collective counts (09 R229); `dying`
while a CTXDESTROY waits for its jobs (15 R391). -/
structure Context where
  valid : Bool := false
  root : Nat := 0
  sv57 : Bool := false
  prio : Nat := 0
  tryq : Bool := false
  remote : Bool := false
  swbase : Word := 0
  cwbase : Word := 0
  quota : Nat := 0
  handler : Word := 0
  nosplice : List Word := []
  collectives : SMap Nat := []
  dying : Bool := false
  deriving DecidableEq, Repr

/-- A run of a job's bytes within one page on either side; without a source, what another device delivers. -/
structure Piece where
  src : Option Place
  dst : Place
  len : Nat
  deriving DecidableEq, Repr

/-- A half-open interval of virtual addresses, as exact integers (02 R53). -/
structure Interval where
  lo : Int
  hi : Int
  deriving DecidableEq, Repr

/-- The jobs of a copy unit (09 R219, R220, R225). -/
inductive JobKind where
  | copy | put (devid : Nat) | get (devid : Nat) | allreduce | allgather
  deriving DecidableEq, Repr

/-- A byte as a job carries it, with its condition (09 R221). -/
abbrev Carried := Byte × Taint

/-- A copy job (09 R218): `id` is also its place in the order the units accept jobs. `ahead` are source bytes that it has
read beyond those it has written (13 R333), or the combined bytes of an ALLREDUCE once `reduced` says that it has read its whole
source; `source` and `group` are the places of a collective's source and group table, `uses` every range that it translated
at issue (09 R221, R226), and `tag` the packet in whose body it was issued (02 R65). `early` are source bytes that it read
before its hart's earlier scalar accesses (13 R333), `behind` the stores that its hart left behind it in the store queue when
the hart was suspended (09 R218; 14 R376), and `landed` the bytes that it has written of sectors that stay poisoned, each with
whether it was poisoned itself (16 R419). -/
structure Job where
  id : Nat
  hart : Nat
  asid : Nat
  token : Nat
  kind : JobKind
  pieces : List Piece
  moved : Nat
  total : Nat
  started : Bool
  reads : List Interval
  writes : List Interval
  status : Option Place
  pbar : Option Nat
  result : Nat
  packet : Nat
  desc : List Byte
  order : Nat
  ahead : List Carried := []
  source : List (Place × Nat) := []
  group : List (Place × Nat) := []
  uses : List Interval := []
  tag : Nat := 0
  reduced : Bool := false
  early : List Host.Cell := []
  behind : List (List Pending) := []
  landed : List (Nat × Bool) := []
  deriving DecidableEq, Repr

/-- A request waiting at a spool's home, in arrival order (10 R259). -/
structure SpoolReq where
  loc : Nat
  hart : Nat
  taking : Bool
  count : Nat
  deriving DecidableEq, Repr

/-- An armed entry of a watch table set by the watch spool (17 R433). -/
structure Watch where
  id : Nat
  pa : Nat
  mask : Word
  value : Word
  eight : Bool
  ne : Bool
  msiData : BitVec 32
  msiAddr : Nat
  hit : Bool
  deriving DecidableEq, Repr

/-- A stencil (11 R279). -/
structure Stencil where
  access : Nat
  elide : Bool
  esize : Nat
  map : List Int
  offs : List Int
  strd : List Int
  deriving DecidableEq, Repr

/-- A kernel descriptor (11 R277). -/
structure Descriptor where
  entry : Word
  strip : Nat
  ndim : Nat
  notask : Bool
  carry : Bool
  dims : List Nat
  spuse : Nat
  stencils : List Stencil
  deriving DecidableEq, Repr

/-- A deleted intermediate of a spliced pair (11 R290, R291): slots of P and C, handle, buffer offset within a hart's
pass buffers and element size. -/
structure Deleted where
  slotP : Nat
  slotC : Nat
  handle : Nat
  off : Nat
  esize : Nat
  deriving DecidableEq, Repr

/-- The life of a packet (02 R48 to R55): `held` waits for the reply to a fault record at take. -/
inductive Phase where
  | held | window | dispatched | completing | done
  deriving DecidableEq, Repr

/-- A packet that the Keel has taken (02 R46, R51). `ran` says that it was dispatched, `old` that a `qinit` has since
restarted its spool's indices, `late` that a handle of it was elided when it was taken (11 R294), `warm` that its input lines
have been prefetched (02 R47, R54). `started` are its cluster groups that have started, by w4 and w5, each with its cluster. -/
structure Packet where
  id : Nat
  lspool : Nat
  qcb : Nat
  index : Nat
  asid : Nat
  bytes : List Byte
  desc : Descriptor
  bases : List Word
  phase : Phase
  partner : Option Nat
  producer : Bool
  deleted : List Deleted
  gen : Nat
  status : Option Nat
  sent : Nat
  started : List (Nat × Nat × Nat)
  live : Nat
  tasks : Nat
  pendingStatus : Bool
  reported : Bool
  ran : Bool := false
  old : Bool := false
  late : Bool := false
  warm : Bool := false
  deriving DecidableEq, Repr

/-- A launch spool that the Keel serves (02 R51; 16 R403; 17 R430). `batches` are the ranges of indices that one tail store
revealed each, while the Keel takes their packets before it dispatches any of them (18 R449); `unread` says that HEAD is still
to be read, from a stack that was not ready at the registration (17 R440). -/
structure LaunchSpool where
  num : Nat
  qcb : Nat
  removing : Bool
  next : Nat
  stopped : Bool
  batches : List (Nat × Nat) := []
  unread : Bool := false
  deriving DecidableEq, Repr

/-- What the reply to a fault record acts on (16 R406). -/
inductive Subject where
  | hart (saved : Nat)
  | space (packet : Nat)
  | take (packet : Nat)
  | slot (lspool index : Nat)
  | completion (packet : Nat)
  | join (t : Task)
  | nothing
  deriving DecidableEq, Repr

/-- A fault record (16 R405). -/
structure FaultRecord where
  kind : Nat
  cause : Nat
  asid : Nat := 0
  hartid : Nat := 0
  flags : BitVec 8 := 0
  ucause : Nat := 0
  pc : Word := 0
  eval : Word := 0
  estat : Word := 0
  spool : Nat := 0
  index : Nat := 0
  time : Nat := 0
  vstart : Nat := 0
  lspool : Nat := 0
  subject : Subject := .nothing
  deriving DecidableEq, Repr

/-- A message from a Gondola to the Keel (01 R29): a fault record (16 R404, R406), or a hart of a packet or a task of its
job has retired (02 R45, R59). -/
inductive Report where
  | fault (r : FaultRecord)
  | retired (packet : Nat)
  | taskEnded (packet : Nat)
  deriving DecidableEq, Repr

/-- A message from the Keel to a Gondola (01 R29): a cluster group (02 R57); the suspension of harts of its cluster, each with
the step at which it was placed, as part of a group (16 R410); a job of which no further strip starts, with its cancel
generation (02 R60; 11 R296); what a context that is destroyed has at the cluster is discarded (15 R391). -/
inductive Command where
  | place (e : Placement)
  | suspend (group : Nat) (harts : List (Nat × Nat))
  | stop (packet gen : Nat)
  | discard (asid : Nat)
  deriving DecidableEq, Repr

/-- One Gondola and its cluster (01 R30; 02 R57 to R60): the command link from the Keel with its permits and the messages that
wait for one (01 R29), the queue, the cancel generations of the jobs that it was told to stop, the task spool with the harts
that wait for a slot in order of arrival (14 R362), and the command link to the Keel, with the messages that wait for a permit
(01 R29). -/
structure Cluster where
  link : List Command := []
  permits : Nat := 16
  backlog : List Command := []
  queue : List Placement := []
  stops : SMap (Option Nat) := []
  tasks : List Task := []
  spawners : List Nat := []
  reports : List Report := []
  reportPermits : Nat := 16
  outbox : List Report := []
  tlb : List TlbEntry := []
  gated : Bool := false
  waking : Bool := false
  deriving DecidableEq, Repr

/-- A suspended or fault-held hart's saved state (16 R412, R414); `group` joins harts that resume together, `yielded` is
the packet that a `yield` gave way to (10 R273), 0 for none; `parked` says that it was suspended as it waited in `joinw` or in `spawn` for a slot (14 R361). -/
structure Saved where
  id : Nat
  hartid : Nat
  group : Nat
  held : Bool
  hart : Hart
  slots : SMap (Option Bytes)
  banks : SMap (Option (SMap (BitVec 48)))
  ovf : SMap Bool
  tethers : SMap (Option Tether)
  raised : SMap Nat
  yielded : Nat := 0
  parked : Bool := false
  deriving DecidableEq, Repr

/-- A core record (16 R415): the scratchpad image and stash entries of a context that left a core. -/
structure CoreRecord where
  core : Nat
  asid : Nat
  image : List Host.Cell
  taint : SMap Taint
  stash : List Stash
  deriving DecidableEq, Repr

/-- The Keel (01 R29). `retired` are launch spools that it has left, whose numbers stay theirs while a context lives: number,
control block and context (16 R403); `requests` are pre-emption requests that wait for the end of a chain group or of the
Keel's restart, each with the group that its hart is suspended with (14 R376; 16 R410); `replies` are replies to fault records
that wait for a DRAM stack, with what waits behind them, each by index and whether it is a KILL (16 R407; 17 R440); `joins` are
tasks whose join decrement waits for one (02 R59). -/
structure Keel where
  up : Bool := true
  spools : List LaunchSpool := []
  packets : List Packet := []
  accepted : Nat := 0
  turns : SMap Nat := []
  chains : SMap Nat := []
  held : List FaultRecord := []
  awaiting : List (Nat × FaultRecord) := []
  saved : List Saved := []
  cores : List CoreRecord := []
  retired : List (Nat × Nat × Nat) := []
  requests : List (Nat × Option Nat) := []
  replies : List (Nat × Bool) := []
  joins : List Task := []
  ids : Nat := 1
  deriving DecidableEq, Repr

/-- One format window register (17 R441). -/
structure Window where
  dec : BitVec 64 := 0
  raw : BitVec 64 := 0
  scl : BitVec 64 := 0
  ngran : BitVec 28 := 0
  format : BitVec 2 := 0
  badSeen : Bool := false
  deriving DecidableEq, Repr

/-- The security mailbox (17 R427), with the command that waits for the stack of its operand (R448), and the measurement (15 R396, R398). -/
structure Security where
  opAddr : Word := 0
  opLen : Word := 0
  rspAddr : Word := 0
  rspLen : Word := 0
  busy : Bool := false
  result : Nat := 0
  length : Nat := 0
  response : List Byte := []
  command : Option Nat := none
  measure : BitVec 512 := 0
  extcount : BitVec 32 := 0
  nonceSeed : Nat := 0
  deriving DecidableEq, Repr

/-- One interrupt domain of the APLIC (17 R427, R431; the registers are those of the RISC-V AIA: log 79): whether it delivers,
what each source is configured as and goes to, the sources pending and enabled, the MSI address registers of the
machine-level domain, and the word last written to `genmsi`. -/
structure Aplic where
  enabled : Bool := false
  sources : SMap (BitVec 32) := []
  targets : SMap (BitVec 32) := []
  pending : List Nat := []
  enables : List Nat := []
  addresses : SMap (BitVec 32) := []
  genmsi : BitVec 32 := 0
  deriving DecidableEq, Repr

/-- A device context as the IOMMU has it cached: the requester and the 64 bytes of its entry (17 R435; log 61). -/
structure DeviceEntry where
  device : Nat
  bytes : List Byte
  deriving DecidableEq, Repr

/-- A translation that the IOMMU has cached (17 R435; log 61): the guest and process it is tagged with, the page, whether a
write used it, and the page it leads to. -/
structure IoEntry where
  gscid : Option Nat
  pscid : Option Nat
  page : Nat
  write : Bool
  target : Nat
  deriving DecidableEq, Repr

/-- The IOMMU (17 R427, R435). Its registers are those of the RISC-V IOMMU, which the spec names and does not repeat (log 61);
`msis` are the words of its MSI table and `masked` the vectors that wait to be unmasked. -/
structure Iommu where
  ddtp : Word := 0
  cqb : Word := 0
  fqb : Word := 0
  cqh : Nat := 0
  cqt : Nat := 0
  fqh : Nat := 0
  fqt : Nat := 0
  cqcsr : BitVec 32 := 0
  fqcsr : BitVec 32 := 0
  ipsr : BitVec 32 := 0
  icvec : Word := 0
  msis : SMap Word := []
  masked : List Nat := []
  devices : List DeviceEntry := []
  entries : List IoEntry := []
  deriving DecidableEq, Repr

/-- The hub register block (17 R428) and what its registers report; the link state and the AER log of each of 32 root ports
(17 R434, R457), the stacks of a waking die whose check has not passed (02 R66), the MSIs of spools that are sent and not yet
performed, each with its spool, address and data, which `msiLag` lets wait (20 R451), the accesses of other devices and the
stores that wait for a DRAM stack, oldest first (17 R440, R448), the wired sources that have been raised and the two domains
of the APLIC (17 R427), the posted writes of PCI Express that have not been performed, oldest first (17 R435), the IOMMU, the ports that a root port
is bifurcated to, where it is (17 R434), and the writable configuration registers of the ports, by 4-byte word of the ECAM
space (17 R427). -/
structure Hub where
  ctxbase : Word := 0
  savebase : Word := 0
  savesize : Word := 0
  tivqcb : Word := 0
  faultqcb : Word := 0
  watchqcb : Word := 0
  devid : BitVec 22 := 0
  devidSet : Bool := false
  ready : Word := 0
  tlimit : Nat := 100
  plimit : Nat := 320
  hot : Bool := false
  thermal : Nat := 0
  coolFor : Nat := 0
  power : Nat := 0
  temps : SMap Word := []
  gateClusters : Bool := true
  gateDies : Bool := true
  scrub : Nat := 24
  cecount : SMap Word := []
  watchbad : Word := 0
  fabstat : BitVec 16 := 0
  pcieUp : BitVec 32 := 0
  aer : BitVec 32 := 0
  rbind : SMap Word := []
  route : SMap Word := []
  bootCode : Nat := 0
  gatedDies : List Nat := []
  wakingDies : List Nat := []
  aplic : List Nat := []
  aplicM : Aplic := {}
  aplicS : Aplic := {}
  posted : List InboundRequest := []
  imsic : Bits := []
  latches : SMap Word := []
  checking : List Nat := []
  msiLag : Bool := false
  msis : List (Nat × Nat × Nat) := []
  remotes : List RemoteRequest := []
  heldStores : List (Nat × List Byte) := []
  iommu : Iommu := {}
  splits : SMap Nat := []
  config : SMap (BitVec 32) := []
  deriving DecidableEq, Repr

/-- A signed Plate update that the mailbox has accepted (15 R394). -/
structure PlateUpdate where
  sequence : Nat
  package : List Byte
  deriving DecidableEq, Repr, Inhabited

/-- The Plate (15 R394; 16 R424): compute dies, (die, cluster, cores) in CLCAP order, the repair map (which of a die's 400
physical cores are the cores of each cluster, 01 R15), lanes, slices of each compute die, device stack numbers, disabled
pseudo-channel groups (stack, j), application cores. `source` is the update package that wrote its signed records, empty
for the Plate as it was delivered. -/
structure Plate where
  dies : List Nat
  clusters : List (Nat × Nat × Nat)
  repair : List (List Nat)
  lanes : Nat
  slices : List Nat
  hbm : List Nat
  offGroups : List (Nat × Nat)
  appCores : Nat
  sequence : Nat
  minVersion : Nat
  source : List Byte
  pending : Option PlateUpdate
  deriving DecidableEq, Repr, Inhabited

/-- An uncorrectable soft error in a part that belongs to a core (16 R418; log 14): what it poisons of hart `h`, or the
32-byte sector around location `loc` of a scratchpad or of DRAM lines that a cache holds. -/
inductive Upset where
  | scalar (h : Nat) (r : Reg)
  | fp (h : Nat) (r : Reg)
  | vector (h r : Nat) (elems : List Nat)
  | mask (h m : Nat) (elems : List Nat)
  | slot (h n : Nat) (sectors : List Nat)
  | bank (h b : Nat) (rows : List Nat)
  | sector (loc : Nat)
  deriving DecidableEq, Repr

/-- What moves next: an entry of the model's own agenda (log 3). -/
inductive Move where
  | hart (h : Nat)
  | event (i : Instr)
  | upset (u : Upset)
  /-- A correctable error in a unit of a CECOUNT class (16 R418; 17 R428). -/
  | corrected (unit : Nat)
  /-- An uncorrectable error in the tags, the directory, a control block's home or a watch table, on the line at `loc`
  (16 R418). -/
  | lineError (loc : Nat)
  /-- A hart begins, or ceases, to leave its loads and stores to the queues of its streams (13 R324). -/
  | lag (h : Nat) (on : Bool)
  /-- Element `k` of the oldest access in a queue of a hart is performed (13 R324). -/
  | perform (h : Nat) (vector : Bool) (k : Nat)
  /-- A stream of a hart is granted a lease on the lines that hold some of its addresses, for a number of accesses (13 R325,
  R328). -/
  | lease (h : Nat) (vector : Bool) (vas : List Nat) (uses : Nat)
  /-- A stream of a hart performs a store before earlier instructions of the hart (13 R325). -/
  | promise (h : Nat) (vector : Bool) (va : Nat) (bytes : List Byte)
  /-- A job that a hart is to start reads lines of its source before the hart's earlier scalar accesses (13 R333). -/
  | jobRead (h : Nat) (vas : List Nat)
  /-- A vector memory instruction of a hart performs its elements below `n` as accesses of their own (13 R323). -/
  | element (h n : Nat)
  /-- A hart keeps a copy of the instruction line that holds an address of its, which it may execute until a fence (04
  R103). -/
  | keepLine (h va : Nat)
  /-- The copies that a hart keeps change places: the `k`-th is the one it would execute first. -/
  | pickLine (h k : Nat)
  /-- A hart drops the first of the copies that it keeps. -/
  | dropLine (h : Nat)
  /-- The MSIs of spools begin, or cease, to wait before they are performed (20 R451). -/
  | msiLag (on : Bool)
  /-- The `k`-th MSI on its way is performed (20 R451). -/
  | msi (k : Nat)
  /-- The `k`-th access of another device that waits for a DRAM stack is tried again (17 R440). -/
  | remote (k : Nat)
  /-- A posted write of a PCI Express requester is accepted, and waits to be performed (17 R435). -/
  | post (r : InboundRequest)
  /-- The `k`-th posted write that waits is performed (17 R435). -/
  | posted (k : Nat)
  /-- The APLIC sends the MSI of a pending source of its machine-level, or supervisor-level, domain (17 R431). -/
  | wired (machine : Bool) (n : Nat)
  /-- The IOMMU takes the command at the head of its command queue (17 R435). -/
  | iommu
  /-- A root port that has not begun link training is bifurcated to 2 or 4 ports, or to none (17 R434). -/
  | bifurcate (port ports : Nat)
  /-- A job reads `n` more source bytes (13 R333). -/
  | readAhead (job n : Nat)
  /-- The Keel copies the oldest message of a Gondola's link (01 R29). -/
  | report (cl : Nat)
  /-- A pre-emption reaches a hart inside a vector memory instruction, whose elements below `n` have been performed
  (16 R410). -/
  | preemptInside (h n : Nat)
  /-- A debug halt reaches a hart inside such an instruction (16 R416). -/
  | haltInside (h n : Nat)
  /-- The oldest pre-emption request that was kept is sent (14 R376; 16 R410). -/
  | request
  /-- The Gondola suspends a hart that waits in `joinw` or `spawn`, for a task record that waits (14 R361). -/
  | park (cl : Nat)
  deriving DecidableEq, Repr

/-- The whole machine. `journal` lists the writes of the step so far, each with its location and the bytes it replaced, for
the evaluation of armed waits after every one of them (10 R247); `ahead` what streams have performed before its turn, in the
program order of each (13 R324; log 4); `dirty` the bytes of DRAM whose latest value only a cache holds, and `cached` the
sectors, by number, that are poisoned in a cache alone while DRAM holds them sound (16 R419, R421). -/
structure State where
  harts : SMap Hart := []
  cores : SMap CoreState := []
  clusters : SMap Cluster := []
  contexts : SMap Context := []
  mem : List Host.Cell := []
  taint : SMap Taint := []
  dirty : SMap Bool := []
  cached : SMap Bool := []
  chainTags : SMap Nat := []
  windows : SMap Window := []
  jobs : List Job := []
  journal : List (Nat × List Byte) := []
  ahead : List Early := []
  requests : List SpoolReq := []
  watches : List Watch := []
  gangs : SMap Nat := []
  keel : Keel := {}
  hub : Hub := {}
  sec : Security := {}
  plate : Plate
  time : Nat := 0
  agenda : List Move := []
  cur : Nat := 0
  n : Nat := 0
  deriving DecidableEq, Repr

/-- The fully enabled YJ-SNP-1536-768 (16 R424; 03 R90). Which 384 physical cores of a die its repair map names is the
model's choice (log 1). -/
def Plate.full : Plate where
  dies := [0, 1, 2, 3]
  clusters := [0, 1, 2, 3].flatMap fun d => (List.range 12).map fun c => (d, c, 32)
  repair := [0, 1, 2, 3].flatMap fun _ => (List.range 12).map fun c => (List.range 32).map fun k => 32 * c + k
  lanes := 64
  slices := [80, 80, 80, 80]
  hbm := List.range 12
  offGroups := []
  appCores := 32
  sequence := 0
  minVersion := 0
  source := []
  pending := none

/-- The machine right after a cold reset (16 R421 to R423; 03 Reset columns; 17 R428). -/
def State.reset : State where
  plate := Plate.full

end Sys2Proof.Machine

/-- The Plate that a signed update package leaves (15 R394; log 8). -/
opaque Sys2Proof.Config.packagePlate : List Sys2Proof.Byte → Sys2Proof.Machine.Plate

/-- The condition of sector `k` of DRAM as it was written back last, whose latest store a warm reset at step `n` loses (16
R419, R421; log 8). -/
opaque Sys2Proof.Config.lostTaint (n k : Nat) : Sys2Proof.Machine.Taint
end

