-- ==== Sys2Proof/Machine/Sparse.lean ====
section
/-! DEFINITION. Sparse tables, byte order and bit helpers (00 R4: little-endian; 03 R69 to R72 fix what the tables
hold). A table lists a key only when its value differs from the table's default. -/

namespace Sys2Proof.Machine

/-- The value of key `k`, the default `d` where none is listed. -/
def Tab.get {α : Type} (d : α) : SMap α → Nat → α
  | [], _ => d
  | (j, v) :: r, k => if j = k then v else Tab.get d r k

/-- Lists `v` at `k`, in key order. -/
def Tab.put {α : Type} (k : Nat) (v : α) : SMap α → SMap α
  | [] => [(k, v)]
  | (j, w) :: r => if k < j then (k, v) :: (j, w) :: r else if k = j then (k, v) :: r else (j, w) :: Tab.put k v r

/-- Removes key `k`. -/
def Tab.del {α : Type} (k : Nat) : SMap α → SMap α
  | [] => []
  | (j, w) :: r => if j = k then Tab.del k r else (j, w) :: Tab.del k r

/-- The table with value `v` at `k`; the default value is never listed. -/
def Tab.set {α : Type} [DecidableEq α] (d : α) (k : Nat) (v : α) (m : SMap α) : SMap α :=
  if v = d then Tab.del k m else Tab.put k v m

/-- Sets several keys, in order. -/
def Tab.sets {α : Type} [DecidableEq α] (d : α) (l : List (Nat × α)) (m : SMap α) : SMap α :=
  l.foldl (fun m e => Tab.set d e.1 e.2 m) m

/-- Keys strictly rising. -/
def Tab.rising {α : Type} : SMap α → Bool
  | [] => true
  | [_] => true
  | (j, _) :: (k, w) :: r => decide (j < k) && Tab.rising ((k, w) :: r)

/-- The canonical form: keys strictly rising and no default listed. -/
def Tab.wf {α : Type} [DecidableEq α] (d : α) (m : SMap α) : Bool :=
  Tab.rising m && m.all fun e => decide (e.2 ≠ d)

/-- The natural number of a little-endian byte string. -/
def leNat : List Byte → Nat
  | [] => 0
  | b :: r => b.toNat + 256 * leNat r

/-- The low `n` bytes of a number, little-endian. -/
def leBytes : Nat → Nat → List Byte
  | 0, _ => []
  | n + 1, v => BitVec.ofNat 8 v :: leBytes n (v / 256)

/-- The 64-bit value of up to eight bytes. -/
def leWord (l : List Byte) : Word := BitVec.ofNat 64 (leNat l)

/-- `n` bytes of `l` from offset `o`; absent bytes read zero. -/
def slice (l : List Byte) (o n : Nat) : List Byte := (l.drop o).take n ++ List.replicate (n - (l.length - o)) 0

/-- The little-endian number in `n` bytes of `l` from offset `o`. -/
def field (l : List Byte) (o n : Nat) : Nat := leNat (slice l o n)

/-- The low `w` bits of `v`, read as two's complement. -/
def signed (w : Nat) (v : Nat) : Int :=
  let r := v % 2 ^ w
  if 2 * r < 2 ^ w then (r : Int) else (r : Int) - (2 ^ w : Nat)

/-- The residue of an integer modulo 2^w. -/
def unsigned (w : Nat) (v : Int) : Nat := (v % ((2 ^ w : Nat) : Int)).toNat

/-- Bit `i` of a number. -/
def bitOf (v i : Nat) : Bool := v.testBit i

/-- 1 for true, 0 for false. -/
def flag (b : Bool) : Word := if b then 1 else 0

/-- Carry-less product, over the low `w` bits of `a` (05 R120). -/
def clmulNat : Nat → Nat → Nat → Nat
  | 0, _, _ => 0
  | w + 1, a, b => (if a.testBit w then b <<< w else 0) ^^^ clmulNat w a b

/-- The number of set bits among the low `w`. -/
def popNat : Nat → Nat → Nat
  | 0, _ => 0
  | w + 1, a => (if a.testBit w then 1 else 0) + popNat w a

/-- The number of zero bits above the highest set bit among the low `w`. -/
def clzNat : Nat → Nat → Nat
  | 0, _ => 0
  | w + 1, a => if a.testBit w then 0 else 1 + clzNat w a

/-- The number of zero bits below the lowest set bit among bits `i` to `i + w - 1`. -/
def ctzNat : Nat → Nat → Nat → Nat
  | 0, _, _ => 0
  | w + 1, i, a => if a.testBit i then 0 else 1 + ctzNat w (i + 1) a

/-- The bytes of a register table from offset `o`. -/
def Tab.bytes (m : Bytes) (o n : Nat) : List Byte := (List.range n).map fun i => Tab.get 0 m (o + i)

/-- Writes bytes into a register table at offset `o`. -/
def Tab.putBytes (m : Bytes) (o : Nat) (l : List Byte) : Bytes :=
  match l with
  | [] => m
  | b :: r => Tab.putBytes (Tab.set 0 o b m) (o + 1) r

/-- Distinct members of a list, last occurrences kept. -/
def distinct : List Nat → List Nat
  | [] => []
  | a :: r => if r.contains a then distinct r else a :: distinct r

/-- Inserts into an ascending list. -/
def insertAsc (a : Nat) : List Nat → List Nat
  | [] => [a]
  | b :: r => if a ≤ b then a :: b :: r else b :: insertAsc a r

/-- A list in ascending order. -/
def sortAsc : List Nat → List Nat
  | [] => []
  | a :: r => insertAsc a (sortAsc r)

end Sys2Proof.Machine
end

