-- ==== Sys2Proof/Machine/Float.lean ====
section
/-! DEFINITION. Floating point (12 R303 to R314, R319, R320): formats, exact values, one rounding, and the functions of
05 R127 to R129 and 06 R160. A finite value is (−1)^neg × m × 2^e, exact. -/

namespace Sys2Proof.Machine

/-- A floating-point format: widths of exponent and fraction (12 R304). -/
structure Fmt where
  ebits : Nat
  fbits : Nat
  deriving DecidableEq, Repr

/-- The format of TYPE 8 to 11 (12 R304). -/
def fmtOf (ty : Nat) : Fmt :=
  match ty with
  | 8 => ⟨5, 10⟩
  | 9 => ⟨8, 7⟩
  | 10 => ⟨8, 23⟩
  | _ => ⟨11, 52⟩

/-- Width in bits. -/
def Fmt.width (f : Fmt) : Nat := 1 + f.ebits + f.fbits
/-- Exponent bias. -/
def Fmt.bias (f : Fmt) : Nat := 2 ^ (f.ebits - 1) - 1
/-- The exponent of the least subnormal step. -/
def Fmt.qmin (f : Fmt) : Int := 1 - (f.bias : Int) - (f.fbits : Int)
/-- The bits of +∞. -/
def Fmt.inf (f : Fmt) : Nat := (2 ^ f.ebits - 1) * 2 ^ f.fbits
/-- The sign bit. -/
def Fmt.sign (f : Fmt) : Nat := 2 ^ (f.ebits + f.fbits)
/-- The canonical quiet NaN (12 R304, R305). -/
def Fmt.nan (f : Fmt) : Nat := f.inf + 2 ^ (f.fbits - 1)

/-- A value read from a format. -/
inductive FP where
  | nan (signalling : Bool)
  | inf (neg : Bool)
  | num (neg : Bool) (m : Nat) (e : Int)
  deriving DecidableEq, Repr

/-- Flags NV, DZ, OF, UF, NX as FFLAGS places them (03 R84). -/
abbrev Flags := BitVec 5
/-- NV. -/
def fNV : Flags := 16
/-- DZ. -/
def fDZ : Flags := 8

/-- Reads the bits of a format (12 R304, R305). -/
def fpRead (f : Fmt) (v : Nat) : FP :=
  let neg := v.testBit (f.ebits + f.fbits)
  let e := v / 2 ^ f.fbits % 2 ^ f.ebits
  let m := v % 2 ^ f.fbits
  if e = 2 ^ f.ebits - 1 then if m = 0 then .inf neg else .nan (!m.testBit (f.fbits - 1))
  else if e = 0 then .num neg m f.qmin
  else .num neg (2 ^ f.fbits + m) (f.qmin + (e : Int) - 1)

/-- Whether a rounding that cuts `r` of `2 ^ k` off goes up in magnitude (12 R307). Modes: 0 RNE, 1 RTZ, 2 RDN, 3 RUP,
4 RMM. -/
def roundUp (rm : Nat) (neg odd : Bool) (r k : Nat) : Bool :=
  match rm with
  | 0 => decide (2 ^ k < 2 * r) || (decide (2 * r = 2 ^ k) && odd)
  | 1 => false
  | 2 => neg && decide (r ≠ 0)
  | 3 => !neg && decide (r ≠ 0)
  | _ => decide (2 ^ k ≤ 2 * r)

/-- `m × 2^e` rounded to a multiple of `2^q`: the multiple and whether it is inexact (12 R307). -/
def roundAt (rm : Nat) (neg : Bool) (m : Nat) (e q : Int) : Nat × Bool :=
  if q ≤ e then (m * 2 ^ (e - q).toNat, false)
  else
    let k := (q - e).toNat
    let a := m / 2 ^ k
    let r := m % 2 ^ k
    (if roundUp rm neg (a % 2 == 1) r k then a + 1 else a, decide (r ≠ 0))

/-- The bit length of a number. -/
def bitLen (m : Nat) : Nat := if m = 0 then 0 else m.log2 + 1

/-- A rounding of an exact non-zero value to a format: bits and flags (12 R307 to R309). -/
def fpRound (f : Fmt) (rm : Nat) (neg : Bool) (m : Nat) (e : Int) : Nat × Flags :=
  let s := if neg then f.sign else 0
  if m = 0 then (s, 0)
  else
    let qu : Int := e + (bitLen m : Int) - 1 - (f.fbits : Int)
    let u := roundAt rm neg m e qu
    if (f.bias : Int) < qu + (bitLen u.1 : Int) - 1 then
      let toInf := rm = 0 ∨ rm = 4 ∨ (rm = 2 ∧ neg) ∨ (rm = 3 ∧ !neg)
      ((if toInf then f.inf else f.inf - 1) + s, 5)
    else
      let q := max qu f.qmin
      let d := roundAt rm neg m e q
      let tiny := decide (qu + (bitLen u.1 : Int) - 1 < 1 - (f.bias : Int))
      (s + (q - f.qmin).toNat * 2 ^ f.fbits + d.1, if d.2 then (if tiny then 3 else 1) else 0)

/-- A value delivered in a format (12 R305, R307). -/
def fpDeliver (f : Fmt) (rm : Nat) (x : FP) : Nat × Flags :=
  match x with
  | .nan _ => (f.nan, 0)
  | .inf n => (f.inf + (if n then f.sign else 0), 0)
  | .num n m e => fpRound f rm n m e

/-- NV for a signalling NaN operand (12 R311). -/
def sigFlag (x : FP) : Flags := match x with | .nan true => fNV | _ => 0
/-- The value is a NaN. -/
def isNan (x : FP) : Bool := match x with | .nan _ => true | _ => false

/-- The opposite value. -/
def fpNeg (x : FP) : FP :=
  match x with
  | .nan s => .nan s
  | .inf n => .inf (!n)
  | .num n m e => .num (!n) m e

/-- The exact product; ∞ × 0 is invalid (12 R311). -/
def fpMul (a b : FP) : FP × Flags :=
  match a, b with
  | .nan _, _ => (.nan false, 0)
  | _, .nan _ => (.nan false, 0)
  | .inf n, .inf k => (.inf (n != k), 0)
  | .inf n, .num k m _ => if m = 0 then (.nan false, fNV) else (.inf (n != k), 0)
  | .num n m _, .inf k => if m = 0 then (.nan false, fNV) else (.inf (n != k), 0)
  | .num n m e, .num k m' e' => (.num (n != k) (m * m') (e + e'), 0)

/-- A finite term as a multiple of 2^q. -/
def fpScaled (q : Int) (x : FP) : Int :=
  match x with
  | .num n m e => (if n then -1 else 1) * ((m * 2 ^ (e - q).toNat : Nat) : Int)
  | _ => 0

/-- The exponent of a term. -/
def fpExp (x : FP) : Int := match x with | .num _ m e => if m = 0 then 0 else e | _ => 0

/-- The exact sum of terms, with the zero sign of 12 R310 and the infinities of R320; infinities of both signs raise NV in any
sum, one with a NaN term too (12 R311). -/
def fpSum (rm : Nat) (l : List FP) : FP × Flags :=
  let pos := l.any fun x => x == .inf false
  let ng := l.any fun x => x == .inf true
  if pos && ng then (.nan false, fNV)
  else if l.any isNan then (.nan false, 0)
  else
    if pos then (.inf false, 0)
    else if ng then (.inf true, 0)
    else
      let q := l.foldl (fun q x => min q (fpExp x)) 0
      let v := l.foldl (fun a x => a + fpScaled q x) 0
      if v = 0 then
        let isZero (n : Bool) (x : FP) : Bool := match x with | .num k m _ => k == n && m == 0 | _ => false
        if l.all (isZero false) then (.num false 0 0, 0)
        else if l.all (isZero true) then (.num true 0 0, 0)
        else (.num (rm == 2) 0 0, 0)
      else (.num (decide (v < 0)) v.natAbs q, 0)

/-- a + b, rounded once (05 R127; 06 R160). -/
def fpAdd (f : Fmt) (rm : Nat) (a b : FP) : Nat × Flags :=
  let r := fpSum rm [a, b]
  let d := fpDeliver f rm r.1
  (d.1, d.2 ||| r.2 ||| sigFlag a ||| sigFlag b)

/-- a × b, rounded once (05 R127; 06 R160). -/
def fpProd (f : Fmt) (rm : Nat) (a b : FP) : Nat × Flags :=
  let r := fpMul a b
  let d := fpDeliver f rm r.1
  (d.1, d.2 ||| r.2 ||| sigFlag a ||| sigFlag b)

/-- Σ products + c, one rounding (12 R319, R320). -/
def fpDot (f : Fmt) (rm : Nat) (ps : List (FP × FP)) (c : FP) : Nat × Flags :=
  let prods := ps.map fun p => fpMul p.1 p.2
  let r := fpSum rm (prods.map (·.1) ++ [c])
  let d := fpDeliver f rm r.1
  let nv := prods.foldl (fun g p => g ||| p.2) 0
  let sg := ps.foldl (fun g p => g ||| sigFlag p.1 ||| sigFlag p.2) (sigFlag c)
  (d.1, d.2 ||| r.2 ||| nv ||| sg)

/-- A value with a sticky remainder below its last bit. -/
def sticky (neg : Bool) (m : Nat) (rest : Bool) (e : Int) : FP := .num neg (2 * m + (if rest then 1 else 0)) (e - 1)

/-- a / b, rounded once (06 R160). -/
def fpDiv (f : Fmt) (rm : Nat) (a b : FP) : Nat × Flags :=
  let sg := sigFlag a ||| sigFlag b
  match a, b with
  | .nan _, _ => (f.nan, sg)
  | _, .nan _ => (f.nan, sg)
  | .inf _, .inf _ => (f.nan, fNV)
  | .inf n, .num k _ _ => (f.inf + (if n != k then f.sign else 0), 0)
  | .num n _ _, .inf k => (if n != k then f.sign else 0, 0)
  | .num n m e, .num k m' e' =>
    if m' = 0 then if m = 0 then (f.nan, fNV) else (f.inf + (if n != k then f.sign else 0), fDZ)
    else if m = 0 then (if n != k then f.sign else 0, 0)
    else
      let sh := f.fbits + 4 + bitLen m'
      let q := m * 2 ^ sh / m'
      fpDeliver f rm (sticky (n != k) q (decide (m * 2 ^ sh % m' ≠ 0)) (e - e' - (sh : Int)))

/-- The integer square root, one result bit for each step from bit `k - 1` down. -/
def isqrt : Nat → Nat → Nat → Nat
  | 0, _, r => r
  | k + 1, n, r => isqrt k n (if (r + 2 ^ k) * (r + 2 ^ k) ≤ n then r + 2 ^ k else r)

/-- The square root, rounded once (06 R160). -/
def fpSqrt (f : Fmt) (rm : Nat) (a : FP) : Nat × Flags :=
  match a with
  | .nan s => (f.nan, sigFlag (.nan s))
  | .inf n => if n then (f.nan, fNV) else (f.inf, 0)
  | .num n m e =>
    if m = 0 then (if n then f.sign else 0, 0)
    else if n then (f.nan, fNV)
    else
      let odd := e % 2
      let m := m * 2 ^ odd.toNat * 2 ^ (2 * (f.fbits + 3))
      let e := (e - odd) / 2 - ((f.fbits + 3 : Nat) : Int)
      let r := isqrt (bitLen m / 2 + 1) m 0
      fpDeliver f rm (sticky false r (decide (r * r ≠ m)) e)

/-- The correctly rounded 1 / √x (06 R160). -/
def fpRsq (f : Fmt) (rm : Nat) (a : FP) : Nat × Flags :=
  match a with
  | .nan s => (f.nan, sigFlag (.nan s))
  | .inf n => if n then (f.nan, fNV) else (0, 0)
  | .num n m e =>
    if m = 0 then (f.inf + (if n then f.sign else 0), fDZ)
    else if n then (f.nan, fNV)
    else
      let odd := e % 2
      let m := m * 2 ^ odd.toNat
      let k := f.fbits + 4 + bitLen m
      let q := 2 ^ (2 * k) / m
      let r := isqrt (bitLen q / 2 + 1) q 0
      let exact := decide (2 ^ (2 * k) % m = 0) && decide (r * r = q)
      fpDeliver f rm (sticky false r (!exact) (-((e - odd) / 2) - (k : Int)))

/-- Fixed-point digits kept while 2^x is formed (log 10). -/
def expDigits : Nat := 320

/-- The product of 2^(2^-i) over the set bits of a fraction, bit `w - 1` of `x` being 2^-1; `r` is 2^(2^-i) of the next
bit, in fixed point (log 10). -/
def expProduct : Nat → Nat → Nat → Nat → Nat
  | 0, _, _, acc => acc
  | w + 1, x, r, acc =>
    let r' := isqrt (expDigits + 1) (r * 2 ^ expDigits) 0
    expProduct w x r' (if x.testBit w then acc * r' / 2 ^ expDigits else acc)

/-- The correctly rounded 2^x (06 R160). -/
def fpExp2 (f : Fmt) (rm : Nat) (a : FP) : Nat × Flags :=
  match a with
  | .nan s => (f.nan, sigFlag (.nan s))
  | .inf n => if n then (0, 0) else (f.inf, 0)
  | .num n m e =>
    if m = 0 then fpDeliver f rm (.num false 1 0)
    else if 0 ≤ e + (bitLen m : Int) - 13 then
      if n then fpDeliver f rm (.num false 1 (-8192)) else fpDeliver f rm (.num false 1 8192)
    else if 0 ≤ e then
      let v : Int := (m * 2 ^ e.toNat : Nat)
      fpDeliver f rm (.num false 1 (if n then -v else v))
    else
      let w := (-e).toNat
      let x : Int := if n then -(m : Int) else m
      let i := x / (2 ^ w : Nat)
      let fr := (x % (2 ^ w : Nat)).toNat
      if fr = 0 then fpDeliver f rm (.num false 1 i)
      else
        let p := expProduct w fr (2 ^ (expDigits + 1)) (2 ^ expDigits)
        fpDeliver f rm (sticky false p true (i - (expDigits : Int)))

/-- a = b for values that are not NaN; zeros are equal. -/
def fpEq (a b : FP) : Bool :=
  match a, b with
  | .nan _, _ => false
  | _, .nan _ => false
  | .inf n, .inf k => n == k
  | .num .., .inf _ => false
  | .inf _, .num .. => false
  | a, b => let q := min (fpExp a) (fpExp b); decide (fpScaled q a = fpScaled q b)

/-- a < b for values that are not NaN. -/
def fpLt (a b : FP) : Bool :=
  match a, b with
  | .nan _, _ => false
  | _, .nan _ => false
  | .inf n, .inf k => n && !k
  | .num .., .inf k => !k
  | .inf n, .num .. => n
  | a, b => let q := min (fpExp a) (fpExp b); decide (fpScaled q a < fpScaled q b)

/-- The sign of a value. -/
def fpSign (a : FP) : Bool := match a with | .nan _ => false | .inf n => n | .num n _ _ => n

/-- minimumNumber, or maximumNumber, with −0 below +0 (06 R160). -/
def fpMinMax (f : Fmt) (isMax : Bool) (a b : FP) : Nat × Flags :=
  let sg := sigFlag a ||| sigFlag b
  let pick (x : FP) : Nat × Flags := ((fpDeliver f 0 x).1, sg)
  if isNan a && isNan b then (f.nan, sg)
  else if isNan a then pick b
  else if isNan b then pick a
  else
    let less := fpLt a b || (fpEq a b && fpSign a && !fpSign b)
    pick (if less != isMax then a else b)

/-- A conversion between formats (05 R128; 06 R164). -/
def fpConvert (f : Fmt) (rm : Nat) (a : FP) : Nat × Flags :=
  let d := fpDeliver f rm a
  (d.1, d.2 ||| sigFlag a)

/-- The least value of an integer type (12 R312). -/
def intLo (ty : Nat) : Int := if ty < 4 then -((2 ^ (8 * 2 ^ ty - 1) : Nat) : Int) else 0
/-- The greatest value of an integer type (12 R312). -/
def intHi (ty : Nat) : Int := ((if ty < 4 then 2 ^ (8 * 2 ^ ty - 1) else 2 ^ (8 * 2 ^ (ty - 4)) : Nat) : Int) - 1

/-- A conversion to an integer type (12 R313): `quiet` is `.s`. -/
def fpToInt (ty rm : Nat) (quiet : Bool) (a : FP) : Int × Flags :=
  match a with
  | .nan _ => (0, fNV)
  | .inf n => (if n then intLo ty else intHi ty, if quiet then 0 else fNV)
  | .num n m e =>
    let r := roundAt rm n m e 0
    let v : Int := if n then -(r.1 : Int) else r.1
    if v < intLo ty then (intLo ty, if quiet then 0 else fNV)
    else if intHi ty < v then (intHi ty, if quiet then 0 else fNV)
    else (v, if r.2 then 1 else 0)

/-- An integer as an exact value; 0 is +0 (12 R310, R313). -/
def fpOfInt (v : Int) : FP := .num (decide (v < 0)) v.natAbs 0

/-- Reads an FP register as a format: an ill-boxed value reads as the canonical quiet NaN (03 R70). -/
def unbox (f : Fmt) (v : Nat) : FP :=
  if v / 2 ^ f.width = 2 ^ (64 - f.width) - 1 then fpRead f (v % 2 ^ f.width) else .nan false

/-- The box of a narrower value (03 R70). -/
def box (f : Fmt) (v : Nat) : Word := BitVec.ofNat 64 ((2 ^ (64 - f.width) - 1) * 2 ^ f.width + v)

/-- The operations of `amo` and `vamo` by op code, at `n` bytes (05 R120; 07 R189; 10 R241). -/
def atomicOp (op n : Nat) (old v : Nat) : Nat × Flags :=
  let w := 8 * n
  let a := old % 2 ^ w
  let b := v % 2 ^ w
  match op with
  | 0 => ((a + b) % 2 ^ w, 0)
  | 1 => (a &&& b, 0)
  | 2 => (a ||| b, 0)
  | 3 => (a ^^^ b, 0)
  | 4 => (if signed w a ≤ signed w b then a else b, 0)
  | 5 => (if signed w a ≤ signed w b then b else a, 0)
  | 6 => (min a b, 0)
  | 7 => (max a b, 0)
  | 8 => (b, 0)
  | _ =>
    let f := if n = 4 then fmtOf 10 else fmtOf 11
    fpAdd f 0 (fpRead f a) (fpRead f b)

end Sys2Proof.Machine
end

