-- ==== Sys2Proof/WellFormed.lean ====
section
/-! DEFINITION. Which instructions the part accepts: the checks of 04 R107 and R108 and of the chapters' form tables, as
one Bool per instruction. An ill-formed encoding takes trap 0x01. -/

namespace Sys2Proof

/-- TYPE codes of integer element types, 0 to 7 (04 R106). -/
def isIntType (t : BitVec 4) : Bool := decide (t.toNat ≤ 7)

/-- TYPE codes of signed integer types, 0 to 3. -/
def isSignedType (t : BitVec 4) : Bool := decide (t.toNat ≤ 3)

/-- TYPE codes of natural integer types, 4 to 7. -/
def isNaturalType (t : BitVec 4) : Bool := decide (4 ≤ t.toNat ∧ t.toNat ≤ 7)

/-- TYPE codes of the FP types that vector functions accept, 8 to 10 (06 R154). -/
def isVectorFp (t : BitVec 4) : Bool := decide (8 ≤ t.toNat ∧ t.toNat ≤ 10)

/-- TYPE codes of the FP types that scalar functions accept, 8 to 11 (05 R126). -/
def isScalarFp (t : BitVec 4) : Bool := decide (8 ≤ t.toNat ∧ t.toNat ≤ 11)

/-- TYPE codes of vector memory instructions, 0 to 10 and 12 (07 R175). -/
def isMemType (t : BitVec 4) : Bool := decide (t.toNat ≤ 10 ∨ t.toNat = 12)

/-- An f register field (04 R108). -/
def isFReg (r : Reg) : Bool := decide (r.toNat < 16)

/-- A mask, token or tether field of five bits (04 R108). -/
def isMReg (r : Reg) : Bool := decide (r.toNat < 8)

/-- An RM that rounds: 0 to 5 (04 R107). -/
def isRm (rm : BitVec 3) : Bool := decide (rm.toNat ≤ 5)

/-- The scalar FP forms leave MASK, XM, CO, CI and SAT zero (05 R126). -/
def VAOps.scalarPlain (o : VAOps) : Bool :=
  o.mask = 0 && o.xm = 0 && !o.co && !o.ci && !o.sat && isRm o.rm

/-- CO needs X zero and CI needs Y zero (04 R105); RM 6 and 7 are illegal. -/
def VAOps.chainOk (o : VAOps) : Bool :=
  (!o.co || o.x = 0) && (!o.ci || o.y = 0) && isRm o.rm

/-- A modifier that only FP types take. -/
def VAOps.rmFp (o : VAOps) : Bool := o.rm = 0 || isVectorFp o.ty
/-- A modifier that only integer types take. -/
def VAOps.satInt (o : VAOps) : Bool := !o.sat || isIntType o.ty
/-- The exception mask that only FP types take. -/
def VAOps.xmFp (o : VAOps) : Bool := o.xm = 0 || isVectorFp o.ty

/-- Rows 0 to 5 of 06 R158: any vector type, RM and XM for FP, SAT for integers. -/
def VAOps.arith (o : VAOps) : Bool :=
  o.chainOk && (isIntType o.ty || isVectorFp o.ty) && o.rmFp && o.satInt && o.xmFp

/-- fcvt's pairs (05 R128). -/
def VAOps.fcvtOk (o : VAOps) : Bool :=
  let s : BitVec 4 := o.w.setWidth 4
  o.scalarPlain && o.w.toNat < 16 && o.z = 0 &&
    ((isScalarFp s && isScalarFp o.ty && s ≠ o.ty && isFReg o.x && isFReg o.y)
    || (isScalarFp s && isIntType o.ty && isFReg o.y)
    || (isIntType s && isScalarFp o.ty && isFReg o.x)
    || (s = 7 && o.ty = 7 && o.rm = 0 && isFReg o.x)
    || (s = 3 && o.ty = 3 && o.rm = 0 && isFReg o.y))

/-- vcvt's pairs (06 R164). W[3:0] is the source type and W[4] says that Z names a scale vector. -/
def VAOps.vcvtOk (o : VAOps) : Bool :=
  let s : BitVec 4 := o.w.setWidth 4
  let scale := o.w.getLsbD 4
  o.chainOk && (scale || o.z = 0) &&
    ((isVectorFp s && isVectorFp o.ty && s ≠ o.ty && !o.sat && !scale)
    || (isVectorFp s && isIntType o.ty)
    || (isIntType s && isVectorFp o.ty && !o.sat)
    || (isIntType s && isIntType o.ty && s ≠ o.ty && o.rm = 0 && !scale)
    || (s = 12 && isIntType o.ty && o.rm = 0 && !o.sat && !scale)
    || (s = 12 && isVectorFp o.ty && !o.sat))

/-- Major 0x22: types 0 to 10, no chain, and no RM, SAT or XM but where a function says so (06 R167). -/
def VAOps.cross (o : VAOps) : Bool :=
  (isIntType o.ty || isVectorFp o.ty) && !o.co && !o.ci && o.rm = 0 && !o.sat && o.xm = 0

/-- A vector memory form whose IMM18, SUB and TYPE are as 07 R175 gives. -/
def VMOps.mem (o : VMOps) : Bool := isMemType o.ty && o.sub = 0

/-- A form without an offset, a type and a mask. -/
def VMOps.bare (o : VMOps) : Bool := o.imm = 0 && o.ty = 0 && o.mask = 0

/-- Whether the part accepts the instruction's fields (04 R107, R108). Device steps have no encoding and no fields to
check. -/
def Instr.wellFormed : Instr → Bool
  | .sext _ _ w | .zext _ _ w => decide (w.toNat ≤ 2)
  | .shli _ _ i | .shri _ _ i | .srai _ _ i => decide (i.toNat < 64)
  | .fadd o | .fsub o | .fmul o =>
    o.scalarPlain && isScalarFp o.ty && o.w = 0 && isFReg o.x && isFReg o.y && isFReg o.z
  | .ffma o => o.scalarPlain && isScalarFp o.ty && isFReg o.w && isFReg o.x && isFReg o.y && isFReg o.z
  | .fcvt o => o.fcvtOk
  | .fcmp o => o.scalarPlain && isScalarFp o.ty && o.rm = 0 && decide (o.w.toNat ≤ 3) && isFReg o.y && isFReg o.z
  | .loop c _ _ | .loopi c _ _ => decide (c.toNat < 2)
  | .loopm c _ _ g => decide (c.toNat < 2) && decide (g.toNat < 8)
  | .ld o => o.width ≠ 7 && (!o.fr || ((o.width = 3 || o.width = 5 || o.width = 6) && isFReg o.x))
  | .st o => decide (o.width.toNat ≤ 3) && (!o.fr || (o.width = 3 && isFReg o.x))
  | .pref o => decide (o.x.toNat < 2) && o.width = 0 && !o.fr
  | .waitw _ _ _ cc _ _ => decide (cc.toNat ≤ 1)
  | .mand d a b | .mor d a b | .mxor d a b => isMReg d && isMReg a && isMReg b
  | .mnot d a | .mmov d a => isMReg d && isMReg a
  | .mset d _ => isMReg d
  | .mpop _ a | .mfirst _ a => isMReg a
  | .vadd o | .vsub o | .vmul o | .vdiv o => o.arith && o.w = 0
  | .vaddVs o | .vsubVs o | .vmulVs o | .vdivVs o => o.arith && o.w = 0
  | .vfma o | .vfms o | .vfmaVs o | .vfmsVs o => o.arith
  | .vsqrt o | .vrsq o | .vexp2 o =>
    o.chainOk && isVectorFp o.ty && !o.sat && o.z = 0 && o.w = 0
  | .vmin o | .vmax o | .vminVs o | .vmaxVs o =>
    o.chainOk && (isIntType o.ty || isVectorFp o.ty) && o.rm = 0 && !o.sat && o.xmFp && o.w = 0
  | .vabs o | .vneg o =>
    o.chainOk && (isSignedType o.ty || isVectorFp o.ty) && o.rm = 0 && o.satInt && o.xm = 0 && o.z = 0 && o.w = 0
  | .vand o | .vor o | .vxor o | .vshl o | .vshr o | .vsra o =>
    o.chainOk && isIntType o.ty && o.rm = 0 && !o.sat && o.xm = 0 && o.w = 0
  | .vandVs o | .vorVs o | .vxorVs o | .vshlVs o | .vshrVs o | .vsraVs o =>
    o.chainOk && isIntType o.ty && o.rm = 0 && !o.sat && o.xm = 0 && o.w = 0
  | .vclmul o | .vclmulVs o =>
    o.chainOk && isNaturalType o.ty && o.rm = 0 && !o.sat && o.xm = 0 && decide (o.w.toNat ≤ 1)
  | .vdot o | .vdotVs o =>
    o.chainOk && (o.ty = 0 || o.ty = 4 || o.ty = 8 || o.ty = 9) && o.rmFp && o.satInt && o.xmFp
  | .vhad o =>
    o.chainOk && (o.ty = 1 || o.ty = 2 || isVectorFp o.ty) && o.rmFp && o.satInt && o.xmFp && o.mask = 0
      && o.z = 0 && decide (o.w.toNat < 16)
  | .vcvt o => o.vcvtOk
  | .vsel o => o.cross && decide (o.w.toNat < 8)
  | .vmv o => o.cross && o.z = 0 && o.w = 0
  | .vbcast o => o.cross && o.y = 0 && o.w = 0
  | .vslide o | .vperm o => o.cross && o.w = 0
  | .viota o => o.cross && isNaturalType o.ty && isMReg o.y && o.z = 0 && o.w = 0
  | .vcmp o =>
    (isIntType o.ty || isVectorFp o.ty) && !o.co && !o.ci && o.rm = 0 && !o.sat && o.xmFp && isMReg o.x
      && (o.xm = 0 || o.xm.toNat ≠ o.x.toNat) && decide (o.w.toNat ≤ 6) && (o.w.toNat ≠ 6 || isVectorFp o.ty)
  | .vred o =>
    (isIntType o.ty || isVectorFp o.ty) && !o.co && !o.ci && isRm o.rm && o.xm = 0 && o.z = 0
      && decide (o.w.toNat ≤ 5) && (decide (o.w.toNat ≤ 2) || isIntType o.ty)
      && (o.rm = 0 || (o.w = 0 && isVectorFp o.ty)) && (!o.sat || (o.w = 0 && isIntType o.ty))
  | .vld o | .vldff o | .vst o => o.mem && o.z = 0
  | .vlds o | .vldx o | .vsts o | .vstx o => o.mem
  | .vldt o => isMemType o.ty && isMReg o.sub && o.z = 0
  | .vpref o => o.mem && o.x = 0 && o.z = 0
  | .vamo o =>
    decide ((o.sub.toNat % 16) < 9) && (o.ty = 2 || o.ty = 3 || o.ty = 6 || o.ty = 7)
      || (decide (o.sub.toNat % 16 = 9) && o.ty = 10)
  | .vlock o => isMReg o.x && o.y = 0 && isMReg o.sub && o.sub ≠ o.x && o.ty = 0 && o.imm = 0
  | .vunlock o => o.x = 0 && o.y = 0 && o.sub = 0 && o.ty = 0 && o.imm = 0
  | .stmap o => o.bare && o.sub = 0
  | .stwb o | .stunmap o => o.bare && o.sub = 0 && o.y = 0 && o.z = 0
  | .oclaim o => o.bare && isFReg o.x && o.z = 0 && o.sub = 0 && o.wait = 0
  | .orel o => o.bare && isFReg o.x && o.y = 0 && o.z = 0 && o.sub = 0 && o.wait = 0
  | .oldv o => isFReg o.x && o.sub = 0 && (o.ty = 0 || o.ty = 12)
  | .opa o => isFReg o.x && isFReg o.y && o.z = 0 && isMReg o.sub && decide (o.imm.toNat ≤ 5) && o.ty = 0
  | .aclaim o => o.bare && o.x = 0 && o.z = 0 && decide (o.sub.toNat ≤ 1) && o.wait = 0
  | .arel o | .aclr o => o.bare && o.x = 0 && o.y = 0 && o.z = 0 && decide (o.sub.toNat ≤ 1) && o.wait = 0
  | .axt o =>
    o.y = 0 && o.imm = 0 && decide (o.sub.toNat ≤ 1) && (decide (o.ty.toNat ≤ 2) || isVectorFp o.ty)
  | .asave o | .aload o => o.bare && o.x = 0 && o.z = 0 && decide (o.sub.toNat ≤ 1)
  | .vcopy o => o.bare && isMReg o.sub
  | .vcopyJob o => o.bare && o.x = 0 && o.z = 0 && decide (8 ≤ o.sub.toNat ∧ o.sub.toNat < 16)
  | .vcopyx o =>
    decide (o.sub.toNat < 16) && o.ty = 0
      && decide (o.imm.toNat % 8 = 0 ∧ 8 ≤ o.imm.toNat ∧ o.imm.toNat ≤ 65536)
  | .vstrm o | .vstrmx o => o.imm = 0 && o.sub = 0 && o.ty = 0 && o.z = 0
  | _ => true

/-- The rows that have an encoding: every constructor but the device's own steps. -/
def Instr.encodable : Instr → Bool
  | .waitSatisfied _ | .watchPoll _ | .waitBoundExpired _ | .pbwaitComplete _ | .shareGrant _ | .gangTimeout _
  | .jobStart _ _ | .jobComplete _ | .remoteAccessTimeout _ | .collectiveJoinTimeout _ | .remoteAccessReceived _
  | .refreshCloseRow _ | .tetherReopened _ | .spoolReservationGrant _ | .spoolTakingGrant _ | .spoolNotifyDelay _
  | .doorbellStore _ _ | .headLatchStore _ _ | .takePacket _ | .dispatchPacket _ | .placementMessage _ _
  | .gondolaCopyMessage _ | .startClusterGroup _ _ | .startTask _ _ | .packetComplete _ | .wakeComplete _
  | .gateCluster _ | .gateDie _ | .preemptStarvation _ | .preemptRequest _ | .resumeHartGroup _ | .faultRecordWrite
  | .faultreplyResume _ | .faultreplyKill _ | .invpage | .invasid | .invall | .ctxload | .ctxdestroy | .watchElement
  | .watchEntryFired _ | .lspoolRegister _ | .lspoolRemove _ | .resetOrderlyWarm | .resetWarm | .keelRestart
  | .keelHeartbeatTimeout | .keelRestartComplete | .devidsetWrite _ | .gatectlWrite _ | .registerWrite _ _ | .quote
  | .extend | .identity | .plateupd | .mailboxComplete | .thermalStepEval _ | .patrolScrub _ _
  | .uncorrectableError _ | .linkDown _ | .pcieInboundRequest _ | .mgmtHalt _ | .mgmtResume _ | .mgmtStep _
  | .mgmtWriteState _ _ _ | .mgmtWarmReset _ | .coldReset | .ucieLinkTrained _ | .stackTrainingComplete _ _
  | .pciePortReady _ | .fetchFault | .unallocatedEncoding | .applicationCoreStore _ _ | .linkUp _ => false
  | _ => true

end Sys2Proof
end

