-- ==== Sys2Proof/Decode.lean ====
section
/-! DEFINITION. Decoding and encoding: the line (04 R94 to R98), tail classes and layouts (R97, R105) and the opcode map
(R110). The decoder is total and rejects by name; the encoder is written from the same tables. -/

namespace Sys2Proof

/-- Why a head does not decode: each of these takes trap 0x01 when the head executes (04 R107, R108). -/
inductive DecodeError where
  /-- The major is unallocated: 0x00 or 0x32 to 0x3F. -/
  | unallocatedMajor
  /-- The major is allocated and its function code is not. -/
  | unallocatedFunction
  /-- A field that the map marks zero, or does not use for the function, is not zero. -/
  | reservedField
  /-- A register number, TYPE, RM, width or modifier that the function does not permit. -/
  | illFormed
  deriving DecidableEq, Repr

/-- A head and its tail value; the tail's bytes are the low ones. -/
structure Code where
  head : BitVec 16
  tail : BitVec 48
  deriving DecidableEq, Repr

namespace Decode

/-- MAJOR of a head (04 R96). -/
def major (h : BitVec 16) : Nat := (h.extractLsb' 10 6).toNat
/-- X of a head. -/
def fieldX (h : BitVec 16) : Reg := h.extractLsb' 5 5
/-- Y of a head. -/
def fieldY (h : BitVec 16) : Reg := h.extractLsb' 0 5

/-- The tail class of each major (04 R97, R110). -/
def tailClass (maj : Nat) : Nat :=
  if maj = 0x0A ∨ maj = 0x12 then 3
  else if 0x23 ≤ maj ∧ maj ≤ 0x2B then 3
  else if maj = 0x0B ∨ maj = 0x0D ∨ maj = 0x0E ∨ maj = 0x0F ∨ maj = 0x11 ∨ (0x16 ≤ maj ∧ maj ≤ 0x18)
    ∨ (0x20 ≤ maj ∧ maj ≤ 0x22) then 2
  else if (0x01 ≤ maj ∧ maj ≤ 0x09) ∨ maj = 0x0C ∨ maj = 0x14 ∨ maj = 0x15 ∨ (0x19 ≤ maj ∧ maj ≤ 0x1F)
    ∨ (0x2C ≤ maj ∧ maj ≤ 0x2F) then 1
  else 0

/-- Layout SR, field F. -/
def srF (t : BitVec 48) : Nat := (t.extractLsb' 10 6).toNat
/-- Layout SR, field W. -/
def srW (t : BitVec 48) : Reg := t.extractLsb' 5 5
/-- Layout SR, field Z. -/
def srZ (t : BitVec 48) : Reg := t.extractLsb' 0 5
/-- Layout SI, the immediate. -/
def si (t : BitVec 48) : BitVec 16 := t.extractLsb' 0 16
/-- Layouts BT and LC, the target. -/
def target (t : BitVec 48) : Target := ⟨t.extractLsb' 16 5, t.extractLsb' 0 16⟩
/-- Layout BT, field F. -/
def btF (t : BitVec 48) : Nat := (t.extractLsb' 21 3).toNat
/-- Layout BT, field A. -/
def btA (t : BitVec 48) : BitVec 8 := t.extractLsb' 24 8
/-- Layout SM. -/
def sm (h : BitVec 16) (t : BitVec 48) : SMOps :=
  ⟨fieldX h, fieldY h, t.getLsbD 27, t.extractLsb' 24 3, t.extractLsb' 0 24⟩
/-- Layout VA, field F. -/
def vaF (t : BitVec 48) : Nat := (t.extractLsb' 10 5).toNat
/-- Layout VA. -/
def va (h : BitVec 16) (t : BitVec 48) : VAOps :=
  { x := fieldX h, y := fieldY h, z := t.extractLsb' 0 5, w := t.extractLsb' 5 5, rm := t.extractLsb' 28 3,
    sat := t.getLsbD 27, co := t.getLsbD 26, ci := t.getLsbD 25, xm := t.extractLsb' 22 3,
    mask := t.extractLsb' 19 3, ty := t.extractLsb' 15 4 }
/-- Layout VM, field F. -/
def vmF (t : BitVec 48) : Nat := (t.extractLsb' 13 5).toNat
/-- Layout VM. -/
def vm (h : BitVec 16) (t : BitVec 48) : VMOps :=
  { x := fieldX h, y := fieldY h, z := t.extractLsb' 8 5, imm := t.extractLsb' 30 18, sub := t.extractLsb' 25 5,
    mask := t.extractLsb' 22 3, ty := t.extractLsb' 18 4, wait := t.extractLsb' 0 8 }

/-- Accept a decoded instruction when its reserved fields are zero and the part permits its fields. -/
def accept (zero : Bool) (i : Instr) : Except DecodeError Instr :=
  if !zero then .error .reservedField else if i.wellFormed then .ok i else .error .illFormed

/-- Major 0x01 (05 R119). -/
def alu (d a b w : Reg) : Nat → Except DecodeError Instr
  | 0 => accept (w = 0) (.add d a b) | 1 => accept (w = 0) (.sub d a b) | 2 => accept (w = 0) (.mul d a b)
  | 3 => accept (w = 0) (.mulh d a b) | 4 => accept (w = 0) (.mulhn d a b) | 5 => accept (w = 0) (.div d a b)
  | 6 => accept (w = 0) (.divn d a b) | 7 => accept (w = 0) (.rem d a b) | 8 => accept (w = 0) (.remn d a b)
  | 9 => accept (w = 0) (.and d a b) | 10 => accept (w = 0) (.or d a b) | 11 => accept (w = 0) (.xor d a b)
  | 12 => accept (w = 0) (.shl d a b) | 13 => accept (w = 0) (.shr d a b) | 14 => accept (w = 0) (.sra d a b)
  | 15 => accept (w = 0) (.rot d a b) | 16 => accept (w = 0) (.slt d a b) | 17 => accept (w = 0) (.sltn d a b)
  | 18 => accept (w = 0) (.min d a b) | 19 => accept (w = 0) (.max d a b) | 20 => accept (w = 0) (.minn d a b)
  | 21 => accept (w = 0) (.maxn d a b) | 22 => accept (w = 0) (.clmul d a b) | 23 => accept (w = 0) (.clmulh d a b)
  | 24 => accept (w = 0 && b = 0) (.clz d a) | 25 => accept (w = 0 && b = 0) (.ctz d a)
  | 26 => accept (w = 0 && b = 0) (.pop d a) | 27 => accept (b = 0) (.sext d a w) | 28 => accept (b = 0) (.zext d a w)
  | _ => .error .unallocatedFunction

/-- Major 0x0D (05 R126). -/
def scalarFp (z : Bool) (o : VAOps) : Nat → Except DecodeError Instr
  | 0 => accept z (.fadd o) | 1 => accept z (.fsub o) | 2 => accept z (.fmul o) | 3 => accept z (.ffma o)
  | 4 => accept z (.fcvt o) | 5 => accept z (.fcmp o)
  | _ => .error .unallocatedFunction

/-- Major 0x0E (05 R130). -/
def branch (z : Bool) (a b : Reg) (t : Target) : Nat → Except DecodeError Instr
  | 0 => accept z (.beq a b t) | 1 => accept z (.bne a b t) | 2 => accept z (.blt a b t) | 3 => accept z (.bge a b t)
  | 4 => accept z (.bltn a b t) | 5 => accept z (.bgen a b t)
  | _ => .error .unallocatedFunction

/-- Major 0x13 (10 R243, R274). -/
def system (z : Bool) : Nat → Except DecodeError Instr
  | 0 => accept z .nop | 1 => accept z .next | 2 => accept z .halt | 3 => accept z .eret | 4 => accept z .ill
  | 5 => accept z .yield | 6 => accept z .fence | 7 => accept z .fenceSv | 8 => accept z .fenceVs | 9 => accept z .vdrain
  | _ => .error .unallocatedFunction

/-- Major 0x19 (10 R240). -/
def amo (z : Bool) (d a v : Reg) (sz : Bool) : Nat → Except DecodeError Instr
  | 0 => accept z (.amoAdd d a v sz) | 1 => accept z (.amoAnd d a v sz) | 2 => accept z (.amoOr d a v sz)
  | 3 => accept z (.amoXor d a v sz) | 4 => accept z (.amoMin d a v sz) | 5 => accept z (.amoMax d a v sz)
  | 6 => accept z (.amoMinn d a v sz) | 7 => accept z (.amoMaxn d a v sz) | 8 => accept z (.amoSwap d a v sz)
  | 9 => accept z (.amoFadd d a v sz)
  | _ => .error .unallocatedFunction

/-- Major 0x1C (10 R250). -/
def barrier (x y w z : Reg) : Nat → Except DecodeError Instr
  | 0 => accept (w = 0 && z = 0) (.pbinit x y) | 1 => accept (w = 0 && z = 0) (.pbarr x y)
  | 2 => accept (w = 0 && z = 0) (.pbexp x y)
  | 3 => accept (!w.getLsbD 4 && z = 0) (.pbwait x y (w.setWidth 4))
  | _ => .error .unallocatedFunction

/-- Major 0x1E (06 R150 to R152). -/
def config (x y w z : Reg) : Nat → Except DecodeError Instr
  | 0 => accept (w = 0 && z = 0) (.vsetl x y) | 1 => accept (w = 0 && z = 0) (.vsetr x y)
  | 2 => accept (x = 0 && y = 0 && w = 0 && z = 0) .vrel | 3 => accept (w = 0 && z = 0) (.gang x y)
  | _ => .error .unallocatedFunction

/-- Major 0x1F (06 R171). -/
def masks (x y w z : Reg) : Nat → Except DecodeError Instr
  | 0 => accept (w = 0) (.mand x y z) | 1 => accept (w = 0) (.mor x y z) | 2 => accept (w = 0) (.mxor x y z)
  | 3 => accept (w = 0 && z = 0) (.mnot x y) | 4 => accept (w = 0 && z = 0) (.mset x y)
  | 5 => accept (w = 0 && z = 0) (.mpop x y) | 6 => accept (w = 0 && z = 0) (.mfirst x y)
  | 7 => accept (w = 0 && z = 0) (.mmov x y)
  | _ => .error .unallocatedFunction

/-- Major 0x20 (06 R158). -/
def vectorArith (z : Bool) (o : VAOps) : Nat → Except DecodeError Instr
  | 0 => accept z (.vadd o) | 1 => accept z (.vsub o) | 2 => accept z (.vmul o) | 3 => accept z (.vfma o)
  | 4 => accept z (.vfms o) | 5 => accept z (.vdiv o) | 6 => accept z (.vsqrt o) | 7 => accept z (.vrsq o)
  | 8 => accept z (.vexp2 o) | 9 => accept z (.vmin o) | 10 => accept z (.vmax o) | 11 => accept z (.vabs o)
  | 12 => accept z (.vneg o) | 13 => accept z (.vand o) | 14 => accept z (.vor o) | 15 => accept z (.vxor o)
  | 16 => accept z (.vshl o) | 17 => accept z (.vshr o) | 18 => accept z (.vsra o) | 19 => accept z (.vclmul o)
  | 20 => accept z (.vdot o) | 21 => accept z (.vhad o) | 22 => accept z (.vcvt o)
  | _ => .error .unallocatedFunction

/-- Major 0x21 (06 R161). -/
def vectorScalar (z : Bool) (o : VAOps) : Nat → Except DecodeError Instr
  | 0 => accept z (.vaddVs o) | 1 => accept z (.vsubVs o) | 2 => accept z (.vmulVs o) | 3 => accept z (.vfmaVs o)
  | 4 => accept z (.vfmsVs o) | 5 => accept z (.vdivVs o) | 9 => accept z (.vminVs o) | 10 => accept z (.vmaxVs o)
  | 13 => accept z (.vandVs o) | 14 => accept z (.vorVs o) | 15 => accept z (.vxorVs o) | 16 => accept z (.vshlVs o)
  | 17 => accept z (.vshrVs o) | 18 => accept z (.vsraVs o) | 19 => accept z (.vclmulVs o) | 20 => accept z (.vdotVs o)
  | _ => .error .unallocatedFunction

/-- Major 0x22 (06 R167). -/
def vectorCross (z : Bool) (o : VAOps) : Nat → Except DecodeError Instr
  | 0 => accept z (.vsel o) | 1 => accept z (.vmv o) | 2 => accept z (.vbcast o) | 3 => accept z (.vslide o)
  | 4 => accept z (.vperm o) | 5 => accept z (.viota o) | 6 => accept z (.vcmp o) | 7 => accept z (.vred o)
  | _ => .error .unallocatedFunction

/-- Majors 0x23 to 0x2B (07 R175, 08 R199, 09 R217), by major and function. -/
def vectorMem (o : VMOps) : Nat → Nat → Except DecodeError Instr
  | 0x23, 0 => accept true (.vld o) | 0x23, 1 => accept true (.vlds o) | 0x23, 2 => accept true (.vldx o)
  | 0x23, 3 => accept true (.vldff o) | 0x23, 4 => accept true (.vldt o) | 0x23, 5 => accept true (.vpref o)
  | 0x24, 0 => accept true (.vst o) | 0x24, 1 => accept true (.vsts o) | 0x24, 2 => accept true (.vstx o)
  | 0x25, 0 => accept true (.vamo o) | 0x25, 1 => accept true (.vlock o) | 0x25, 2 => accept true (.vunlock o)
  | 0x26, 0 => accept true (.stmap o) | 0x26, 1 => accept true (.stwb o) | 0x26, 2 => accept true (.stunmap o)
  | 0x27, 0 => accept true (.oclaim o) | 0x27, 1 => accept true (.orel o) | 0x27, 2 => accept true (.oldv o)
  | 0x28, 0 => accept true (.opa o)
  | 0x29, 0 => accept true (.aclaim o) | 0x29, 1 => accept true (.arel o) | 0x29, 2 => accept true (.aclr o)
  | 0x29, 3 => accept true (.axt o) | 0x29, 4 => accept true (.asave o) | 0x29, 5 => accept true (.aload o)
  | 0x2A, 0 => if o.sub.toNat < 8 then accept true (.vcopy o) else accept true (.vcopyJob o)
  | 0x2A, 1 => accept true (.vcopyx o)
  | 0x2B, 0 => accept true (.vstrm o) | 0x2B, 1 => accept true (.vstrmx o)
  | _, _ => .error .unallocatedFunction

/-- Major 0x2E (10 R256). -/
def spool (x y z w : Reg) (fm : BitVec 3) (code : BitVec 4) (p : BitVec 3) : Nat → Except DecodeError Instr
  | 0 => accept (x = 0 && w = 0 && fm = 0) (.qinit y z)
  | 1 => accept (fm = 0 && !w.getLsbD 4) (.enq x y z code) | 2 => accept (fm = 0 && !w.getLsbD 4) (.deq x y z code)
  | 3 => accept (z = 0 && !w.getLsbD 4) (.venq x y fm code) | 4 => accept (z = 0 && !w.getLsbD 4) (.vdeq x y fm code)
  | 5 => accept (fm = 0 && isMReg w) (.enqt x y z p) | 6 => accept (fm = 0 && isMReg w) (.deqt x y z p)
  | 7 => accept (z = 0 && w = 0 && fm = 0) (.qstat x y)
  | _ => .error .unallocatedFunction

/-- Major 0x2F (10 R267). -/
def tasks (x y z w : Reg) : Nat → Except DecodeError Instr
  | 0 => accept (x = 0 && z = 0 && w = 0) (.spawn y) | 1 => accept (x = 0 && z = 0 && w = 0) (.joinw y)
  | 2 => accept (w = 0) (.launch x y z) | 3 => accept (w = 0) (.jstat x y z)
  | 4 => accept (x = 0 && w = 0) (.cancel y z)
  | _ => .error .unallocatedFunction

/-- Major 0x2D (09 R217). -/
def tether (x y : Reg) (n : BitVec 3) : Nat → Except DecodeError Instr
  | 0 => accept true (.topen x y n) | 1 => accept (x = 0 && y = 0) (.trel n) | 2 => accept (y = 0) (.tstat x n)
  | _ => .error .unallocatedFunction

end Decode

open Decode in
/-- Decode one head and its tail (04 R110). -/
def decode (c : Code) : Except DecodeError Instr :=
  let h := c.head
  let t := c.tail
  let x := fieldX h
  let y := fieldY h
  match major h with
  | 0x01 => alu x y (srZ t) (srW t) (srF t)
  | 0x02 => accept true (.addi x y (si t)) | 0x03 => accept true (.andi x y (si t)) | 0x04 => accept true (.ori x y (si t))
  | 0x05 => accept true (.xori x y (si t)) | 0x06 => accept true (.shli x y (si t)) | 0x07 => accept true (.shri x y (si t))
  | 0x08 => accept true (.srai x y (si t)) | 0x09 => accept true (.slti x y (si t))
  | 0x0A => accept (y = 0) (.limm x t)
  | 0x0B => accept (y = 0) (.addpc x (t.extractLsb' 0 32))
  | 0x0C => accept (srF t = 0) (.sel x y (srZ t) (srW t))
  | 0x0D => scalarFp (!t.getLsbD 31) (va h t) (vaF t)
  | 0x0E => branch (btA t = 0) x y (target t) (btF t)
  | 0x0F => match btF t with
    | 0 => accept (x = 0 && y = 0 && btA t = 0) (.jmp (target t))
    | 1 => accept (x = 0 && y = 0 && btA t = 0) (.call (target t))
    | _ => .error .unallocatedFunction
  | 0x10 => accept true (.jmpr x y)
  | 0x11 => match btF t with
    | 0 => accept (btA t = 0) (.loop x y (target t))
    | 1 => accept true (.loopm x y (target t) (btA t))
    | _ => .error .unallocatedFunction
  | 0x12 => accept (y = 0 && t.extractLsb' 21 11 = 0) (.loopi x (t.extractLsb' 32 16) (target t))
  | 0x13 => system (x = 0) y.toNat
  | 0x14 => accept (x = 0 && y = 0) (.trap (si t))
  | 0x15 => match y.toNat with
    | 0 => accept (t.extractLsb' 12 4 = 0) (.srr x (t.extractLsb' 0 12))
    | 1 => accept (t.extractLsb' 12 4 = 0) (.srw x (t.extractLsb' 0 12))
    | _ => .error .unallocatedFunction
  | 0x16 => accept (t.extractLsb' 28 4 = 0) (.ld (sm h t))
  | 0x17 => accept (t.extractLsb' 28 4 = 0) (.st (sm h t))
  | 0x18 => accept (t.extractLsb' 28 4 = 0) (.pref (sm h t))
  | 0x19 => amo (srF t = 0) x y (srZ t) (t.getLsbD 9) (t.extractLsb' 5 4).toNat
  | 0x1A => accept (t.extractLsb' 11 5 = 0) (.cas x y (srZ t) (srW t) (t.getLsbD 10))
  | 0x1B => accept (t.extractLsb' 13 3 = 0 && !t.getLsbD 9)
      (.waitw x y (srZ t) (t.extractLsb' 10 2) (t.getLsbD 12) (t.extractLsb' 5 4))
  | 0x1C => barrier x y (srW t) (srZ t) (srF t)
  | 0x1D => accept (x = 0 && y = 0 && t.extractLsb' 7 9 = 0)
      (.vcfg (t.extractLsb' 0 2) (t.extractLsb' 2 3) (t.extractLsb' 5 2))
  | 0x1E => config x y (srW t) (srZ t) (srF t)
  | 0x1F => masks x y (srW t) (srZ t) (srF t)
  | 0x20 => vectorArith (!t.getLsbD 31) (va h t) (vaF t)
  | 0x21 => vectorScalar (!t.getLsbD 31) (va h t) (vaF t)
  | 0x22 => vectorCross (!t.getLsbD 31) (va h t) (vaF t)
  | 0x2C => match (t.extractLsb' 11 2).toNat with
    | 0 => accept (x = 0 && y = 0 && t.extractLsb' 8 3 = 0 && t.extractLsb' 13 3 = 0) (.waitk (t.extractLsb' 0 8))
    | 1 => accept (y = 0 && t.extractLsb' 0 8 = 0 && t.extractLsb' 13 3 = 0) (.cwp x (t.extractLsb' 8 3))
    | _ => .error .unallocatedFunction
  | 0x2D => if t.extractLsb' 5 11 = 0 then tether x y (t.extractLsb' 0 3) (t.extractLsb' 3 2).toNat
      else .error .reservedField
  | 0x2E => spool x y (srZ t) (srW t) (t.extractLsb' 13 3) (t.extractLsb' 5 4) (t.extractLsb' 5 3)
      (t.extractLsb' 10 3).toNat
  | 0x2F => tasks x y (srZ t) (srW t) (srF t)
  | 0x30 => accept true (.tlbinv x y)
  | 0x31 => accept (x = 0 && y.extractLsb' 3 2 = 0) (.stagePrefix (y.extractLsb' 0 3))
  | m => if 0x23 ≤ m ∧ m ≤ 0x2B then vectorMem (vm h t) m (vmF t) else .error .unallocatedMajor

/-! ### The line (04 R94 to R98) -/

/-- Byte `i` of a line; a missing byte reads 0 (a line as fetched has 64). -/
def lineByte (l : List Byte) (i : Nat) : Byte := (l[i]?).getD 0

/-- The head count H of the line word (04 R95). -/
def lineCount (l : List Byte) : Nat := (lineByte l 0).toNat % 32

/-- Head `i` of a line (04 R94). -/
def lineHead (l : List Byte) (i : Nat) : BitVec 16 := lineByte l (2 * i + 1) ++ lineByte l (2 * i)

/-- Where the tails of the first `i` heads start: the prefix sum of 04 R97. -/
def lineTailStart (l : List Byte) : Nat → Nat
  | 0 => 64
  | i + 1 => lineTailStart l i - 2 * Decode.tailClass (Decode.major (lineHead l (i + 1)))

/-- `n` bytes of a line from byte `at`, little-endian (04 R97). -/
def lineValue (l : List Byte) (start : Nat) : Nat → Nat
  | 0 => 0
  | n + 1 => (lineByte l start).toNat + 256 * lineValue l (start + 1) n

/-- The head and tail of slot `i` of a line. -/
def lineCode (l : List Byte) (i : Nat) : Code :=
  let h := lineHead l i
  ⟨h, BitVec.ofNat 48 (lineValue l (lineTailStart l i) (2 * Decode.tailClass (Decode.major h)))⟩

/-- The sum of the tail bytes of the first `i` heads. -/
def lineTailBytes (l : List Byte) : Nat → Nat
  | 0 => 0
  | i + 1 => lineTailBytes l i + 2 * Decode.tailClass (Decode.major (lineHead l (i + 1)))

/-- The checks of 04 R98: a line that fails takes trap 0x03. -/
def lineFormatOk (l : List Byte) : Bool :=
  let hc := lineCount l
  let stop := lineTailStart l hc
  hc ≠ 0 && (lineByte l 0).toNat / 32 = 0 && lineByte l 1 = 0
    && decide (2 * hc + 2 + lineTailBytes l hc ≤ 64)
    && (List.range (stop - (2 * hc + 2))).all (fun k => lineByte l (2 * hc + 2 + k) = 0)

/-- Decode slot `i` of a line of bytes. -/
def decodeSlot (l : List Byte) (i : Nat) : Except DecodeError Instr := decode (lineCode l i)

/-! ### The encoder -/

namespace Encode

/-- A head from its major and fields (04 R96). -/
def head (maj : BitVec 6) (x y : Reg) : BitVec 16 := maj ++ x ++ y
/-- Layout SR. -/
def sr (f : BitVec 6) (w z : Reg) : BitVec 48 := (0 : BitVec 32) ++ f ++ w ++ z
/-- Layout SI. -/
def si (i : BitVec 16) : BitVec 48 := (0 : BitVec 32) ++ i
/-- Layout BT. -/
def bt (a : BitVec 8) (f : BitVec 3) (t : Target) : BitVec 48 := (0 : BitVec 16) ++ a ++ f ++ t.slot ++ t.loff
/-- Layout LC. -/
def lc (n : BitVec 16) (t : Target) : BitVec 48 := n ++ (0 : BitVec 11) ++ t.slot ++ t.loff
/-- Layout SM. -/
def sm (o : SMOps) : BitVec 48 := (0 : BitVec 20) ++ BitVec.ofBool o.fr ++ o.width ++ o.off
/-- Layout VA. -/
def va (f : BitVec 5) (o : VAOps) : BitVec 48 :=
  (0 : BitVec 17) ++ o.rm ++ BitVec.ofBool o.sat ++ BitVec.ofBool o.co ++ BitVec.ofBool o.ci ++ o.xm ++ o.mask ++ o.ty
    ++ f ++ o.w ++ o.z
/-- Layout VM. -/
def vm (f : BitVec 5) (o : VMOps) : BitVec 48 := o.imm ++ o.sub ++ o.mask ++ o.ty ++ f ++ o.z ++ o.wait

/-- A register operation of major 0x01. -/
def alu (f : BitVec 6) (d a : Reg) (w z : Reg) : Code := ⟨head 0x01 d a, sr f w z⟩
/-- An immediate operation. -/
def imm (maj : BitVec 6) (d a : Reg) (i : BitVec 16) : Code := ⟨head maj d a, si i⟩
/-- A head of major 0x13. -/
def system (y : Reg) : Code := ⟨head 0x13 0 y, 0⟩
/-- A scalar atomic. -/
def amo (op : BitVec 4) (d a v : Reg) (sz : Bool) : Code := ⟨head 0x19 d a, sr 0 (BitVec.ofBool sz ++ op) v⟩
/-- A VA instruction. -/
def vaCode (maj : BitVec 6) (f : BitVec 5) (o : VAOps) : Code := ⟨head maj o.x o.y, va f o⟩
/-- A VM instruction. -/
def vmCode (maj : BitVec 6) (f : BitVec 5) (o : VMOps) : Code := ⟨head maj o.x o.y, vm f o⟩

end Encode

open Encode in
/-- The head and tail of an instruction (04 R110). A device step has no encoding; it answers the head 0, which never
decodes. -/
def encode : Instr → Code
  | .add d a b => alu 0 d a 0 b | .sub d a b => alu 1 d a 0 b | .mul d a b => alu 2 d a 0 b
  | .mulh d a b => alu 3 d a 0 b | .mulhn d a b => alu 4 d a 0 b | .div d a b => alu 5 d a 0 b
  | .divn d a b => alu 6 d a 0 b | .rem d a b => alu 7 d a 0 b | .remn d a b => alu 8 d a 0 b
  | .and d a b => alu 9 d a 0 b | .or d a b => alu 10 d a 0 b | .xor d a b => alu 11 d a 0 b
  | .shl d a b => alu 12 d a 0 b | .shr d a b => alu 13 d a 0 b | .sra d a b => alu 14 d a 0 b
  | .rot d a b => alu 15 d a 0 b | .slt d a b => alu 16 d a 0 b | .sltn d a b => alu 17 d a 0 b
  | .min d a b => alu 18 d a 0 b | .max d a b => alu 19 d a 0 b | .minn d a b => alu 20 d a 0 b
  | .maxn d a b => alu 21 d a 0 b | .clmul d a b => alu 22 d a 0 b | .clmulh d a b => alu 23 d a 0 b
  | .clz d a => alu 24 d a 0 0 | .ctz d a => alu 25 d a 0 0 | .pop d a => alu 26 d a 0 0
  | .sext d a w => alu 27 d a w 0 | .zext d a w => alu 28 d a w 0
  | .addi d a i => imm 0x02 d a i | .andi d a i => imm 0x03 d a i | .ori d a i => imm 0x04 d a i
  | .xori d a i => imm 0x05 d a i | .shli d a i => imm 0x06 d a i | .shri d a i => imm 0x07 d a i
  | .srai d a i => imm 0x08 d a i | .slti d a i => imm 0x09 d a i
  | .limm d i => ⟨head 0x0A d 0, i⟩
  | .addpc d i => ⟨head 0x0B d 0, (0 : BitVec 16) ++ i⟩
  | .sel d c a b => ⟨head 0x0C d c, sr 0 b a⟩
  | .fadd o => vaCode 0x0D 0 o | .fsub o => vaCode 0x0D 1 o | .fmul o => vaCode 0x0D 2 o | .ffma o => vaCode 0x0D 3 o
  | .fcvt o => vaCode 0x0D 4 o | .fcmp o => vaCode 0x0D 5 o
  | .beq a b t => ⟨head 0x0E a b, bt 0 0 t⟩ | .bne a b t => ⟨head 0x0E a b, bt 0 1 t⟩
  | .blt a b t => ⟨head 0x0E a b, bt 0 2 t⟩ | .bge a b t => ⟨head 0x0E a b, bt 0 3 t⟩
  | .bltn a b t => ⟨head 0x0E a b, bt 0 4 t⟩ | .bgen a b t => ⟨head 0x0E a b, bt 0 5 t⟩
  | .jmp t => ⟨head 0x0F 0 0, bt 0 0 t⟩ | .call t => ⟨head 0x0F 0 0, bt 0 1 t⟩
  | .jmpr d a => ⟨head 0x10 d a, 0⟩
  | .loop c a t => ⟨head 0x11 c a, bt 0 0 t⟩ | .loopm c a t g => ⟨head 0x11 c a, bt g 1 t⟩
  | .loopi c n t => ⟨head 0x12 c 0, lc n t⟩
  | .nop => system 0 | .next => system 1 | .halt => system 2 | .eret => system 3 | .ill => system 4 | .yield => system 5
  | .fence => system 6 | .fenceSv => system 7 | .fenceVs => system 8 | .vdrain => system 9
  | .trap i => ⟨head 0x14 0 0, si i⟩
  | .srr d n => ⟨head 0x15 d 0, si ((0 : BitVec 4) ++ n)⟩
  | .srw a n => ⟨head 0x15 a 1, si ((0 : BitVec 4) ++ n)⟩
  | .ld o => ⟨head 0x16 o.x o.y, sm o⟩ | .st o => ⟨head 0x17 o.x o.y, sm o⟩ | .pref o => ⟨head 0x18 o.x o.y, sm o⟩
  | .amoAdd d a v s => amo 0 d a v s | .amoAnd d a v s => amo 1 d a v s | .amoOr d a v s => amo 2 d a v s
  | .amoXor d a v s => amo 3 d a v s | .amoMin d a v s => amo 4 d a v s | .amoMax d a v s => amo 5 d a v s
  | .amoMinn d a v s => amo 6 d a v s | .amoMaxn d a v s => amo 7 d a v s | .amoSwap d a v s => amo 8 d a v s
  | .amoFadd d a v s => amo 9 d a v s
  | .cas d a e n s => ⟨head 0x1A d a, sr ((0 : BitVec 5) ++ BitVec.ofBool s) n e⟩
  | .waitw v a m cc s c =>
    ⟨head 0x1B v a, sr ((0 : BitVec 3) ++ BitVec.ofBool s ++ cc) ((0 : BitVec 1) ++ c) m⟩
  | .pbinit c a => ⟨head 0x1C c a, sr 0 0 0⟩ | .pbarr d a => ⟨head 0x1C d a, sr 1 0 0⟩
  | .pbexp b a => ⟨head 0x1C b a, sr 2 0 0⟩ | .pbwait p a c => ⟨head 0x1C p a, sr 3 ((0 : BitVec 1) ++ c) 0⟩
  | .vcfg n s e => ⟨head 0x1D 0 0, si ((0 : BitVec 9) ++ e ++ s ++ n)⟩
  | .vsetl d a => ⟨head 0x1E d a, sr 0 0 0⟩ | .vsetr d a => ⟨head 0x1E d a, sr 1 0 0⟩
  | .vrel => ⟨head 0x1E 0 0, sr 2 0 0⟩ | .gang d a => ⟨head 0x1E d a, sr 3 0 0⟩
  | .mand d a b => ⟨head 0x1F d a, sr 0 0 b⟩ | .mor d a b => ⟨head 0x1F d a, sr 1 0 b⟩
  | .mxor d a b => ⟨head 0x1F d a, sr 2 0 b⟩ | .mnot d a => ⟨head 0x1F d a, sr 3 0 0⟩
  | .mset d a => ⟨head 0x1F d a, sr 4 0 0⟩ | .mpop d a => ⟨head 0x1F d a, sr 5 0 0⟩
  | .mfirst d a => ⟨head 0x1F d a, sr 6 0 0⟩ | .mmov d a => ⟨head 0x1F d a, sr 7 0 0⟩
  | .vadd o => vaCode 0x20 0 o | .vsub o => vaCode 0x20 1 o | .vmul o => vaCode 0x20 2 o | .vfma o => vaCode 0x20 3 o
  | .vfms o => vaCode 0x20 4 o | .vdiv o => vaCode 0x20 5 o | .vsqrt o => vaCode 0x20 6 o | .vrsq o => vaCode 0x20 7 o
  | .vexp2 o => vaCode 0x20 8 o | .vmin o => vaCode 0x20 9 o | .vmax o => vaCode 0x20 10 o | .vabs o => vaCode 0x20 11 o
  | .vneg o => vaCode 0x20 12 o | .vand o => vaCode 0x20 13 o | .vor o => vaCode 0x20 14 o | .vxor o => vaCode 0x20 15 o
  | .vshl o => vaCode 0x20 16 o | .vshr o => vaCode 0x20 17 o | .vsra o => vaCode 0x20 18 o
  | .vclmul o => vaCode 0x20 19 o | .vdot o => vaCode 0x20 20 o | .vhad o => vaCode 0x20 21 o | .vcvt o => vaCode 0x20 22 o
  | .vaddVs o => vaCode 0x21 0 o | .vsubVs o => vaCode 0x21 1 o | .vmulVs o => vaCode 0x21 2 o
  | .vfmaVs o => vaCode 0x21 3 o | .vfmsVs o => vaCode 0x21 4 o | .vdivVs o => vaCode 0x21 5 o
  | .vminVs o => vaCode 0x21 9 o | .vmaxVs o => vaCode 0x21 10 o | .vandVs o => vaCode 0x21 13 o
  | .vorVs o => vaCode 0x21 14 o | .vxorVs o => vaCode 0x21 15 o | .vshlVs o => vaCode 0x21 16 o
  | .vshrVs o => vaCode 0x21 17 o | .vsraVs o => vaCode 0x21 18 o | .vclmulVs o => vaCode 0x21 19 o
  | .vdotVs o => vaCode 0x21 20 o
  | .vsel o => vaCode 0x22 0 o | .vmv o => vaCode 0x22 1 o | .vbcast o => vaCode 0x22 2 o | .vslide o => vaCode 0x22 3 o
  | .vperm o => vaCode 0x22 4 o | .viota o => vaCode 0x22 5 o | .vcmp o => vaCode 0x22 6 o | .vred o => vaCode 0x22 7 o
  | .vld o => vmCode 0x23 0 o | .vlds o => vmCode 0x23 1 o | .vldx o => vmCode 0x23 2 o | .vldff o => vmCode 0x23 3 o
  | .vldt o => vmCode 0x23 4 o | .vpref o => vmCode 0x23 5 o
  | .vst o => vmCode 0x24 0 o | .vsts o => vmCode 0x24 1 o | .vstx o => vmCode 0x24 2 o
  | .vamo o => vmCode 0x25 0 o | .vlock o => vmCode 0x25 1 o | .vunlock o => vmCode 0x25 2 o
  | .stmap o => vmCode 0x26 0 o | .stwb o => vmCode 0x26 1 o | .stunmap o => vmCode 0x26 2 o
  | .oclaim o => vmCode 0x27 0 o | .orel o => vmCode 0x27 1 o | .oldv o => vmCode 0x27 2 o | .opa o => vmCode 0x28 0 o
  | .aclaim o => vmCode 0x29 0 o | .arel o => vmCode 0x29 1 o | .aclr o => vmCode 0x29 2 o | .axt o => vmCode 0x29 3 o
  | .asave o => vmCode 0x29 4 o | .aload o => vmCode 0x29 5 o
  | .vcopy o => vmCode 0x2A 0 o | .vcopyJob o => vmCode 0x2A 0 o | .vcopyx o => vmCode 0x2A 1 o
  | .vstrm o => vmCode 0x2B 0 o | .vstrmx o => vmCode 0x2B 1 o
  | .waitk k => ⟨head 0x2C 0 0, si ((0 : BitVec 8) ++ k)⟩
  | .cwp d k => ⟨head 0x2C d 0, si ((0 : BitVec 3) ++ (1 : BitVec 2) ++ k ++ (0 : BitVec 8))⟩
  | .topen d a n => ⟨head 0x2D d a, si ((0 : BitVec 13) ++ n)⟩
  | .trel n => ⟨head 0x2D 0 0, si ((0 : BitVec 11) ++ (1 : BitVec 2) ++ n)⟩
  | .tstat d n => ⟨head 0x2D d 0, si ((0 : BitVec 11) ++ (2 : BitVec 2) ++ n)⟩
  | .qinit a t => ⟨head 0x2E 0 a, sr 0 0 t⟩
  | .enq v a z c => ⟨head 0x2E v a, sr 1 ((0 : BitVec 1) ++ c) z⟩
  | .deq d a z c => ⟨head 0x2E d a, sr 2 ((0 : BitVec 1) ++ c) z⟩
  | .venq v a m c => ⟨head 0x2E v a, sr (m ++ (3 : BitVec 3)) ((0 : BitVec 1) ++ c) 0⟩
  | .vdeq d a m c => ⟨head 0x2E d a, sr (m ++ (4 : BitVec 3)) ((0 : BitVec 1) ++ c) 0⟩
  | .enqt v a z p => ⟨head 0x2E v a, sr 5 ((0 : BitVec 2) ++ p) z⟩
  | .deqt d a z p => ⟨head 0x2E d a, sr 6 ((0 : BitVec 2) ++ p) z⟩
  | .qstat d a => ⟨head 0x2E d a, sr 7 0 0⟩
  | .spawn r => ⟨head 0x2F 0 r, sr 0 0 0⟩ | .joinw j => ⟨head 0x2F 0 j, sr 1 0 0⟩
  | .launch d q p => ⟨head 0x2F d q, sr 2 0 p⟩ | .jstat d q i => ⟨head 0x2F d q, sr 3 0 i⟩
  | .cancel q i => ⟨head 0x2F 0 q, sr 4 0 i⟩
  | .tlbinv a b => ⟨head 0x30 a b, 0⟩
  | .stagePrefix p => ⟨head 0x31 0 ((0 : BitVec 2) ++ p), 0⟩
  | _ => ⟨0, 0⟩

/-- The instruction the decoder reads from a word numbered as spec/opcode_table.json numbers it: the head is the high
sixteen of the `nbits` bits and the tail is below it (its rows of 16 bits are heads without a tail). -/
def decodeTableWord (nbits w : Nat) : Option Instr :=
  match decode ⟨BitVec.ofNat 16 (w >>> (nbits - 16)), BitVec.ofNat 48 (w % 2 ^ (nbits - 16))⟩ with
  | .ok i => some i
  | .error _ => none

end Sys2Proof
end

