-- ==== Sys2Proof/Machine/Memory.lean ====
section
/-! DEFINITION. Memory: the physical map (17 R425, R438), translation (15 R381), windows and stashes (07 R186 to R196),
decoded and scale windows (12 R317; 17 R441 to R443), poison (16 R419) and the problems of an access (05 R144). -/

namespace Sys2Proof.Machine

/-- Who makes an access: its context, its mode and, for a hart or its jobs, its core (15 R378). -/
structure Agent where
  asid : Nat
  mode : Mode
  core : Option Nat
  deriving DecidableEq, Repr

/-- The kinds of access that are checked apart (15 R381). -/
inductive Access where
  | fetch | load | store | atomic
  deriving DecidableEq, Repr

/-- Page classes (07 R184). -/
inductive PageClass where
  | pma | nc | io
  deriving DecidableEq, Repr

/-- A resolved address: its place and its page class. -/
structure Resolved where
  place : Place
  cls : PageClass
  deriving DecidableEq, Repr

/-- The registers of hart `h`. -/
def State.hart (s : State) (h : Nat) : Hart := Tab.get {} s.harts h
/-- Replaces the registers of hart `h`. -/
def State.setHart (s : State) (h : Nat) (x : Hart) : State := { s with harts := Tab.set {} h x s.harts }
/-- The hart that executes. -/
def State.me (s : State) : Hart := s.hart s.cur
/-- Replaces the executing hart's registers. -/
def State.setMe (s : State) (x : Hart) : State := s.setHart s.cur x
/-- Core `c` of the device. -/
def State.core (s : State) (c : Nat) : CoreState := Tab.get {} s.cores c
/-- Replaces core `c`. -/
def State.setCore (s : State) (c : Nat) (x : CoreState) : State := { s with cores := Tab.set {} c x s.cores }
/-- Cluster `c` of the device. -/
def State.cluster (s : State) (c : Nat) : Cluster := Tab.get {} s.clusters c
/-- Replaces cluster `c`. -/
def State.setCluster (s : State) (c : Nat) (x : Cluster) : State := { s with clusters := Tab.set {} c x s.clusters }
/-- The loaded context of an ASID (15 R379). -/
def State.context (s : State) (a : Nat) : Context := Tab.get {} s.contexts a
/-- Replaces a context. -/
def State.setContext (s : State) (a : Nat) (x : Context) : State := { s with contexts := Tab.set {} a x s.contexts }

/-- The core of a hart number (03 R87). -/
def coreOf (h : Nat) : Nat := h / 8
/-- The cluster of a hart number (03 R87). -/
def clusterOf (h : Nat) : Nat := h / 256

/-- The agent that a hart is. -/
def State.agent (s : State) (h : Nat) : Agent := ⟨(s.hart h).asid, (s.hart h).mode, some (coreOf h)⟩

/-! The physical map. -/

/-- Bytes of one die's share of the DRAM range (17 R425). -/
def dieSpan : Nat := 0x3000000000

/-- Enabled pseudo-channel groups of a die, by device stack number and group (17 R438). -/
def groupList (p : Plate) (d : Nat) : List (Nat × Nat) :=
  if p.dies.contains d then
    (p.hbm.filter fun k => k / 3 == d).flatMap fun k =>
      ((List.range 32).map fun j => (k, j)).filter fun g => !p.offGroups.contains g
  else []

/-- Bytes of DRAM on a die: 2 GiB for each enabled group (17 R438). -/
def dieBytes (p : Plate) (d : Nat) : Nat := (groupList p d).length * 0x80000000

/-- The base of the reserved range: the top 1 GiB of the DRAM of the lowest-numbered enabled die (17 R427). -/
def reservedBase (p : Plate) : Nat :=
  match p.dies with
  | [] => 0
  | d :: _ => d * dieSpan + dieBytes p d - 0x40000000

/-- The address is a DRAM address that answers an agent: not beyond the enabled groups, not reserved, not in the save
region (17 R425, R438; 15 R382; 16 R414). -/
def dramOk (s : State) (pa : Nat) : Bool :=
  decide (pa < 4 * dieSpan) && decide (pa % dieSpan < dieBytes s.plate (pa / dieSpan))
    && !(decide (reservedBase s.plate ≤ pa) && decide (pa < reservedBase s.plate + 0x40000000))
    && !(decide (s.hub.savebase.toNat ≤ pa) && decide (pa < s.hub.savebase.toNat + s.hub.savesize.toNat))

/-- The device stack that holds a physical DRAM address (17 R438). -/
def stackOf (p : Plate) (pa : Nat) : Nat :=
  let g := groupList p (pa / dieSpan)
  (g.getD (pa % dieSpan / 1024 % g.length) (0, 0)).1

/-- The stack of a DRAM address has passed its check, so it accepts accesses (02 R66; 16 R423; 17 R440, R448). -/
def stackUp (s : State) (pa : Nat) : Bool :=
  decide (4 * dieSpan ≤ pa) || (s.hub.ready.extractLsb' 0 12 == 0xFFF#12 && s.hub.checking.isEmpty)
    || (s.hub.ready.getLsbD (stackOf s.plate pa) && !s.hub.checking.contains (stackOf s.plate pa))

/-- The READY bit of the direct link between compute dies `d` and `e` (01 R14; 17 R448). -/
def linkBit (d e : Nat) : Nat :=
  match min d e, max d e with
  | 0, e => 16 + e
  | 1, e => 18 + e
  | _, _ => 22

/-- The link that an access to a DRAM address crosses is ready (01 R14; 17 R448): from the hub die, where no core is named,
or from the die of core `c`; an access within one die crosses none. -/
def linkUp (s : State) (c : Option Nat) (pa : Nat) : Bool :=
  decide (4 * dieSpan ≤ pa) ||
    match c with
    | none => s.hub.ready.getLsbD (13 + pa / dieSpan)
    | some c => decide (c / 512 = pa / dieSpan) || s.hub.ready.getLsbD (linkBit (c / 512) (pa / dieSpan))

/-- An access from the hub die to a DRAM address is performed at once: its stack and its link are ready (17 R440, R448). -/
def stackReady (s : State) (pa : Nat) : Bool := stackUp s pa && linkUp s none pa

/-- The stacks of the 1 KiB rows that `n` bytes from a location lie in are ready, and so is the link to them. -/
def ramReady (s : State) (c : Option Nat) (l n : Nat) : Bool :=
  linkUp s c l && (List.range ((l + n - 1) / 1024 + 1 - l / 1024)).all fun k =>
    stackUp s (if k = 0 then l else (l / 1024 + k) * 1024)

/-- The answer for an address whose stack is not ready: no trap, the access waits (17 R440, R448). It is no trap code. -/
def stackHeld : Nat := 0x1000

/-- Enabled cores of a cluster (03 R91; 16 R424). -/
def coresIn (s : State) (cl : Nat) : Nat :=
  match s.plate.clusters.find? fun e => e.1 * 16 + e.2.1 == cl with
  | some e => e.2.2
  | none => 0

/-- Core number `c` is enabled (03 R91; 16 R424): a disabled core has no state and no scratchpad (01 R15). -/
def coreEnabled (s : State) (c : Nat) : Bool := decide (c % 32 < coresIn s (c / 32))

/-- The physical core of its die that the repair map assigns to core number `c` (01 R15). -/
def physicalCore (p : Plate) (c : Nat) : Option Nat :=
  match p.clusters.findIdx? fun e => e.1 * 16 + e.2.1 == c / 32 with
  | some i => (p.repair.getD i [])[c % 32]?
  | none => none

/-- The memory location of byte `o` of the scratchpad of core `c`. -/
def scratchLoc (c o : Nat) : Nat := 0x1000000000000 + c * 0x80000 + o

/-! Format windows. -/

/-- The active window whose decoded window holds `pa` (17 R441). -/
def decodedWindow (s : State) (pa : Nat) : Option (Nat × Window) :=
  s.windows.find? fun w => w.2.format == 1 && decide (w.2.dec.toNat ≤ pa)
    && decide (pa < w.2.dec.toNat + 64 * w.2.ngran.toNat)

/-- The active window whose scale window holds `pa` (17 R441). -/
def scaleWindow (s : State) (pa : Nat) : Option (Nat × Window) :=
  s.windows.find? fun w => w.2.format == 1 && decide (w.2.scl.toNat ≤ pa)
    && decide (pa < w.2.scl.toNat + 4 * w.2.ngran.toNat)

/-- The active window whose raw region meets `[lo, hi)`. -/
def rawWindow (s : State) (lo hi : Nat) : Option (Nat × Window) :=
  s.windows.find? fun w => w.2.format == 1 && decide (w.2.raw.toNat < hi)
    && decide (lo < w.2.raw.toNat + 56 * w.2.ngran.toNat)

/-- The home slice of a line: a die and one of its enabled slices, by the hash of 01 R19 on the line's own address (16 R424);
a decoded or a scale line is homed on the die of the raw region (17 R442). -/
def homeSlice (s : State) (pa : Nat) : Nat × Nat :=
  let d :=
    match decodedWindow s pa, scaleWindow s pa with
    | some (_, w), _ => w.raw.toNat / dieSpan
    | none, some (_, w) => w.raw.toNat / dieSpan
    | none, none => pa / dieSpan
  (d, Config.homeSlice (pa / 128) % s.plate.slices.getD d 0)

/-- The 56 raw bytes of granule `g` (12 R316). -/
def granule (s : State) (w : Window) (g : Nat) : List Byte :=
  (List.range 56).map fun i => Tab.get 0 s.mem (w.raw.toNat + 56 * g + i)

/-- A bad granule: a base-3 byte of 243 or more, a pad trit not 0, or byte 54 or 55 not zero (12 R317). -/
def badGranule (r : List Byte) : Bool :=
  (r.take 52).any (fun b => decide (243 ≤ b.toNat)) || decide (2 < (r.getD 51 0).toNat)
    || r.getD 54 0 != 0 || r.getD 55 0 != 0

/-- The T2 code of trit `j` of a granule (12 R315, R317). -/
def tritCode (r : List Byte) (j : Nat) : Nat :=
  match ((r.getD (j / 5) 0).toNat / 3 ^ (j % 5)) % 3 with
  | 0 => 0
  | 1 => 1
  | _ => 3

/-- Decoded byte `i` of a granule (12 R317). -/
def decodedByte (r : List Byte) (i : Nat) : Byte :=
  BitVec.ofNat 8 (tritCode r (4 * i) + 4 * tritCode r (4 * i + 1) + 16 * tritCode r (4 * i + 2)
    + 64 * tritCode r (4 * i + 3))

/-- The byte at an address of the derived range (12 R317). -/
def derivedByte (s : State) (pa : Nat) : Byte :=
  match decodedWindow s pa with
  | some (_, w) => decodedByte (granule s w ((pa - w.dec.toNat) / 64)) ((pa - w.dec.toNat) % 64)
  | none =>
    match scaleWindow s pa with
    | some (_, w) =>
      let o := pa - w.scl.toNat
      if o % 4 < 2 then 0 else (granule s w (o / 4)).getD (50 + o % 4) 0
    | none => 0

/-- The condition of granule `g`: poisoned raw bytes give machine-check poison, a bad granule format-decode poison
(12 R317; 16 R419). -/
def granuleTaint (s : State) (w : Window) (g : Nat) : Taint :=
  if g ≥ w.ngran.toNat then .sound
  else if (List.range 56).any fun i => Tab.get .sound s.taint (w.raw.toNat + 56 * g + i) != .sound then .error
  else if badGranule (granule s w g) then .decode else .sound

/-- The worse of two conditions. -/
def worse (a b : Taint) : Taint :=
  match a, b with
  | .error, _ => .error
  | _, .error => .error
  | .decode, _ => .decode
  | _, .decode => .decode
  | _, _ => .sound

/-- The condition of a derived byte: its 128-byte decoded line, or its scale word (12 R317). -/
def derivedTaint (s : State) (pa : Nat) : Taint :=
  match decodedWindow s pa with
  | some (_, w) =>
    let l := (pa - w.dec.toNat) / 128
    worse (granuleTaint s w (2 * l)) (granuleTaint s w (2 * l + 1))
  | none =>
    match scaleWindow s pa with
    | some (_, w) => granuleTaint s w ((pa - w.scl.toNat) / 4)
    | none => .sound

/-- Records in BADSEEN that a fill of the line holding `pa` decoded a bad granule (12 R317; 17 R441). -/
def noteFill (s : State) (pa : Nat) : State :=
  match decodedWindow s pa with
  | some (i, w) =>
    let l := (pa - w.dec.toNat) / 128
    if [2 * l, 2 * l + 1].any fun g => decide (g < w.ngran.toNat) && badGranule (granule s w g) then
      { s with windows := Tab.set {} i { w with badSeen := true } s.windows }
    else s
  | none =>
    match scaleWindow s pa with
    | some (i, w) =>
      let l := (pa - w.scl.toNat) / 128
      if (List.range 32).any fun k =>
          decide (32 * l + k < w.ngran.toNat) && badGranule (granule s w (32 * l + k)) then
        { s with windows := Tab.set {} i { w with badSeen := true } s.windows }
      else s
    | none => s

/-! Bytes at a place. -/

/-- The byte `i` beyond a place (00 R4). -/
def placeByte (s : State) (p : Place) (i : Nat) : Byte :=
  match p with
  | .ram l => Tab.get 0 s.mem (l + i)
  | .derived a => derivedByte s (a + i)
  | .latch a => ((Tab.get 0 s.hub.latches ((a + i) / 8)) >>> (8 * ((a + i) % 8))).truncate 8
  | .imsic _ => 0
  | .window _ => 0

/-- The condition of byte `i` beyond a place (16 R419). -/
def placeTaint (s : State) (p : Place) (i : Nat) : Taint :=
  match p with
  | .ram l => Tab.get .sound s.taint (l + i)
  | .derived a => derivedTaint s (a + i)
  | _ => .sound

/-- `n` bytes from a place. -/
def readPlace (s : State) (p : Place) (n : Nat) : List Byte := (List.range n).map (placeByte s p)

/-- The first bytes of the decoded lines, or of the scale words, that `n` bytes from a derived address lie in. -/
def derivedSteps (s : State) (a n : Nat) : List Nat :=
  let w := if (decodedWindow s a).isSome then 128 else 4
  (List.range ((a + n - 1) / w + 1 - a / w)).map fun k => if k = 0 then a else (a / w + k) * w

/-- The worst condition among `n` bytes from a place; format decode is looked at once for each decoded line and scale
word. -/
def taintPlace (s : State) (p : Place) (n : Nat) : Taint :=
  match p with
  | .ram _ => if s.taint.isEmpty then .sound else (List.range n).foldl (fun t i => worse t (placeTaint s p i)) .sound
  | .derived a => (derivedSteps s a n).foldl (fun t b => worse t (derivedTaint s b)) .sound
  | _ => .sound

/-- Writes bytes into plain memory, in ascending order. -/
def putMem (m : List Host.Cell) (l : Nat) : List Byte → List Host.Cell
  | [] => m
  | b :: r => putMem (Tab.set 0 l b m) (l + 1) r

/-- The canonical form of memory: addresses strictly rising, and no byte listed that an unlisted address reads as
(log 2). -/
def Memory.wf (m : List Host.Cell) : Bool := Tab.wf 0 m

/-- Clears the poison of every sector wholly inside `[lo, hi)` (16 R419). -/
def clearTaint (t : SMap Taint) (lo hi : Nat) : SMap Taint :=
  t.filter fun e => !(decide (lo ≤ e.1 / 32 * 32) && decide (e.1 / 32 * 32 + 32 ≤ hi))

/-- Marks `n` bytes of DRAM as not written back from the last-level cache; scratchpads have no such bytes (16 R421). -/
def markDirty (m : SMap Bool) (lo n : Nat) : SMap Bool :=
  if lo ≥ 0x1000000000000 then m else (List.range n).foldl (fun m k => Tab.set false (lo + k) true m) m

/-- The bytes that a write of `n` bytes replaces. -/
def replaced (s : State) (l n : Nat) : List Byte := (List.range n).map fun i => Tab.get 0 s.mem (l + i)

/-- A store of bytes at a location of DRAM or a scratchpad, performed as one access: whole sectors lose their poison, others
keep it (16 R419). -/
def writeRam (s : State) (l : Nat) (b : List Byte) : State :=
  { s with
    mem := putMem s.mem l b
    taint := clearTaint s.taint l (l + b.length)
    dirty := markDirty s.dirty l b.length
    journal := s.journal ++ [(l, replaced s l b.length)] }

/-- Bytes stored one after another, each an access of its own (13 R326: the bytes of a job). -/
def writeEach (s : State) (l : Nat) (b : List Byte) : State :=
  let old := replaced s l b.length
  { writeRam s l b with journal := s.journal ++ (List.zip (List.range b.length) old).map fun e => (l + e.1, [e.2]) }

/-- Sets the condition of `n` bytes (09 R221; 16 R420): what jobs have written of their sectors so far is poisoned with them
(16 R419). -/
def setTaint (s : State) (l n : Nat) (t : Taint) : State :=
  { s with
    taint := (List.range n).foldl (fun m i => Tab.set .sound (l + i) t m) s.taint
    jobs := s.jobs.map fun j =>
      { j with landed := j.landed.filter fun e => !(decide (l / 32 ≤ e.1 / 32) && decide (e.1 / 32 ≤ (l + n - 1) / 32)) } }

/-! Translation. -/

/-- The leaf sizes in 4 KiB pages: level 0 one page, level 1 2 MiB, level 2 1 GiB, level 3 512 GiB (15 R381). -/
def levelPages (lv : Nat) : Nat := 512 ^ lv

/-- The permission checks of a leaf for an access (15 R381). -/
def leafAllows (pte : Nat) (m : Mode) (k : Access) : Bool :=
  (m == .system || bitOf pte 4) && bitOf pte 6 &&
    match k with
    | .fetch => bitOf pte 3
    | .load => bitOf pte 1
    | .store => bitOf pte 2 && bitOf pte 7
    | .atomic => bitOf pte 1 && bitOf pte 2 && bitOf pte 7

/-- The page fault of an access (15 R381; 10 R242). -/
def pageFault : Access → Nat
  | .fetch => 0x05
  | .load => 0x06
  | .store => 0x07
  | .atomic => 0x07

/-- A valid entry of the page tables, malformed ones excluded: V set, not W without R, reserved bits, N and PBMT = 3
clear (15 R381). -/
def pteValid (pte : Nat) : Bool :=
  bitOf pte 0 && !(bitOf pte 2 && !bitOf pte 1) && decide (pte / 2 ^ 54 % 128 = 0) && !bitOf pte 63
    && decide (pte / 2 ^ 61 % 4 ≠ 3)

/-- A leaf that a walk has found, its level, and whether it is global (15 R381). -/
structure Leaf where
  pte : Nat
  level : Nat
  glob : Bool
  deriving DecidableEq, Repr

/-- The page-table entry at `a`, or what its read by a walker at core `c` meets (15 R381; 17 R440, R448). -/
def walkRead (s : State) (c : Option Nat) (a : Nat) : Except Nat Nat :=
  if !dramOk s a then .error 0x08
  else if !ramReady s c a 8 then .error stackHeld
  else if taintPlace s (.ram a) 8 ≠ .sound then .error 0x14
  else .ok (leNat (readPlace s (.ram a) 8))

/-- The table walk at core `c` from the table at `base`, with `lv + 1` levels left (15 R381): G of an entry above the leaf,
`g`, makes every mapping below it global. -/
def walk (s : State) (c : Option Nat) (k : Access) (top : Nat) (page : Nat) : Nat → Bool → Nat → Except Nat Leaf
  | 0, g, base =>
    match walkRead s c (base + 8 * (page % 512)) with
    | .error c => .error c
    | .ok pte =>
      if pteValid pte && (bitOf pte 1 || bitOf pte 3) then .ok ⟨pte, 0, g || bitOf pte 5⟩ else .error (pageFault k)
  | lv + 1, g, base =>
    match walkRead s c (base + 8 * (page / 512 ^ (lv + 1) % 512)) with
    | .error c => .error c
    | .ok pte =>
      if !pteValid pte then .error (pageFault k)
      else if bitOf pte 1 || bitOf pte 3 then
        if (pte / 2 ^ 10 % 2 ^ 44) % levelPages (lv + 1) = 0 ∧ lv + 1 ≤ top then .ok ⟨pte, lv + 1, g || bitOf pte 5⟩
        else .error (pageFault k)
      else if bitOf pte 4 || bitOf pte 6 || bitOf pte 7 || decide (pte / 2 ^ 61 % 4 ≠ 0) then .error (pageFault k)
      else walk s c k top page lv (g || bitOf pte 5) (pte / 2 ^ 10 % 2 ^ 44 * 4096)

/-- The address is canonical: the bits above bit 47, or bit 56, copy it (15 R380). -/
def canonical (sv57 : Bool) (va : Nat) : Bool :=
  let w := if sv57 then 57 else 48
  let top := va / 2 ^ (w - 1)
  decide (top = 0) || decide (top + 1 = 2 ^ (64 - (w - 1)))

/-- A cached translation that matches a page of a context (15 R381: a global entry matches every ASID). -/
def tlbFind (l : List TlbEntry) (asid page : Nat) : Option TlbEntry :=
  l.find? fun e => (e.asid == asid || e.glob) && decide (e.page = page)

/-- The translation caches that an agent reaches: its core's and its cluster's (15 R390). -/
def tlbOf (s : State) (a : Agent) : List TlbEntry :=
  match a.core with
  | some c => (s.core c).tlb ++ (s.cluster (c / 32)).tlb
  | none => []

/-- The leaf that serves an access: the walk's, or a cached one that still serves (15 R381; log 7). -/
def leafFor (s : State) (a : Agent) (k : Access) (va : Nat) : Except Nat Leaf :=
  let c := s.context a.asid
  if !c.valid || !canonical c.sv57 va then .error (pageFault k)
  else
    let page := va / 4096
    let fresh := walk s a.core k (if c.sv57 then 3 else 2) page (if c.sv57 then 4 else 3) false (c.root * 4096)
    match tlbFind (tlbOf s a) a.asid page with
    | none => fresh
    | some e =>
      let kept : Leaf := ⟨e.leaf, e.level, e.glob⟩
      if fresh.toOption = some kept then fresh
      else if Config.tlbServes s.n page then .ok kept else fresh

/-- The physical address and page class of an access through page tables (15 R381). -/
def translate (s : State) (a : Agent) (k : Access) (va : Nat) : Except Nat (Nat × PageClass) :=
  match leafFor s a k va with
  | .error c => .error c
  | .ok l =>
    if !leafAllows l.pte a.mode k then .error (pageFault k)
    else
      let span := levelPages l.level * 4096
      .ok (l.pte / 2 ^ 10 % 2 ^ 44 * 4096 / span * span + va % span,
        match l.pte / 2 ^ 61 % 4 with
        | 0 => .pma
        | 1 => .nc
        | _ => .io)

/-- The entries of a cluster's translation cache (01 R16). -/
def clusterTlbSize : Nat := 8192

/-- Records a used translation in the caches of the core and the cluster (15 R381, R390); past the cluster cache's
capacity the entry used least recently leaves it (01 R16; log 7). -/
def noteTlb (s : State) (a : Agent) (k : Access) (va : Nat) : State :=
  match a.core with
  | none => s
  | some c =>
    match leafFor s a k va with
    | .error _ => s
    | .ok l =>
      let e : TlbEntry := ⟨a.asid, va / 4096, l.pte, l.level, l.glob⟩
      let keep (l : List TlbEntry) := e :: l.filter fun o => !(decide (o.asid = e.asid) && decide (o.page = e.page))
      let x := s.core c
      let g := s.cluster (c / 32)
      (s.setCore c { x with tlb := keep x.tlb }).setCluster (c / 32) { g with tlb := (keep g.tlb).take clusterTlbSize }

/-- The place of a physical address, for a device agent (17 R425). -/
def placeOf (s : State) (pa : Nat) : Option Place :=
  if dramOk s pa then some (.ram pa)
  else if 0x20000000000 ≤ pa ∧ pa < 0x23000000000 then some (.latch pa)
  else if 0x40000000000 ≤ pa ∧ pa < 0x50000000000 then
    if (decodedWindow s pa).isSome || (scaleWindow s pa).isSome then some (.derived pa) else none
  else if 0x18000000000 ≤ pa ∧ pa < 0x18000040000 then
    if (pa - 0x18000000000) / 8192 < s.plate.appCores then some (.imsic pa) else none
  else if 0x100000000000 ≤ pa ∧ pa < 0x200000000000 then some (.window pa)
  else none

/-- The page class of a place (07 R184; 17 R425): that of the page's PBMT in DRAM and in the derived range; latches,
interrupt files and PCI Express windows are device-class whatever the page says (13 R337; 17 R457; log 20). -/
def classOf (p : Place) (c : PageClass) : PageClass :=
  match p with
  | .ram _ => c
  | .derived _ => c
  | _ => .io

/-- The raw bytes that `n` bytes from a derived address are decoded from, whole granules of them: location and length
(12 R316, R317). -/
def rawSpan (s : State) (a n : Nat) : Nat × Nat :=
  let granules (w : Window) (lo hi : Nat) : Nat × Nat := (w.raw.toNat + 56 * lo, 56 * (hi + 1 - lo))
  match decodedWindow s a, scaleWindow s a with
  | some (_, w), _ => granules w ((a - w.dec.toNat) / 64) ((a + n - 1 - w.dec.toNat) / 64)
  | none, some (_, w) => granules w ((a - w.scl.toNat) / 4) ((a + n - 1 - w.scl.toNat) / 4)
  | none, none => (a, n)

/-- The stacks behind `n` bytes of a place accept accesses from core `c`, or from the hub die where none is named, and the
link to them is ready (17 R440, R448). -/
def placeReady (s : State) (c : Option Nat) (p : Place) (n : Nat) : Bool :=
  match p with
  | .ram l => ramReady s c l n
  | .derived a => ramReady s c (rawSpan s a n).1 (rawSpan s a n).2
  | _ => true

/-- All of `n` bytes at a place answer: an access may run past the end of a scale window, where nothing does
(17 R425, R441). -/
def wholly (s : State) (p : Place) (n : Nat) : Bool :=
  match p with
  | .derived a => (placeOf s (a + n - 1)).isSome
  | _ => true

/-! Windows and stashes. -/

/-- The stash entry of core `c` that holds scratchpad offset `o` (07 R193). -/
def stashAt (s : State) (c o : Nat) : Option Stash :=
  (s.core c).stash.find? fun e => decide (e.off ≤ o) && decide (o < e.off + e.len)

/-- The physical pages of `[g, g + n)` for a load, or the first problem and its address (07 R193). -/
def pagesOf (s : State) (a : Agent) (g n : Nat) : Except (Nat × Nat) (List Nat) :=
  (List.range ((g + n - 1) / 4096 + 1 - g / 4096)).foldl (fun r k =>
    match r with
    | .error e => .error e
    | .ok l =>
      let va := if k = 0 then g else (g / 4096 + k) * 4096
      match translate s a .load va with
      | .error c => .error (c, va)
      | .ok (pa, _) => .ok (l ++ [pa / 4096])) (.ok [])

/-- The page of a stash entry's global range that offset `o` lies in, counted from its first (07 R193). -/
def stashPage (e : Stash) (o : Nat) : Nat := (e.va.toNat + (o - e.off)) / 4096 - e.va.toNat / 4096

/-- The global byte behind offset `o` of a stash entry, through the translation made for it (07 R193, R194). -/
def stashLoc (e : Stash) (o : Nat) : Nat :=
  ((e.pages.getD (stashPage e o) none).getD 0) * 4096 + (e.va.toNat + (o - e.off)) % 4096

/-- Translates the page behind offset `o` again where an invalidation or a context switch has ended its translation
(07 R196; 16 R415): a page that is no longer present is problem 0x06. Nothing else of the page is judged again: neither its
class nor whether it is writable (the model's choice: log 83). -/
def restash (s : State) (a : Agent) (e : Stash) (o : Nat) : Except Nat Stash :=
  match e.pages.getD (stashPage e o) none with
  | some _ => .ok e
  | none =>
    match translate s a .load (e.va.toNat + (o - e.off)) with
    | .ok (pa, _) => .ok { e with pages := e.pages.set (stashPage e o) (some (pa / 4096)) }
    | .error c => if c = stackHeld then .error c else .error 0x06

/-- The place of `n` bytes behind offset `o` of core `c`'s scratchpad: itself, or the global bytes of a stash line (07
R194). -/
def scratchPlace (s : State) (a : Agent) (k : Access) (c o n : Nat) : Except Nat Place :=
  match stashAt s c o with
  | none => .ok (.ram (scratchLoc c o))
  | some e =>
    if (k = .store ∨ k = .atomic) ∧ e.readonly then .error 0x07
    else
      match restash s a e o with
      | .error c => .error c
      | .ok e =>
        match placeOf s (stashLoc e o) with
        | none => .error 0x08
        | some p =>
          if !wholly s p n then .error 0x08 else if placeReady s a.core p n then .ok p else .error stackHeld

/-- Records the first touch of a stash line, or its becoming dirty (07 R194). -/
def touchStash (s : State) (a : Agent) (k : Access) (c o : Nat) : State :=
  match stashAt s c o with
  | none => s
  | some e =>
    match restash s a e o with
    | .error _ => s
    | .ok e =>
      let l := (o - e.off) / 128
      let st := if k = .load ∧ Tab.get .absent e.lines l ≠ .dirty then LineState.clean else .dirty
      let e := { e with lines := Tab.set .absent l st e.lines }
      let x := s.core c
      s.setCore c { x with stash := x.stash.map fun f => if f.off = e.off then e else f }

/-- The window that holds a virtual address: a core and an offset, or beyond the limit (07 R186). -/
inductive InWindow where
  | no
  | beyond
  | scratch (core off : Nat)
  deriving DecidableEq, Repr

/-- Where a virtual address lies among the windows of its context (07 R186). -/
def windowOf (s : State) (a : Agent) (va : Nat) : InWindow :=
  let c := s.context a.asid
  if !c.valid then .no
  else if c.swbase.toNat ≤ va ∧ va < c.swbase.toNat + 0x100000 then
    match a.core with
    | some k => if va - c.swbase.toNat < 0x80000 then .scratch k (va - c.swbase.toNat) else .beyond
    | none => .beyond
  else if c.cwbase.toNat ≤ va ∧ va < c.cwbase.toNat + 0x2000000 then
    match a.core with
    | some k =>
      let o := va - c.cwbase.toNat
      if o < coresIn s (k / 32) * 0x80000 then .scratch (k / 32 * 32 + o / 0x80000) (o % 0x80000) else .beyond
    | none => .beyond
  else .no

/-- The problems of an access of `n` bytes in one page, in the order of 05 R144 from 0x09 on, without poison; with `mem` a
device-class page is an access fault, as for an atomic (10 R242). -/
def resolveIn (s : State) (a : Agent) (k : Access) (mem : Bool) (va n : Nat) : Except Nat Resolved :=
  match windowOf s a va with
  | .beyond => .error 0x09
  | .scratch c o =>
    if (s.core c).holder ≠ some a.asid ∧ a.core ≠ some c then .error 0x08
    else
      match scratchPlace s a k c o n with
      | .error e => .error e
      | .ok p => .ok ⟨p, .pma⟩
  | .no =>
    match translate s a k va with
    | .error c => .error c
    | .ok (pa, cl) =>
      match placeOf s pa with
      | none => .error 0x08
      | some p =>
        if (mem && classOf p cl == .io) || !wholly s p n then .error 0x08
        else
          match p, k with
          | .derived _, .store => .error 0x0A
          | .derived _, .atomic => .error 0x0A
          | .window _, .load => .error 0x08
          | .window _, .fetch => .error 0x08
          | .latch _, .fetch => .error 0x08
          | .imsic _, .fetch => .error 0x08
          | p, _ => if placeReady s a.core p n then .ok ⟨p, classOf p cl⟩ else .error stackHeld

/-- The problems of an access to the byte at an address, poison apart: an atomic takes no device-class page (05 R144; 10
R242). -/
def resolve (s : State) (a : Agent) (k : Access) (va : Nat) : Except Nat Resolved := resolveIn s a k (k == .atomic) va 1

/-- An entry of a stash once the home slice of a global line has recalled it: a dirty line is written back and is clean (07
R194). -/
def Stash.recalled (e : Stash) (l : Nat) : Stash :=
  { e with lines := e.lines.map fun i =>
      let o := e.off + 128 * i.1
      if i.2 = .dirty ∧ (e.pages.getD (stashPage e o) none).isSome ∧ stashLoc e o / 128 = l / 128 then (i.1, .clean) else i }

/-- No core has a stash. -/
def noStash (s : State) : Bool := s.cores.all fun k => k.2.stash.isEmpty

/-- The home slice recalls the line at a location from every stash, that of core `c` apart, for an agent that reaches it there or
by its global address (07 R194). -/
def recallLine (s : State) (c : Option Nat) (l : Nat) : State :=
  let each (k : Nat × CoreState) : Nat × CoreState :=
    if c = some k.1 then k else (k.1, { k.2 with stash := k.2.stash.map fun e => e.recalled l })
  if noStash s then s else { s with cores := s.cores.map each }

/-- The lines that `n` bytes from a place lie in are recalled; a derived place is read from its raw bytes (07 R194). -/
def recallSpan (s : State) (c : Option Nat) (p : Place) (n : Nat) : State :=
  let lines (l n : Nat) : State :=
    if noStash s then s
    else (List.range ((l + n - 1) / 128 + 1 - l / 128)).foldl (fun s k => recallLine s c (l + 128 * k)) s
  match p with
  | .ram l => lines l n
  | .derived a => lines (rawSpan s a n).1 (rawSpan s a n).2
  | _ => s

/-- The state after an access has used an address: translation caches and stash lines (15 R381; 07 R194). -/
def touch (s : State) (a : Agent) (k : Access) (va : Nat) : State :=
  match windowOf s a va with
  | .scratch c o =>
    let t := touchStash s a k c o
    if (stashAt s c o).isNone then t
    else match scratchPlace s a k c o 1 with | .ok p => recallSpan t (some c) p 1 | .error _ => t
  | .beyond => s
  | .no =>
    let t := noteTlb s a k va
    if noStash s then t
    else
      match translate s a k va with
      | .ok (pa, _) => (match placeOf s pa with | some p => recallSpan t a.core p 1 | none => t)
      | .error _ => t

/-- The poison problem of reading `n` bytes at a place (05 R144 item 6). -/
def poisonCause (s : State) (p : Place) (n : Nat) : Option Nat :=
  match taintPlace s p n with
  | .sound => none
  | .decode => some 0x0B
  | .error => some 0x14

/-- Every problem of a naturally aligned access of `n` bytes, in the order of 05 R144; with `mem` a device-class page is an
access fault (10 R242). -/
def checkIn (s : State) (a : Agent) (k : Access) (mem : Bool) (va n : Nat) : Except Nat Resolved :=
  if va % n ≠ 0 then .error 0x04
  else
    match resolveIn s a k mem va n with
    | .error c => .error c
    | .ok r =>
      if k = .load ∨ k = .atomic then
        match poisonCause s r.place n with
        | some c => .error c
        | none => .ok r
      else .ok r

/-- Every problem of a naturally aligned access (05 R144; 10 R242). -/
def check (s : State) (a : Agent) (k : Access) (va n : Nat) : Except Nat Resolved := checkIn s a k (k == .atomic) va n

/-- The fill that a load of a derived place makes, whether or not it then traps (12 R317). -/
def noteRead (s : State) (r : Except Nat Resolved) : State :=
  match r with
  | .ok ⟨.derived a, _⟩ => noteFill s a
  | _ => s

/-- Sets the pending bit of an interrupt file that a 4-byte store to its first word names (17 R427, R431). -/
def imsicStore (s : State) (pa : Nat) (b : List Byte) : State :=
  if b.length = 4 ∧ pa % 4096 = 0 ∧ 1 ≤ leNat b ∧ leNat b ≤ 255 then
    { s with hub := { s.hub with imsic := Tab.set false ((pa - 0x18000000000) / 4096 * 256 + leNat b) true s.hub.imsic } }
  else s

/-- How a domain of the APLIC takes a source: 0 not at all, else the source mode of its configuration. The machine-level domain
delegates a source to its child by bit 10 (17 R427; log 79). -/
def sourceMode (h : Hub) (machine : Bool) (n : Nat) : Nat :=
  let c := Tab.get 0 h.aplicM.sources n
  if machine then (if c.getLsbD 10 then 0 else c.toNat % 8)
  else if c.getLsbD 10 then (Tab.get 0 h.aplicS.sources n).toNat % 8 else 0

/-- A source becomes pending in a domain. -/
def Aplic.pend (a : Aplic) (n : Nat) : Aplic := { a with pending := sortAsc (distinct (n :: a.pending)) }

/-- Raises a wired source of the APLIC (17 R427): it becomes pending where its configuration takes a rising edge or a high
level (log 79). -/
def raiseAplic (s : State) (n : Nat) : State :=
  let takes (m : Bool) : Bool := sourceMode s.hub m n == 4 || sourceMode s.hub m n == 6
  { s with hub := { s.hub with
    aplic := if s.hub.aplic.contains n then s.hub.aplic else sortAsc (n :: s.hub.aplic)
    aplicM := if takes true then s.hub.aplicM.pend n else s.hub.aplicM
    aplicS := if takes false then s.hub.aplicS.pend n else s.hub.aplicS } }

end Sys2Proof.Machine
end

