-- ==== Sys2Proof/Machine/Qcb.lean ====
section
/-! DEFINITION. Fault records (16 R405, R406), MSIs (17 R432), spool control blocks (10 R254 to R265) and latch stores
(01 R35; 17 R426). -/

namespace Sys2Proof.Machine

/-- The Keel receives a fault record, in the order of arrival (16 R408), stamped with TIME (R405). -/
def pushRecord (s : State) (r : FaultRecord) : State :=
  { s with keel := { s.keel with held := s.keel.held ++ [{ r with time := s.time }] } }

/-- An MSI or completion word that cannot be performed: a KIND 5 record (16 R406). -/
def kind5 (s : State) (addr : Nat) : State :=
  pushRecord s { kind := 5, cause := if addr % 4 ≠ 0 then 0x04 else 0x08, eval := BitVec.ofNat 64 addr }

/-- A KIND 6 record: an uncorrectable error that no instruction is charged with (16 R406, R420). -/
def reportError (s : State) (pa : Nat) : State := pushRecord s { kind := 6, cause := 0x14, eval := BitVec.ofNat 64 pa }

/-- The 64 bytes of a control block (10 R254). -/
def qcbRead (s : State) (q : Nat) : List Byte := readPlace s (.ram q) 64

/-- Replaces `n` bytes of a block from offset `o`. -/
def setField (l : List Byte) (o n v : Nat) : List Byte := l.take o ++ leBytes n v ++ l.drop (o + n)

/-- CHECK of a block: 0xA5C3 XOR halfwords 0 to 30 (10 R254). -/
def qcbCheck (b : List Byte) : Nat :=
  (List.range 31).foldl (fun x i => x ^^^ field b (2 * i) 2) 0xA5C3

/-- The block with CHECK current (10 R258). -/
def qcbSeal (b : List Byte) : List Byte := setField b 62 2 (qcbCheck b)

/-- Writes a block with CHECK current, as one operation at its home (10 R258). It changes fields of the block and does not
store its sectors whole: their poison stays (16 R419). -/
def qcbWrite (s : State) (q : Nat) (b : List Byte) : State := { writeRam s q (qcbSeal b) with taint := s.taint }

/-- A soft error has poisoned a block: no agent receives it as sound (16 R420). -/
def qcbSpoiled (s : State) (q : Nat) : Bool := taintPlace s (.ram q) 64 != .sound

/-- HEAD. -/
def qHead (b : List Byte) : Nat := field b 0 8
/-- TAIL. -/
def qTail (b : List Byte) : Nat := field b 8 8
/-- BASE. -/
def qBase (b : List Byte) : Nat := field b 16 8
/-- FREE. -/
def qFree (b : List Byte) : Nat := field b 24 4
/-- FREE as a number: a doorbell store over slots that were taken and are not yet read lowers it below 0 until they are (10
R254, R259, R265; log 91). -/
def qRoom (b : List Byte) : Int := signed 32 (qFree b)
/-- RESVD. -/
def qResvd (b : List Byte) : Nat := field b 28 4
/-- LOGCAP's byte. -/
def qLogcap (b : List Byte) : Nat := field b 32 1
/-- STAT. -/
def qStat (b : List Byte) : Nat := field b 33 1
/-- ESIZE. -/
def qEsize (b : List Byte) : Nat := field b 34 2
/-- OWNER. -/
def qOwner (b : List Byte) : Nat := field b 36 2
/-- UNNOT. -/
def qUnnot (b : List Byte) : Nat := field b 56 4
/-- The capacity 2^LOGCAP. -/
def qCap (b : List Byte) : Nat := 2 ^ (qLogcap b % 32)
/-- TAIL − HEAD, modulo 2^64. -/
def qFill (b : List Byte) : Nat := (qTail b + 2 ^ 64 - qHead b) % 2 ^ 64

/-- The block passes the checks of item 3 of 10 R258. -/
def qcbOk (b : List Byte) : Bool :=
  !bitOf (qStat b) 0 && decide (field b 62 2 = qcbCheck b) && decide (qLogcap b ≤ 24) && decide (qFill b ≤ qCap b)
    && decide (qEsize b % 4 = 0) && decide (4 ≤ qEsize b) && decide (qEsize b ≤ 256)

/-- Poisons a block: POISON set and CHECK recomputed, no other byte changed (10 R258). -/
def qcbPoison (s : State) (q : Nat) : State :=
  let b := qcbRead s q
  qcbWrite s q (setField b 33 1 (qStat b ||| 1))

/-- A block that a soft error has poisoned is found by an agent that is no hart: a KIND 6 record tells of it, once, and the block is
poisoned as one that fails its checks is (16 R420; the model's choice: log 91). -/
def reportSpoiled (s : State) (q : Nat) : State := if bitOf (qStat (qcbRead s q)) 0 then s else reportError (qcbPoison s q) q

/-- The launch spool registered for a control block (17 R430). -/
def lspoolAt (s : State) (q : Nat) : Option LaunchSpool := s.keel.spools.find? fun l => decide (l.qcb = q)

/-- The die that is the home of a DRAM address (17 R438). -/
def dieOf (pa : Nat) : Nat := pa / dieSpan

/-- The die of an address is gated or waking, so doorbells to it are held (01 R35; 17 R447). -/
def dieAsleep (s : State) (pa : Nat) : Bool :=
  s.hub.gatedDies.contains (dieOf pa) || s.hub.wakingDies.contains (dieOf pa)

/-- Starts the wake sequence of a gated die, whose stacks leave self-refresh and make their checks (02 R66). -/
def wakeDie (s : State) (d : Nat) : State :=
  if s.hub.gatedDies.contains d then
    { s with hub := { s.hub with
        gatedDies := s.hub.gatedDies.filter fun e => e != d
        checking := s.hub.checking ++ s.plate.hbm.filter fun k => k / 3 == d
        wakingDies := sortAsc (d :: s.hub.wakingDies) } }
  else s

/-- Starts the wake sequence of a gated cluster (02 R66). -/
def wakeCluster (s : State) (c : Nat) : State :=
  let x := s.cluster c
  if x.gated then s.setCluster c { x with gated := false, waking := true } else s

/-- A store to DRAM by an agent other than a hart or a job: it waits while a stack that it reaches is not ready (17 R440,
R448). -/
def homeStore (s : State) (l : Nat) (b : List Byte) : State :=
  if ramReady s none l b.length then writeRam (recallSpan s none (.ram l) b.length) l b
  else { s with hub := { s.hub with heldStores := s.hub.heldStores ++ [(l, b)] } }

/-- The stores that waited for a stack are performed once it is ready, in the order of their arrival (17 R440). -/
def releaseStores (s : State) : State :=
  s.hub.heldStores.foldl (fun s e => homeStore s e.1 e.2) { s with hub := { s.hub with heldStores := [] } }

/-- The cluster that the doorbell of the block at `q` belongs to is gated or waking (01 R35; log 71). -/
def doorbellCluster (s : State) (q : Nat) : Option Nat :=
  (s.clusters.find? fun e => (e.2.gated || e.2.waking) && decide (Config.doorbellCluster q = e.1)).map (·.1)

/-- A doorbell of the block at `q` is held in its latch: the block's home die or the doorbell's cluster is gated or waking
(01 R35), the stack of the block is not ready (17 R448), or the block is a launch spool's and the Keel restarts (14 R373). The
spec maps no spool to a cluster: the model leaves the cluster open, and takes the home die of the block as the doorbell's die
(log 71). -/
def doorbellHeld (s : State) (q : Nat) : Bool :=
  dieAsleep s q || (doorbellCluster s q).isSome || !stackReady s q || (!s.keel.up && (lspoolAt s q).isSome)

/-- A held doorbell starts the wake sequences of its die and its cluster (01 R35; 02 R66). -/
def wakeFor (s : State) (q : Nat) : State :=
  match doorbellCluster s q with
  | some c => wakeCluster (wakeDie s (dieOf q)) c
  | none => wakeDie s (dieOf q)

/-- The root port behind an address of the PCI Express windows (17 R425). -/
def windowRoot (pa : Nat) : Nat := (pa - 0x100000000000) / 0x20000000000

/-- The number of ports that a root port is: 1, or the 2 or 4 that it is bifurcated to (17 R434). -/
def portCount (h : Hub) (j : Nat) : Nat := Tab.get 1 h.splits j

/-- The word of ECAM space that holds offset `o` of the configuration space of port `k` of root port `j`, which is function 0 of
device `k` of its bus 0 (17 R427, R434; log 79). -/
def configWordAt (j k o : Nat) : Nat := (j * 0x10000000 + k * 0x8000 + o) / 4

/-- The port of the 32 that an address of the PCI Express windows belongs to (17 R425, R434): the root port's own, or, where it
is bifurcated, the first whose prefetchable memory range holds the address, or else its first (log 79). -/
def windowPort (h : Hub) (pa : Nat) : Nat :=
  let j := windowRoot pa
  let reg (k o : Nat) : Nat := (Tab.get 0 h.config (configWordAt j k o)).toNat
  let low (k : Nat) : Nat := reg k 0x28 * 2 ^ 32 + reg k 0x24 % 2 ^ 16 / 16 * 2 ^ 20
  let high (k : Nat) : Nat := reg k 0x2C * 2 ^ 32 + reg k 0x24 / 2 ^ 20 * 2 ^ 20 + 2 ^ 20
  let holds (k : Nat) : Bool := decide (low k ≤ pa) && decide (pa < high k)
  4 * j + (if portCount h j = 1 then 0 else ((List.range (portCount h j)).find? holds).getD 0)

/-- A store to a PCI Express window is dropped: its root port logs the error, and APLIC source 4 is raised (17 R457). -/
def dropWindow (s : State) (pa : Nat) : State :=
  let s := raiseAplic s 4
  { s with hub := { s.hub with aer := s.hub.aer ||| BitVec.ofNat 32 (2 ^ windowPort s.hub pa) } }

/-- A store that is an MSI (17 R432): performed as an ordinary 4-byte store, or reported by a KIND 5 record. -/
def sendMsi (s : State) (addr data : Nat) : State :=
  if addr % 4 ≠ 0 then kind5 s addr
  else
    match placeOf s addr with
    | some (.ram l) => homeStore s l (leBytes 4 data)
    | some (.imsic a) => imsicStore s a (leBytes 4 data)
    | some (.latch _) => s
    | some (.window a) => dropWindow s a
    | some (.derived _) => kind5 s addr
    | none => kind5 s addr

/-- An MSI to an address can be performed now: the stack that it reaches is ready (17 R440). -/
def msiReady (s : State) (addr : Nat) : Bool :=
  match placeOf s addr with
  | some (.ram l) => decide (addr % 4 ≠ 0) || ramReady s none l 4
  | _ => true

/-- An MSI of the spool whose block lies at `key`, or of the watch element that `key` names, is sent. It may wait to be
performed: behind those of its spool or element that were sent before it, for its stack, or with nothing between (20 R451; 17
R440; log 3). -/
def queueMsi (s : State) (key addr data : Nat) : State :=
  if s.hub.msiLag || (s.hub.msis.any fun m => m.1 == key) || !msiReady s addr then
    { s with hub := { s.hub with msis := s.hub.msis ++ [(key, addr, data)] } }
  else sendMsi s addr data

/-- The key of watch element `id` among those that send MSIs; a control block's is a multiple of 64. -/
def watchKey (id : Nat) : Nat := 64 * id + 1

/-- Sends a spool's MSI and clears UNNOT, in one operation (10 R264). -/
def notifyNow (s : State) (q : Nat) : State :=
  let b := qcbRead s q
  queueMsi (qcbWrite s q (setField b 56 4 0)) q (field b 48 8) (field b 44 4)

/-- The `k`-th MSI on its way is performed, unless an earlier one of its spool or element is on its way too, or its stack is not
ready (20 R451; 17 R440). -/
def performMsi (s : State) (k : Nat) : State :=
  match s.hub.msis[k]? with
  | none => s
  | some m =>
    if ((s.hub.msis.take k).any fun e => e.1 == m.1) || !msiReady s m.2.1 then s
    else sendMsi { s with hub := { s.hub with msis := s.hub.msis.eraseIdx k } } m.2.1 m.2.2

/-- Sends the MSI when NTHR is not 0 and UNNOT has reached it (10 R264). -/
def notifyThreshold (s : State) (q : Nat) : State :=
  let b := qcbRead s q
  if field b 38 2 ≠ 0 ∧ field b 38 2 ≤ qUnnot b then notifyNow s q else s

/-- The packets of a launch spool that are taken and not yet dispatched or refused, in spool order (02 R51; 11 R284). -/
def windowPackets (s : State) (num : Nat) : List Packet :=
  s.keel.packets.filter fun p => decide (p.lspool = num) && (p.phase == .held || p.phase == .window)

/-- One tail store has revealed the packets from index `lo` to `hi` of a launch spool: the Keel takes them first, where its window
has room (18 R449). -/
def noteBatch (s : State) (q lo hi : Nat) : State :=
  if (lspoolAt s q).isNone then s
  else { s with keel := { s.keel with spools := s.keel.spools.map fun l =>
    if l.qcb = q ∧ (windowPackets s l.num).length < 8 then { l with batches := l.batches ++ [(lo, hi)] } else l } }

/-- Applies the latched tail `v` to a block (10 R265): TAIL is `v` where that is greater, and FREE and UNNOT change by the slots
it adds. Slots below the old TAIL that an instruction has reserved and not yet written are not takeable before it has: R265
marks every slot below the new TAIL committed, R260 has the data of a slot always visible to its taker, and the model keeps the
second (the model's choice: log 91). A block that a soft error has poisoned is not read (16 R420). -/
def applyTail (s : State) (q v : Nat) : State :=
  let b := qcbRead s q
  if qcbSpoiled s q then reportSpoiled s q
  else if !qcbOk b then s
  else if v ≤ qTail b then s
  else if qCap b < v - qHead b then qcbPoison s q
  else
    let b := setField b 24 4 (qFree b + 2 ^ 32 - (v - qTail b))
    let b := setField b 56 4 (qUnnot b + (v - qTail b))
    let b := setField b 28 4 0
    notifyThreshold (qcbWrite (recallLine (noteBatch s q (qTail (qcbRead s q)) v) none q) q (setField b 8 8 v)) q

/-- Applies a head latch store of `v` to a block (10 R265). -/
def applyHead (s : State) (q v : Nat) : State :=
  let b := qcbRead s q
  if qcbSpoiled s q then reportSpoiled s q
  else if !qcbOk b then s
  else
    let h := max (qHead b) (min v (qTail b))
    qcbWrite (recallLine s none q) q (setField (setField b 24 4 (qFree b + (h - qHead b))) 0 8 h)

/-- A launch spool that is being removed leaves once HEAD equals TAIL (17 R430); its number stays its own while its context
lives (16 R403). -/
def settleRemoval (s : State) (q : Nat) : State :=
  match lspoolAt s q with
  | none => s
  | some l =>
    let b := qcbRead s q
    if l.removing ∧ !qcbSpoiled s q ∧ qHead b = qTail b then
      { s with keel := { s.keel with
        spools := s.keel.spools.filter fun e => e.num != l.num
        retired := s.keel.retired ++ [(l.num, q, qOwner b)] } }
    else s

/-- A head latch store, after which a launch spool may have been emptied (10 R265; 17 R430). -/
def headStore (s : State) (q v : Nat) : State := settleRemoval (applyHead s q v) q

/-- The tails and heads held in the latches of the blocks that `mine` names are applied, the tails first, where nothing holds
them any more (01 R35; 02 R66; 17 R426, R448). -/
def applyLatches (s : State) (mine : Nat → Bool) : State :=
  let pass (tail : Bool) (s : State) (e : Nat × Word) : State :=
    let k := e.1 * 8 - 0x20000000000
    let q := k / 16 * 64
    let v := (Tab.get 0 s.hub.latches e.1).toNat
    if !mine q || doorbellHeld s q then s
    else if k % 16 = 0 then
      if tail && (bitOf (qStat (qcbRead s q)) 1 || (lspoolAt s q).isSome) then applyTail s q v else s
    else if !tail && bitOf (qStat (qcbRead s q)) 1 then headStore s q v else s
  s.hub.latches.foldl (pass false) (s.hub.latches.foldl (pass true) s)

/-- A store of `v` to the latch at `pa` (01 R35; 10 R265; 17 R426, R430): the latch keeps the greatest value, a tail is
applied or held, and a head store applies its own value, or is held, and the latch's value is applied later. A tail at or below
TAIL changes nothing (log 91). -/
def latchStore (s : State) (pa : Nat) (v : Word) : State :=
  let k := pa - 0x20000000000
  let q := k / 16 * 64
  let b := qcbRead s q
  if !qcbSpoiled s q && bitOf (qStat b) 0 then s
  else
    let top := max (Tab.get 0 s.hub.latches (pa / 8)).toNat v.toNat
    let s := { s with hub := { s.hub with latches := Tab.set 0 (pa / 8) (BitVec.ofNat 64 top) s.hub.latches } }
    if k % 16 = 0 then
      if bitOf (qStat b) 1 || (lspoolAt s q).isSome then
        if doorbellHeld s q then wakeFor s q else applyTail s q top
      else s
    else if bitOf (qStat b) 1 then
      if doorbellHeld s q then wakeFor s q else headStore s q v.toNat
    else s

/-- A store of bytes at a place: memory, a latch, an interrupt file, or a PCI Express window, which drops it
(17 R426, R427, R457). -/
def storePlace (s : State) (p : Place) (b : List Byte) : State :=
  match p with
  | .ram l => writeRam s l b
  | .derived _ => s
  | .latch a => if b.length = 8 ∧ a % 8 = 0 then latchStore s a (leWord b) else s
  | .imsic a => imsicStore s a b
  | .window a => dropWindow s a

/-- A store by an agent that is no hart and no job, which has found its place ready: its lines are recalled from stashes (07
R194). -/
def agentStore (s : State) (p : Place) (b : List Byte) : State := storePlace (recallSpan s none p b.length) p b

end Sys2Proof.Machine
end

