-- ==== Sys2Proof/Machine/Ops.lean ====
section
/-! DEFINITION. The shared operations of a hart: register access (03 R69, R70), packets (02 R46), claims (03 R68),
saving and restoring a hart (16 R412, R414), taking a trap and returning from one (16 R400 to R404; 10 R274), the
transfer of control (04 R100 to R102) and the end-of-body test (05 R136 to R139). -/

namespace Sys2Proof.Machine

/-- The outcome of a step of the Poquel. -/
abbrev Res := Host.Outcome State Fault Refusal

/-! Registers. -/

/-- Reads s0 to s31; s0 reads zero (03 R69). -/
def Hart.readS (x : Hart) (r : Reg) : Word := if r = 0 then 0 else Tab.get 0 x.s r.toNat
/-- Writes s0 to s31; a write to s0 is discarded (03 R69). A register written whole loses its poison (16 R419). -/
def Hart.writeS (x : Hart) (r : Reg) (v : Word) : Hart :=
  if r = 0 then x
  else { x with
    s := Tab.set 0 r.toNat v x.s
    spoiled := { x.spoiled with s := x.spoiled.s &&& ~~~(1#32 <<< r.toNat) } }
/-- Reads f0 to f15 as they stand (03 R70). -/
def Hart.readF (x : Hart) (r : Reg) : Word := Tab.get 0 x.f r.toNat
/-- Writes f0 to f15, all 64 bits (03 R70), and the register loses its poison (16 R419). -/
def Hart.writeF (x : Hart) (r : Reg) (v : Word) : Hart :=
  { x with
    f := Tab.set 0 r.toNat v x.f
    spoiled := { x.spoiled with f := x.spoiled.f &&& ~~~(1#16 <<< r.toNat) } }
/-- The poison of the parts `l` of register, slot or bank `r` is gone from a table. -/
def unspoil (m : SMap Bits) (r : Nat) (l : List Nat) : SMap Bits :=
  Tab.set [] r ((Tab.get [] m r).filter fun e => !l.contains e.1) m
/-- Elements `l` of vector register `r` are written whole (16 R419). -/
def Hart.cleanV (x : Hart) (r : Nat) (l : List Nat) : Hart :=
  { x with spoiled := { x.spoiled with v := unspoil x.spoiled.v r l } }
/-- Bits `l` of mask register `r` are written (16 R419). -/
def Hart.cleanM (x : Hart) (r : Nat) (l : List Nat) : Hart :=
  { x with spoiled := { x.spoiled with m := unspoil x.spoiled.m r l } }
/-- The mask registers take the bits that a chain group or an instruction sets (06 R166, R170). -/
def commitMasks (x : Hart) (held : SMap Bits) (wrote : SMap Bits) : Hart :=
  wrote.foldl (fun x e => x.cleanM e.1 (e.2.map (·.1))) { x with m := held.foldl (fun m e => Tab.set [] e.1 e.2 m) x.m }
/-- Sectors `l` of operand slot `n` are written whole (16 R419). -/
def Hart.cleanSlot (x : Hart) (n : Nat) (l : List Nat) : Hart :=
  { x with spoiled := { x.spoiled with slots := unspoil x.spoiled.slots n l } }
/-- Rows `l` of accumulator bank `b` are written whole (16 R419). -/
def Hart.cleanBank (x : Hart) (b : Nat) (l : List Nat) : Hart :=
  { x with spoiled := { x.spoiled with banks := unspoil x.spoiled.banks b l } }
/-- A copy token (03 R75). -/
def Hart.token (x : Hart) (k : Nat) : Token := Tab.get .idle x.tokens k
/-- Changes a copy token. -/
def Hart.setToken (x : Hart) (k : Nat) (t : Token) : Hart := { x with tokens := Tab.set .idle k t x.tokens }

/-! The queues of a hart's streams. -/

/-- The location behind a place: physical addresses, and scratchpads above them. -/
def Place.loc (p : Place) : Nat :=
  match p with
  | .ram l => l
  | .derived a => a
  | .latch a => a
  | .imsic a => a
  | .window a => a

/-- Clamps to −(2^47 − 1) to 2^47 − 1, and whether it clamped (08 R205; 12 R318). -/
def sat48 (v : Int) : Int × Bool :=
  if v < -140737488355327 then (-140737488355327, true)
  else if 140737488355327 < v then (140737488355327, true)
  else (v, false)

/-- A bank and its clamping, from an image: −2^47 reads as −(2^47 − 1) (08 R209; 12 R318). -/
def bankOfImage (l : List Byte) : SMap (BitVec 48) × Bool :=
  (List.range 4096).foldr (fun i r =>
    let c := sat48 (signed 48 (field l (6 * i) 6))
    (if c.1 = 0 then r.1 else (i, BitVec.ofInt 48 c.1) :: r.1, r.2 || c.2)) ([], false)

/-- The hart after a load has found bytes `b`. -/
def landLoad (x : Hart) (p : Pending) (b : List Byte) : Hart :=
  match p with
  | .toScalar _ r n sign => x.writeS r (if sign then BitVec.ofInt 64 (signed (8 * n) (leNat b)) else leWord b)
  | .toFp _ r _ high => x.writeF r (high ||| leWord b)
  | .toElement _ r t n =>
    ({ x with v := Tab.set [] r (Tab.putBytes (Tab.get [] x.v r) (n * t) b) x.v } : Hart).cleanV r [t]
  | _ => x

/-- Sets bits of a mask register; writes to m0 are discarded (03 R72). -/
def setMask (x : Hart) (m : Nat) (l : List (Nat × Bool)) : Hart :=
  if m = 0 then x
  else ({ x with m := Tab.set [] m (Tab.sets false l (Tab.get [] x.m m)) x.m } : Hart).cleanM m (l.map (·.1))

/-- Where an access of a queue lies, and its bytes. -/
def Pending.span (p : Pending) : Nat × Nat :=
  match p with
  | .store q b => (q.loc, b.length)
  | .toScalar q _ n _ => (q.loc, n)
  | .toFp q _ n _ => (q.loc, n)
  | .toElement q _ _ n => (q.loc, n)
  | .toSlot q _ _ n => (q.loc, n)
  | .toBank q _ _ => (q.loc, 1)
  | .atomic q _ n _ _ => (q.loc, n)
  | .unlock q _ => (q.loc, 8)
  | .lock q _ _ _ _ => (q.loc, 8)
  | .commit q _ _ => (q, 64)
  | .freeSlots q _ => (q, 64)
  | .cover l => (l, 32)

/-- The place of a load of a queue, none for what writes. -/
def Pending.source (p : Pending) : Option Place :=
  match p with
  | .toScalar q _ _ _ => some q
  | .toFp q _ _ _ => some q
  | .toElement q _ _ _ => some q
  | .toSlot q _ _ _ => some q
  | .toBank q _ _ => some q
  | _ => none

/-- A lock word held by hart `h` of a context (07 R190). -/
def lockHeldBy (asid h w : Nat) : Bool :=
  bitOf w 63 && decide (w / 2 ^ 32 % 2 ^ 16 = asid) && decide (w % 2 ^ 16 = h)

/-- A lock word released (07 R192). -/
def lockFreed (w : Nat) : Nat := w / 2 ^ 48 % 2 ^ 15 * 2 ^ 48 + w / 2 ^ 16 % 2 ^ 16 * 2 ^ 16

/-- The release of the lock word at a place, where hart `h` of a context holds it (07 R192). -/
def unlockAt (s : State) (q : Place) (asid h : Nat) : State :=
  let w := leNat (readPlace s q 8)
  if lockHeldBy asid h w then storePlace s q (leBytes 8 (lockFreed w)) else s

/-- A lock word with HELD set for hart `h` of a context, other bits preserved (07 R190, R191). -/
def lockWord (asid h w : Nat) : Nat :=
  2 ^ 63 + w / 2 ^ 48 % 2 ^ 15 * 2 ^ 48 + asid % 2 ^ 16 * 2 ^ 32 + w / 2 ^ 16 % 2 ^ 16 * 2 ^ 16 + h % 2 ^ 16

/-- The Keel records as suspended the hart that a lock word names (07 R191; 14 R367). -/
def ownerSuspended (s : State) (w : Nat) : Bool :=
  s.keel.saved.any fun r => decide (r.hartid = w % 2 ^ 16) && decide (r.hart.asid = w / 2 ^ 32 % 2 ^ 16)

/-- The attempt of element `t` of a `vlock` on the lock word at a place (07 R191). -/
def lockAt (s : State) (q : Place) (asid h md ms t : Nat) : State :=
  let w := leNat (readPlace s q 8)
  let mine := lockHeldBy asid h w
  let s' := if bitOf w 63 then s else storePlace s q (leBytes 8 (lockWord asid h w))
  s'.setHart h (setMask (setMask (s'.hart h) md [(t, !bitOf w 63 || mine)]) ms
    [(t, bitOf w 63 && !mine && ownerSuspended s w)])

/-- Slots of a spool that were reserved and written are committed: its MSI may be due (10 R259, R264). -/
def commitSlots (s : State) (q n : Nat) : State :=
  let b := qcbRead s q
  if qcbSpoiled s q then reportSpoiled s q
  else notifyThreshold (qcbWrite s q (setField (setField b 28 4 (qResvd b - n)) 56 4 (qUnnot b + n))) q

/-- Slots of a spool that were taken and read are free (10 R259); a launch spool may be empty (17 R430). -/
def freeTaken (s : State) (q n : Nat) : State :=
  let b := qcbRead s q
  if qcbSpoiled s q then reportSpoiled s q else settleRemoval (qcbWrite s q (setField b 24 4 (qFree b + n))) q

/-- A byte of a bank image arrives: with the last of them the bank takes the image (08 R209; 13 R326). -/
def landImage (s : State) (h bank k : Nat) (b : Byte) : State :=
  let x := s.hart h
  match x.image with
  | none => s
  | some (left, m) =>
    let m := Tab.set 0 k b m
    if 1 < left then s.setHart h { x with image := some (left - 1, m) }
    else
      let r := bankOfImage (Tab.bytes m 0 24576)
      let c := s.core (coreOf h)
      (s.setHart h ({ x with image := none }.cleanBank bank (List.range 64))).setCore (coreOf h) { c with
        banks := Tab.set [] bank r.1 c.banks
        bankOvf := if r.2 then Tab.set false bank true c.bankOvf else c.bankOvf }

/-- The bytes of a row arrive in an operand slot of hart `h` (08 R203, R204). -/
def landRow (s : State) (h slot start : Nat) (b : List Byte) : State :=
  let c := s.core (coreOf h)
  (s.setHart h ((s.hart h).cleanSlot slot ((List.range (b.length / 32)).map (start / 32 + ·)))).setCore (coreOf h)
    { c with slots := Tab.set [] slot (Tab.putBytes (Tab.get [] c.slots slot) start b) c.slots }

/-- A stream's logical time rises with each access that it performs (13 R328). -/
def Hart.tick (x : Hart) (vector : Bool) (n : Nat) : Hart :=
  if vector then { x with vectorTime := x.vectorTime + n } else { x with scalarTime := x.scalarTime + n }

/-- One access of a queue is performed at its home (13 R324). -/
def performOne (s : State) (h : Nat) (vector : Bool) (p : Pending) : State :=
  let s := if (s.hart h).run = .free then s else s.setHart h ((s.hart h).tick vector 1)
  match p with
  | .store q b => storePlace s q b
  | .atomic q op n v old =>
    let w := leNat (readPlace s q n)
    let r := atomicOp op n w v
    let s := storePlace s q (leBytes n r.1)
    let x := s.hart h
    let x := match old with | some e => landLoad x (.toElement q e.1 e.2 n) (leBytes n w) | none => x
    s.setHart h { x with fflags := x.fflags ||| r.2 }
  | .unlock q asid => unlockAt s q asid h
  | .lock q asid md ms t => lockAt s q asid h md ms t
  | .commit q _ n => commitSlots s q n
  | .freeSlots q n => freeTaken s q n
  | .toSlot q slot start n => landRow s h slot start (readPlace s q n)
  | .toBank q bank k => landImage s h bank k (placeByte s q 0)
  | .cover l => { s with taint := clearTaint s.taint l (l + 32) }
  | p => s.setHart h (landLoad (s.hart h) p (readPlace s (p.source.getD (.ram 0)) p.span.2))

/-- The queue of a stream. -/
def Hart.queue (x : Hart) (vector : Bool) : List (List Pending) := if vector then x.vectorQueue else x.scalarQueue
/-- Replaces the queue of a stream. -/
def Hart.setQueue (x : Hart) (vector : Bool) (q : List (List Pending)) : Hart :=
  if vector then { x with vectorQueue := q } else { x with scalarQueue := q }

/-- The first `n` accesses in the vector, or the scalar, queue of hart `h` are performed, in program order (13 R324). -/
def performFirst (s : State) (h : Nat) (vector : Bool) (n : Nat) : State :=
  let x := s.hart h
  let q := x.queue vector
  if (q.take n).flatten.isEmpty then s
  else (q.take n).flatten.foldl (fun s p => performOne s h vector p) (s.setHart h (x.setQueue vector (q.drop n)))

/-- Every access in a queue of hart `h` is performed, in program order (13 R324). -/
def performQueue (s : State) (h : Nat) (vector : Bool) : State := performFirst s h vector ((s.hart h).queue vector).length

/-- A job waits at the head of its hart's store queue: jobs before it occupy the core's four channels, or the stores that
its hart left behind it wait with it (09 R218). -/
def jobBehind (s : State) (j : Job) : Bool :=
  !j.started && (!j.behind.isEmpty
    || decide (4 ≤ (s.jobs.filter fun e => decide (coreOf e.hart = coreOf j.hart) && decide (e.id < j.id)).length))

/-- A job of hart `h` waits at the head of its store queue, and what follows it there waits behind it (09 R218). -/
def storeQueueHeld (s : State) (h : Nat) : Bool := s.jobs.any fun j => decide (j.hart = h) && jobBehind s j

/-- An access of a queue that is a store, or what waits for one. -/
def isStore (l : List Pending) : Bool := l.any fun p => p.source.isNone

/-- The accesses at the head of hart `h`'s vector queue that wait behind no job: all, or those before the first store
(09 R218). -/
def freeLength (s : State) (h : Nat) : Nat :=
  let q := (s.hart h).vectorQueue
  if storeQueueHeld s h then (q.takeWhile fun l => !isStore l).length else q.length

/-- A queued access that writes a register of its hart. -/
def Pending.hasResult (p : Pending) : Bool :=
  match p with
  | .atomic .. => true
  | .lock .. => true
  | p => p.source.isSome

/-- The accesses of hart `h`'s vector queue up to the last that writes a register of the hart. -/
def resultLength (x : Hart) : Nat :=
  x.vectorQueue.length - (x.vectorQueue.reverse.takeWhile fun l => !l.any Pending.hasResult).length

/-- Every queued access of hart `h` is performed, but for the stores that wait behind a job (09 R218). -/
def performHart (s : State) (h : Nat) : State :=
  let s := performQueue s h false
  performFirst s h true (freeLength s h)

/-- The committed instructions of hart `h` complete: its scalar accesses are performed, and of its vector accesses those that write
its registers, with the stores among them (16 R410, R416). -/
def completeResults (s : State) (h : Nat) : State :=
  let s := performQueue s h false
  performFirst s h true (min (freeLength s h) (resultLength (s.hart h)))

/-- Every queued access of the device is performed, but for the stores that wait behind jobs: what ends translations, or hands
a scratchpad over, waits for them (15 R385, R390). -/
def performAll (s : State) : State := s.harts.foldl (fun s e => performHart s e.1) s

/-- The stores behind a job that gets its channel, or leaves its unit, are performed (09 R218). -/
def releaseBehind (s : State) (j : Job) : State :=
  j.behind.flatten.foldl (fun s p => performOne s j.hart true p)
    (if j.behind.isEmpty then s
    else { s with jobs := s.jobs.map fun e => if e.id = j.id then { e with behind := [] } else e })

/-! Accesses before their turn (13 R324, R325, R328, R333; log 4). -/

/-- An item of a stream's. -/
def Early.of (e : Early) (h : Nat) (vector : Bool) : Bool := decide (e.hart = h) && e.vector == vector

/-- What a stream has performed before its turn and its next accesses may still be, in program order. -/
def early (s : State) (h : Nat) (vector : Bool) : List Ahead :=
  (s.ahead.filter fun e => e.of h vector && e.due).map (·.item)

/-- Replaces that. -/
def setEarly (s : State) (h : Nat) (vector : Bool) (l : List Ahead) : State :=
  if s.ahead.isEmpty && l.isEmpty then s
  else { s with ahead := (s.ahead.filter fun e => !(e.of h vector && e.due)) ++ l.map fun i => ⟨h, vector, i, true⟩ }

/-- An item of a stream that has made an access it had not performed before: a read serves it no more, and a store cannot come
to be its next access any more. -/
def Early.passed (e : Early) : Option Early :=
  match e.item with
  | .wrote .. => some { e with due := false }
  | _ => none

/-- A stream makes an access that it has not performed before (13 R324 item 1). -/
def dropEarly (s : State) (h : Nat) (vector : Bool) : State :=
  if s.ahead.isEmpty then s
  else { s with ahead := s.ahead.filterMap fun e => if e.of h vector then e.passed else some e }

/-- The stream of the executing hart makes such an access. -/
def freshAccess (s : State) (vector : Bool) : State := dropEarly s s.cur vector

/-- A store that a vector stream has performed before its turn can no longer be the next that its instructions make: a job before
it waits at the head of the store queue (09 R218). -/
def failStores (s : State) (h : Nat) : State :=
  if s.ahead.isEmpty then s
  else { s with ahead := s.ahead.map fun e =>
    match e.item with
    | .wrote .. => if e.of h true then { e with due := false } else e
    | _ => e }

/-- The first reads of a job that a vector stream has made, and what stays of its items: a store before them has its turn
first. -/
def takeJobReads : List Ahead → List Host.Cell × List Ahead
  | [] => ([], [])
  | .wrote l b o :: r => ([], .wrote l b o :: r)
  | .job c :: r => (c ++ (takeJobReads r).1, (takeJobReads r).2)
  | .read u e c :: r => ((takeJobReads r).1, .read u e c :: (takeJobReads r).2)

/-- A job or a packet of a context begins or ends: the first reads of jobs that its harts have made, which must follow every
earlier job and packet that they have an edge to, are made again (13 R333; 02 R53). -/
def dropJobReads (s : State) (asid : Nat) : State :=
  if s.ahead.isEmpty then s
  else { s with ahead := s.ahead.filter fun e =>
    match e.item with
    | .job _ => (s.hart e.hart).asid != asid
    | _ => true }

/-- What hart `h` has performed before its turn ends with its work. -/
def endEarly (s : State) (h : Nat) : State := dropEarly (dropEarly s h false) h true

/-- The bytes of memory behind `n` bytes of a place, none for what is not memory. -/
def memSpan (s : State) (p : Place) (n : Nat) : Option (Nat × Nat) :=
  match p with
  | .ram l => some (l, n)
  | .derived a => some (rawSpan s a n)
  | _ => none

/-- What `n` bytes at a place read as where memory holds the cells of an early read, if those are all that it needs. -/
def seenAt (s : State) (cells : List Host.Cell) (p : Place) (n : Nat) : Option (List Byte) :=
  match memSpan s p n with
  | none => none
  | some (l, k) =>
    if (List.range k).all fun i => cells.any fun c => decide (c.1 = l + i) then
      let t := { s with mem := Tab.sets 0 cells s.mem, taint := [] }
      if taintPlace t p n = .sound then some (readPlace t p n) else none
    else none

/-- The logical time of a stream (13 R328). -/
def Hart.streamTime (x : Hart) (vector : Bool) : Nat := if vector then x.vectorTime else x.scalarTime

/-- The first of a stream's early items that serves a read of `n` bytes, with what stays of the items: reads before it serve no
more, a store before it has its turn first. -/
def takeRead (s : State) (time : Nat) (r : Resolved) (n : Nat) : List Ahead → Option (List Byte × List Ahead)
  | [] => none
  | .wrote .. :: _ => none
  | .job _ :: l => takeRead s time r n l
  | .read uses expires cells :: l =>
    match (if r.cls = .io ∨ uses = 0 ∨ expires < time then none else seenAt s cells r.place n) with
    | some b => some (b, if uses = 1 then l else .read (uses - 1) expires cells :: l)
    | none => takeRead s time r n l

/-- A read of `n` bytes by a stream of the executing hart: one that it has performed before its turn, or now. -/
def readAccess (s : State) (vector : Bool) (r : Resolved) (n : Nat) : List Byte × State :=
  match takeRead s (s.me.streamTime vector) r n (early s s.cur vector) with
  | some (b, l) => (b, setEarly s s.cur vector l)
  | none => (readPlace s r.place n, freshAccess s vector)

/-- The stores of one access that may be performed first: on idempotent pages any that meets none before it, elsewhere the
first alone (07 R183, R184); a device-class page takes none before its turn (05 R145; 07 R182). -/
def mayLead (l : List (Resolved × List Byte)) (i : Nat) : Bool :=
  match l[i]? with
  | none => false
  | some e =>
    e.1.cls != .io && (i == 0 || l.all fun f => f.1.cls == .pma)
      && (l.take i).all fun f => !(decide (f.1.place.loc < e.1.place.loc + e.2.length)
        && decide (e.1.place.loc < f.1.place.loc + f.2.length))

/-- The stores of an access less those that its stream's early items have performed, and the items that stay. -/
def takeWritten : List Ahead → List (Resolved × List Byte) → List Ahead × List (Resolved × List Byte)
  | [], l => ([], l)
  | .wrote loc b old :: r, l =>
    match (List.range l.length).find? fun i =>
        mayLead l i && (match l[i]? with | some e => decide (e.1.place = .ram loc) && decide (e.2 = b) | none => false) with
    | some i => takeWritten r (l.eraseIdx i)
    | none => (.wrote loc b old :: r, l)
  | .read u e c :: r, l => let q := takeWritten r l; if q.2.length < l.length then q else (.read u e c :: r, l)
  | .job c :: r, l => let q := takeWritten r l; if q.2.length < l.length then q else (.job c :: r, l)

/-- The stores of one access of a stream of the executing hart: those that are left to perform, after the ones that it has
performed before its turn. -/
def writeAccess (s : State) (vector : Bool) (l : List (Resolved × List Byte)) : State × List (Resolved × List Byte) :=
  let q := takeWritten (early s s.cur vector) l
  let s := setEarly s s.cur vector q.1
  (if q.2.isEmpty then s else freshAccess s vector, q.2)

/-- The first of a stream's early items that is the read-modify-write of `n` bytes with `f`, and what stays of the items. -/
def takeAtomic (s : State) (time : Nat) (r : Resolved) (n : Nat) (f : Nat → Option Nat) : List Ahead → Option (Nat × List Ahead)
  | [] => none
  | .wrote loc b old :: l =>
    if .ram loc = r.place ∧ b.length = n ∧ r.cls ≠ .io ∧ f (leNat old) = some (leNat b) then some (leNat old, l) else none
  | .job _ :: l => takeAtomic s time r n f l
  | .read uses expires cells :: l =>
    match (if r.cls = .io ∨ uses = 0 ∨ expires < time then none else seenAt s cells r.place n) with
    | some b =>
      if f (leNat b) = none then some (leNat b, if uses = 1 then l else .read (uses - 1) expires cells :: l)
      else takeAtomic s time r n f l
    | none => takeAtomic s time r n f l

/-- A read-modify-write of `n` bytes by the vector stream of the executing hart, performed before its turn or now: the old
value and the state after it. -/
def atomicAccess (s : State) (r : Resolved) (n : Nat) (f : Nat → Option Nat) : Nat × State :=
  match takeAtomic s s.me.vectorTime r n f (early s s.cur true) with
  | some (old, l) => (old, setEarly s s.cur true l)
  | none =>
    let old := leNat (readPlace s r.place n)
    let s := freshAccess s true
    (old, match f old with | some v => storePlace s r.place (leBytes n v) | none => s)

/-- Commits of slots of the spool at `q` that wait in queues: the first index and the number of each (10 R259). -/
def lateCommits (s : State) (q : Nat) : List (Nat × Nat) :=
  (s.harts.flatMap (fun e => e.2.vectorQueue.flatten) ++ s.jobs.flatMap fun j => j.behind.flatten).filterMap fun p =>
    match p with
    | .commit k i n => if k = q then some (i, n) else none
    | _ => none

/-- What hart `h` has left to its vector queue, or behind a job when it was suspended, waits behind a job: a store is among
it (09 R218). -/
def vectorHeld (s : State) (h : Nat) : Bool :=
  storeQueueHeld s h
    && ((s.hart h).vectorQueue.any isStore || s.jobs.any fun j => decide (j.hart = h) && !j.behind.isEmpty)

/-- The places in memory that stores waiting behind jobs will write: those of queues and those of jobs, each with its hart
(09 R218). -/
def heldPlaces (s : State) : List (Nat × Nat × Nat) :=
  (s.harts.flatMap fun e => if storeQueueHeld s e.1 then (e.2.vectorQueue.drop (freeLength s e.1)).flatten.map fun p => (e.1, p.span)
    else []) ++ s.jobs.flatMap fun j => j.behind.flatten.map fun p => (j.hart, p.span)

/-- The executing hart leaves vector accesses to its queue: by its own, or behind a job that waits (13 R324; 09 R218). -/
def lagging (s : State) : Bool := s.me.lag || storeQueueHeld s s.cur

/-- An access joins the end of a queue of the executing hart. -/
def enqueueAccess (s : State) (vector : Bool) (l : List Pending) : State :=
  let x := s.me
  if l.isEmpty then s
  else s.setMe (x.setQueue vector (x.queue vector ++ [l]))

/-! Packets. -/

/-- A packet by its place in acceptance order. -/
def State.packet (s : State) (id : Nat) : Option Packet := s.keel.packets.find? fun p => decide (p.id = id)
/-- Changes a packet. -/
def State.mapPacket (s : State) (id : Nat) (f : Packet → Packet) : State :=
  { s with keel := { s.keel with packets := s.keel.packets.map fun p => if p.id = id then f p else p } }
/-- WIDTHi (02 R46). -/
def Packet.width (p : Packet) (i : Nat) : Nat := field p.bytes (16 + i) 1
/-- n_i, one more than EXTi (02 R46). -/
def Packet.ext (p : Packet) (i : Nat) : Nat := field p.bytes (32 + 8 * i) 8 + 1
/-- DESC (02 R46). -/
def Packet.descVa (p : Packet) : Nat := field p.bytes 0 8
/-- ARGS (02 R46). -/
def Packet.args (p : Packet) : Word := BitVec.ofNat 64 (field p.bytes 8 8)
/-- FLAGS (02 R47). -/
def Packet.flags (p : Packet) : Nat := field p.bytes 22 1
/-- CHAIN (02 R46). -/
def Packet.chain (p : Packet) : Nat := field p.bytes 24 2 % 4096
/-- The handle byte of operand slot `j` (02 R46). -/
def Packet.handle (p : Packet) (j : Nat) : Nat := field p.bytes (80 + j) 1

/-- Bit offset of work-identifier field `i` (02 R39). -/
def Packet.shift (p : Packet) (i : Nat) : Nat := ((List.range i).map p.width).foldl (· + ·) 0
/-- The work identifier with fields w0 to w5 (02 R39). -/
def Packet.wid (p : Packet) (w : List Nat) : Word :=
  BitVec.ofNat 64 ((List.range 6).foldl (fun a i => a + w.getD i 0 * 2 ^ p.shift i) 0)

/-- The packet whose work a hart runs; with SEG set, its partner (11 R295). -/
def chargedPacket (s : State) (x : Hart) : Option Packet :=
  match x.work with
  | .none => none
  | .task t => s.packet t.packet
  | .group id _ _ _ _ _ =>
    match s.packet id with
    | none => none
    | some p => if x.seg then (match p.partner with | some c => s.packet c | none => some p) else some p

/-- The packet whose hart group or job a hart's work belongs to (02 R60). -/
def jobPacket (x : Hart) : Option Nat :=
  match x.work with
  | .none => none
  | .task t => some t.packet
  | .group id _ _ _ _ _ => some id

/-- The hart runs a spliced loop (11 R288). -/
def spliced (s : State) (x : Hart) : Bool :=
  match x.work with
  | .group id _ _ _ _ _ => (match s.packet id with | some p => p.partner.isSome | none => false)
  | _ => false

/-- The hart runs a task (02 R59). -/
def runsTask (x : Hart) : Bool :=
  match x.work with
  | .task _ => true
  | _ => false

/-! Claims. -/

/-- Hart `h` owns operand slot `i` of its core (03 R68). -/
def ownsSlot (s : State) (h i : Nat) : Bool := Tab.get none (s.core (coreOf h)).slotOwner i == some h
/-- Hart `h` owns accumulator bank `b` of its core (03 R68). -/
def ownsBank (s : State) (h b : Nat) : Bool := Tab.get none (s.core (coreOf h)).bankOwner b == some h

/-- Removes the entries of a table that an owner holds. -/
def dropOwned (h : Nat) (m : SMap (Option Nat)) : SMap (Option Nat) := m.filter fun e => e.2 != some h

/-- The tethers of a core without those of hart `h` (09 R235). -/
def dropTethers (h : Nat) (m : SMap (Option Tether)) : SMap (Option Tether) :=
  m.filter fun e => match e.2 with | some t => t.owner != h | none => true

/-- Releases the operand slots of hart `h`; their contents are lost (08 R202). -/
def releaseSlots (s : State) (h : Nat) : State :=
  let c := s.core (coreOf h)
  s.setCore (coreOf h) { c with
    slotOwner := dropOwned h c.slotOwner
    slots := c.slots.filter fun e => Tab.get none c.slotOwner e.1 != some h }

/-- Releases every slot, bank and tether of hart `h` (02 R45; 16 R410). -/
def releaseClaims (s : State) (h : Nat) : State :=
  let s := releaseSlots s h
  let c := s.core (coreOf h)
  s.setCore (coreOf h) { c with
    bankOwner := dropOwned h c.bankOwner
    banks := c.banks.filter fun e => Tab.get none c.bankOwner e.1 != some h
    bankOvf := c.bankOvf.filter fun e => Tab.get none c.bankOwner e.1 != some h
    tethers := dropTethers h c.tethers }

/-- Hart `h` leaves the queue for a slot of its cluster's task spool (14 R347, R362). -/
def leaveSpawners (s : State) (h : Nat) : State :=
  let c := s.cluster (clusterOf h)
  if c.spawners.contains h then s.setCluster (clusterOf h) { c with spawners := c.spawners.filter fun k => k != h } else s

/-- Withdraws every request that hart `h` has waiting (14 R347; 10 R266). -/
def withdraw (s : State) (h : Nat) : State :=
  let s := leaveSpawners s h
  let c := s.core (coreOf h)
  let s := s.setCore (coreOf h) { c with shareQueue := c.shareQueue.filter fun e => e.1 != h }
  { s with requests := s.requests.filter fun r => r.hart != h, gangs := Tab.del h s.gangs }

/-- Leaves the gang: when one member remains, it is ganged no longer (06 R152). The lowest hart that remains leads, and
the copies already fetched for the others stay theirs (02 R61; 09 R232). -/
def leaveGang (s : State) (h : Nat) : State :=
  match (s.hart h).gang with
  | none => s
  | some m =>
    let s := s.setHart h { s.hart h with gang := none, gangLead := 0, gangFeed := [] }
    let rest := s.harts.filter fun e => e.1 != h && e.2.gang == some m && clusterOf e.1 == clusterOf h
    let m' := m &&& ~~~(BitVec.ofNat 32 (2 ^ (coreOf h % 32)))
    let lead := (rest.map (·.1)).headD 0
    rest.foldl (fun s e =>
      s.setHart e.1 (if rest.length ≤ 1 then { e.2 with gang := none, gangLead := 0 }
        else { e.2 with gang := some m', gangLead := if e.2.gangLead = h then lead else e.2.gangLead })) s

/-! Messages to the Keel. -/

/-- A Gondola sends a message to the Keel: it spends a permit, or waits for one behind earlier messages (01 R29). -/
def sendReport (s : State) (cl : Nat) (r : Report) : State :=
  let c := s.cluster cl
  s.setCluster cl (if c.reportPermits = 0 ∨ !c.outbox.isEmpty then { c with outbox := c.outbox ++ [r] }
    else { c with reportPermits := c.reportPermits - 1, reports := c.reports ++ [r] })

/-- A Gondola reports a fault, with TIME as it stands (16 R404, R405). -/
def reportFault (s : State) (cl : Nat) (r : FaultRecord) : State := sendReport s cl (.fault { r with time := s.time })

/-- Messages to the Keel that are on their way. -/
def reportsUnderway (s : State) : List Report := s.clusters.flatMap fun c => c.2.reports ++ c.2.outbox

/-! Messages to a Gondola. -/

/-- The Keel sends a message to a Gondola: it spends a permit, or waits for one behind earlier messages (01 R29). -/
def sendCommand (s : State) (cl : Nat) (m : Command) : State :=
  let c := s.cluster cl
  s.setCluster cl (if c.permits = 0 ∨ !c.backlog.isEmpty then { c with backlog := c.backlog ++ [m] }
    else { c with permits := c.permits - 1, link := c.link ++ [m] })

/-- Messages to a Gondola that it has not copied. -/
def Cluster.underway (c : Cluster) : List Command := c.link ++ c.backlog

/-- The Gondola has copied the oldest message of its link: the permit returns, and the oldest message that waits for one takes
it (01 R29). -/
def Cluster.copied (c : Cluster) : Cluster :=
  match c.backlog with
  | [] => { c with link := c.link.drop 1, permits := c.permits + 1 }
  | m :: o => { c with link := c.link.drop 1 ++ [m], backlog := o }

/-- The cluster groups among messages. -/
def placementsIn (l : List Command) : List Placement :=
  l.filterMap fun m =>
    match m with
    | .place e => some e
    | _ => none

/-- A Gondola was told that no further strip of a packet starts (02 R60; 10 R272; 11 R296). -/
def stoppedAt (s : State) (cl id : Nat) : Bool := (Tab.get none (s.cluster cl).stops id).isSome

/-- The cancel generation of a job at a Gondola (02 R60). -/
def stopGen (s : State) (cl id : Nat) : Nat := (Tab.get none (s.cluster cl).stops id).getD 0

/-! Saving a hart. -/

/-- The hart at its suspension point: an open chain group, which has had no effect yet, runs again from its first instruction,
and a qualified instruction from its prefix (06 R166; 16 R409, R410); of the copies of lines it may keep none. -/
def rollback (x : Hart) : Hart :=
  { x with
    pc := match x.chain with | some g => g.first | none => if x.qual then x.pc - 2 else x.pc
    vstart := match x.chain with | some g => g.vstart | none => x.vstart
    qual := false
    chain := none
    lines := []
    run := .running }

/-- The stores of hart `h` that wait behind its jobs wait behind the last of them, without the hart (09 R218; 14 R376: jobs are
recorded rather than awaited). -/
def leaveBehind (s : State) (h : Nat) : State :=
  let q := (s.hart h).vectorQueue
  if q.isEmpty then s
  else
    match (s.jobs.filter fun j => decide (j.hart = h) && jobBehind s j).getLast? with
    | none => s
    | some j =>
      { s.setHart h ((s.hart h).setQueue true []) with
        jobs := s.jobs.map fun e => if e.id = j.id then { e with behind := e.behind ++ q } else e }

/-- A hart that waits in `joinw`, or in `spawn` for a slot (14 R361). -/
def tasksWaiter (x : Hart) : Bool :=
  match x.run with
  | .waiting (.join _ _) _ => true
  | .waiting .spawn _ => true
  | _ => false

/-- Saves hart `h` and frees it (16 R410 steps 3 and 4, R412, R414): its queued accesses are performed, or wait behind its jobs;
`group` names the harts that resume together. -/
def saveHart (s : State) (h group : Nat) (held : Bool) (raised : SMap Nat) : State :=
  let s := endEarly (withdraw (leaveBehind (performHart s h) h) h) h
  let x := s.hart h
  let c := s.core (coreOf h)
  let r : Saved := {
    id := s.keel.ids
    hartid := h
    group := group
    held := held
    hart := rollback x
    slots := (List.range 16).foldl (fun m i => if ownsSlot s h i then Tab.set none i (some (Tab.get [] c.slots i)) m else m) []
    banks := (List.range 2).foldl (fun m i => if ownsBank s h i then Tab.set none i (some (Tab.get [] c.banks i)) m else m) []
    ovf := (List.range 2).foldl (fun m i => if ownsBank s h i then Tab.set false i (Tab.get false c.bankOvf i) m else m) []
    tethers := c.tethers.foldl (fun m e =>
      match e.2 with
      | some t => if t.owner = h then Tab.set none e.1 (some t) m else m
      | none => m) []
    raised := raised
    parked := tasksWaiter x }
  let s := releaseClaims s h
  { s.setHart h {} with keel := { s.keel with
    saved := s.keel.saved ++ [r]
    requests := s.keel.requests.filter fun e => e.1 != h
    ids := s.keel.ids + 1 } }

/-- A hart that must run an open chain group, or a qualified instruction, to its end before it is suspended (06 R166; 16
R410), in a group also where it waits for the stack of its next line; one that waits at an instruction of its own is suspended at
its wait (14 R376). -/
def midGroup (x : Hart) : Bool := x.chain.isSome || (x.qual && x.run == .running)

/-- Suspends hart `h` with group `g`, or keeps the request until the end of its chain group (16 R410 step 1). -/
def suspendHart (s : State) (h g : Nat) : State :=
  if midGroup (s.hart h) then { s with keel := { s.keel with requests := s.keel.requests ++ [(h, some g)] } }
  else saveHart s h g false (s.hart h).raised

/-- The tethers of a row, at most once (09 R234). -/
def heldRows (s : State) : List Nat :=
  distinct (s.cores.flatMap fun c => c.2.tethers.flatMap fun e =>
    match e.2 with
    | some t => if t.st = .dropped then [] else [t.row]
    | none => [])

/-- The bank and pseudo-channel of a DRAM row, each as one number (17 R438). -/
def rowHome (p : Plate) (pa : Nat) : Nat × Nat :=
  let d := pa / dieSpan
  let o := pa % dieSpan
  let g := groupList p d
  let row := o / 1024
  let e := g.getD (row % g.length) (0, 0)
  let gr := row / g.length
  let chan := e.1 * 96 + 3 * e.2 + gr % 3
  (chan * 32 + gr / 3 % 32, chan)

/-- The status that `topen` gives for a new row, the holds `held` being counted (09 R233; 01 R20). -/
def rowStatus (p : Plate) (held : List Nat) (row : Nat) : Nat :=
  if held.contains row then 0
  else
    let b := rowHome p row
    if 3 ≤ (held.filter fun r => decide ((rowHome p r).1 = b.1)).length then 3
    else if 64 ≤ (held.filter fun r => decide ((rowHome p r).2 = b.2)).length then 4
    else 0

/-- The DRAM row that an address names for a tether, or the trap it takes (09 R233); its controller does not answer while the row's
stack is not ready (17 R440). -/
def tetherRow (s : State) (a : Agent) (va : Nat) : Except Nat Nat :=
  match windowOf s a va with
  | .no =>
    match translate s a .load va with
    | .error c => .error c
    | .ok (pa, cl) =>
      match placeOf s pa with
      | some (.ram l) =>
        if cl = .io then .error 0x08
        else if ramReady s a.core (l / 1024 * 1024) 1024 then .ok (l / 1024 * 1024) else .error stackHeld
      | _ => .error 0x08
  | _ => .error 0x08

/-- Vector shares that the harts of a core hold (03 R68). -/
def sharesUsed (s : State) (c : Nat) : Nat :=
  s.harts.foldl (fun a e => if coreOf e.1 = c then a + (match e.2.conf with | some v => v.shares | none => 0) else a) 0

/-- The reopening of a saved tether reaches ready stacks: no access is refused because one is in its check (17 R440; 20 R450). -/
def tetherReady (s : State) (r : Saved) (t : Tether) : Bool :=
  t.st == .dropped || match tetherRow s ⟨r.hart.asid, r.hart.mode, some (coreOf r.hartid)⟩ t.va.toNat with
    | .error c => c != stackHeld
    | .ok _ => true

/-- The items that a saved hart needs are free on its core (16 R413), and its tethers can be opened again (20 R450). -/
def resumable (s : State) (r : Saved) : Bool :=
  let c := s.core (coreOf r.hartid)
  let used := sharesUsed s (coreOf r.hartid)
  let want : Nat := match r.hart.conf with | some v => v.shares | none => 0
  (s.hart r.hartid).run == .free && decide (used + want ≤ 8)
    && r.slots.all (fun e => Tab.get none c.slotOwner e.1 == none)
    && r.banks.all (fun e => Tab.get none c.bankOwner e.1 == none)
    && r.tethers.all (fun e => Tab.get none c.tethers e.1 == none)
    && r.tethers.all (fun e => match e.2 with | some t => tetherReady s r t | none => true)
    && (s.harts.filter fun e => coreOf e.1 == coreOf r.hartid).all fun e => e.2.asid == r.hart.asid || e.2.run == .free

/-- Opens a saved hart's tether again: reopening on its row, or dropped; a tether that was dropped stays so, with the row
that it had (09 R235). -/
def reopen (s : State) (h t : Nat) (a : Agent) (e : Tether) : State :=
  let c := s.core (coreOf h)
  let new : Tether :=
    if e.st = .dropped then e
    else
      match tetherRow s a e.va.toNat with
      | .ok row => ⟨h, e.va, row, if rowStatus s.plate (heldRows s) row = 0 then .reopening else .dropped⟩
      | .error _ => { e with st := .dropped }
  s.setCore (coreOf h) { c with tethers := Tab.set none t (some new) c.tethers }

/-! Taking a trap. -/

/-- The PC of the instruction at which a trap is taken: the prefix's for a qualified instruction (04 R102). -/
def trapPc (x : Hart) : Word := if x.qual then x.pc - 2 else x.pc

/-- ESTAT in the general layout (16 R403). -/
def estatOf (s : State) (x : Hart) (chain : Bool) : Word :=
  match chargedPacket s x with
  | none => flag chain <<< 4 ||| flag x.seg <<< 6
  | some p =>
    BitVec.ofNat 64 (p.index % 2 ^ 32 * 2 ^ 32 + p.lspool % 4096 * 2 ^ 20) ||| flag (runsTask x) <<< 7
      ||| flag x.seg <<< 6 ||| flag (spliced s x) <<< 5 ||| flag chain <<< 4

/-- Enters the handler of the context (16 R401). -/
def enterHandler (s : State) (epc : Word) (cause : Nat) (eval estat : Word) (q : Bool) : State :=
  let x := s.me
  s.setMe { x with
    epc := epc &&& ~~~1
    ecause := BitVec.ofNat 10 (cause % 256) ||| (if q then 0x100 else 0)
    eval := eval
    estat := estat
    mode := .system
    pc := (s.context x.asid).handler
    qual := false
    chain := none
    run := .running }

/-- Forwards a trap: the Gondola reports a fault record, and the hart is suspended as fault-held (16 R404, R405); the other
members of its gang are suspended with it (02 R61; 16 R410). -/
def forwardTrap (s : State) (epc : Word) (cause : Nat) (eval estat : Word) (chain : Bool) : State :=
  let x := s.me
  let p := chargedPacket s x
  let s := s.setMe { x with pc := epc &&& ~~~1, qual := false, chain := none, run := .running }
  let r : FaultRecord := {
    kind := if x.mode = .user then 0 else 1
    cause := cause
    asid := x.asid
    hartid := s.cur
    flags := (if x.seg then 1 else 0) ||| (if spliced s x then 2 else 0) ||| (if runsTask x then 4 else 0)
      ||| (if chain then 8 else 0)
    ucause := if x.mode = .user then 0 else x.ecause.toNat % 256
    pc := epc &&& ~~~1
    eval := eval
    estat := estat
    spool := match p with | some p => p.qcb | none => 0
    index := match p with | some p => p.index | none => 0
    vstart := x.vstart
    lspool := match p with | some p => p.lspool | none => 0
    subject := .hart s.keel.ids }
  let others : List Nat := match x.gang with
    | none => []
    | some m => (s.harts.filter fun e => e.1 != s.cur && e.2.gang == some m && clusterOf e.1 == clusterOf s.cur).map (·.1)
  let g := s.keel.ids
  let s := reportFault (saveHart s s.cur g true []) (clusterOf s.cur) r
  others.foldl (fun s h => suspendHart s h g) s

/-- The hart waits at its instruction (14 R347). -/
def waitAt (s : State) (w : Wait) (eval : Word) : State := s.setMe { s.me with run := .waiting w eval }

/-- Takes a trap (16 R401, R404): the handler from user mode when one is installed, else a fault record. An access to a
stack that is not ready is no trap: the hart waits for it (17 R448). -/
def takeTrap (s : State) (epc : Word) (cause : Nat) (eval : Word) (estat : Word) (q chain : Bool) : State :=
  let x := s.me
  if cause = stackHeld then waitAt s .stack 0
  else if x.mode = .user ∧ (s.context x.asid).handler ≠ 0 then enterHandler s epc cause eval estat q
  else forwardTrap s epc cause eval estat chain

/-- Drops an open chain group: no effect of any member remains and `ch` is dead (06 R166). -/
def dropChain (s : State) : State :=
  match s.me.chain with
  | none => s
  | some g => s.setMe { s.me with chain := none, vstart := g.vstart }

/-- A trap of the executing instruction. Inside a chain group EPC is at the group's first instruction (06 R166). -/
def trap (s : State) (cause : Nat) (eval : Word) : State :=
  let x := s.me
  match x.chain with
  | none => takeTrap s (trapPc x) cause eval (estatOf s x false) false false
  | some g =>
    if cause = stackHeld then waitAt s .stack 0
    else takeTrap (dropChain s) g.first cause eval (estatOf s x true) false true

/-- The illegal-instruction trap: EVAL is the PC of the trapping instruction (10 R276). -/
def illegal (s : State) : State := trap s 0x01 (trapPc s.me)

/-- The vector-configuration trap (10 R276). -/
def vconfTrap (s : State) : State := trap s 0x18 (trapPc s.me)

/-- The chain-broken trap, at the instruction that breaks the chain (03 R78; 06 R166). With no group open there is no first
instruction for EVAL to name: it is the instruction's own PC, and ESTAT.CHAIN is 0 (the model's choice: log 66). -/
def chainTrap (s : State) : State :=
  let x := s.me
  match x.chain with
  | none => takeTrap s (trapPc x) 0x0F (trapPc x) (estatOf s x false) false false
  | some g => takeTrap (dropChain s) (trapPc x) 0x0F g.first (estatOf s x true) false true

/-- An instruction that has no CI: it breaks an open chain group before it has any effect (06 R166). -/
def unchained (s : State) (k : State → Res) : Res :=
  match s.me.chain with
  | none => k s
  | some _ => .next (chainTrap s)

/-! The end-of-body test. -/

/-- An active loop whose END is the next PC, in the hart's mode (05 R136). -/
def loopHit (x : Hart) (l : Loop) : Bool := l.busy && l.mode == x.mode && l.fin == x.pc

/-- The predicates of iteration `i` (05 R136, R140). -/
def stagePreds (stages total i : Nat) : BitVec 8 :=
  (List.range 8).foldl (fun p j =>
    if j < stages ∧ j ≤ i ∧ i - j < total then p ||| BitVec.ofNat 8 (2 ^ j) else p) 0

/-- The names s24 to s31 rotate by one (05 R139), and what is poisoned moves with its name. -/
def rotateWindow (x : Hart) : Hart :=
  { x with
    s := Tab.sets 0 ((List.range 8).map fun k => (24 + (k + 1) % 8, Tab.get 0 x.s (24 + k))) x.s
    spoiled := { x.spoiled with s := (x.spoiled.s.extractLsb' 24 8).rotateLeft 1 ++ x.spoiled.s.extractLsb' 0 24 } }

/-- The test of one loop whose END has been reached (05 R136): the loop record and the hart after it. -/
def loopTest (x : Hart) (l : Loop) : Loop × Hart :=
  if l.count.toNat ≤ 1 then
    ({ l with count := 0, busy := false }, if l.modulo then { x with pred := 0 } else x)
  else if l.modulo then
    ({ l with count := l.count - 1, index := l.index + 1 },
      { rotateWindow x with pred := stagePreds l.stages l.total (l.index + 1), pc := l.body })
  else ({ l with count := l.count - 1 }, { x with pc := l.body })

/-- End-of-body tests until the next PC is no active loop's END; of two at one END, the later started is first
(05 R136). -/
def endOfBody : Nat → Hart → Hart
  | 0, x => x
  | n + 1, x =>
    if loopHit x x.lc0 && !(loopHit x x.lc1 && decide (x.lc0.stamp < x.lc1.stamp)) then
      let r := loopTest x x.lc0
      endOfBody n { r.2 with lc0 := r.1 }
    else if loopHit x x.lc1 then
      let r := loopTest x x.lc1
      endOfBody n { r.2 with lc1 := r.1 }
    else x

/-- The hart with `pc` as the next PC, after the end-of-body tests made there (05 R136). -/
def arrive (x : Hart) (pc : Word) : Hart :=
  endOfBody (x.lc0.count.toNat + x.lc1.count.toNat + 2) { x with pc := pc, qual := false }

/-! Control. -/

/-- The following head of an instruction (04 R100). -/
def following (x : Hart) : Word :=
  let slot := x.pc.toNat / 2 % 32
  if slot < lineCount x.fetched then x.pc + 2 else (x.pc >>> 6 + 1) <<< 6 + 2

/-- The hart completes its instruction and falls through (04 R100; 05 R136). -/
def finish (s : State) : State := s.setMe (arrive s.me (following s.me))

/-- The hart completes after changing its own registers. -/
def finishWith (s : State) (f : Hart → Hart) : State := finish (s.setMe (f s.me))

/-- Hart `h` fetches the 64-byte line that holds `va`, or takes the trap of the fetch (04 R101): the line as it stands, or as the
first copy of it that the hart keeps has it (04 R103; log 11). -/
def fetchLine (s : State) (h va : Nat) : Except Nat (List Byte) :=
  let a := s.agent h
  match windowOf s a va with
  | .no =>
    match check s a .fetch (va / 64 * 64) 64 with
    | .error c => .error c
    | .ok r =>
      match (s.hart h).lines.find? fun e => decide (e.1 = r.place.loc) with
      | some e => .ok e.2
      | none =>
        match poisonCause s r.place 64 with
        | some c => .error c
        | none => .ok (readPlace s r.place 64)
  | _ => .error 0x05

/-- Hart `h` keeps a copy of the line that holds `va`, as it stands, behind those that it keeps (04 R103; log 11). -/
def keepLine (s : State) (h va : Nat) : State :=
  let x := s.hart h
  match resolve s (s.agent h) .fetch (va / 64 * 64), fetchLine (s.setHart h { x with lines := [] }) h va with
  | .ok r, .ok l => if x.run = .free then s else s.setHart h { x with lines := x.lines ++ [(r.place.loc, l)] }
  | _, _ => s

/-- The `k`-th copy that hart `h` keeps is the first. -/
def pickLine (s : State) (h k : Nat) : State :=
  let x := s.hart h
  s.setHart h { x with lines := (x.lines.drop k).take 1 ++ x.lines.eraseIdx k }

/-- Hart `h` drops the first copy that it keeps. -/
def dropLine (s : State) (h : Nat) : State := s.setHart h { s.hart h with lines := (s.hart h).lines.drop 1 }

/-- What a transfer of control of hart `h` meets at its target (04 R101): the trap, its EVAL, and whether the transferring
instruction has completed. It has not while the target's stack is not ready (17 R440). Where the target's line is poisoned (0x14,
or 0x0B in a decoded window) it has, with EVAL at the target, as with the other problems of the fetch (the model's choice: log
87). -/
def checkTarget (s : State) (h : Nat) (t : Word) : Option (Nat × Word × Bool) :=
  match fetchLine s h t.toNat with
  | .error c => some (c, t, decide (c ≠ stackHeld))
  | .ok l =>
    let slot := t.toNat / 2 % 32
    if !lineFormatOk l then some (0x03, (t >>> 6) <<< 6, true)
    else if slot = 0 ∨ lineCount l < slot then some (0x02, t, false)
    else if 1 < slot ∧ Decode.major (lineHead l (slot - 1)) = 0x31 then some (0x02, t, false)
    else if t.getLsbD 0 then some (0x04, t, false)
    else none

/-- The branch target of a head at `pc` (04 R101). -/
def branchTarget (pc : Word) (t : Target) : Word :=
  BitVec.ofNat 64 (unsigned 58 ((pc.toNat / 64 : Nat) + signed 16 t.loff.toNat) * 64 + 2 * t.slot.toNat)

/-- Loops that a transfer from `src` to `dst` leaves end, COUNT unchanged (05 R137). -/
def leaveLoop (x : Hart) (src dst : Word) (l : Loop) : Loop :=
  if l.busy ∧ l.mode = x.mode ∧ l.body.toNat ≤ src.toNat ∧ src.toNat < l.fin.toNat
      ∧ ¬(l.body.toNat ≤ dst.toNat ∧ dst.toNat ≤ l.fin.toNat) then { l with busy := false }
  else l

/-- A transfer of control to `t` (04 R101): `commit` is what the instruction writes when it completes, `leaves` whether
it may end loops (05 R137). -/
def transfer (s : State) (t : Word) (leaves : Bool) (commit : Hart → Hart) : State :=
  let x := s.me
  let src := trapPc x
  let done (x : Hart) : Hart :=
    let x := commit x
    if leaves then { x with lc0 := leaveLoop x src t x.lc0, lc1 := leaveLoop x src t x.lc1 } else x
  match checkTarget s s.cur t with
  | none => s.setMe (arrive (done x) t)
  | some (c, e, true) =>
    let s := s.setMe { done x with pc := t &&& ~~~1, qual := false }
    takeTrap s t c e (estatOf s s.me false) false false
  | some (c, e, false) => trap s c e

/-- The return from a trap (10 R274; 16 R402): the mode of PMODE, and a transfer to EPC in that mode. An empty slot at EPC
leaves `eret` unexecuted, in the mode that it had (04 R101 says so, and also that the trap finds the state `eret` restored;
the model's choice: log 65). -/
def returnFromTrap (s : State) : State :=
  let x := s.me
  let m : Mode := if x.ecause.getLsbD 9 then .system else .user
  let s' := s.setMe { x with mode := m }
  match checkTarget s' s.cur x.epc with
  | none => s'.setMe (arrive s'.me x.epc)
  | some (c, e, true) =>
    let s' := s'.setMe { s'.me with pc := x.epc, qual := false }
    takeTrap s' x.epc c e (estatOf s' s'.me false) false false
  | some (c, e, false) => trap s c e

/-! Loop ends of a hart that another step moves. -/

/-- A loop end that hart `h` makes as it goes on from `x` to `y`, whose target is an empty slot: the trap and its EVAL. The hart
is not to make it (04 R101). -/
def endProblem (s : State) (h : Nat) (x y : Hart) : Option (Nat × Word) :=
  if (y.lc0.busy && y.lc0.count != x.lc0.count) || (y.lc1.busy && y.lc1.count != x.lc1.count) then
    match checkTarget (s.setHart h y) h y.pc with
    | some (c, e, false) => if c = stackHeld then none else some (c, e)
    | _ => none
  else none

/-- A waiting hart leaves its instruction unexecuted and takes a trap at it. -/
def leaveWith (s : State) (h : Nat) (p : Nat × Word) : State :=
  let t := withdraw s h
  { trap { t.setHart h { t.hart h with run := .running } with cur := h } p.1 p.2 with cur := s.cur }

/-- Hart `h` goes on as `x`, at its PC, with the end-of-body tests made there (05 R136). A loop end whose target is an empty slot is
not made: the hart takes 0x02 at that PC, with its counters as they were (04 R101). -/
def goOn (s : State) (h : Nat) (x : Hart) : State :=
  let y := arrive x x.pc
  match endProblem s h x y with
  | some p => { trap { s.setHart h x with cur := h } p.1 p.2 with cur := s.cur }
  | none => s.setHart h y

/-! Resuming. -/

/-- Restores a saved hart on the hart number it left (16 R412, R413). QPMIN and QPCAP come back with its other registers
(the model's choice: log 70), and a hart that resumes at the END of a loop makes the test there once all of it is back (05 R136). -/
def restoreHart (s : State) (r : Saved) : State :=
  let h := r.hartid
  let done (k : Nat) (t : Token) : Token :=
    match t with
    | .pending j => (match s.jobs.find? fun e => decide (e.id = j) with | some _ => t | none => Tab.get t r.hart.tokens k)
    | t => t
  let x := { r.hart with tokens := r.hart.tokens.map fun e => (e.1, done e.1 e.2) }
  let s := s.setHart h x
  let c := s.core (coreOf h)
  let s := s.setCore (coreOf h) { c with
    slotOwner := r.slots.foldl (fun m e => Tab.set none e.1 (some h) m) c.slotOwner
    slots := r.slots.foldl (fun m e => Tab.set [] e.1 (e.2.getD []) m) c.slots
    bankOwner := r.banks.foldl (fun m e => Tab.set none e.1 (some h) m) c.bankOwner
    banks := r.banks.foldl (fun m e => Tab.set [] e.1 (e.2.getD []) m) c.banks
    bankOvf := r.ovf.foldl (fun m e => Tab.set false e.1 e.2 m) c.bankOvf }
  let s := r.tethers.foldl (fun s e =>
    match e.2 with
    | some t => reopen s h e.1 (s.agent h) t
    | none => s) s
  let s := { s with keel := { s.keel with saved := s.keel.saved.filter fun e => e.id != r.id } }
  goOn s h (s.hart h)

/-! Memory accesses of the executing hart. -/

/-- A line of DRAM that an access allocates is tagged with the running packet's chain (02 R65; 05 R147). -/
def tagChain (s : State) (x : Hart) (loc : Nat) : State :=
  match chargedPacket s x with
  | none => s
  | some p =>
    if p.chain = 0 ∨ 0x1000000000000 ≤ loc then s
    else { s with chainTags := Tab.set 0 (loc / 128) (p.asid * 4096 + p.chain) s.chainTags }

/-- The tag of the line behind a resolved address: every line that the last-level cache allocates, decoded and scale lines
among them (02 R65; 17 R442). -/
def tagAt (s : State) (x : Hart) (p : Place) : State :=
  match p with
  | .ram l => tagChain s x l
  | .derived a => tagChain s x a
  | _ => s

/-- A checked scalar read of `n` bytes: the bytes and the state after the access, or the trap (05 R144, R145). -/
def load (s : State) (va : Word) (n : Nat) : Except (Nat × State) (List Byte × State) :=
  let a := s.agent s.cur
  match check s a .load va.toNat n with
  | .error c => .error (c, noteRead s (resolve s a .load va.toNat))
  | .ok r =>
    .ok (readAccess (tagAt (touch (noteRead s (.ok r)) a .load va.toNat) s.me r.place) false r n)

/-- A checked scalar write of bytes (05 R144, R145). -/
def store (s : State) (va : Word) (b : List Byte) : Except Nat State :=
  let a := s.agent s.cur
  match check s a .store va.toNat b.length with
  | .error c => .error c
  | .ok r =>
    let t := tagAt (touch s a .store va.toNat) s.me r.place
    let w := writeAccess t false [(r, b)]
    .ok (if w.2.isEmpty then w.1 else storePlace w.1 r.place b)

/-- The memory location behind an address of the executing hart, for a wait or a barrier. -/
def locOf (r : Resolved) : Nat := r.place.loc

end Sys2Proof.Machine
end

