-- ==== Sys2Proof/Machine/Flags.lean ====
section
/-! DEFINITION. Flag computations: FFLAGS (03 R84; 12 R311), the effective rounding mode (12 R307) and ACCST (03 R85). -/

namespace Sys2Proof.Machine

/-- FFLAGS gains flags; hardware only ever sets them (03 R84). -/
def Hart.raise (x : Hart) (g : Flags) : Hart := { x with fflags := x.fflags ||| g }

/-- The effective rounding mode of an RM field: FRM when RM is 0, none while FRM holds 5 to 7 (03 R84; 04 R106). -/
def roundingMode (x : Hart) (rm : BitVec 3) : Option Nat :=
  if rm = 0 then if x.frm.toNat < 5 then some x.frm.toNat else none else some (rm.toNat - 1)

/-- ACCST as hart `h` reads it: a bank it does not own reads 0 (03 R85; 08 R208). -/
def accst (s : State) (h : Nat) : Word :=
  let o (b : Nat) := ownsBank s h b
  let v (b : Nat) := o b && Tab.get false (s.core (coreOf h)).bankOvf b
  flag (o 1) <<< 9 ||| flag (o 0) <<< 8 ||| flag (v 1) <<< 1 ||| flag (v 0)

/-- Sets or clears the overflow flag of a bank (03 R85; 12 R318). -/
def setOvf (s : State) (h b : Nat) (v : Bool) : State :=
  let c := s.core (coreOf h)
  s.setCore (coreOf h) { c with bankOvf := Tab.set false b v c.bankOvf }

end Sys2Proof.Machine
end

