-- ==== Sys2Proof/Machine/Scalar.lean ====
section
/-! DEFINITION. Scalar integer instructions, constants and selection (05 R117 to R125). -/

namespace Sys2Proof.Machine

/-- A scalar instruction that writes one register and falls through (05 R117). -/
def scalarResult (s : State) (d : Reg) (v : Word) : Res :=
  unchained s fun s => .next (finishWith s fun x => x.writeS d v)

/-- Signed quotient, truncated (05 R121). -/
def aluDiv (a b : Word) : Word :=
  if b = 0 then BitVec.allOnes 64
  else if a = BitVec.intMin 64 ∧ b = BitVec.allOnes 64 then a
  else BitVec.ofInt 64 (a.toInt.tdiv b.toInt)

/-- Signed remainder, with the sign of the dividend (05 R121). -/
def aluRem (a b : Word) : Word :=
  if b = 0 then a
  else if a = BitVec.intMin 64 ∧ b = BitVec.allOnes 64 then 0
  else BitVec.ofInt 64 (a.toInt.tmod b.toInt)

/-- Natural quotient (05 R121). -/
def aluDivn (a b : Word) : Word := if b = 0 then BitVec.allOnes 64 else BitVec.ofNat 64 (a.toNat / b.toNat)

/-- Natural remainder (05 R121). -/
def aluRemn (a b : Word) : Word := if b = 0 then a else BitVec.ofNat 64 (a.toNat % b.toNat)

/-- The low 8, 16 or 32 bits, sign-extended (05 R119, R120). -/
def aluSext (w : Reg) (a : Word) : Word := BitVec.ofInt 64 (signed (8 * 2 ^ w.toNat) a.toNat)

/-- The low 8, 16 or 32 bits, zero-extended (05 R119, R120). -/
def aluZext (w : Reg) (a : Word) : Word := BitVec.ofNat 64 (a.toNat % 2 ^ (8 * 2 ^ w.toNat))

/-- A 16-bit immediate, sign-extended (05 R122). -/
def sextImm (imm : BitVec 16) : Word := imm.signExtend 64
/-- A 16-bit immediate, zero-extended (05 R122). -/
def zextImm (imm : BitVec 16) : Word := imm.zeroExtend 64

/-- The value of `add`: the 64-bit sum (05 R120). -/
def aluAddV (a b : Word) : Word := a + b
/-- The value of `sub`: the difference (05 R120). -/
def aluSubV (a b : Word) : Word := a - b
/-- The value of `mul`: bits [63:0] of the product (05 R120). -/
def aluMulV (a b : Word) : Word := a * b
/-- The value of `mulh`: bits [127:64] of the signed product (05 R120). -/
def aluMulhV (a b : Word) : Word := BitVec.ofInt 64 (a.toInt * b.toInt / 2 ^ 64)
/-- The value of `mulhn`: bits [127:64] of the natural product (05 R120). -/
def aluMulhnV (a b : Word) : Word := BitVec.ofNat 64 (a.toNat * b.toNat / 2 ^ 64)
/-- The value of `div`: signed quotient (R121) (05 R120). -/
def aluDivV (a b : Word) : Word := aluDiv a b
/-- The value of `divn`: natural quotient (R121) (05 R120). -/
def aluDivnV (a b : Word) : Word := aluDivn a b
/-- The value of `rem`: signed remainder (R121) (05 R120). -/
def aluRemV (a b : Word) : Word := aluRem a b
/-- The value of `remn`: natural remainder (R121) (05 R120). -/
def aluRemnV (a b : Word) : Word := aluRemn a b
/-- The value of `and`: bitwise AND (05 R120). -/
def aluAndV (a b : Word) : Word := a &&& b
/-- The value of `or`: bitwise OR (05 R120). -/
def aluOrV (a b : Word) : Word := a ||| b
/-- The value of `xor`: bitwise XOR (05 R120). -/
def aluXorV (a b : Word) : Word := a ^^^ b
/-- The value of `shl`: left shift by b[5:0] (05 R120). -/
def aluShlV (a b : Word) : Word := a <<< (b.toNat % 64)
/-- The value of `shr`: right shift by b[5:0], zeros entering (05 R120). -/
def aluShrV (a b : Word) : Word := a >>> (b.toNat % 64)
/-- The value of `sra`: right shift by b[5:0], sign entering (05 R120). -/
def aluSraV (a b : Word) : Word := a.sshiftRight (b.toNat % 64)
/-- The value of `rot`: right rotation by b[5:0] (05 R120). -/
def aluRotV (a b : Word) : Word := a.rotateRight (b.toNat % 64)
/-- The value of `slt`: signed less-than (05 R120). -/
def aluSltV (a b : Word) : Word := flag (a.slt b)
/-- The value of `sltn`: natural less-than (05 R120). -/
def aluSltnV (a b : Word) : Word := flag (a.ult b)
/-- The value of `min`: signed minimum (05 R120). -/
def aluMinV (a b : Word) : Word := if a.slt b then a else b
/-- The value of `max`: signed maximum (05 R120). -/
def aluMaxV (a b : Word) : Word := if a.slt b then b else a
/-- The value of `minn`: natural minimum (05 R120). -/
def aluMinnV (a b : Word) : Word := if a.ult b then a else b
/-- The value of `maxn`: natural maximum (05 R120). -/
def aluMaxnV (a b : Word) : Word := if a.ult b then b else a
/-- The value of `clmul`: low half of the carry-less product (05 R120). -/
def aluClmulV (a b : Word) : Word := BitVec.ofNat 64 (clmulNat 64 a.toNat b.toNat)
/-- The value of `clmulh`: high half of the carry-less product (05 R120). -/
def aluClmulhV (a b : Word) : Word := BitVec.ofNat 64 (clmulNat 64 a.toNat b.toNat / 2 ^ 64)

/-- `add sd, sa, sb` (05 R120). -/
def execAdd (d a b : Reg) (s : State) : Res :=
  scalarResult s d (aluAddV (s.me.readS a) (s.me.readS b))
/-- `sub sd, sa, sb` (05 R120). -/
def execSub (d a b : Reg) (s : State) : Res :=
  scalarResult s d (aluSubV (s.me.readS a) (s.me.readS b))
/-- `mul sd, sa, sb` (05 R120). -/
def execMul (d a b : Reg) (s : State) : Res :=
  scalarResult s d (aluMulV (s.me.readS a) (s.me.readS b))
/-- `mulh sd, sa, sb` (05 R120). -/
def execMulh (d a b : Reg) (s : State) : Res :=
  scalarResult s d (aluMulhV (s.me.readS a) (s.me.readS b))
/-- `mulhn sd, sa, sb` (05 R120). -/
def execMulhn (d a b : Reg) (s : State) : Res :=
  scalarResult s d (aluMulhnV (s.me.readS a) (s.me.readS b))
/-- `div sd, sa, sb` (05 R120). -/
def execDiv (d a b : Reg) (s : State) : Res :=
  scalarResult s d (aluDivV (s.me.readS a) (s.me.readS b))
/-- `divn sd, sa, sb` (05 R120). -/
def execDivn (d a b : Reg) (s : State) : Res :=
  scalarResult s d (aluDivnV (s.me.readS a) (s.me.readS b))
/-- `rem sd, sa, sb` (05 R120). -/
def execRem (d a b : Reg) (s : State) : Res :=
  scalarResult s d (aluRemV (s.me.readS a) (s.me.readS b))
/-- `remn sd, sa, sb` (05 R120). -/
def execRemn (d a b : Reg) (s : State) : Res :=
  scalarResult s d (aluRemnV (s.me.readS a) (s.me.readS b))
/-- `and sd, sa, sb` (05 R120). -/
def execAnd (d a b : Reg) (s : State) : Res :=
  scalarResult s d (aluAndV (s.me.readS a) (s.me.readS b))
/-- `or sd, sa, sb` (05 R120). -/
def execOr (d a b : Reg) (s : State) : Res :=
  scalarResult s d (aluOrV (s.me.readS a) (s.me.readS b))
/-- `xor sd, sa, sb` (05 R120). -/
def execXor (d a b : Reg) (s : State) : Res :=
  scalarResult s d (aluXorV (s.me.readS a) (s.me.readS b))
/-- `shl sd, sa, sb` (05 R120). -/
def execShl (d a b : Reg) (s : State) : Res :=
  scalarResult s d (aluShlV (s.me.readS a) (s.me.readS b))
/-- `shr sd, sa, sb` (05 R120). -/
def execShr (d a b : Reg) (s : State) : Res :=
  scalarResult s d (aluShrV (s.me.readS a) (s.me.readS b))
/-- `sra sd, sa, sb` (05 R120). -/
def execSra (d a b : Reg) (s : State) : Res :=
  scalarResult s d (aluSraV (s.me.readS a) (s.me.readS b))
/-- `rot sd, sa, sb` (05 R120). -/
def execRot (d a b : Reg) (s : State) : Res :=
  scalarResult s d (aluRotV (s.me.readS a) (s.me.readS b))
/-- `slt sd, sa, sb` (05 R120). -/
def execSlt (d a b : Reg) (s : State) : Res :=
  scalarResult s d (aluSltV (s.me.readS a) (s.me.readS b))
/-- `sltn sd, sa, sb` (05 R120). -/
def execSltn (d a b : Reg) (s : State) : Res :=
  scalarResult s d (aluSltnV (s.me.readS a) (s.me.readS b))
/-- `min sd, sa, sb` (05 R120). -/
def execMin (d a b : Reg) (s : State) : Res :=
  scalarResult s d (aluMinV (s.me.readS a) (s.me.readS b))
/-- `max sd, sa, sb` (05 R120). -/
def execMax (d a b : Reg) (s : State) : Res :=
  scalarResult s d (aluMaxV (s.me.readS a) (s.me.readS b))
/-- `minn sd, sa, sb` (05 R120). -/
def execMinn (d a b : Reg) (s : State) : Res :=
  scalarResult s d (aluMinnV (s.me.readS a) (s.me.readS b))
/-- `maxn sd, sa, sb` (05 R120). -/
def execMaxn (d a b : Reg) (s : State) : Res :=
  scalarResult s d (aluMaxnV (s.me.readS a) (s.me.readS b))
/-- `clmul sd, sa, sb` (05 R120). -/
def execClmul (d a b : Reg) (s : State) : Res :=
  scalarResult s d (aluClmulV (s.me.readS a) (s.me.readS b))
/-- `clmulh sd, sa, sb` (05 R120). -/
def execClmulh (d a b : Reg) (s : State) : Res :=
  scalarResult s d (aluClmulhV (s.me.readS a) (s.me.readS b))
/-- The value of `clz`: zero bits above the highest set bit (05 R120). -/
def aluClzV (a : Word) : Word := BitVec.ofNat 64 (clzNat 64 a.toNat)
/-- `clz sd, sa` (05 R120). -/
def execClz (d a : Reg) (s : State) : Res := scalarResult s d (aluClzV (s.me.readS a))
/-- The value of `ctz`: zero bits below the lowest set bit (05 R120). -/
def aluCtzV (a : Word) : Word := BitVec.ofNat 64 (ctzNat 64 0 a.toNat)
/-- `ctz sd, sa` (05 R120). -/
def execCtz (d a : Reg) (s : State) : Res := scalarResult s d (aluCtzV (s.me.readS a))
/-- The value of `pop`: set bits (05 R120). -/
def aluPopV (a : Word) : Word := BitVec.ofNat 64 (popNat 64 a.toNat)
/-- `pop sd, sa` (05 R120). -/
def execPop (d a : Reg) (s : State) : Res := scalarResult s d (aluPopV (s.me.readS a))
/-- `sext sd, sa` with the width code in W (05 R119, R120). -/
def execSext (d a w : Reg) (s : State) : Res := scalarResult s d (aluSext w (s.me.readS a))
/-- `zext sd, sa` with the width code in W (05 R119, R120). -/
def execZext (d a w : Reg) (s : State) : Res := scalarResult s d (aluZext w (s.me.readS a))
/-- `addi sd, sa, imm` (05 R122). -/
def execAddi (d a : Reg) (imm : BitVec 16) (s : State) : Res :=
  scalarResult s d (aluAddV (s.me.readS a) (sextImm imm))
/-- `andi sd, sa, imm` (05 R122). -/
def execAndi (d a : Reg) (imm : BitVec 16) (s : State) : Res :=
  scalarResult s d (aluAndV (s.me.readS a) (zextImm imm))
/-- `ori sd, sa, imm` (05 R122). -/
def execOri (d a : Reg) (imm : BitVec 16) (s : State) : Res :=
  scalarResult s d (aluOrV (s.me.readS a) (zextImm imm))
/-- `xori sd, sa, imm` (05 R122). -/
def execXori (d a : Reg) (imm : BitVec 16) (s : State) : Res :=
  scalarResult s d (aluXorV (s.me.readS a) (zextImm imm))
/-- `shli sd, sa, imm` (05 R122). -/
def execShli (d a : Reg) (imm : BitVec 16) (s : State) : Res :=
  scalarResult s d (aluShlV (s.me.readS a) (zextImm imm))
/-- `shri sd, sa, imm` (05 R122). -/
def execShri (d a : Reg) (imm : BitVec 16) (s : State) : Res :=
  scalarResult s d (aluShrV (s.me.readS a) (zextImm imm))
/-- `srai sd, sa, imm` (05 R122). -/
def execSrai (d a : Reg) (imm : BitVec 16) (s : State) : Res :=
  scalarResult s d (aluSraV (s.me.readS a) (zextImm imm))
/-- `slti sd, sa, imm` (05 R122). -/
def execSlti (d a : Reg) (imm : BitVec 16) (s : State) : Res :=
  scalarResult s d (aluSltV (s.me.readS a) (sextImm imm))
/-- `limm sd, imm` (05 R123). -/
def execLimm (d : Reg) (imm : BitVec 48) (s : State) : Res := scalarResult s d (imm.signExtend 64)
/-- `addpc sd, target`: the address of the addpc head itself, qualified or not (05 R124). -/
def execAddpc (d : Reg) (imm : BitVec 32) (s : State) : Res := scalarResult s d (s.me.pc + imm.signExtend 64)
/-- `sel sd, sc, sa, sb` (05 R125). -/
def execSel (d c a b : Reg) (s : State) : Res :=
  scalarResult s d (if s.me.readS c ≠ 0 then s.me.readS a else s.me.readS b)

end Sys2Proof.Machine
end

