-- ==== Sys2Proof/Machine/ScalarFp.lean ====
section
/-! DEFINITION. Scalar floating point (05 R126 to R129). -/

namespace Sys2Proof.Machine

/-- An arithmetic function on one format: box the result, gain the flags (05 R127). -/
def scalarFp (s : State) (o : VAOps) (f : Fmt → Nat → FP → FP → FP → Nat × Flags) : Res :=
  unchained s fun s =>
    let x := s.me
    let m := fmtOf o.ty.toNat
    match roundingMode x o.rm with
    | none => .next (illegal s)
    | some rm =>
      let rd (r : Reg) : FP := unbox m (x.readF r).toNat
      let r := f m rm (rd o.y) (rd o.z) (rd o.w)
      .next (finishWith s fun x => (x.writeF o.x (box m r.1)).raise r.2)

/-- `fadd` (05 R127). -/
def execFadd (o : VAOps) (s : State) : Res := scalarFp s o fun f rm a b _ => fpAdd f rm a b
/-- `fsub` (05 R127). -/
def execFsub (o : VAOps) (s : State) : Res := scalarFp s o fun f rm a b _ => fpAdd f rm a (fpNeg b)
/-- `fmul` (05 R127). -/
def execFmul (o : VAOps) (s : State) : Res := scalarFp s o fun f rm a b _ => fpProd f rm a b
/-- `ffma`, one rounding (05 R127). -/
def execFfma (o : VAOps) (s : State) : Res := scalarFp s o fun f rm a b c => fpDot f rm [(a, b)] c

/-- The value of integer type `ty` in the low bits of a word (05 R128; 12 R312). -/
def intOf (ty : Nat) (v : Nat) : Int :=
  if ty < 4 then signed (8 * 2 ^ ty) v else ((v % 2 ^ (8 * 2 ^ (ty - 4)) : Nat) : Int)

/-- `fcvt.D.S` (05 R128): between formats, to and from integers, and the two raw moves. -/
def execFcvt (o : VAOps) (s : State) : Res :=
  unchained s fun s =>
    let x := s.me
    let d := o.ty.toNat
    let src := o.w.toNat
    if src = 7 ∧ d = 7 then .next (finishWith s fun x => x.writeF o.x (x.readS o.y))
    else if src = 3 ∧ d = 3 then .next (finishWith s fun x => x.writeS o.x (x.readF o.y))
    else
      match roundingMode x o.rm with
      | none => .next (illegal s)
      | some rm =>
        if 8 ≤ src ∧ 8 ≤ d then
          let r := fpConvert (fmtOf d) rm (unbox (fmtOf src) (x.readF o.y).toNat)
          .next (finishWith s fun x => (x.writeF o.x (box (fmtOf d) r.1)).raise r.2)
        else if 8 ≤ src then
          let r := fpToInt d rm false (unbox (fmtOf src) (x.readF o.y).toNat)
          .next (finishWith s fun x => (x.writeS o.x (BitVec.ofInt 64 r.1)).raise r.2)
        else
          let r := fpDeliver (fmtOf d) rm (fpOfInt (intOf src (x.readS o.y).toNat))
          .next (finishWith s fun x => (x.writeF o.x (box (fmtOf d) r.1)).raise r.2)

/-- `fcmp.T.cc sd, fa, fb` (05 R129). -/
def execFcmp (o : VAOps) (s : State) : Res :=
  unchained s fun s =>
    let x := s.me
    let m := fmtOf o.ty.toNat
    let a := unbox m (x.readF o.y).toNat
    let b := unbox m (x.readF o.z).toNat
    let sg := sigFlag a ||| sigFlag b
    let un := isNan a || isNan b
    let r : Bool × Flags :=
      match o.w.toNat with
      | 0 => (fpEq a b, sg)
      | 1 => (fpLt a b, if un then fNV else 0)
      | 2 => (fpLt a b || fpEq a b, if un then fNV else 0)
      | _ => (un, sg)
    .next (finishWith s fun x => (x.writeS o.x (flag r.1)).raise r.2)

end Sys2Proof.Machine
end

