-- ==== Sys2Proof/Machine/LoadStore.lean ====
section
/-! DEFINITION. Scalar loads, stores, prefetch (05 R141 to R147) and scalar atomics (10 R240 to R242). -/

namespace Sys2Proof.Machine

/-- The effective address sa + sext(OFF) (05 R141). -/
def smAddr (x : Hart) (o : SMOps) : Word := x.readS o.y + o.off.signExtend 64

/-- Bytes of a WIDTH (05 R142). -/
def widthBytes (w : BitVec 3) : Nat := 2 ^ (w.toNat % 4)

/-- What a load writes (05 R142). -/
def loadResult (x : Hart) (o : SMOps) (v : Nat) : Hart :=
  if o.fr then
    match o.width.toNat with
    | 5 => x.writeF o.x (box (fmtOf 8) v)
    | 6 => x.writeF o.x (box (fmtOf 10) v)
    | _ => x.writeF o.x (BitVec.ofNat 64 v)
  else if o.width.toNat < 4 then x.writeS o.x (BitVec.ofInt 64 (signed (8 * widthBytes o.width) v))
  else x.writeS o.x (BitVec.ofNat 64 v)

/-- The place at which a checked access may wait in a queue of its stream (13 R323, R324): any but a derived one, whose decode
could then be bad. A queued load meets no poison, since what poisons memory first has every queue performed (16 R420; log 4). -/
def queueable (r : Except Nat Resolved) : Option Place :=
  match r with
  | .ok ⟨.derived _, _⟩ => none
  | .ok ⟨p, _⟩ => some p
  | .error _ => none

/-- A load as it waits in the scalar queue (05 R142). -/
def queuedLoad (o : SMOps) (p : Place) : Pending :=
  if o.fr then
    .toFp p o.x (widthBytes o.width)
      (match o.width.toNat with | 5 => box (fmtOf 8) 0 | 6 => box (fmtOf 10) 0 | _ => 0)
  else .toScalar p o.x (widthBytes o.width) (decide (o.width.toNat < 4))

/-- `ld` that is performed in its own step (05 R142, R144). -/
def loadNow (o : SMOps) (s : State) : Res :=
  let va := smAddr s.me o
  match load s va (widthBytes o.width) with
  | .error (c, s) => .next (trap s c va)
  | .ok (b, s) => .next (finishWith s fun x => loadResult x o (leNat b))

/-- A load's destination is a name that a running loopm rotates (05 R139), whose value must have its place before the loop's
end (log 4). -/
def rotates (x : Hart) (o : SMOps) : Bool :=
  !o.fr && decide (24 ≤ o.x.toNat) && (x.lc0.busy && x.lc0.modulo || x.lc1.busy && x.lc1.modulo)

/-- `ld` of a hart that leaves its accesses to the scalar queue (13 R324); one that cannot wait there follows those that do (13
R335). -/
def loadLater (o : SMOps) (s : State) : Res :=
  let va := smAddr s.me o
  let n := widthBytes o.width
  match queueable (check s (s.agent s.cur) .load va.toNat n), load s va n with
  | some p, .ok (_, t) =>
    if rotates s.me o then loadNow o (performQueue s s.cur false)
    else .next (finish (enqueueAccess t false [queuedLoad o p]))
  | _, _ => loadNow o (performQueue s s.cur false)

/-- The scalar stream of the executing hart leaves its accesses to its queue: none that it has performed before its turn comes
first (13 R324; log 4). -/
def scalarLags (s : State) : Bool := s.me.lag && (early s s.cur false).isEmpty

/-- `ld` (05 R142, R144, R145). -/
def execLd (o : SMOps) (s : State) : Res :=
  unchained s fun s => if scalarLags s then loadLater o s else loadNow o s

/-- The bytes that `st` writes (05 R143). -/
def storeBytes (x : Hart) (o : SMOps) : List Byte :=
  leBytes (widthBytes o.width) (if o.fr then x.readF o.x else x.readS o.x).toNat

/-- `st` that is performed in its own step (05 R143, R144). -/
def storeNow (o : SMOps) (s : State) : Res :=
  let va := smAddr s.me o
  match store s va (storeBytes s.me o) with
  | .error c => .next (trap s c va)
  | .ok s => .next (finish s)

/-- `st` of a hart that leaves its accesses to the scalar queue (13 R324). -/
def storeLater (o : SMOps) (s : State) : Res :=
  let va := smAddr s.me o
  let a := s.agent s.cur
  match check s a .store va.toNat (widthBytes o.width) with
  | .ok r =>
    match queueable (.ok r) with
    | some p =>
      let t := tagAt (touch s a .store va.toNat) s.me r.place
      .next (finish (enqueueAccess (freshAccess t false) false [.store p (storeBytes s.me o)]))
    | none => storeNow o (performQueue s s.cur false)
  | .error _ => storeNow o (performQueue s s.cur false)

/-- `st` (05 R143 to R146). -/
def execSt (o : SMOps) (s : State) : Res :=
  unchained s fun s => if scalarLags s then storeLater o s else storeNow o s

/-- `pref`: a hint that never traps and changes no value that an agent can read (05 R147). It breaks an open chain group, and is
never misaligned, having no access size (the model's choices: log 82). -/
def execPref (o : SMOps) (s : State) : Res :=
  unchained s fun s =>
    let va := smAddr s.me o
    match check s (s.agent s.cur) .load va.toNat 1 with
    | .ok r => if r.cls = .io then .next (finish s) else .next (finish (tagAt s s.me r.place))
    | .error _ => .next (finish s)

/-- The old value as `amo` and `cas` write it (10 R241). -/
def atomicWiden (op n old : Nat) : Word :=
  if n = 4 ∧ op ≠ 6 ∧ op ≠ 7 ∧ op ≠ 9 then BitVec.ofInt 64 (signed 32 old) else BitVec.ofNat 64 old

/-- One single-copy atomic read-modify-write at sa (10 R241, R242): `f` gives the new value, none for no write. -/
def atomic (s : State) (d : Reg) (va : Word) (n op : Nat) (f : Nat → Option Nat × Flags) : Res :=
  unchained s fun s =>
    let a := s.agent s.cur
    match check s a .atomic va.toNat n with
    | .error c => .next (trap s c va)
    | .ok r =>
      let old := leNat (readPlace s r.place n)
      let s := touch s a .atomic va.toNat
      let s := match (f old).1 with | some v => storePlace s r.place (leBytes n v) | none => s
      .next (finishWith s fun x => (x.writeS d (atomicWiden op n old)).raise (f old).2)

/-- An `amo` of one op code. -/
def amoOf (op : Nat) (d a v : Reg) (sz : Bool) (s : State) : Res :=
  let n := if sz then 8 else 4
  atomic s d (s.me.readS a) n op fun old =>
    let r := atomicOp op n old (s.me.readS v).toNat
    (some r.1, r.2)

/-- `amo.add` (10 R241). -/
def execAmoAdd (d a v : Reg) (sz : Bool) (s : State) : Res := amoOf 0 d a v sz s
/-- `amo.and` (10 R241). -/
def execAmoAnd (d a v : Reg) (sz : Bool) (s : State) : Res := amoOf 1 d a v sz s
/-- `amo.or` (10 R241). -/
def execAmoOr (d a v : Reg) (sz : Bool) (s : State) : Res := amoOf 2 d a v sz s
/-- `amo.xor` (10 R241). -/
def execAmoXor (d a v : Reg) (sz : Bool) (s : State) : Res := amoOf 3 d a v sz s
/-- `amo.min` (10 R241). -/
def execAmoMin (d a v : Reg) (sz : Bool) (s : State) : Res := amoOf 4 d a v sz s
/-- `amo.max` (10 R241). -/
def execAmoMax (d a v : Reg) (sz : Bool) (s : State) : Res := amoOf 5 d a v sz s
/-- `amo.minn` (10 R241). -/
def execAmoMinn (d a v : Reg) (sz : Bool) (s : State) : Res := amoOf 6 d a v sz s
/-- `amo.maxn` (10 R241). -/
def execAmoMaxn (d a v : Reg) (sz : Bool) (s : State) : Res := amoOf 7 d a v sz s
/-- `amo.swap` (10 R241). -/
def execAmoSwap (d a v : Reg) (sz : Bool) (s : State) : Res := amoOf 8 d a v sz s
/-- `amo.fadd` (10 R241). -/
def execAmoFadd (d a v : Reg) (sz : Bool) (s : State) : Res := amoOf 9 d a v sz s
/-- `cas`: a failed comparison writes nothing (10 R241). -/
def execCas (d a e n : Reg) (sz : Bool) (s : State) : Res :=
  let b := if sz then 8 else 4
  atomic s d (s.me.readS a) b 8 fun old =>
    (if old = (s.me.readS e).toNat % 2 ^ (8 * b) then some ((s.me.readS n).toNat % 2 ^ (8 * b)) else none, 0)

end Sys2Proof.Machine
end

