-- ==== Sys2Proof/Machine/Crypto.lean ====
section
/-! DEFINITION. The two functions of other standards that the spec names and does not repeat (15 R394 to R398; log 8): SHA-512
(FIPS 180-4) and Ed25519 (RFC 8032). -/

namespace Sys2Proof.Machine

/-! SHA-512. -/

/-- Round constants 0 to 19 of SHA-512. -/
def shaRounds0 : List Word := [
  0x428a2f98d728ae22, 0x7137449123ef65cd, 0xb5c0fbcfec4d3b2f, 0xe9b5dba58189dbbc, 0x3956c25bf348b538,
  0x59f111f1b605d019, 0x923f82a4af194f9b, 0xab1c5ed5da6d8118, 0xd807aa98a3030242, 0x12835b0145706fbe,
  0x243185be4ee4b28c, 0x550c7dc3d5ffb4e2, 0x72be5d74f27b896f, 0x80deb1fe3b1696b1, 0x9bdc06a725c71235,
  0xc19bf174cf692694, 0xe49b69c19ef14ad2, 0xefbe4786384f25e3, 0x0fc19dc68b8cd5b5, 0x240ca1cc77ac9c65]

/-- Round constants 20 to 39 of SHA-512. -/
def shaRounds1 : List Word := [
  0x2de92c6f592b0275, 0x4a7484aa6ea6e483, 0x5cb0a9dcbd41fbd4, 0x76f988da831153b5, 0x983e5152ee66dfab,
  0xa831c66d2db43210, 0xb00327c898fb213f, 0xbf597fc7beef0ee4, 0xc6e00bf33da88fc2, 0xd5a79147930aa725,
  0x06ca6351e003826f, 0x142929670a0e6e70, 0x27b70a8546d22ffc, 0x2e1b21385c26c926, 0x4d2c6dfc5ac42aed,
  0x53380d139d95b3df, 0x650a73548baf63de, 0x766a0abb3c77b2a8, 0x81c2c92e47edaee6, 0x92722c851482353b]

/-- Round constants 40 to 59 of SHA-512. -/
def shaRounds2 : List Word := [
  0xa2bfe8a14cf10364, 0xa81a664bbc423001, 0xc24b8b70d0f89791, 0xc76c51a30654be30, 0xd192e819d6ef5218,
  0xd69906245565a910, 0xf40e35855771202a, 0x106aa07032bbd1b8, 0x19a4c116b8d2d0c8, 0x1e376c085141ab53,
  0x2748774cdf8eeb99, 0x34b0bcb5e19b48a8, 0x391c0cb3c5c95a63, 0x4ed8aa4ae3418acb, 0x5b9cca4f7763e373,
  0x682e6ff3d6b2b8a3, 0x748f82ee5defb2fc, 0x78a5636f43172f60, 0x84c87814a1f0ab72, 0x8cc702081a6439ec]

/-- Round constants 60 to 79 of SHA-512. -/
def shaRounds3 : List Word := [
  0x90befffa23631e28, 0xa4506cebde82bde9, 0xbef9a3f7b2c67915, 0xc67178f2e372532b, 0xca273eceea26619c,
  0xd186b8c721c0c207, 0xeada7dd6cde0eb1e, 0xf57d4f7fee6ed178, 0x06f067aa72176fba, 0x0a637dc5a2c898a6,
  0x113f9804bef90dae, 0x1b710b35131c471b, 0x28db77f523047d84, 0x32caab7b40c72493, 0x3c9ebe0a15c9bebc,
  0x431d67c49c100d4c, 0x4cc5d4becb3e42b6, 0x597f299cfc657e2a, 0x5fcb6fab3ad6faec, 0x6c44198c4a475817]

/-- The 80 round constants of SHA-512. -/
def shaRounds : List Word := shaRounds0 ++ shaRounds1 ++ shaRounds2 ++ shaRounds3

/-- The eight working variables of SHA-512, or its intermediate hash value. -/
structure ShaState where
  a : Word
  b : Word
  c : Word
  d : Word
  e : Word
  f : Word
  g : Word
  h : Word
  deriving DecidableEq, Repr

/-- The initial hash value. -/
def shaInit : ShaState where
  a := 0x6a09e667f3bcc908
  b := 0xbb67ae8584caa73b
  c := 0x3c6ef372fe94f82b
  d := 0xa54ff53a5f1d36f1
  e := 0x510e527fade682d1
  f := 0x9b05688c2b3e6c1f
  g := 0x1f83d9abfb41bd6b
  h := 0x5be0cd19137e2179

/-- A number of 8 bytes, most significant first. -/
def wordBE (l : List Byte) : Word := l.foldl (fun w b => w <<< 8 ||| b.zeroExtend 64) 0

/-- The bytes of a word, most significant first. -/
def bytesBE (w : Word) : List Byte := (List.range 8).map fun i => (w >>> (56 - 8 * i)).truncate 8

/-- A message with its padding and its length in bits. -/
def shaPad (l : List Byte) : List Byte :=
  let n := l.length
  l ++ [0x80] ++ List.replicate ((239 - n % 128) % 128) 0 ++ bytesBE (BitVec.ofNat 64 (8 * n / 2 ^ 64))
    ++ bytesBE (BitVec.ofNat 64 (8 * n))

/-- `n` more words of a message schedule, whose words so far are `l`, the latest first. -/
def shaExtend : Nat → List Word → List Word
  | 0, l => l
  | n + 1, l =>
    let x := l.getD 14 0
    let y := l.getD 1 0
    let s0 := x.rotateRight 1 ^^^ x.rotateRight 8 ^^^ x >>> 7
    let s1 := y.rotateRight 19 ^^^ y.rotateRight 61 ^^^ y >>> 6
    shaExtend n ((s1 + l.getD 6 0 + s0 + l.getD 15 0) :: l)

/-- The message schedule of a block of 128 bytes. -/
def shaSchedule (b : List Byte) : List Word :=
  (shaExtend 64 ((List.range 16).map fun i => wordBE ((b.drop (8 * i)).take 8)).reverse).reverse

/-- One round with constant `k` and schedule word `w`. -/
def shaRound (s : ShaState) (k w : Word) : ShaState :=
  let s1 := s.e.rotateRight 14 ^^^ s.e.rotateRight 18 ^^^ s.e.rotateRight 41
  let t1 := s.h + s1 + ((s.e &&& s.f) ^^^ (~~~s.e &&& s.g)) + k + w
  let s0 := s.a.rotateRight 28 ^^^ s.a.rotateRight 34 ^^^ s.a.rotateRight 39
  let t2 := s0 + ((s.a &&& s.b) ^^^ (s.a &&& s.c) ^^^ (s.b &&& s.c))
  ⟨t1 + t2, s.a, s.b, s.c, s.d + t1, s.e, s.f, s.g⟩

/-- The hash value after a block. -/
def shaBlock (s : ShaState) (b : List Byte) : ShaState :=
  let r := (List.zip shaRounds (shaSchedule b)).foldl (fun r e => shaRound r e.1 e.2) s
  ⟨s.a + r.a, s.b + r.b, s.c + r.c, s.d + r.d, s.e + r.e, s.f + r.f, s.g + r.g, s.h + r.h⟩

/-- The 64 bytes of the SHA-512 digest of a message (FIPS 180-4). -/
def sha512 (l : List Byte) : List Byte :=
  let m := shaPad l
  let s := (List.range (m.length / 128)).foldl (fun s i => shaBlock s ((m.drop (128 * i)).take 128)) shaInit
  [s.a, s.b, s.c, s.d, s.e, s.f, s.g, s.h].flatMap bytesBE

/-- The digest as the 512-bit number whose bytes, the least significant first, it is. -/
def digest (l : List Byte) : BitVec 512 := BitVec.ofNat 512 (leNat (sha512 l))

/-! Ed25519. -/

/-- The field prime 2^255 − 19. -/
def edPrime : Nat := 2 ^ 255 - 19
/-- The order of the base point. -/
def edOrder : Nat := 2 ^ 252 + 27742317777372353535851937790883648493
/-- The curve constant −121665 / 121666. -/
def edD : Nat := 0x52036cee2b6ffe738cc740797779e89800700a4d4141d8ab75eb4dca135978a3
/-- A square root of −1. -/
def edRoot : Nat := 0x2b8324804fc1df0b2b4d00993dfbd7a72f431806ad2fe478c4ee1b274a0ea0b0

/-- A point in extended coordinates: x = X / Z, y = Y / Z, x y = T / Z. -/
structure EdPoint where
  x : Nat
  y : Nat
  z : Nat
  t : Nat
  deriving DecidableEq, Repr

/-- The neutral point. -/
def edZero : EdPoint := ⟨0, 1, 1, 0⟩
/-- The point with affine coordinates x and y. -/
def edAffine (x y : Nat) : EdPoint := ⟨x, y, 1, x * y % edPrime⟩
/-- The base point. -/
def edBase : EdPoint :=
  edAffine 0x216936d3cd6e53fec0a4e231fdd6dc5c692cc7609525a7b2c9562d608f25d51a
    0x6666666666666666666666666666666666666666666666666666666666666658

/-- The bits of a number below 2^256, the most significant first. -/
def bits256 (n : Nat) : List Bool := (List.range 256).map fun i => (n >>> (255 - i)) % 2 == 1

/-- A power in the field. -/
def edPow (a n : Nat) : Nat :=
  (bits256 n).foldl (fun r b => if b then r * r % edPrime * a % edPrime else r * r % edPrime) 1
/-- The inverse in the field. -/
def edInv (a : Nat) : Nat := edPow a (edPrime - 2)
/-- A difference in the field. -/
def edSub (a b : Nat) : Nat := (a + (edPrime - b % edPrime)) % edPrime

/-- The sum of two points (RFC 8032 5.1.4). -/
def edAdd (p q : EdPoint) : EdPoint :=
  let a := edSub p.y p.x * edSub q.y q.x % edPrime
  let b := (p.y + p.x) * (q.y + q.x) % edPrime
  let c := p.t * 2 * edD % edPrime * q.t % edPrime
  let d := p.z * 2 * q.z % edPrime
  let e := edSub b a
  let f := edSub d c
  let g := (d + c) % edPrime
  let h := (b + a) % edPrime
  ⟨e * f % edPrime, g * h % edPrime, f * g % edPrime, e * h % edPrime⟩

/-- A multiple of a point. -/
def edMul (n : Nat) (p : EdPoint) : EdPoint :=
  (bits256 n).foldl (fun r b => if b then edAdd (edAdd r r) p else edAdd r r) edZero

/-- The points are the same. -/
def edSame (p q : EdPoint) : Bool :=
  p.x * q.z % edPrime == q.x * p.z % edPrime && p.y * q.z % edPrime == q.y * p.z % edPrime

/-- The 32 bytes of a point (RFC 8032 5.1.2). -/
def edEncode (p : EdPoint) : List Byte :=
  let i := edInv p.z
  leBytes 32 (p.y * i % edPrime + p.x * i % edPrime % 2 * 2 ^ 255)

/-- The point that 32 bytes encode, if they encode one (RFC 8032 5.1.3). -/
def edDecode (l : List Byte) : Option EdPoint :=
  let n := leNat l
  let y := n % 2 ^ 255
  let sign := n / 2 ^ 255
  let u := edSub (y * y) 1
  let v := (edD * (y * y % edPrime) + 1) % edPrime
  let x := u * edPow v 3 % edPrime * edPow (u * edPow v 7 % edPrime) ((edPrime - 5) / 8) % edPrime
  let w := v * (x * x % edPrime) % edPrime
  let root := if w = u then some x else if w = edSub 0 u then some (x * edRoot % edPrime) else none
  match root with
  | none => none
  | some x =>
    if l.length ≠ 32 ∨ edPrime ≤ y ∨ (x = 0 ∧ sign = 1) then none
    else some (edAffine (if x % 2 = sign then x else edPrime - x) y)

/-- The secret scalar of a seed (RFC 8032 5.1.5). -/
def edScalar (seed : List Byte) : Nat :=
  let n := leNat ((sha512 seed).take 32)
  2 ^ 254 + n % 2 ^ 254 / 8 * 8

/-- The Ed25519 public key of a 32-byte seed (RFC 8032 5.1.5). -/
def ed25519Public (seed : List Byte) : List Byte := edEncode (edMul (edScalar seed) edBase)

/-- The Ed25519 signature of a message under a 32-byte seed (RFC 8032 5.1.6). -/
def ed25519Sign (seed m : List Byte) : List Byte :=
  let r := leNat (sha512 ((sha512 seed).drop 32 ++ m)) % edOrder
  let p := edEncode (edMul r edBase)
  let k := leNat (sha512 (p ++ ed25519Public seed ++ m)) % edOrder
  p ++ leBytes 32 ((r + k * edScalar seed) % edOrder)

/-- A signature over a message verifies under a public key, by the group equation with the cofactor (RFC 8032 5.1.7). -/
def ed25519Verify (key m sig : List Byte) : Bool :=
  match edDecode key, edDecode (sig.take 32) with
  | some a, some r =>
    let s := leNat (sig.drop 32)
    let k := leNat (sha512 (sig.take 32 ++ key ++ m)) % edOrder
    sig.length == 64 && decide (s < edOrder) && edSame (edMul (8 * s) edBase) (edMul 8 (edAdd r (edMul k a)))
  | _, _ => false

end Sys2Proof.Machine
end

