-- ==== Sys2Proof/Machine/Control.lean ====
section
/-! DEFINITION. Branches, jumps, calls and hardware loops (05 R130 to R140). -/

namespace Sys2Proof.Machine

/-- A conditional branch (05 R130): taken, it transfers and may end loops (R137); not taken, it checks nothing. -/
def branchOn (s : State) (taken : Bool) (t : Target) : Res :=
  unchained s fun s => .next (if taken then transfer s (branchTarget s.me.pc t) true id else finish s)

/-- `beq` (05 R130). -/
def execBeq (a b : Reg) (t : Target) (s : State) : Res := branchOn s (s.me.readS a == s.me.readS b) t
/-- `bne` (05 R130). -/
def execBne (a b : Reg) (t : Target) (s : State) : Res := branchOn s (s.me.readS a != s.me.readS b) t
/-- `blt`, signed (05 R130). -/
def execBlt (a b : Reg) (t : Target) (s : State) : Res := branchOn s ((s.me.readS a).slt (s.me.readS b)) t
/-- `bge`, signed (05 R130). -/
def execBge (a b : Reg) (t : Target) (s : State) : Res := branchOn s (!(s.me.readS a).slt (s.me.readS b)) t
/-- `bltn`, natural (05 R130). -/
def execBltn (a b : Reg) (t : Target) (s : State) : Res := branchOn s ((s.me.readS a).ult (s.me.readS b)) t
/-- `bgen`, natural (05 R130). -/
def execBgen (a b : Reg) (t : Target) (s : State) : Res := branchOn s (!(s.me.readS a).ult (s.me.readS b)) t

/-- `jmp target` (05 R131). -/
def execJmp (t : Target) (s : State) : Res := branchOn s true t

/-- `call target`: the following head to s31; a call never ends a loop (05 R131, R137). -/
def execCall (t : Target) (s : State) : Res :=
  unchained s fun s =>
    .next (transfer s (branchTarget s.me.pc t) false fun x => x.writeS 31 (following s.me))

/-- `jmpr sd, sa`: sa is read first, then the link is written (05 R132, R137). -/
def execJmpr (d a : Reg) (s : State) : Res :=
  unchained s fun s => .next (transfer s (s.me.readS a) (d == 0) fun x => x.writeS d (following s.me))

/-- The loop counter that a field names. -/
def counterOf (x : Hart) (c : Reg) : Loop := if c = 0 then x.lc0 else x.lc1
/-- Replaces the loop counter that a field names. -/
def setCounter (x : Hart) (c : Reg) (l : Loop) : Hart := if c = 0 then { x with lc0 := l } else { x with lc1 := l }

/-- A loop-starting instruction (05 R133 to R135): counter `c`, count `n`, END from `t`; `stages` for loopm. -/
def startLoop (s : State) (c : Reg) (n : Nat) (t : Target) (stages : Option Nat) : State :=
  let x := s.me
  let body := following x
  let fin := branchTarget x.pc t
  let l := counterOf x c
  if fin.toNat ≤ body.toNat then illegal s
  else if l.busy then trap s 0x10 (BitVec.ofNat 64 c.toNat)
  else
    match checkTarget s s.cur fin with
    | some (cause, e, _) => trap s cause e
    | none =>
      let total := match stages with | some k => n + k - 1 | none => n
      if n ≠ 0 ∧ 4294967295 < total then illegal s
      else if n = 0 then s.setMe (arrive (setCounter x c { l with count := 0 }) fin)
      else
        let l : Loop := {
          busy := true
          count := BitVec.ofNat 32 total
          body := body
          fin := fin
          mode := x.mode
          modulo := stages.isSome
          stages := stages.getD 0
          total := if stages.isSome then n else 0
          index := 0
          stamp := x.loops + 1 }
        let x := { setCounter x c l with loops := x.loops + 1 }
        s.setMe (arrive (if stages.isSome then { x with pred := 1 } else x) body)

/-- The END of a loop-starting instruction lies above its BODY; else the encoding is illegal (05 R134). -/
def loopEncoded (x : Hart) (t : Target) : Bool := decide ((following x).toNat < (branchTarget x.pc t).toNat)

/-- A loop-starting instruction: an illegal encoding comes before the chain (04 R104; 05 R134). -/
def loopEnter (s : State) (t : Target) (k : State → Res) : Res :=
  if loopEncoded s.me t then unchained s k else .next (illegal s)

/-- `loop lcN, sa, end` (05 R134). -/
def execLoop (c a : Reg) (t : Target) (s : State) : Res :=
  loopEnter s t fun s => .next (startLoop s c ((s.me.readS a).toNat % 2 ^ 32) t none)

/-- `loopm lcN, sa, end, stages` (05 R134). -/
def execLoopm (c a : Reg) (t : Target) (stages : BitVec 8) (s : State) : Res :=
  loopEnter s t fun s => .next (startLoop s c ((s.me.readS a).toNat % 2 ^ 32) t (some (stages.toNat % 8 + 1)))

/-- `loopi lcN, count, end` (05 R134). -/
def execLoopi (c : Reg) (count : BitVec 16) (t : Target) (s : State) : Res :=
  loopEnter s t fun s => .next (startLoop s c count.toNat t none)

end Sys2Proof.Machine
end

