-- ==== Sys2Proof/Machine/System.lean ====
section
/-! DEFINITION. Fences, system instructions, the system register space, the stage prefix and the traps of the fetch
(03 R79 to R93; 04 R101, R102; 10 R243, R273 to R275; 17 R441, R442). -/

namespace Sys2Proof.Machine

/-- An instruction that only completes (10 R274). -/
def justFinish (s : State) : Res := unchained s fun s => .next (finish s)

/-- `nop` (10 R274). -/
def execNop (s : State) : Res := justFinish s
/-- A fence on one of the hart's queues: what waits there is performed (10 R243; log 4). -/
def fenceQueue (vector : Bool) (s : State) : Res := unchained s fun s => .next (finish (performQueue s s.cur vector))

/-- `fence.sv`: no later vector access and no later job precedes the earlier scalar accesses (10 R243). -/
def execFenceSv (s : State) : Res := fenceQueue false s
/-- `fence.vs`: every earlier access of the vector queues has been performed (10 R243). -/
def execFenceVs (s : State) : Res := fenceQueue true s
/-- `vdrain`: the vector queues are empty, and their results written (10 R243). -/
def execVdrain (s : State) : Res := fenceQueue true s

/-- Jobs that hart `h` started and that have not completed (09 R218). -/
def jobsOf (s : State) (h : Nat) : List Job := s.jobs.filter fun j => j.hart == h && j.asid == (s.hart h).asid

/-- `fence`: every earlier access of both streams has been performed, and the hart waits until each of its jobs has
completed (10 R243); it then fetches every line as it stands (04 R103). -/
def execFence (s : State) : Res :=
  unchained s fun s =>
    let s := performHart s s.cur
    if (jobsOf s s.cur).isEmpty then .next (finishWith s fun x => { x with run := .running, lines := [] })
    else .next (waitAt s .drain 0)

/-- An instruction for system mode: in user mode it takes trap 0x01 (10 R274; 15 R384). -/
def privileged (s : State) (k : State → Res) : Res :=
  unchained s fun s => if s.me.mode = .user then .next (illegal s) else k s

/-- `halt`: debug halt at the following head, the instructions before it complete (10 R274; 16 R416). -/
def execHalt (s : State) : Res :=
  privileged s fun s => .next (finishWith (completeResults s s.cur) fun x => { x with halted := true })

/-- `eret` (10 R274; 04 R101). -/
def execEret (s : State) : Res := privileged s fun s => .next (returnFromTrap s)

/-- `ill` takes trap 0x01 in every mode (10 R274); in an open chain group it breaks the chain, as any instruction without CI does
before it has any effect, and takes 0x0F (06 R166; log 67). -/
def execIll (s : State) : Res := unchained s fun s => .next (illegal s)

/-- `trap imm`: EPC is the following head and EVAL the immediate (10 R274). -/
def execTrap (imm : BitVec 16) (s : State) : Res :=
  unchained s fun s =>
    .next (takeTrap s (following s.me) (if imm = 0 then 0x12 else 0x13) (imm.zeroExtend 64) (estatOf s s.me false)
      false false)

/-! System registers. -/

/-- HARTID of a hart number (03 R87). -/
def hartidWord (h : Nat) : Word := BitVec.ofNat 64 h

/-- VCONF (03 R87). -/
def vconfWord (x : Hart) : Word :=
  match x.conf with
  | none => 0
  | some c =>
    BitVec.ofNat 64 (c.shares * 32768 / (c.count * 2 ^ c.ew.toNat) * 2 ^ 32 + c.shares * 2 ^ 16 + c.count * 2 ^ 8
      + c.ew.toNat)

/-- TILEMAX (03 R71). -/
def tileMax (x : Hart) : Nat :=
  match x.conf with
  | none => 0
  | some c => c.shares * 32768 / (c.count * 2 ^ c.ew.toNat)

/-- Every copy job of a halted hart has landed, and every access of its vector queue (03 R88; 16 R416). -/
def stable (s : State) (h : Nat) : Bool := (s.hart h).halted && (jobsOf s h).isEmpty && (s.hart h).vectorQueue.isEmpty

/-- HSTAT (03 R88). -/
def hstatWord (s : State) (h : Nat) : Word :=
  let x := s.hart h
  let ganged := s.harts.any fun e => coreOf e.1 == coreOf h && e.2.gang.isSome
  flag (stable s h) <<< 5 ||| flag x.halted <<< 4 ||| flag ganged <<< 3 ||| flag (s.context x.asid).tryq <<< 2
    ||| flag x.conf.isSome <<< 1 ||| flag (x.mode == .system)

/-- TOKST (03 R89). -/
def tokstWord (x : Hart) : Word :=
  BitVec.ofNat 64 ((List.range 8).foldl (fun a k =>
    a + (match x.token k with | .idle => 0 | .pending _ => 1 | .done _ => 2) * 4 ^ k) 0)

/-- OSLOTS (03 R89). -/
def oslotsWord (s : State) (h : Nat) : Word :=
  BitVec.ofNat 64 ((List.range 16).foldl (fun a i => a + (if ownsSlot s h i then 2 ^ i else 0)) 0)

/-- Pseudo-channel groups that are enabled (17 R438). -/
def groupCount (p : Plate) : Nat := ([0, 1, 2, 3].map fun d => (groupList p d).length).foldl (· + ·) 0

/-- CAPA (03 R90). -/
def capaWord (p : Plate) : Word :=
  BitVec.ofNat 64 ((p.clusters.foldl (fun a c => a + c.2.2) 0) * 2 ^ 48 + groupCount p * 3 * 2 ^ 32
    + p.clusters.length * 2 ^ 16 + p.lanes * 2 ^ 8 + p.dies.length)

/-- CAPB (03 R90). -/
def capbWord (s : State) : Word :=
  BitVec.ofNat 64 (s.hub.devid.toNat * 2 ^ 42 + s.plate.slices.foldl (· + ·) 0 * 2 ^ 16 + s.plate.hbm.length * 2 ^ 8
    + s.plate.appCores)

/-- CAPC (03 R90). -/
def capcWord (p : Plate) : Word := BitVec.ofNat 64 (groupCount p * 2 * 2 ^ 16 + 512)

/-- CLCAPn (03 R91). -/
def clcapWord (p : Plate) (n : Nat) : Word :=
  match p.clusters[n]? with
  | none => 0
  | some (d, c, k) => BitVec.ofNat 64 (2 ^ 48 + c * 2 ^ 40 + d * 2 ^ 32 + (2 ^ k - 1))

/-- LCn (03 R85). -/
def lcWord (l : Loop) : Word := flag l.busy <<< 63 ||| l.count.zeroExtend 64

/-- Word `w` of FMTWn (17 R441). -/
def fmtwWord (x : Window) (w : Nat) : Word :=
  match w with
  | 0 => x.dec
  | 1 => x.raw
  | 2 => x.scl
  | _ => flag x.badSeen <<< 63 ||| x.ngran.zeroExtend 64 <<< 6 ||| x.format.zeroExtend 64

/-- The value of an assigned system register as hart `h` reads it, none for an unassigned number (03 R80). -/
def sysValue (s : State) (h n : Nat) : Option Word :=
  let x := s.hart h
  match n with
  | 0x000 => some (BitVec.ofNat 64 x.vl)
  | 0x001 => some (BitVec.ofNat 64 x.vrows)
  | 0x002 => some (BitVec.ofNat 64 x.vstart)
  | 0x003 => some (x.frm.zeroExtend 64)
  | 0x004 => some (x.fflags.zeroExtend 64)
  | 0x005 => some (lcWord x.lc0)
  | 0x006 => some (lcWord x.lc1)
  | 0x007 => some (x.pred.zeroExtend 64)
  | 0x008 => some (accst s h)
  | 0x400 => some x.wid
  | 0x401 => some (BitVec.ofNat 64 s.time)
  | 0x402 => some (hartidWord h)
  | 0x403 => some (vconfWord x)
  | 0x404 => some (BitVec.ofNat 64 ((s.context x.asid).prio * 2 ^ 16 + x.asid))
  | 0x405 => some (hstatWord s h)
  | 0x406 => some (tokstWord x)
  | 0x407 => some (oslotsWord s h)
  | 0x480 => some (capaWord s.plate)
  | 0x481 => some (capbWord s)
  | 0x482 => some (capcWord s.plate)
  | 0x800 => some (x.qpmin.zeroExtend 64)
  | 0x801 => some (x.qpcap.zeroExtend 64)
  | 0x840 => some x.epc
  | 0x841 => some (x.ecause.zeroExtend 64)
  | 0x842 => some x.eval
  | 0x843 => some x.estat
  | 0x844 => some (s.context x.asid).handler
  | 0x845 => some x.escratch
  | n =>
    if 0x4C0 ≤ n ∧ n ≤ 0x4EF then some (clcapWord s.plate (n - 0x4C0))
    else if 0x900 ≤ n ∧ n ≤ 0x93F then some (fmtwWord (Tab.get {} s.windows ((n - 0x900) / 4)) (n % 4))
    else none

/-- The mode may reach a register number: class 0b00 and 0b01 in any mode, 0b10 and 0b11 in system mode (03 R79). -/
def sysReach (m : Mode) (n : Nat) : Bool := decide (n / 1024 % 4 < 2) || m == .system

/-- A reading of TIME lets time pass by an unknown amount (03 R86; log 6); TIME stands at its greatest value once it has
reached it, since its readings never decrease. -/
def passTime (s : State) : State := { s with time := min (s.time + Config.timeGap s.n) (2 ^ 64 - 1), n := s.n + 1 }

/-- `srr sd, num` (03 R79, R80, R81; 10 R274). -/
def execSrr (d : Reg) (n : BitVec 12) (s : State) : Res :=
  unchained s fun s =>
    let s' := if n = 0x401 then passTime s else s
    match sysValue s' s.cur n.toNat with
    | none => .next (illegal s)
    | some v => if sysReach s.me.mode n.toNat then .next (finishWith s' fun x => x.writeS d v) else .next (illegal s)

/-- The three byte fields of QPMIN and QPCAP (03 R92). -/
def poolFields (v : BitVec 24) : List Nat := [v.toNat / 2 ^ 16, v.toNat / 2 ^ 8 % 2 ^ 8, v.toNat % 2 ^ 8]

/-- The minimums and caps of a hart are permitted (03 R93). -/
def poolOk (s : State) (h : Nat) (mn cp : BitVec 24) : Bool :=
  (poolFields cp).all (· != 0) && (List.zip (poolFields mn) (poolFields cp)).all (fun e => decide (e.1 ≤ e.2))
    && decide (((List.range 8).map fun i =>
        let k := coreOf h * 8 + i
        ((poolFields (if k = h then mn else (s.hart k).qpmin)).foldl (· + ·) 0)).foldl (· + ·) 0 ≤ 256)

/-- `[lo, hi)` lies wholly within enabled DRAM (17 R438, R442). -/
def inDram (p : Plate) (lo hi : Nat) : Bool :=
  decide (hi ≤ 4 * dieSpan) && [0, 1, 2, 3].all fun d =>
    let a := max lo (d * dieSpan)
    let b := min hi ((d + 1) * dieSpan)
    !decide (a < b) || decide (b ≤ d * dieSpan + dieBytes p d)

/-- The ranges that an active window occupies (17 R441). -/
def windowRanges (w : Window) : List (Nat × Nat) :=
  [(w.dec.toNat, w.dec.toNat + 64 * w.ngran.toNat), (w.raw.toNat, w.raw.toNat + 56 * w.ngran.toNat),
    (w.scl.toNat, w.scl.toNat + 4 * w.ngran.toNat)]

/-- Two half-open ranges overlap. -/
def rangesMeet (a b : Nat × Nat) : Bool := decide (a.1 < b.2) && decide (b.1 < a.2)

/-- A window may be turned on (17 R442). -/
def windowOk (s : State) (i : Nat) (w : Window) : Bool :=
  decide (w.dec.toNat % 4096 = 0) && decide (w.scl.toNat % 4096 = 0)
    && decide (0x40000000000 ≤ w.dec.toNat) && decide (w.dec.toNat + 64 * w.ngran.toNat ≤ 0x50000000000)
    && decide (0x40000000000 ≤ w.scl.toNat) && decide (w.scl.toNat + 4 * w.ngran.toNat ≤ 0x50000000000)
    && inDram s.plate w.raw.toNat (w.raw.toNat + 56 * w.ngran.toNat) && w.ngran != 0
    && s.windows.all fun e => e.1 == i || e.2.format != 1 ||
        (windowRanges w).all fun a => (windowRanges e.2).all fun b => !rangesMeet a b

/-- What `srw` to a format window word leaves, none where it is refused with 0x01 (17 R441, R442). -/
def writeWindow (s : State) (i w : Nat) (v : Word) : Option Window :=
  let x := Tab.get {} s.windows i
  let base : Word := v &&& 0xFFFFFFFFFFC0
  if w = 3 then
    let y := { x with
      ngran := v.extractLsb' 6 28
      format := v.extractLsb' 0 2
      badSeen := x.badSeen && !v.getLsbD 63 }
    if 2 ≤ y.format.toNat then none
    else if y.format = 1 ∧ !windowOk s i y then none
    else some y
  else if x.format = 1 then none
  else
    match w with
    | 0 => some { x with dec := base }
    | 1 => some { x with raw := base }
    | _ => some { x with scl := base }

/-- ESTAT as `srw` writes it, in the layout that QLAYOUT names (16 R403). -/
def estatWrite (x : Hart) (v : Word) : Word := if x.ecause.getLsbD 8 then v else v &&& 0xFFFFFFFFFFF000F0

/-- The hart after an `srw` to a hart register, or the trap it takes (03 R80 to R93; 16 R402). -/
def writeHartReg (s : State) (n : Nat) (v : Word) : Except Nat Hart :=
  let x := s.me
  match n with
  | 0x000 =>
    if x.conf.isNone ∨ x.gang.isSome ∨ tileMax x < v.toNat % 2 ^ 17 * x.vrows then .error 0x18
    else .ok { x with vl := v.toNat % 2 ^ 17 }
  | 0x001 =>
    let r := v.toNat % 2 ^ 7
    if x.conf.isNone ∨ x.gang.isSome ∨ r = 0 ∨ 64 < r ∨ tileMax x < x.vl * r then .error 0x18
    else .ok { x with vrows := r }
  | 0x002 => if x.conf.isNone then .error 0x18 else .ok { x with vstart := v.toNat % 2 ^ 17 }
  | 0x003 => .ok { x with frm := v.truncate 3 }
  | 0x004 => .ok { x with fflags := v.truncate 5 }
  | 0x005 => .ok { x with lc0 := { x.lc0 with count := v.truncate 32 } }
  | 0x006 => .ok { x with lc1 := { x.lc1 with count := v.truncate 32 } }
  | 0x007 => .ok { x with pred := v.truncate 8 }
  | 0x800 => if poolOk s s.cur (v.truncate 24) x.qpcap then .ok { x with qpmin := v.truncate 24 } else .error 0x01
  | 0x801 => if poolOk s s.cur x.qpmin (v.truncate 24) then .ok { x with qpcap := v.truncate 24 } else .error 0x01
  | 0x840 => .ok { x with epc := v &&& ~~~1 }
  | 0x841 => .ok { x with ecause := v.truncate 10 }
  | 0x842 => .ok { x with eval := v }
  | 0x843 => .ok { x with estat := estatWrite x v }
  | 0x844 => .ok x
  | 0x845 => .ok { x with escratch := v }
  | _ => .error 0x01

/-- `srw num, sa` (03 R79 to R93; 10 R274; 17 R442). -/
def execSrw (a : Reg) (n : BitVec 12) (s : State) : Res :=
  unchained s fun s =>
    let v := s.me.readS a
    let k := n.toNat
    if k / 1024 % 2 = 1 ∨ !sysReach s.me.mode k then .next (illegal s)
    else if k = 0x008 then
      let clr (s : State) (b : Nat) : State :=
        if ownsBank s s.cur b ∧ v.getLsbD b then setOvf s s.cur b false else s
      .next (finish (clr (clr s 0) 1))
    else if 0x900 ≤ k ∧ k ≤ 0x93F then
      match writeWindow s ((k - 0x900) / 4) (k % 4) v with
      | none => .next (illegal s)
      | some w => .next (finish { s with windows := Tab.set {} ((k - 0x900) / 4) w s.windows })
    else
      match writeHartReg s k v with
      | .error 0x18 => .next (vconfTrap s)
      | .error _ => .next (illegal s)
      | .ok x => .next (finish (s.setMe x))

/-- `tlbinv sa, sb` (10 R275): drops translations of the hart's own core and cluster. -/
def execTlbinv (a b : Reg) (s : State) : Res :=
  privileged s fun s =>
    let u := s.me.readS a
    let v := s.me.readS b
    if u.toNat / 2 ^ 17 ≠ 0 ∨ v.toNat / 2 % 2 ^ 11 ≠ 0 then .next (illegal s)
    else
      let hit (e : TlbEntry) : Bool :=
        (u.getLsbD 16 || (decide (e.asid = u.toNat % 2 ^ 16) && !e.glob))
          && (v.getLsbD 0 || decide (e.page = v.toNat / 4096))
      let c := coreOf s.cur
      let x := s.core c
      let s := s.setCore c { x with tlb := x.tlb.filter fun e => !hit e }
      let g := s.cluster (clusterOf s.cur)
      .next (finish (s.setCluster (clusterOf s.cur) { g with tlb := g.tlb.filter fun e => !hit e }))

/-! The stage prefix and the fetch. -/

/-- Whether the instruction that a prefix at slot `slot` qualifies has the bit `n` of a VA tail: 25 is CI, 26 is CO
(04 R105). -/
def qualifiedBit (x : Hart) (slot n : Nat) : Bool :=
  let c := lineCode x.fetched (slot + 1)
  (Decode.major c.head = 0x20 || Decode.major c.head = 0x21) && c.tail.getLsbD n

/-- A qualified instruction whose predicate is 0, met in the open chain group `g` (06 R166; 04 R102; log 63): without CI it
breaks the group; with CI and not CO it is the group's last member and has no effect of its own; with both the group
stays open and its latch has gone unread. -/
def skipMember (s : State) (g : Chain) (ci co : Bool) : Res :=
  if !ci then .next (chainTrap s)
  else if co then
    .next (finishWith s fun x => { x with pc := x.pc + 2, chain := some { g with members := g.members + 1, lost := true } })
  else
    .next (finishWith s fun x =>
      { (commitMasks x g.masks g.wrote).raise g.flags with pc := x.pc + 2, chain := none })

/-- The stage prefix (04 R102; 03 R73): with pj clear both heads complete with no effect; with pj set the hart is left
at the qualified head, which the same step executes. -/
def execStagePrefix (p : BitVec 3) (s : State) : Res :=
  let x := s.me
  let slot := x.pc.toNat / 2 % 32
  if lineCount x.fetched ≤ slot ∨ Decode.major (lineHead x.fetched (slot + 1)) = 0x31 then .next (illegal s)
  else
    if s.me.pred.getLsbD p.toNat then .next (s.setMe { s.me with pc := s.me.pc + 2, qual := true })
    else
      match s.me.chain with
      | none => .next (finishWith s fun x => { x with pc := x.pc + 2 })
      | some g => skipMember s g (qualifiedBit x slot 25) (qualifiedBit x slot 26)

/-- What the fetch of the line at the PC meets (04 R98 to R101): the trap and its EVAL. A hart that begins a body or a handler at
an empty slot has made no transfer of R101's list: it takes 0x02 with EPC at that PC, and a stage prefix before that PC is not
looked for (the model's choice: log 86). -/
def fetchProblem (s : State) : Option (Nat × Word) :=
  let x := s.me
  match fetchLine s s.cur x.pc.toNat with
  | .error c => some (c, x.pc)
  | .ok l =>
    let slot := x.pc.toNat / 2 % 32
    if !lineFormatOk l then some (0x03, (x.pc >>> 6) <<< 6)
    else if slot = 0 ∨ lineCount l < slot then some (0x02, x.pc)
    else none

/-- The trap of the fetch of the line at the PC about to execute (04 R101). -/
def execFetchFault (s : State) : Res :=
  match fetchProblem s with
  | some (c, e) => .next (trap s c e)
  | none => .next s

/-- A head that decodes to nothing takes trap 0x01 (04 R107); of major 0x2A, the copies, it leaves VSTART 0 (09 R218). -/
def execUnallocatedEncoding (s : State) : Res :=
  let x := s.me
  if Decode.major (lineHead x.fetched (x.pc.toNat / 2 % 32)) = 0x2A then .next (illegal (s.setMe { x with vstart := 0 }))
  else .next (illegal s)

end Sys2Proof.Machine
end

