-- ==== Sys2Proof/Machine/Operands.lean ====
section
/-! DEFINITION. Vector operands: elements, sub-values, masks, the chain latch as a source or destination, the checks
before a vector arithmetic instruction and its completion (06 R154 to R158, R166, R170; 03 R72, R78; 04 R109). -/

namespace Sys2Proof.Machine

/-- Bit width of a TYPE (06 R154). -/
def tyWidth (ty : Nat) : Nat :=
  match ty with
  | 0 => 8 | 4 => 8 | 1 => 16 | 5 => 16 | 8 => 16 | 9 => 16 | 2 => 32 | 6 => 32 | 10 => 32
  | 12 => 2
  | _ => 64

/-- Configured element width in bits; 0 while unconfigured (03 R87). -/
def ewBits (x : Hart) : Nat := match x.conf with | none => 0 | some c => 8 * 2 ^ c.ew.toNat
/-- Configured element bytes. -/
def ewBytes (x : Hart) : Nat := ewBits x / 8
/-- Registers named. -/
def vCount (x : Hart) : Nat := match x.conf with | none => 0 | some c => c.count
/-- T = VL × VROWS (06 R156). -/
def tiles (x : Hart) : Nat := x.vl * x.vrows

/-- Mask bit `t`; m0 reads all ones (03 R72). -/
def maskBit (x : Hart) (m : Nat) (t : Nat) : Bool := if m = 0 then true else Tab.get false (Tab.get [] x.m m) t

/-- Element `t` of register bytes, `n` bytes an element. -/
def elem (b : Bytes) (n t : Nat) : Nat := leNat (Tab.bytes b (n * t) n)
/-- Replaces element `t`. -/
def setElem (b : Bytes) (n t v : Nat) : Bytes := Tab.putBytes b (n * t) (leBytes n v)
/-- Sub-value `j` of width `w` of an element (06 R154). -/
def sub (w j e : Nat) : Nat := e / 2 ^ (w * j) % 2 ^ w
/-- Value `i` of the view of a register at `w` bits, w dividing 8 or a multiple of it (06 R155). -/
def viewAt (b : Bytes) (w i : Nat) : Nat :=
  if w < 8 then (Tab.get 0 b (w * i / 8)).toNat / 2 ^ (w * i % 8) % 2 ^ w else leNat (Tab.bytes b (w / 8 * i) (w / 8))
/-- Replaces value `i` of a view of whole bytes. -/
def setView (b : Bytes) (w i v : Nat) : Bytes := Tab.putBytes b (w / 8 * i) (leBytes (w / 8) v)

/-- A vector register's bytes (03 R71). -/
def Hart.vreg (x : Hart) (r : Nat) : Bytes := Tab.get [] x.v r
/-- Replaces a vector register. -/
def Hart.setVreg (x : Hart) (r : Nat) (b : Bytes) : Hart := { x with v := Tab.set [] r b x.v }

/-- Active tile elements: VSTART to T − 1 under a mask (06 R156). -/
def active (x : Hart) (m : Nat) : List Nat :=
  ((List.range (tiles x - x.vstart)).map (x.vstart + ·)).filter (maskBit x m)

/-- The hart is configured and every vector register field is below the count (04 R109). -/
def vregsOk (x : Hart) (rs : List Reg) : Bool := x.conf.isSome && rs.all fun r => decide (r.toNat < vCount x)

/-- The tile of source Y: the latch under CI (06 R166). -/
def srcY (x : Hart) (o : VAOps) : Bytes :=
  if o.ci then (match x.chain with | some g => g.latch | none => []) else x.vreg o.y.toNat

/-- The tile a result is written over: zero elements in the latch, else the destination register (06 R166). -/
def dstX (x : Hart) (o : VAOps) : Bytes := if o.co then [] else x.vreg o.x.toNat

/-- Vector register fields of a VA instruction that name registers, X and Y aside when they name the latch. -/
def vaRegs (o : VAOps) (useY useZ useW : Bool) : List Reg :=
  (if o.co then [] else [o.x]) ++ (if useY && !o.ci then [o.y] else []) ++ (if useZ then [o.z] else [])
    ++ (if useW then [o.w] else [])

/-- The checks of a vector arithmetic instruction, in order (04 R104, R109; 06 R156): register numbers, the chain, the
width and VSTART rules, dynamic rounding. `k` receives the rounding mode. -/
def vaEnter (s : State) (o : VAOps) (regs : List Reg) (ok rounds : Bool) (k : Nat → Res) : Res :=
  let x := s.me
  if !vregsOk x regs then .next (vconfTrap s)
  else
    let broken : Bool :=
      match x.chain with
      | none => o.ci
      | some g => g.lost || !o.ci || (o.co && decide (7 ≤ g.members))
    if broken then .next (chainTrap s)
    else if !ok then .next (vconfTrap s)
    else if rounds then
      match roundingMode x o.rm with
      | none => .next (illegal s)
      | some rm => k rm
    else k 0

/-- Completion of a vector arithmetic instruction (06 R156, R166, R170): the result tile, of which the elements `whole`
are written whole, flags and marks; inside a chain group everything is held back until the last member. -/
def vaFinish (s : State) (o : VAOps) (tile : Bytes) (whole : List Nat) (g : Flags) (marks : List (Nat × Bool)) : Res :=
  let x := s.me
  let held : SMap Bits := match x.chain with | some c => c.masks | none => []
  let flags : Flags := (match x.chain with | some c => c.flags | none => 0) ||| g
  let base (m : Nat) : Bits := match held.find? fun e => decide (e.1 = m) with | some e => e.2 | none => Tab.get [] x.m m
  let held : SMap Bits :=
    if o.xm = 0 then held else Tab.put o.xm.toNat (Tab.sets false marks (base o.xm.toNat)) held
  let wrote : SMap Bits := match x.chain with | some c => c.wrote | none => []
  let wrote : SMap Bits :=
    if o.xm = 0 then wrote
    else Tab.put o.xm.toNat (Tab.sets false (marks.map fun e => (e.1, true)) (Tab.get [] wrote o.xm.toNat)) wrote
  if o.co then
    let c : Chain := {
      first := match x.chain with | some c => c.first | none => trapPc x
      members := (match x.chain with | some c => c.members | none => 0) + 1
      latch := tile
      vstart := match x.chain with | some c => c.vstart | none => x.vstart
      masks := held
      wrote := wrote
      flags := flags }
    .next (finishWith s fun x => { x with chain := some c, vstart := 0 })
  else
    .next (finishWith s fun x =>
      { (commitMasks ((x.setVreg o.x.toNat tile).cleanV o.x.toNat whole) held wrote).raise flags with
        chain := none
        vstart := 0 })

/-- A sub-value's flags mark its element under `.xm` (06 R170). -/
def marksFlag (g : Flags) : Bool := g &&& 28 != 0

/-- Element-wise evaluation (06 R156): `f t j` is sub-value `j` of element `t`. -/
def elementwise (x : Hart) (m w : Nat) (dst : Bytes) (f : Nat → Nat → Nat × Flags) :
    Bytes × Flags × List (Nat × Bool) :=
  let n := ewBytes x
  let p := ewBits x / w
  (active x m).foldl (fun r t =>
    let e := (List.range p).foldl (fun a j =>
      let v := f t j
      (a.1 + v.1 * 2 ^ (w * j), a.2 ||| v.2)) ((0, 0) : Nat × Flags)
    (setElem r.1 n t e.1, r.2.1 ||| e.2, r.2.2 ++ [(t, marksFlag e.2)])) (dst, 0, [])

/-- The second source: vector register Z, or the scalar register Z as every sub-value (06 R161). -/
def srcZ (x : Hart) (o : VAOps) (vs : Bool) (w t j : Nat) : Nat :=
  if vs then (x.readS o.z).toNat % 2 ^ w else sub w j (elem (x.vreg o.z.toNat) (ewBytes x) t)

/-- An element-wise instruction of majors 0x20 and 0x21 (06 R156, R158, R161): `f rm a b c` on sub-values; `vs` selects
the scalar second source, `useZ` and `useW` whether the fields name sources. -/
def vaElementwise (s : State) (o : VAOps) (vs useZ useW rounds : Bool) (f : Nat → Nat → Nat → Nat → Nat × Flags) : Res :=
  let x := s.me
  let w := tyWidth o.ty.toNat
  vaEnter s o (vaRegs o true (useZ && !vs) useW) (decide (w ≤ ewBits x)) (rounds && decide (8 ≤ o.ty.toNat)) fun rm =>
    let n := ewBytes x
    let y := srcY x o
    let z := x.vreg o.w.toNat
    let r := elementwise x o.mask.toNat w (dstX x o) fun t j =>
      f rm (sub w j (elem y n t)) (srcZ x o vs w t j) (sub w j (elem z n t))
    vaFinish s o r.1 (active x o.mask.toNat) r.2.1 r.2.2

/-- An exact integer result in a type: clamped with `.s`, else reduced (12 R312). -/
def narrow (ty : Nat) (sat : Bool) (v : Int) : Nat :=
  unsigned (tyWidth ty) (if sat then (if v < intLo ty then intLo ty else if intHi ty < v then intHi ty else v) else v)

end Sys2Proof.Machine
end

