-- ==== Sys2Proof/Machine/VecArith.lean ====
section
/-! DEFINITION. Vector arithmetic: element-wise functions, scalar second sources, dot products, butterflies and
conversions (06 R156 to R166; 12 R312 to R314, R319, R320). -/

namespace Sys2Proof.Machine

/-- The exact integers of three sub-values, narrowed to the type (06 R159). -/
def intFn (o : VAOps) (f : Int → Int → Int → Int) (a b c : Nat) : Nat × Flags :=
  let ty := o.ty.toNat
  (narrow ty o.sat (f (intOf ty a) (intOf ty b) (intOf ty c)), 0)

/-- A function of the three FP values (06 R160). -/
def fpFn (o : VAOps) (rm : Nat) (f : Fmt → Nat → FP → FP → FP → Nat × Flags) (a b c : Nat) : Nat × Flags :=
  let m := fmtOf o.ty.toNat
  f m rm (fpRead m a) (fpRead m b) (fpRead m c)

/-- Integer for TYPE 0 to 7, FP for 8 to 10. -/
def byType (o : VAOps) (i : Int → Int → Int → Int) (f : Fmt → Nat → FP → FP → FP → Nat × Flags) (rm a b c : Nat) :
    Nat × Flags :=
  if o.ty.toNat < 8 then intFn o i a b c else fpFn o rm f a b c

/-- Vector integer division (06 R159). -/
def vdivInt (o : VAOps) (a b : Nat) : Nat × Flags :=
  let ty := o.ty.toNat
  if b = 0 then (2 ^ tyWidth ty - 1, 0) else (narrow ty o.sat ((intOf ty a).tdiv (intOf ty b)), 0)

/-- The shifts (06 R159): kind 0 left, 1 right with zeros, 2 right with the sign. -/
def vshiftFn (o : VAOps) (kind a b : Nat) : Nat × Flags :=
  let w := tyWidth o.ty.toNat
  let k := b % w
  match kind with
  | 0 => (a * 2 ^ k % 2 ^ w, 0)
  | 1 => (a / 2 ^ k, 0)
  | _ => (unsigned w (signed w a / (2 ^ k : Nat)), 0)

/-- The functions of majors 0x20 and 0x21 with two or three sources (06 R159, R160). -/
def vaddFn (o : VAOps) : Nat → Nat → Nat → Nat → Nat × Flags :=
  byType o (fun a b _ => a + b) fun f rm a b _ => fpAdd f rm a b
/-- Subtraction. -/
def vsubFn (o : VAOps) : Nat → Nat → Nat → Nat → Nat × Flags :=
  byType o (fun a b _ => a - b) fun f rm a b _ => fpAdd f rm a (fpNeg b)
/-- Multiplication. -/
def vmulFn (o : VAOps) : Nat → Nat → Nat → Nat → Nat × Flags :=
  byType o (fun a b _ => a * b) fun f rm a b _ => fpProd f rm a b
/-- a × b + c. -/
def vfmaFn (o : VAOps) : Nat → Nat → Nat → Nat → Nat × Flags :=
  byType o (fun a b c => a * b + c) fun f rm a b c => fpDot f rm [(a, b)] c
/-- a × b − c. -/
def vfmsFn (o : VAOps) : Nat → Nat → Nat → Nat → Nat × Flags :=
  byType o (fun a b c => a * b - c) fun f rm a b c => fpDot f rm [(a, b)] (fpNeg c)
/-- Division. -/
def vdivFn (o : VAOps) (rm a b c : Nat) : Nat × Flags :=
  if o.ty.toNat < 8 then vdivInt o a b else fpFn o rm (fun f rm a b _ => fpDiv f rm a b) a b c
/-- Minimum. -/
def vminFn (o : VAOps) : Nat → Nat → Nat → Nat → Nat × Flags :=
  byType o (fun a b _ => min a b) fun f _ a b _ => fpMinMax f false a b
/-- Maximum. -/
def vmaxFn (o : VAOps) : Nat → Nat → Nat → Nat → Nat × Flags :=
  byType o (fun a b _ => max a b) fun f _ a b _ => fpMinMax f true a b
/-- Bitwise AND. -/
def vandFn (_ : VAOps) (_ a b _ : Nat) : Nat × Flags := (a &&& b, 0)
/-- Bitwise OR. -/
def vorFn (_ : VAOps) (_ a b _ : Nat) : Nat × Flags := (a ||| b, 0)
/-- Bitwise XOR. -/
def vxorFn (_ : VAOps) (_ a b _ : Nat) : Nat × Flags := (a ^^^ b, 0)
/-- Left shift. -/
def vshlFn (o : VAOps) (_ a b _ : Nat) : Nat × Flags := vshiftFn o 0 a b
/-- Right shift with zeros. -/
def vshrFn (o : VAOps) (_ a b _ : Nat) : Nat × Flags := vshiftFn o 1 a b
/-- Right shift with the sign. -/
def vsraFn (o : VAOps) (_ a b _ : Nat) : Nat × Flags := vshiftFn o 2 a b
/-- Carry-less product, low or high half by W (06 R163). -/
def vclmulFn (o : VAOps) (_ a b _ : Nat) : Nat × Flags :=
  let w := tyWidth o.ty.toNat
  let p := clmulNat w a b
  (if o.w = 0 then p % 2 ^ w else p / 2 ^ w, 0)
/-- Square root (06 R160). -/
def vsqrtFn (o : VAOps) (rm a b c : Nat) : Nat × Flags := fpFn o rm (fun f rm a _ _ => fpSqrt f rm a) a b c
/-- Reciprocal square root (06 R160). -/
def vrsqFn (o : VAOps) (rm a b c : Nat) : Nat × Flags := fpFn o rm (fun f rm a _ _ => fpRsq f rm a) a b c
/-- 2^x (06 R160). -/
def vexp2Fn (o : VAOps) (rm a b c : Nat) : Nat × Flags := fpFn o rm (fun f rm a _ _ => fpExp2 f rm a) a b c
/-- (a.natAbs : Int); a NaN gives the canonical quiet NaN and no flag (06 R159, R160). -/
def vabsFn (o : VAOps) (_ a b c : Nat) : Nat × Flags :=
  if o.ty.toNat < 8 then intFn o (fun a _ _ => (a.natAbs : Int)) a b c
  else
    let m := fmtOf o.ty.toNat
    (if isNan (fpRead m a) then m.nan else a % m.sign, 0)
/-- −a; a NaN gives the canonical quiet NaN and no flag (06 R159, R160). -/
def vnegFn (o : VAOps) (_ a b c : Nat) : Nat × Flags :=
  if o.ty.toNat < 8 then intFn o (fun a _ _ => -a) a b c
  else
    let m := fmtOf o.ty.toNat
    (if isNan (fpRead m a) then m.nan else a ^^^ m.sign, 0)

/-- `vadd` (06 R159, R160). -/
def execVadd (o : VAOps) (s : State) : Res := vaElementwise s o false true false true (vaddFn o)
/-- `vsub` (06 R159, R160). -/
def execVsub (o : VAOps) (s : State) : Res := vaElementwise s o false true false true (vsubFn o)
/-- `vmul` (06 R159, R160). -/
def execVmul (o : VAOps) (s : State) : Res := vaElementwise s o false true false true (vmulFn o)
/-- `vfma` (06 R159, R160). -/
def execVfma (o : VAOps) (s : State) : Res := vaElementwise s o false true true true (vfmaFn o)
/-- `vfms` (06 R159, R160). -/
def execVfms (o : VAOps) (s : State) : Res := vaElementwise s o false true true true (vfmsFn o)
/-- `vdiv` (06 R159, R160). -/
def execVdiv (o : VAOps) (s : State) : Res := vaElementwise s o false true false true (vdivFn o)
/-- `vsqrt` (06 R159, R160). -/
def execVsqrt (o : VAOps) (s : State) : Res := vaElementwise s o false false false true (vsqrtFn o)
/-- `vrsq` (06 R159, R160). -/
def execVrsq (o : VAOps) (s : State) : Res := vaElementwise s o false false false true (vrsqFn o)
/-- `vexp2` (06 R159, R160). -/
def execVexp2 (o : VAOps) (s : State) : Res := vaElementwise s o false false false true (vexp2Fn o)
/-- `vmin` (06 R159, R160). -/
def execVmin (o : VAOps) (s : State) : Res := vaElementwise s o false true false false (vminFn o)
/-- `vmax` (06 R159, R160). -/
def execVmax (o : VAOps) (s : State) : Res := vaElementwise s o false true false false (vmaxFn o)
/-- `vabs` (06 R159, R160). -/
def execVabs (o : VAOps) (s : State) : Res := vaElementwise s o false false false false (vabsFn o)
/-- `vneg` (06 R159, R160). -/
def execVneg (o : VAOps) (s : State) : Res := vaElementwise s o false false false false (vnegFn o)
/-- `vand` (06 R159, R160). -/
def execVand (o : VAOps) (s : State) : Res := vaElementwise s o false true false false (vandFn o)
/-- `vor` (06 R159, R160). -/
def execVor (o : VAOps) (s : State) : Res := vaElementwise s o false true false false (vorFn o)
/-- `vxor` (06 R159, R160). -/
def execVxor (o : VAOps) (s : State) : Res := vaElementwise s o false true false false (vxorFn o)
/-- `vshl` (06 R159, R160). -/
def execVshl (o : VAOps) (s : State) : Res := vaElementwise s o false true false false (vshlFn o)
/-- `vshr` (06 R159, R160). -/
def execVshr (o : VAOps) (s : State) : Res := vaElementwise s o false true false false (vshrFn o)
/-- `vsra` (06 R159, R160). -/
def execVsra (o : VAOps) (s : State) : Res := vaElementwise s o false true false false (vsraFn o)
/-- `vclmul` (06 R163). -/
def execVclmul (o : VAOps) (s : State) : Res := vaElementwise s o false true false false (vclmulFn o)
/-- `vadd` with a scalar second source (06 R161). -/
def execVaddVs (o : VAOps) (s : State) : Res := vaElementwise s o true true false true (vaddFn o)
/-- `vsub` with a scalar second source (06 R161). -/
def execVsubVs (o : VAOps) (s : State) : Res := vaElementwise s o true true false true (vsubFn o)
/-- `vmul` with a scalar second source (06 R161). -/
def execVmulVs (o : VAOps) (s : State) : Res := vaElementwise s o true true false true (vmulFn o)
/-- `vfma` with a scalar second source (06 R161). -/
def execVfmaVs (o : VAOps) (s : State) : Res := vaElementwise s o true true true true (vfmaFn o)
/-- `vfms` with a scalar second source (06 R161). -/
def execVfmsVs (o : VAOps) (s : State) : Res := vaElementwise s o true true true true (vfmsFn o)
/-- `vdiv` with a scalar second source (06 R161). -/
def execVdivVs (o : VAOps) (s : State) : Res := vaElementwise s o true true false true (vdivFn o)
/-- `vmin` with a scalar second source (06 R161). -/
def execVminVs (o : VAOps) (s : State) : Res := vaElementwise s o true true false false (vminFn o)
/-- `vmax` with a scalar second source (06 R161). -/
def execVmaxVs (o : VAOps) (s : State) : Res := vaElementwise s o true true false false (vmaxFn o)
/-- `vand` with a scalar second source (06 R161). -/
def execVandVs (o : VAOps) (s : State) : Res := vaElementwise s o true true false false (vandFn o)
/-- `vor` with a scalar second source (06 R161). -/
def execVorVs (o : VAOps) (s : State) : Res := vaElementwise s o true true false false (vorFn o)
/-- `vxor` with a scalar second source (06 R161). -/
def execVxorVs (o : VAOps) (s : State) : Res := vaElementwise s o true true false false (vxorFn o)
/-- `vshl` with a scalar second source (06 R161). -/
def execVshlVs (o : VAOps) (s : State) : Res := vaElementwise s o true true false false (vshlFn o)
/-- `vshr` with a scalar second source (06 R161). -/
def execVshrVs (o : VAOps) (s : State) : Res := vaElementwise s o true true false false (vshrFn o)
/-- `vsra` with a scalar second source (06 R161). -/
def execVsraVs (o : VAOps) (s : State) : Res := vaElementwise s o true true false false (vsraFn o)
/-- `vclmul` with a scalar second source (06 R161). -/
def execVclmulVs (o : VAOps) (s : State) : Res := vaElementwise s o true true false false (vclmulFn o)

/-- The dot product of one 32-bit element (06 R162; 12 R319, R320). -/
def dotElem (o : VAOps) (rm a b c : Nat) (scalar : Option Nat) : Nat × Flags :=
  let ty := o.ty.toNat
  let w := tyWidth ty
  let js := List.range (32 / w)
  let bj (j : Nat) : Nat := match scalar with | some v => v % 2 ^ w | none => sub w j b
  if ty < 8 then
    let res := if ty < 4 then 2 else 6
    (narrow res o.sat (js.foldl (fun v j => v + intOf ty (sub w j a) * intOf ty (bj j)) (intOf res c)), 0)
  else
    let f := fmtOf ty
    fpDot (fmtOf 10) rm (js.map fun j => (fpRead f (sub w j a), fpRead f (bj j))) (fpRead (fmtOf 10) c)

/-- `vdot` (06 R162). -/
def dotWith (s : State) (o : VAOps) (vs : Bool) : Res :=
  let x := s.me
  vaEnter s o (vaRegs o true (!vs) true) (decide (ewBits x = 32)) (decide (8 ≤ o.ty.toNat)) fun rm =>
    let y := srcY x o
    let r := elementwise x o.mask.toNat 32 (dstX x o) fun t _ =>
      dotElem o rm (elem y 4 t) (elem (x.vreg o.z.toNat) 4 t) (elem (x.vreg o.w.toNat) 4 t)
        (if vs then some (x.readS o.z).toNat else none)
    vaFinish s o r.1 (active x o.mask.toNat) r.2.1 r.2.2

/-- `vdot` (06 R162). -/
def execVdot (o : VAOps) (s : State) : Res := dotWith s o false
/-- `vdot` with a scalar multiplicand (06 R161, R162). -/
def execVdotVs (o : VAOps) (s : State) : Res := dotWith s o true

/-- `vhad`: butterflies within each row (06 R165). An element without a partner in its row is passed on as it stands, a NaN too and
without NV: R165 assigns it and says that each FP output is rounded once, and the model takes the assignment (the model's choice:
log 96). -/
def execVhad (o : VAOps) (s : State) : Res :=
  let x := s.me
  let w := tyWidth o.ty.toNat
  vaEnter s o (vaRegs o true false false) (decide (w ≤ ewBits x) && decide (x.vstart = 0)) (decide (8 ≤ o.ty.toNat))
    fun rm =>
      let n := ewBytes x
      let y := srcY x o
      let dist := 2 ^ o.w.toNat
      let src (r i j : Nat) : Nat := sub w j (elem y n (r * x.vl + i))
      let r := elementwise x 0 w (dstX x o) fun t j =>
        let r := t / x.vl
        let i := t % x.vl
        if i.testBit o.w.toNat then vsubFn o rm (src r (i - dist) j) (src r i j) 0
        else if i + dist < x.vl then vaddFn o rm (src r i j) (src r (i + dist) j) 0
        else (src r i j, 0)
      vaFinish s o r.1 (active x 0) r.2.1 r.2.2

/-- A T2 code as a value, with NV for the invalid code (12 R315). -/
def tritFp (v : Nat) : FP × Flags :=
  match v with
  | 0 => (.num false 0 0, 0)
  | 1 => (.num false 1 0, 0)
  | 3 => (.num true 1 0, 0)
  | _ => (.num false 0 0, fNV)

/-- One converted value of `vcvt` (06 R164; 12 R313, R314): `v` from type `src`, scaled by `sc`. The T2 value
−1 is out of the range of a natural type (12 R311; log 64). -/
def convertValue (o : VAOps) (rm src v : Nat) (sc : Option FP) : Nat × Flags :=
  let d := o.ty.toNat
  let scaled (x : FP) : FP × Flags :=
    match sc with
    | none => (x, sigFlag x)
    | some c => let p := fpMul x c; (p.1, p.2 ||| sigFlag x ||| sigFlag c)
  let deliver (x : FP) (g : Flags) : Nat × Flags :=
    let p := scaled x
    if 8 ≤ d then let r := fpDeliver (fmtOf d) rm p.1; (r.1, r.2 ||| p.2 ||| g)
    else let r := fpToInt d rm o.sat p.1; (unsigned (tyWidth d) r.1, r.2 ||| p.2 ||| g)
  if src = 12 then let t := tritFp v; deliver t.1 t.2
  else if 8 ≤ src then deliver (fpRead (fmtOf src) v) 0
  else if 8 ≤ d then deliver (fpOfInt (intOf src v)) 0
  else (narrow d o.sat (intOf src v), 0)

/-- `vcvt.D.S`, by value index (06 R164). -/
def execVcvt (o : VAOps) (s : State) : Res :=
  let x := s.me
  let d := o.ty.toNat
  let src := o.w.toNat % 16
  let scale := o.w.getLsbD 4
  let wd := tyWidth d
  let ok := decide (wd ≤ ewBits x) && decide (tyWidth src ≤ ewBits x) && (!scale || decide (32 ≤ ewBits x))
  let rounds := decide (8 ≤ d) || decide (8 ≤ src) && decide (src ≠ 12)
  vaEnter s o (vaRegs o true scale false) ok rounds fun rm =>
    let y := srcY x o
    let r := (active x o.mask.toNat).foldl (fun (r : Bytes × Flags × List (Nat × Bool)) t =>
      let sc := if scale then some (fpRead (fmtOf 10) (viewAt (x.vreg o.z.toNat) 32 t)) else none
      let v := convertValue o rm src (viewAt y (tyWidth src) t) sc
      (setView r.1 wd t v.1, r.2.1 ||| v.2, r.2.2 ++ [(t, marksFlag v.2)])) (dstX x o, 0, [])
    vaFinish s o r.1 (if wd = ewBits x then active x o.mask.toNat else []) r.2.1 r.2.2

end Sys2Proof.Machine
end

