-- ==== Sys2Proof/Machine/VecCross.lean ====
section
/-! DEFINITION. Selection, permutation, comparison and reduction (06 R167 to R169) and the mask instructions
(06 R171, R172). -/

namespace Sys2Proof.Machine

/-- TYPE's width equals EW (06 R155). -/
def wholeWidth (x : Hart) (o : VAOps) : Bool := decide (tyWidth o.ty.toNat = ewBits x)

/-- An instruction of major 0x22 that gives one element value for each active t (06 R167): `regs` names its register
sources, `cross` the functions that need VSTART to be 0. -/
def vcMap (s : State) (o : VAOps) (regs : List Reg) (cross : Bool) (f : Nat → Nat) : Res :=
  let x := s.me
  vaEnter s o (o.x :: regs) (wholeWidth x o && (!cross || decide (x.vstart = 0))) false fun _ =>
    let r := elementwise x o.mask.toNat (ewBits x) (x.vreg o.x.toNat) fun t _ => (f t, 0)
    vaFinish s o r.1 (active x o.mask.toNat) 0 []

/-- `vsel` (06 R167). -/
def execVsel (o : VAOps) (s : State) : Res :=
  let x := s.me
  vcMap s o [o.y, o.z] false fun t =>
    elem (x.vreg (if maskBit x (o.w.toNat % 8) t then o.y else o.z).toNat) (ewBytes x) t
/-- `vmv` (06 R167). -/
def execVmv (o : VAOps) (s : State) : Res :=
  let x := s.me
  vcMap s o [o.y] false fun t => elem (x.vreg o.y.toNat) (ewBytes x) t
/-- `vbcast` (06 R167). -/
def execVbcast (o : VAOps) (s : State) : Res :=
  let x := s.me
  vcMap s o [] false fun _ => (x.readS o.z).toNat % 2 ^ ewBits x
/-- `vslide` (06 R167). -/
def execVslide (o : VAOps) (s : State) : Res :=
  let x := s.me
  vcMap s o [o.y] true fun t =>
    let k : Int := ((t % x.vl : Nat) : Int) + (x.readS o.z).toInt
    if 0 ≤ k ∧ k < (x.vl : Int) then elem (x.vreg o.y.toNat) (ewBytes x) (t / x.vl * x.vl + k.toNat) else 0
/-- `vperm` (06 R167). -/
def execVperm (o : VAOps) (s : State) : Res :=
  let x := s.me
  vcMap s o [o.y, o.z] true fun t =>
    let i := elem (x.vreg o.z.toNat) (ewBytes x) t
    if i < x.vl then elem (x.vreg o.y.toNat) (ewBytes x) (t / x.vl * x.vl + i) else 0
/-- `viota` (06 R167). -/
def execViota (o : VAOps) (s : State) : Res :=
  let x := s.me
  vcMap s o [] true fun t =>
    let row := t / x.vl * x.vl
    ((List.range (t - row)).filter fun j => maskBit x (o.y.toNat % 8) (row + j)).length % 2 ^ ewBits x

/-- One comparison of `vcmp` (06 R168): conditions eq, ne, lt, le, gt, ge, un. -/
def compareFn (ty cc a b : Nat) : Bool × Flags :=
  if ty < 8 then
    let p := intOf ty a
    let q := intOf ty b
    (match cc with
      | 0 => decide (p = q)
      | 1 => decide (p ≠ q)
      | 2 => decide (p < q)
      | 3 => decide (p ≤ q)
      | 4 => decide (q < p)
      | _ => decide (q ≤ p), 0)
  else
    let f := fmtOf ty
    let p := fpRead f a
    let q := fpRead f b
    let un := isNan p || isNan q
    let sg := sigFlag p ||| sigFlag q
    let nv : Flags := if un then fNV else 0
    match cc with
    | 0 => (fpEq p q, sg)
    | 1 => (!fpEq p q, sg)
    | 2 => (fpLt p q, nv)
    | 3 => (fpLt p q || fpEq p q, nv)
    | 4 => (fpLt q p, nv)
    | 5 => (fpLt q p || fpEq p q, nv)
    | _ => (un, sg)

/-- `vcmp.T.cc md, vs1, vs2` (06 R167, R168, R170). -/
def execVcmp (o : VAOps) (s : State) : Res :=
  let x := s.me
  vaEnter s o [o.y, o.z] (wholeWidth x o) false fun _ =>
    let n := ewBytes x
    let r := (active x o.mask.toNat).map fun t =>
      (t, compareFn o.ty.toNat o.w.toNat (elem (x.vreg o.y.toNat) n t) (elem (x.vreg o.z.toNat) n t))
    let x' := setMask x (o.x.toNat % 8) (r.map fun e => (e.1, e.2.1))
    let x' := setMask x' o.xm.toNat (r.map fun e => (e.1, marksFlag e.2.2))
    .next (finishWith s fun _ =>
      { x'.raise (r.foldl (fun g e => g ||| e.2.2) 0) with vstart := 0 })

/-- One step of the reduction (06 R169). -/
def redFn (o : VAOps) (op rm a b : Nat) : Nat × Flags :=
  match op with
  | 0 => vaddFn o rm a b 0
  | 1 => vmaxFn o rm a b 0
  | 2 => vminFn o rm a b 0
  | 3 => (a &&& b, 0)
  | 4 => (a ||| b, 0)
  | _ => (a ^^^ b, 0)

/-- One level of the fixed tree: neighbours combined, an odd last element appended (06 R169). -/
def redLevel (f : Nat → Nat → Nat × Flags) : List Nat → List Nat × Flags
  | a :: b :: r =>
    let v := f a b
    let t := redLevel f r
    (v.1 :: t.1, v.2 ||| t.2)
  | l => (l, 0)

/-- The tree, one level for each unit of fuel (06 R169). -/
def redTree (f : Nat → Nat → Nat × Flags) : Nat → List Nat → List Nat × Flags
  | 0, l => (l, 0)
  | n + 1, l =>
    match l with
    | _ :: _ :: _ =>
      let v := redLevel f l
      let t := redTree f n v.1
      (t.1, v.2 ||| t.2)
    | l => (l, 0)

/-- The value of a row with no active element (06 R169). -/
def redEmpty (ty op : Nat) : Nat :=
  match op with
  | 0 => 0
  | 1 => if ty < 8 then unsigned (tyWidth ty) (intLo ty) else (fmtOf ty).inf + (fmtOf ty).sign
  | 2 => if ty < 8 then unsigned (tyWidth ty) (intHi ty) else (fmtOf ty).inf
  | 3 => 2 ^ tyWidth ty - 1
  | _ => 0

/-- The result of one row (06 R169): a single active NaN is delivered as the canonical NaN. -/
def redRow (o : VAOps) (op rm : Nat) (l : List Nat) : Nat × Flags :=
  let ty := o.ty.toNat
  match l with
  | [] => (redEmpty ty op, 0)
  | [a] =>
    if 8 ≤ ty ∧ isNan (fpRead (fmtOf ty) a) then ((fmtOf ty).nan, sigFlag (fpRead (fmtOf ty) a)) else (a, 0)
  | l => let r := redTree (redFn o op rm) l.length l; (r.1.headD 0, r.2)

/-- `vred.T.op vd, vs1` (06 R169). -/
def execVred (o : VAOps) (s : State) : Res :=
  let x := s.me
  let op := o.w.toNat
  vaEnter s o [o.x, o.y] (wholeWidth x o && decide (x.vstart = 0)) (decide (8 ≤ o.ty.toNat) && decide (op = 0)) fun rm =>
    let n := ewBytes x
    let y := x.vreg o.y.toNat
    let rows := if x.vl = 0 then [] else List.range x.vrows
    let r := rows.foldl (fun (r : Bytes × Flags) row =>
      let l := ((List.range x.vl).filter fun e => maskBit x o.mask.toNat (row * x.vl + e)).map fun e =>
        elem y n (row * x.vl + e)
      let v := redRow o op rm l
      (setElem r.1 n (row * x.vl) v.1, r.2 ||| v.2)) (x.vreg o.x.toNat, 0)
    vaFinish s o r.1 (rows.map (· * x.vl)) r.2 []

/-! Masks. -/

/-- A mask instruction: configured, or trap 0x18 (03 R72; 06 R171). -/
def maskEnter (s : State) (k : Hart → Res) : Res :=
  if s.me.conf.isNone then .next (vconfTrap s) else unchained s fun s => k s.me

/-- A mask instruction that writes the bits from VSTART to T − 1 (06 R171; 03 R83; log 19). -/
def maskWrite (s : State) (d : Reg) (f : Hart → Nat → Bool) : Res :=
  maskEnter s fun x =>
    .next (finishWith s fun x' => { setMask x' d.toNat ((active x 0).map fun t => (t, f x t)) with vstart := 0 })

/-- A mask instruction that writes sd with a value of the set bits from VSTART to T − 1, in ascending order (06 R171, R172; 03 R83;
log 19). -/
def maskRead (s : State) (d a : Reg) (f : List Nat → Word) : Res :=
  maskEnter s fun x =>
    .next (finishWith s fun x' => { x'.writeS d (f ((active x 0).filter (maskBit x a.toNat))) with vstart := 0 })

/-- `mand` (06 R171). -/
def execMand (d a b : Reg) (s : State) : Res := maskWrite s d fun x t => maskBit x a.toNat t && maskBit x b.toNat t
/-- `mor` (06 R171). -/
def execMor (d a b : Reg) (s : State) : Res := maskWrite s d fun x t => maskBit x a.toNat t || maskBit x b.toNat t
/-- `mxor` (06 R171). -/
def execMxor (d a b : Reg) (s : State) : Res := maskWrite s d fun x t => maskBit x a.toNat t != maskBit x b.toNat t
/-- `mnot` (06 R171). -/
def execMnot (d a : Reg) (s : State) : Res := maskWrite s d fun x t => !maskBit x a.toNat t
/-- `mset`: the first sa elements of every row (06 R171). -/
def execMset (d a : Reg) (s : State) : Res := maskWrite s d fun x t => decide (t % x.vl < (x.readS a).toNat)
/-- `mmov` (06 R171). -/
def execMmov (d a : Reg) (s : State) : Res := maskWrite s d fun x t => maskBit x a.toNat t

/-- `mpop` (06 R171, R172). -/
def execMpop (d a : Reg) (s : State) : Res := maskRead s d a fun l => BitVec.ofNat 64 l.length

/-- `mfirst` (06 R171, R172). -/
def execMfirst (d a : Reg) (s : State) : Res :=
  maskRead s d a fun l => match l with | t :: _ => BitVec.ofNat 64 t | [] => BitVec.allOnes 64

end Sys2Proof.Machine
end

