-- ==== Sys2Proof/Machine/VecConfig.lean ====
section
/-! DEFINITION. Vector configuration, the share arbiter and gangs (06 R148 to R153; 02 R38, R61). -/

namespace Sys2Proof.Machine

/-- Performs a step as hart `h`; the executing hart stays the one it was. -/
def asHart (s : State) (h : Nat) (k : State → Res) : Res :=
  match k { s with cur := h } with
  | .next t => .next { t with cur := s.cur }
  | .fault f => .fault f
  | .refused r => .refused r

/-- The instruction at which a hart waits, from the line it fetched. -/
def waitingInstr (x : Hart) : Option Instr := (decodeSlot x.fetched (x.pc.toNat / 2 % 32)).toOption

/-- HSTAT.GANGED: a hart of the core is ganged (03 R88). -/
def coreGanged (s : State) (h : Nat) : Bool := s.harts.any fun e => coreOf e.1 == coreOf h && e.2.gang.isSome

/-- The hart is unconfigured: its vector state and slots are released (06 R151). -/
def unconfigure (s : State) (h : Nat) : State :=
  let s := releaseSlots s h
  let x := s.hart h
  s.setHart h { x with
    conf := none
    v := []
    m := []
    spoiled := { x.spoiled with v := [], m := [], slots := [] }
    vl := 0
    vrows := 1
    vstart := 0 }

/-- Registers named by a count code (06 R148). -/
def countOf (c : BitVec 2) : Nat := 4 * 2 ^ c.toNat

/-- The hart configured with its shares: registers and masks zero (06 R149). -/
def configured (x : Hart) (count : Nat) (shares : Nat) (ew : BitVec 2) : Hart :=
  { x with
    conf := some ⟨count, shares, ew⟩
    v := []
    m := []
    spoiled := { x.spoiled with v := [], m := [] }
    vl := shares * 32768 / (count * 2 ^ ew.toNat)
    vrows := 1
    vstart := 0
    run := .running }

/-- The hart waits in `vcfg`: it has placed its request (06 R149). -/
def awaitsShares (x : Hart) : Bool :=
  match x.run with
  | .waiting .shares _ => true
  | _ => false

/-- `vcfg count, shares, ew` (06 R148, R149): a request at the share arbiter, granted in order. The gang is looked at once,
before the request is placed. -/
def execVcfg (count : BitVec 2) (shares : BitVec 3) (ew : BitVec 2) (s : State) : Res :=
  unchained s fun s =>
    if coreGanged s s.cur && !awaitsShares s.me then .next (vconfTrap s)
    else
      let s := if s.me.conf.isSome then unconfigure s s.cur else s
      let c := s.core (coreOf s.cur)
      let n := shares.toNat + 1
      let queue := if c.shareQueue.any fun e => e.1 == s.cur then c.shareQueue else c.shareQueue ++ [(s.cur, n)]
      if (queue.head?.map (·.1)) = some s.cur ∧ sharesUsed s (coreOf s.cur) + n ≤ 8 then
        let s := s.setCore (coreOf s.cur) { c with shareQueue := queue.drop 1 }
        .next (finishWith s fun x => configured x (countOf count) n ew)
      else .next (waitAt (s.setCore (coreOf s.cur) { c with shareQueue := queue }) .shares 0)

/-- The share arbiter grants the first waiting request of a core, once enough shares are free (06 R149). -/
def execShareGrant (core : Nat) (s : State) : Res :=
  match (s.core core).shareQueue with
  | [] => .next s
  | (h, n) :: _ =>
    if sharesUsed s core + n ≤ 8 then
      match waitingInstr (s.hart h) with
      | some (.vcfg c sh ew) => asHart s h (execVcfg c sh ew)
      | _ => .next s
    else .next s

/-- `vsetl` (06 R150). -/
def execVsetl (d a : Reg) (s : State) : Res :=
  unchained s fun s =>
    if s.me.conf.isNone ∨ coreGanged s s.cur then .next (vconfTrap s)
    else
      let vl := min (s.me.readS a).toNat (tileMax s.me / s.me.vrows)
      .next (finishWith s fun x => { x with vl := vl, vstart := 0 }.writeS d (BitVec.ofNat 64 vl))

/-- `vsetr` (06 R150). -/
def execVsetr (d a : Reg) (s : State) : Res :=
  unchained s fun s =>
    if s.me.conf.isNone ∨ coreGanged s s.cur then .next (vconfTrap s)
    else
      let r := max 1 (min (s.me.readS a).toNat (min 64 (tileMax s.me / max s.me.vl 1)))
      .next (finishWith s fun x => { x with vrows := r, vstart := 0 }.writeS d (BitVec.ofNat 64 r))

/-- `vrel` (06 R151). -/
def execVrel (s : State) : Res :=
  unchained s fun s =>
    if s.me.gang.isSome then .next (vconfTrap s)
    else if s.me.conf.isNone then .next (finish s)
    else .next (finish (unconfigure s s.cur))

/-- Writes the status of a hart's `gang` and completes it (06 R152). -/
def gangStatus (s : State) (h : Nat) (v : Word) : State :=
  let s := { s with gangs := Tab.del h s.gangs }
  match waitingInstr (s.hart h) with
  | some (.gang d _) =>
    let x := { s.hart h with run := .running }
    s.setHart h (arrive (x.writeS d v) (following x))
  | _ => s

/-- Two harts run hart groups of one cluster group (02 R41). In a spliced loop both must be in the same segment (the model's
choice: log 69). -/
def sameClusterGroup (a b : Hart) : Bool :=
  match a.work, b.work with
  | .group p _ _ g4 g5 _, .group q _ _ k4 k5 _ => decide (p = q ∧ g4 = k4 ∧ g5 = k5) && a.seg == b.seg
  | _, _ => false

/-- Two harts have the same vector configuration and shape (06 R152). -/
def sameShape (a b : Hart) : Bool := a.conf == b.conf && decide (a.vl = b.vl) && decide (a.vrows = b.vrows)

/-- `gang` is refused with status 2 (06 R152). -/
def gangRefused (s : State) (v : Nat) : Bool :=
  let h := s.cur
  let cl := clusterOf h
  let cores := (List.range 32).filter fun i => v.testBit i
  decide (2 ^ 32 ≤ v) || decide (cores.length < 2) || !v.testBit (coreOf h % 32)
    || cores.any (fun i => decide (coresIn s cl ≤ i)
        || !s.harts.any fun e => coreOf e.1 == cl * 32 + i && sameClusterGroup e.2 s.me)
    || coreGanged s h

/-- The hart has arrived at a gang and waits for the others (06 R152). -/
def arrivedAtGang (s : State) (h : Nat) : Bool :=
  match (s.hart h).run with
  | .waiting .gang _ => Tab.get 0 s.gangs h != 0
  | _ => false

/-- What a member that completes its `gang` would meet at the end of a loop: it then leaves the gang unexecuted (04 R101). -/
def gangProblem (s : State) (h : Nat) : Option (Nat × Word) :=
  let x := { s.hart h with run := .running }
  match waitingInstr x with
  | some (.gang d _) => endProblem s h x (arrive (x.writeS d 0) (following x))
  | _ => none

/-- `gang sd, sa` (06 R152; 02 R61). The refusal is judged once, at the arrival: one that has been made stands until every
member has arrived, its bound passes or the hart is suspended. Where two harts of one core wait with the same mask, the
lowest-numbered of them joins and the other goes on waiting (the model's choice: log 88). -/
def execGang (d a : Reg) (s : State) : Res :=
  unchained s fun s =>
    let v := (s.me.readS a).toNat
    if v = 0 then
      let s := leaveGang s s.cur
      .next (finishWith s fun x => x.writeS d 1)
    else if s.me.conf.isNone then .next (vconfTrap s)
    else if !arrivedAtGang s s.cur && gangRefused s v then .next (finishWith s fun x => x.writeS d 2)
    else
      let cl := clusterOf s.cur
      let s := waitAt { s with gangs := Tab.set 0 s.cur v s.gangs } .gang 0
      let cores := (List.range 32).filter fun i => v.testBit i
      let arrived := cores.map fun i => s.gangs.find? fun e => coreOf e.1 == cl * 32 + i && decide (e.2 = v)
      if arrived.any (·.isNone) then .next s
      else
        let members := arrived.filterMap fun e => e.map (·.1)
        let lost := members.filterMap fun h => if h = s.cur then none else (gangProblem s h).map fun p => (h, p)
        if !lost.isEmpty then .next (lost.foldl (fun s e => leaveWith s e.1 e.2) s)
        else if members.all fun h => sameShape (s.hart h) s.me then
          let lead := members.headD s.cur
          .next (members.foldl (fun s h =>
            gangStatus (s.setHart h { s.hart h with gang := some (BitVec.ofNat 32 v), gangLead := lead, gangFeed := [] })
              h 0) s)
        else .next (members.foldl (fun s h => gangStatus s h 3) s)

/-- A gang that did not assemble within its bound: the hart's arrival is withdrawn with status 4 (06 R152). -/
def execGangTimeout (h : Nat) (s : State) : Res :=
  match (s.hart h).run with
  | .waiting .gang _ => if Tab.get 0 s.gangs h = 0 then .next s else .next (gangStatus s h 4)
  | _ => .next s

end Sys2Proof.Machine
end

