-- ==== Sys2Proof/Machine/VecMem.lean ====
section
/-! DEFINITION. Vector loads and stores, prefetch, atomics, locks and stashes (07 R175 to R196). -/

namespace Sys2Proof.Machine

/-- A byte offset IMM18 added to a base (07 R177). -/
def vmBase (x : Hart) (o : VMOps) : Nat := (x.readS o.y + o.imm.signExtend 64).toNat

/-- An address modulo 2^64. -/
def wrap (v : Int) : Nat := unsigned 64 v

/-- Tokens of a wait mask that are still pending (07 R198; 09 R223). -/
def pendingTokens (x : Hart) (set : BitVec 8) : List Nat :=
  (List.range 8).filter fun k => set.getLsbD k && match x.token k with | .pending _ => true | _ => false

/-- Acquires the named tokens: each becomes idle (09 R223). -/
def acquireTokens (x : Hart) (set : BitVec 8) : Hart :=
  { x with
    tokens := x.tokens.filter fun e => !set.getLsbD e.1
    run := .running }

/-- Waits for the tokens of a wait mask before anything is examined (07 R198; 09 R223): what the vector stream does later
follows what they stand for (13 R331). -/
def withTokens (s : State) (set : BitVec 8) (k : State → Res) : Res :=
  if (pendingTokens s.me set).isEmpty then
    k (if set = 0 then s.setMe (acquireTokens s.me set) else freshAccess (s.setMe (acquireTokens s.me set)) true)
  else .next (waitAt s .tokens 0)

/-- The checks of a vector memory instruction that come before any element: configuration and register numbers, the
chain, `ok` for its width rules, and its tokens (04 R104; 07 R176, R198). -/
def vmEnter (s : State) (o : VMOps) (regs : List Reg) (ok : Bool) (k : State → Res) : Res :=
  if !vregsOk s.me regs then .next (vconfTrap s)
  else unchained s fun s => if !ok then .next (vconfTrap s) else withTokens s o.wait k

/-- The first element with a problem, in ascending order, and its cause (07 R179). -/
def firstProblem (chk : Nat → Except Nat Resolved) : List Nat → Option (Nat × Nat)
  | [] => none
  | t :: r => match chk t with | .error c => some (t, c) | .ok _ => firstProblem chk r

/-- The shape of the tile after a trim at element `f` (07 R180). -/
def trim (x : Hart) (f : Nat) : Hart :=
  if f / x.vl = 0 then { x with vl := f % x.vl } else { x with vrows := f / x.vl }

/-- What an access does after its checks (07 R179): the elements it performs, and how it ends. -/
inductive Ending where
  | complete
  | trimmed (f : Nat)
  | trapped (f cause : Nat)
  deriving DecidableEq, Repr

/-- The elements performed and the ending of an access (07 R179). -/
def plan (x : Hart) (l : List Nat) (chk : Nat → Except Nat Resolved) (trimmable : Nat → Bool) : List Nat × Ending :=
  match firstProblem chk l with
  | none => (l, .complete)
  | some (f, c) =>
    let done := l.filter fun t => decide (t < f)
    if trimmable c && x.gang.isNone && !done.isEmpty then (done, .trimmed f) else (done, .trapped f c)

/-- Ends an access: VSTART 0 on completion, the trimmed shape, or the trap with VSTART at f (07 R179, R180). -/
def endAccess (s : State) (e : Ending) (addr : Nat → Nat) : Res :=
  match e with
  | .complete => .next (finishWith s fun x => { x with vstart := 0 })
  | .trimmed f => .next (finishWith s fun x => { trim x f with vstart := 0 })
  | .trapped f c =>
    let s := s.setMe { s.me with vstart := f }
    .next (trap s c (BitVec.ofNat 64 (addr f)))

/-- Translation caches, stash lines, fills and chain tags of performed elements (15 R381; 07 R194; 12 R317; 02 R65). -/
def touchAll (s : State) (k : Access) (addr : Nat → Nat) (l : List Nat) : State :=
  l.foldl (fun s t =>
    let a := s.agent s.cur
    match resolve s a k (addr t) with
    | .ok r => tagAt (touch (if k = .store then s else noteRead s (.ok r)) a k (addr t)) s.me r.place
    | .error _ => s) s

/-- The fill made by the element that a poisoned line stops (12 R317). -/
def touchEnd (s : State) (e : Ending) (addr : Nat → Nat) : State :=
  match e with
  | .complete => s
  | .trimmed f => noteRead s (resolve s (s.agent s.cur) .load (addr f))
  | .trapped f _ => noteRead s (resolve s (s.agent s.cur) .load (addr f))

/-- The elements of an access as accesses of the vector queue (13 R323): those of a page that is not idempotent one after
another, the others in no order of their own (07 R184); none where one of them cannot wait. -/
def queuedElements (chk : Nat → Except Nat Resolved) (f : Nat → Place → Pending) (l : List Nat) : Option (List (List Pending)) :=
  if l.all fun t => (queueable (chk t)).isSome then
    let ps := l.filterMap fun t => (queueable (chk t)).map (f t)
    let ordered := l.any fun t => match chk t with | .ok r => r.cls != .pma | .error _ => false
    some (if ordered then ps.map fun p => [p] else [ps])
  else none

/-- Sectors of memory that some runs of bytes cover together. -/
def coveredSectors (runs : List (Nat × Nat)) : List Nat :=
  let locs := runs.flatMap fun r => (List.range r.2).map (r.1 + ·)
  (distinct (locs.map (· / 32))).filter fun k => (List.range 32).all fun i => locs.contains (32 * k + i)

/-- The runs of memory that queued stores write. -/
def storedRuns (l : List Pending) : List (Nat × Nat) :=
  l.filterMap fun p => match p with | .store (.ram k) b => some (k, b.length) | _ => none

/-- After the stores of one access in a queue, the sectors that they cover together lose their poison (16 R419). -/
def withCovers (s : State) (q : List (List Pending)) : List (List Pending) :=
  if s.taint.isEmpty && !storeQueueHeld s s.cur then q
  else
    let c := (coveredSectors (storedRuns q.flatten)).map fun k => Pending.cover (32 * k)
    if c.isEmpty then q else q ++ [c]

/-- An access that may join the vector queue while a job of the hart waits for a channel (09 R218): a store that nothing else
needs to see done, or a load that no store waits before. -/
def mayQueue (s : State) (q : List (List Pending)) : Bool :=
  let plain (p : Pending) : Bool :=
    match p with
    | .store _ _ => true
    | .unlock _ _ => true
    | .commit _ _ _ => true
    | .cover _ => true
    | _ => false
  !storeQueueHeld s s.cur || q.flatten.all plain || (!vectorHeld s s.cur && q.flatten.all fun p => p.source.isSome)

/-- The vector stream of the executing hart leaves its accesses to its queue: none that it has performed before its turn comes
first (13 R324; log 4). -/
def vectorLags (s : State) : Bool := lagging s && (early s s.cur true).isEmpty

/-- Accesses join the vector queue of the executing hart, one after another. -/
def enqueueEach (s : State) (q : List (List Pending)) : State := q.foldl (fun s e => enqueueAccess s true e) s

/-- The elements of an access join it, with what they cover together. -/
def enqueueAll (s : State) (q : List (List Pending)) : State := enqueueEach s (withCovers s q)

/-- A vector access of a hart that leaves its accesses to the vector queue, where its elements may all wait there and none has a
problem: a trap finds those below it performed (13 R324; 07 R179). -/
def vectorLater (s : State) (k : Access) (l : List Nat) (addr : Nat → Nat) (chk : Nat → Except Nat Resolved)
    (trimmable : Nat → Bool) (f : Nat → Place → Pending) : Option Res :=
  let p := plan s.me l chk trimmable
  if !vectorLags s || p.2 != .complete then none
  else
    match queuedElements chk f p.1 with
    | none => none
    | some q =>
      if mayQueue s q then some (endAccess (enqueueAll (touchAll (freshAccess s true) k addr p.1) q) p.2 addr) else none

/-- The accesses that the executing hart has left to its vector queue are performed, where it leaves any there: what cannot
wait in the queue follows them (13 R324). Behind a job that waits for a channel a store waits, and so does what follows a
queued one (09 R218). -/
def caughtUp (s : State) (store : Bool) (k : State → Res) : Res :=
  if (storeQueueHeld s s.cur && store) || vectorHeld s s.cur then .next (waitAt s .channel 0)
  else k (if s.me.vectorQueue.isEmpty then s else performQueue s s.cur true)

/-- The elements of a vector access read `n` bytes each, in ascending order, now or before their turn: what each found, and the
state after them (07 R179, R184; 13 R328). -/
def readElements (s : State) (n : Nat) (chk : Nat → Except Nat Resolved) (l : List Nat) : List (Nat × List Byte) × State :=
  l.foldl (fun r t =>
    match chk t with
    | .ok q => let a := readAccess r.2 true q n; (r.1 ++ [(t, a.1)], a.2)
    | .error _ => r) ([], s)

/-- A vector load of `b`-byte elements into register `d` that is not left to the queue (07 R179, R182). -/
def vectorLoadNow (s : State) (d : Nat) (l : List Nat) (b : Nat) (addr : Nat → Nat) (trimmable : Nat → Bool) : Res :=
  let a := s.agent s.cur
  let chk (t : Nat) := check s a .load (addr t) b
  let p := plan s.me l chk trimmable
  let r := readElements (touchEnd (touchAll s .load addr p.1) p.2 addr) b chk p.1
  let tile := r.1.foldl (fun m e => Tab.putBytes m (b * e.1) e.2) (s.me.vreg d)
  endAccess (r.2.setMe ((r.2.me.setVreg d tile).cleanV d p.1)) p.2 addr

/-- A vector load of `b`-byte elements into register `d` (07 R179, R182). -/
def vectorLoad (s : State) (d : Nat) (l : List Nat) (b : Nat) (addr : Nat → Nat) (trimmable : Nat → Bool) : Res :=
  match vectorLater s .load l addr (fun t => check s (s.agent s.cur) .load (addr t) b) trimmable
      fun t p => .toElement p d t b with
  | some r => r
  | none => caughtUp s false fun s => vectorLoadNow s d l b addr trimmable

/-- Sectors that the elements of one store cover together lose their poison (16 R419). -/
def clearCovered (s : State) (runs : List (Nat × Nat)) : State :=
  if s.taint.isEmpty then s
  else (coveredSectors runs).foldl (fun s k => { s with taint := clearTaint s.taint (32 * k) (32 * k + 32) }) s

/-- Writes element bytes at resolved places, in ascending order (07 R183, R184). -/
def writeAll (s : State) (l : List (Place × List Byte)) : State :=
  let s := l.foldl (fun s e => storePlace s e.1 e.2) s
  clearCovered s (l.filterMap fun e => match e.1 with | .ram k => some (k, e.2.length) | _ => none)

/-- Stores of the executing hart's vector stream, but for those that it has performed before their turn (13 R325). -/
def writeOwn (s : State) (l : List (Resolved × List Byte)) : State :=
  let w := writeAccess s true l
  if w.2.length = l.length then writeAll w.1 (l.map fun e => (e.1.place, e.2))
  else
    clearCovered (writeAll w.1 (w.2.map fun e => (e.1.place, e.2)))
      (l.filterMap fun e => match e.1.place with | .ram k => some (k, e.2.length) | _ => none)

/-- A vector store of `b`-byte elements that is not left to the queue (07 R179, R183): every address is checked before any
element is performed. -/
def vectorStoreNow (s : State) (l : List Nat) (b : Nat) (addr : Nat → Nat) (bytes : Nat → List Byte)
    (trimmable : Nat → Bool) : Res :=
  let a := s.agent s.cur
  let chk (t : Nat) := check s a .store (addr t) b
  let p := plan s.me l chk trimmable
  let w := p.1.filterMap fun t => match chk t with | .ok q => some (q, bytes t) | .error _ => none
  let s := touchAll s .store addr p.1
  endAccess (writeOwn s w) p.2 addr

/-- A vector store of `b`-byte elements (07 R179, R183). -/
def vectorStore (s : State) (l : List Nat) (b : Nat) (addr : Nat → Nat) (bytes : Nat → List Byte)
    (trimmable : Nat → Bool) : Res :=
  match vectorLater s .store l addr (fun t => check s (s.agent s.cur) .store (addr t) b) trimmable
      fun t p => .store p (bytes t) with
  | some r => r
  | none => caughtUp s true fun s => vectorStoreNow s l b addr bytes trimmable

/-- Only 0x09 trims a load or store (07 R179). -/
def trimScratch (c : Nat) : Bool := c == 0x09
/-- `vldff` trims on everything but 0x14 (07 R179). -/
def trimFirst (c : Nat) : Bool := c != 0x14 && c != stackHeld
/-- No cause trims. -/
def trimNone (_ : Nat) : Bool := false

/-- The width rule of 07 R176. -/
def vmWidth (x : Hart) (o : VMOps) : Bool := decide (tyWidth o.ty.toNat ≤ ewBits x)

/-- Unit-stride address of element `t` (07 R177). -/
def unitAddr (x : Hart) (o : VMOps) (t : Nat) : Nat := wrap (vmBase x o + t * ewBytes x : Nat)
/-- Strided address of element `t` (07 R177). -/
def stridedAddr (x : Hart) (o : VMOps) (t : Nat) : Nat := wrap ((vmBase x o : Int) + (t : Int) * (x.readS o.z).toInt)
/-- Indexed address of element `t` (07 R177). -/
def indexedAddr (x : Hart) (o : VMOps) (t : Nat) : Nat :=
  wrap ((vmBase x o : Int) + signed (ewBits x) (elem (x.vreg o.z.toNat) (ewBytes x) t))

/-- A load form of major 0x23. -/
def loadForm (s : State) (o : VMOps) (regs : List Reg) (addr : Hart → VMOps → Nat → Nat) (trimmable : Nat → Bool) : Res :=
  vmEnter s o regs (vmWidth s.me o) fun s =>
    vectorLoad s o.x.toNat (active s.me o.mask.toNat) (ewBytes s.me) (addr s.me o) trimmable

/-- A store form of major 0x24. -/
def storeForm (s : State) (o : VMOps) (regs : List Reg) (addr : Hart → VMOps → Nat → Nat) : Res :=
  vmEnter s o regs (vmWidth s.me o) fun s =>
    let x := s.me
    vectorStore s (active x o.mask.toNat) (ewBytes x) (addr x o)
      (fun t => Tab.bytes (x.vreg o.x.toNat) (ewBytes x * t) (ewBytes x)) trimScratch

/-- `vld` (07 R177, R179). -/
def execVld (o : VMOps) (s : State) : Res := loadForm s o [o.x] unitAddr trimScratch
/-- `vlds` (07 R177). -/
def execVlds (o : VMOps) (s : State) : Res := loadForm s o [o.x] stridedAddr trimScratch
/-- `vldx` (07 R177). -/
def execVldx (o : VMOps) (s : State) : Res := loadForm s o [o.x, o.z] indexedAddr trimScratch
/-- `vldff` (07 R179). -/
def execVldff (o : VMOps) (s : State) : Res := loadForm s o [o.x] unitAddr trimFirst
/-- `vst` (07 R177, R179). -/
def execVst (o : VMOps) (s : State) : Res := storeForm s o [o.x] unitAddr
/-- `vsts` (07 R177). -/
def execVsts (o : VMOps) (s : State) : Res := storeForm s o [o.x] stridedAddr
/-- `vstx` (07 R177). -/
def execVstx (o : VMOps) (s : State) : Res := storeForm s o [o.x, o.z] indexedAddr

/-- `vpref`: brings lines in and changes nothing that an agent can read (07 R188). -/
def execVpref (o : VMOps) (s : State) : Res :=
  vmEnter s o [] (vmWidth s.me o) fun s =>
    let x := s.me
    let a := s.agent s.cur
    let s := (active x o.mask.toNat).foldl (fun s t =>
      match windowOf s a (unitAddr x o t), check s a .load (unitAddr x o t) (ewBytes x) with
      | .no, .ok ⟨p, .pma⟩ => tagAt s x p
      | _, _ => s) s
    .next (finish s)

/-- `vamo` that is not left to the queue, in ascending order (07 R189; 21 R455). -/
def vamoNow (o : VMOps) (s : State) : Res :=
    let x := s.me
    let a := s.agent s.cur
    let b := ewBytes x
    let addr := indexedAddr x o
    let chk (t : Nat) := check s a .atomic (addr t) b
    let p := plan x (active x o.mask.toNat) chk trimNone
    let r := p.1.foldl (fun (r : State × Bytes × Flags) t =>
      match chk t with
      | .error _ => r
      | .ok q =>
        let f (old : Nat) := atomicOp (o.sub.toNat % 16) b old (elem (x.vreg o.x.toNat) b t)
        let e := atomicAccess r.1 q b fun old => some (f old).1
        (e.2, if o.sub.getLsbD 4 then setElem r.2.1 b t e.1 else r.2.1, r.2.2 ||| (f e.1).2))
      (touchAll s .atomic addr p.1, x.vreg o.x.toNat, 0)
    let old := if o.sub.getLsbD 4 then p.1 else []
    let s := r.1.setMe (((r.1.me.setVreg o.x.toNat r.2.1).cleanV o.x.toNat old).raise r.2.2)
    endAccess s p.2 addr

/-- `vamo` (07 R189; 21 R455): each element one read-modify-write, an access of the vector stream of its own. -/
def execVamo (o : VMOps) (s : State) : Res :=
  vmEnter s o [o.x, o.z] (decide (tyWidth o.ty.toNat = ewBits s.me)) fun s =>
    let x := s.me
    let b := ewBytes x
    match vectorLater s .atomic (active x o.mask.toNat) (indexedAddr x o)
        (fun t => check s (s.agent s.cur) .atomic (indexedAddr x o t) b) trimNone
        (fun t p => .atomic p (o.sub.toNat % 16) b (elem (x.vreg o.x.toNat) b t)
          (if o.sub.getLsbD 4 then some (o.x.toNat, t) else none)) with
    | some r => r
    | none => caughtUp s true (vamoNow o)

/-! Locks. -/

/-- A lock word held by this hart (07 R190). -/
def lockMine (s : State) (w : Nat) : Bool :=
  decide (w / 2 ^ 32 % 2 ^ 16 = s.me.asid) && decide (w % 2 ^ 16 = s.cur)

/-- A lock word with HELD set for this hart, other bits preserved (07 R190, R191). -/
def lockTaken (s : State) (w : Nat) : Nat := lockWord s.me.asid s.cur w

/-- The least element naming each distinct address, in ascending address order (07 R191). -/
def lockOrder (addr : Nat → Nat) (l : List Nat) : List Nat :=
  (sortAsc (distinct (l.map addr))).filterMap fun a => l.find? fun t => decide (addr t = a)

/-- `vlock` that is not left to the queue (07 R191). -/
def vlockNow (o : VMOps) (s : State) : Res :=
    let x := s.me
    let a := s.agent s.cur
    let addr (t : Nat) := elem (x.vreg o.z.toNat) 8 t
    let chk (t : Nat) := check s a .atomic (addr t) 8
    let p := plan x (active x o.mask.toNat) chk trimNone
    let r := (lockOrder addr p.1).foldl (fun (r : State × List (Nat × Bool × Bool)) t =>
      match chk t with
      | .error _ => r
      | .ok q =>
        let e := atomicAccess r.1 q 8 fun w => if bitOf w 63 then none else some (lockTaken s w)
        let mine := !bitOf e.1 63 || lockMine s e.1
        (e.2, r.2 ++ [(t, mine, !mine && ownerSuspended e.2 e.1)])) (touchAll s .atomic addr p.1, [])
    let got (t : Nat) : Bool × Bool := match r.2.find? fun e => decide (e.1 = t) with | some e => e.2 | none => (false, false)
    let y := setMask r.1.me o.x.toNat (p.1.map fun t => (t, (got t).1))
    let y := setMask y (o.sub.toNat % 8) (p.1.map fun t => (t, (got t).2))
    endAccess (r.1.setMe y) p.2 addr

/-- The attempts or releases of lock words, one after another, as accesses of the vector queue, where they may all wait there and
none has a problem (07 R191, R192; 13 R324). -/
def locksLater (s : State) (e : Ending) (chk : Nat → Except Nat Resolved) (f : Nat → Place → Pending) (l : List Nat) :
    Option (List (List Pending)) :=
  if !vectorLags s || e != .complete then none
  else
    match queuedElements chk f l with
    | none => none
    | some q => if mayQueue s q then some (q.flatten.map fun e => [e]) else none

/-- `vlock md, ms, va` (07 R191): each lock word's attempt is an access of the vector stream of its own, in ascending address;
elements that name no word of their own read 0. -/
def execVlock (o : VMOps) (s : State) : Res :=
  vmEnter s o [o.z] (decide (ewBits s.me = 64)) fun s =>
    let x := s.me
    let addr (t : Nat) := elem (x.vreg o.z.toNat) 8 t
    let chk (t : Nat) := check s (s.agent s.cur) .atomic (addr t) 8
    let p := plan x (active x o.mask.toNat) chk trimNone
    let md := o.x.toNat
    let ms := o.sub.toNat % 8
    match locksLater s p.2 chk (fun t q => .lock q x.asid md ms t) (lockOrder addr p.1) with
    | some q =>
      let s := touchAll (freshAccess s true) .atomic addr p.1
      let no := p.1.map fun t => (t, false)
      let s := s.setMe (setMask (setMask s.me md no) ms no)
      endAccess (enqueueAll s q) p.2 addr
    | none => caughtUp s true (vlockNow o)

/-- `vunlock va` (07 R192). -/
def execVunlock (o : VMOps) (s : State) : Res :=
  vmEnter s o [o.z] (decide (ewBits s.me = 64)) fun s =>
    let x := s.me
    let a := s.agent s.cur
    let addr (t : Nat) := elem (x.vreg o.z.toNat) 8 t
    let chk (t : Nat) := check s a .atomic (addr t) 8
    let p := plan x (active x o.mask.toNat) chk trimNone
    let l := lockOrder addr p.1
    match locksLater s p.2 chk (fun _ q => .unlock q x.asid) l with
    | some q => endAccess (enqueueAll (touchAll (freshAccess s true) .atomic addr p.1) q) p.2 addr
    | none =>
      caughtUp s true fun s =>
        let s' := l.foldl (fun s' t =>
          match chk t with
          | .error _ => s'
          | .ok q =>
            (atomicAccess s' q 8 fun w => if lockHeldBy x.asid s.cur w then some (lockFreed w) else none).2)
          (touchAll s .atomic addr p.1)
        endAccess s' p.2 addr

/-! Stashes. -/

/-- A form of major 0x26: the chain and the tokens, no configuration (07 R176). Every hart's queued accesses are performed
before it, so that each access to the range comes wholly before it or wholly after it (07 R195); it waits while a store of any
hart waits behind a job (09 R218). -/
def stashEnter (s : State) (o : VMOps) (k : State → Res) : Res :=
  unchained s fun s => withTokens s o.wait fun s => caughtUp s true fun s =>
    if (heldPlaces s).isEmpty then k (performAll s) else .next (waitAt s .channel 0)

/-- The parts of [g, g + n) that lie in one page each: their bounds (07 R193). -/
def pageParts (g n : Nat) : List (Nat × Nat) :=
  (List.range ((g + n - 1) / 4096 + 1 - g / 4096)).map fun k =>
    (if k = 0 then g else (g / 4096 + k) * 4096, min ((g / 4096 + k + 1) * 4096) (g + n))

/-- A part of a page that is not present or not readable, and what it meets. -/
def pageAbsent (s : State) (a : Agent) (e : Nat × Nat) : Option (Nat × Nat) :=
  match windowOf s a e.1, translate s a .load e.1 with
  | .no, .error c => if c = 0x08 then none else some (c, e.1)
  | _, _ => none

/-- A part of a page that a stash may not hold (07 R193): host-shared, device-class, in a raw region or answering nothing
of the context; a global address inside a window is one that translates to nothing (the model's choice: log 83). -/
def pageUnfit (s : State) (a : Agent) (e : Nat × Nat) : Bool :=
  match windowOf s a e.1, translate s a .load e.1 with
  | .no, .ok (pa, cl) =>
    match placeOf s pa with
    | some (.ram l) => decide (cl ≠ .pma) || (rawWindow s l (l + (e.2 - e.1))).isSome
    | some (.derived _) => decide (cl ≠ .pma)
    | _ => true
  | _, _ => true

/-- The first page of [g, g + n) that a stash may not hold, and its cause, in the order of the table of 07 R193. -/
def stashProblem (s : State) (a : Agent) (g n : Nat) : Option (Nat × Nat) :=
  ((pageParts g n).findSome? (pageAbsent s a)).or
    (((pageParts g n).find? (pageUnfit s a)).map fun e => (0x08, e.1))

/-- Every page of [g, g + n) is writable: by its page table entry, and not in the derived range (07 R193; 17 R425). A page whose
stack is not ready is judged once it is (17 R440). -/
def stashWritable (s : State) (a : Agent) (g n : Nat) : Bool :=
  (pageParts g n).all fun e =>
    match resolve s a .store e.1 with
    | .ok _ => true
    | .error c => c == stackHeld

/-- `stmap sa, sb, sc` (07 R193). -/
def execStmap (o : VMOps) (s : State) : Res :=
  stashEnter s o fun s =>
    let a := s.agent s.cur
    let x := (s.me.readS o.x).toNat
    let g := (s.me.readS o.y).toNat
    let n := (s.me.readS o.z).toNat
    let sw := (s.context s.me.asid).swbase.toNat
    let c := coreOf s.cur
    let off := x - sw
    let table := (s.core c).stash
    if x % 128 ≠ 0 ∨ g % 128 ≠ 0 ∨ n % 128 ≠ 0 ∨ n = 0 ∨ 524288 < n then .next (trap s 0x04 (s.me.readS o.x))
    else if x < sw ∨ sw + 0x80000 < x + n then .next (trap s 0x09 (s.me.readS o.x))
    else if 16 ≤ table.length ∨ (table.any fun e => rangesMeet (e.off, e.off + e.len) (off, off + n)
        || rangesMeet (e.va.toNat, e.va.toNat + e.len) (g, g + n)) then .next (trap s 0x09 (s.me.readS o.x))
    else
      match stashProblem s a g n with
      | some (cause, va) => .next (trap s cause (BitVec.ofNat 64 va))
      | none =>
        match pagesOf s a g n with
        | .error (cause, va) => .next (trap s cause (BitVec.ofNat 64 va))
        | .ok pages =>
          let e : Stash := ⟨off, BitVec.ofNat 64 g, n, !stashWritable s a g n, pages.map some, []⟩
          let k := s.core c
          .next (finish (s.setCore c { k with stash := k.stash ++ [e] }))

/-- The stash entry whose scratch range holds the address in X (07 R195). -/
def stashNamed (s : State) (o : VMOps) : Option Stash :=
  let x := (s.me.readS o.x).toNat
  let sw := (s.context s.me.asid).swbase.toNat
  if x < sw then none else stashAt s (coreOf s.cur) (x - sw)

/-- Dirty lines become clean: the global bytes already hold their values (07 R194, R195). -/
def stashClean (e : Stash) : Stash :=
  { e with lines := e.lines.map fun l => (l.1, if l.2 = .dirty then .clean else l.2) }

/-- `stwb sa` (07 R195). -/
def execStwb (o : VMOps) (s : State) : Res :=
  stashEnter s o fun s =>
    match stashNamed s o with
    | none => .next (finish s)
    | some e =>
      let c := coreOf s.cur
      let k := s.core c
      .next (finish (s.setCore c { k with stash := k.stash.map fun f => if f.off = e.off then stashClean f else f }))

/-- The bytes of the filled lines of an entry, put into the scratchpad as plain bytes (07 R195). -/
def stashSpill (s : State) (c : Nat) (e : Stash) : State :=
  e.lines.foldl (fun s l =>
    if l.2 = .absent then s
    else
      let o := e.off + 128 * l.1
      let p := (placeOf s (stashLoc e o)).getD (.ram (stashLoc e o))
      let b := readPlace s p 128
      let t := (List.range 128).map (placeTaint s p)
      let s := { s with mem := putMem s.mem (scratchLoc c o) b }
      { s with taint := Tab.sets .sound (List.zip ((List.range 128).map (scratchLoc c o + ·)) t) s.taint }) s

/-- `stunmap sa` (07 R195). -/
def execStunmap (o : VMOps) (s : State) : Res :=
  stashEnter s o fun s =>
    match stashNamed s o with
    | none => .next (finish s)
    | some e =>
      let c := coreOf s.cur
      let s := stashSpill s c e
      let k := s.core c
      .next (finish (s.setCore c { k with stash := k.stash.filter fun f => f.off != e.off }))

end Sys2Proof.Machine
end

