-- ==== Sys2Proof/Machine/Matrix.lean ====
section
/-! DEFINITION. Operand slots, the tile array and accumulator banks (08 R199 to R212; 12 R318). -/

namespace Sys2Proof.Machine

/-- The entry of a matrix instruction (04 R104; 08 R199, R205): configuration and register numbers, the chain, the
chapter's own width rules `ok`, the claims in the order given, then the tokens. -/
def matrixEnter (s : State) (cfg : Bool) (regs : List Reg) (ok : Bool) (slots banks : List Nat) (wait : BitVec 8)
    (k : State → Res) : Res :=
  if cfg && !vregsOk s.me regs then .next (vconfTrap s)
  else unchained s fun s =>
    if !ok then .next (vconfTrap s)
    else
      match slots.find? fun i => !ownsSlot s s.cur i with
      | some i => .next (trap s 0x0E (BitVec.ofNat 64 i))
      | none =>
        match banks.find? fun b => !ownsBank s s.cur b with
        | some b => .next (trap s 0x0E (BitVec.ofNat 64 b))
        | none => withTokens s wait k

/-- The status of a claim by hart `h` of an item whose owner is `w` (08 R201, R207). -/
def claimStatus (h : Nat) (w : Option Nat) : Nat :=
  match w with
  | none => 0
  | some o => if o = h then 1 else 2

/-- `oclaim sd, oN`: a claimed slot is all zero (08 R201). -/
def execOclaim (o : VMOps) (s : State) : Res :=
  matrixEnter s true [] true [] [] 0 fun s =>
    let k := coreOf s.cur
    let c := s.core k
    let n := o.x.toNat
    let st := claimStatus s.cur (Tab.get none c.slotOwner n)
    let s := if st = 0 then
        s.setCore k { c with slotOwner := Tab.set none n (some s.cur) c.slotOwner, slots := Tab.del n c.slots }
      else s
    .next (finishWith s fun x => x.writeS o.y (BitVec.ofNat 64 st))

/-- Releases one operand slot (08 R202). -/
def releaseSlot (s : State) (h n : Nat) : State :=
  if ownsSlot s h n then
    let c := s.core (coreOf h)
    let s := s.setCore (coreOf h) { c with slotOwner := Tab.del n c.slotOwner, slots := Tab.del n c.slots }
    s.setHart h ((s.hart h).cleanSlot n (List.range 256))
  else s

/-- `orel oN` (08 R202): the slot's earlier instructions are complete, and a slot of another hart is left alone. -/
def execOrel (o : VMOps) (s : State) : Res :=
  matrixEnter s false [] true [] [] 0 fun s => .next (finish (releaseSlot s s.cur o.x.toNat))

/-- Rows VSTART to VL − 1 under the mask bits of row 0 (08 R203, R205). -/
def activeRows (x : Hart) (m : Nat) : List Nat :=
  ((List.range (x.vl - x.vstart)).map (x.vstart + ·)).filter (maskBit x m)

/-- Rows and bytes per row that a type gives a slot (08 R203). -/
def slotShape (ty : BitVec 4) : Nat × Nat := if ty = 0 then (64, 128) else (128, 64)

/-- The address of row `r` of `oldv` (08 R203). -/
def rowAddr (x : Hart) (o : VMOps) (r : Nat) : Nat := wrap ((vmBase x o : Int) + (r : Int) * (x.readS o.z).toInt)

/-- `oldv` that is not left to the queue (08 R203, R204). -/
def oldvNow (o : VMOps) (s : State) : Res :=
    let shape := slotShape o.ty
    let x := s.me
    let a := s.agent s.cur
    let addr := rowAddr x o
    let chk (r : Nat) := check s a .load (addr r) shape.2
    let p := plan x (activeRows x o.mask.toNat) chk trimNone
    let k := coreOf s.cur
    let e := readElements (touchEnd (touchAll s .load addr p.1) p.2 addr) shape.2 chk p.1
    let bytes := e.1.foldl (fun b r => Tab.putBytes b (shape.2 * r.1) r.2) (Tab.get [] (s.core k).slots o.x.toNat)
    let s := e.2
    let c := s.core k
    let n := shape.2 / 32
    let s := s.setMe (s.me.cleanSlot o.x.toNat (p.1.flatMap fun r => (List.range n).map (n * r + ·)))
    endAccess (s.setCore k { c with slots := Tab.set [] o.x.toNat bytes c.slots }) p.2 addr

/-- `oldv.T oN, sa, sb, off` (08 R203, R204): each row is an access of the vector stream of its own (13 R326). -/
def execOldv (o : VMOps) (s : State) : Res :=
  let shape := slotShape o.ty
  matrixEnter s true [] (decide (s.me.vl ≤ shape.1)) [o.x.toNat] [] o.wait fun s =>
    match vectorLater s .load (activeRows s.me o.mask.toNat) (rowAddr s.me o)
        (fun r => check s (s.agent s.cur) .load (rowAddr s.me o r) shape.2) trimNone
        (fun r p => .toSlot p o.x.toNat (shape.2 * r) shape.2) with
    | some r => r
    | none => caughtUp s false (oldvNow o)

/-! The tile array. -/

/-- The value of a T2 code; 0b10 counts as 0 (08 R200). -/
def tritValue (c : Nat) : Int :=
  match c with
  | 1 => 1
  | 3 => -1
  | _ => 0

/-- Trits T[0..127][n] of a B slot, as codes (08 R200). -/
def tritColumn (b : Bytes) (n : Nat) : List Nat :=
  (List.range 128).map fun k => (Tab.get 0 b (64 * k + n / 4)).toNat / 4 ^ (n % 4) % 4

/-- Row r of an A slot (08 R200). -/
def slotRow (b : Bytes) (r : Nat) : List Int := (Tab.bytes b (128 * r) 128).map fun v => v.toInt

/-- The exact sum of one element (08 R205). -/
def tileSum (a : List Int) (t : List Nat) : Int :=
  (List.zip a t).foldl (fun z e => z + e.1 * tritValue e.2) 0

/-- One element of the bank after the addition of `v` (08 R205). -/
def accumulate (r : SMap (BitVec 48) × Bool) (i : Nat) (v : Int) : SMap (BitVec 48) × Bool :=
  let c := sat48 ((Tab.get 0 r.1 i).toInt + v)
  (Tab.set 0 i (BitVec.ofInt 48 c.1) r.1, r.2 || c.2)

/-- The bank after one `opa`, and whether an element clamped (08 R205). -/
def tileProduct (bank : SMap (BitVec 48)) (a t : Bytes) (q p : Nat) (rows : List Nat) : SMap (BitVec 48) × Bool :=
  let cols := (List.range 64).map fun c => tritColumn t (64 * q + c)
  rows.foldl (fun r row =>
    let av := slotRow a row
    (List.zip (List.range 64) cols).foldl (fun r e =>
      accumulate r (64 * row + e.1) ((3 ^ p : Nat) * tileSum av e.2)) r) (bank, false)

/-- A trit of the quarter holds 0b10 (08 R200). -/
def quarterInvalid (t : Bytes) (q : Nat) : Bool :=
  (List.range 64).any fun c => (tritColumn t (64 * q + c)).contains 2

/-- Replaces a bank, its overflow flag gaining `ovf` (03 R85). -/
def setBank (s : State) (h b : Nat) (m : SMap (BitVec 48)) (ovf : Bool) : State :=
  let c := s.core (coreOf h)
  s.setCore (coreOf h) { c with
    banks := Tab.set [] b m c.banks
    bankOvf := if ovf then Tab.set false b true c.bankOvf else c.bankOvf }

/-- `opa aB, oA, oT, q, p` (08 R205, R206). -/
def execOpa (o : VMOps) (s : State) : Res :=
  let b := o.sub.toNat % 2
  matrixEnter s true [] (decide (s.me.vl ≤ 64)) [o.x.toNat, o.y.toNat] [b] o.wait fun s =>
    let c := s.core (coreOf s.cur)
    let rows := activeRows s.me o.mask.toNat
    let q := o.sub.toNat / 2 % 4
    let t := Tab.get [] c.slots o.y.toNat
    let r := tileProduct (Tab.get [] c.banks b) (Tab.get [] c.slots o.x.toNat) t q (o.imm.toNat % 8) rows
    let nv : Flags := if !rows.isEmpty && quarterInvalid t q then fNV else 0
    .next (finishWith (setBank s s.cur b r.1 r.2) fun x => { (x.cleanBank b rows).raise nv with vstart := 0 })

/-! Accumulator banks. -/

/-- `aclaim sd, aB`: a claimed bank is all zero, its overflow flag clear (08 R207). -/
def execAclaim (o : VMOps) (s : State) : Res :=
  matrixEnter s false [] true [] [] 0 fun s =>
    let k := coreOf s.cur
    let c := s.core k
    let b := o.sub.toNat % 2
    let st := claimStatus s.cur (Tab.get none c.bankOwner b)
    let s := if st = 0 then
        s.setCore k { c with
          bankOwner := Tab.set none b (some s.cur) c.bankOwner
          banks := Tab.del b c.banks
          bankOvf := Tab.del b c.bankOvf }
      else s
    .next (finishWith s fun x => x.writeS o.y (BitVec.ofNat 64 st))

/-- Releases one accumulator bank (08 R208). -/
def releaseBank (s : State) (h b : Nat) : State :=
  if ownsBank s h b then
    let c := s.core (coreOf h)
    let s := s.setCore (coreOf h) { c with
      bankOwner := Tab.del b c.bankOwner
      banks := Tab.del b c.banks
      bankOvf := Tab.del b c.bankOvf }
    s.setHart h ((s.hart h).cleanBank b (List.range 64))
  else s

/-- `arel aB` (08 R208). -/
def execArel (o : VMOps) (s : State) : Res :=
  matrixEnter s false [] true [] [] 0 fun s => .next (finish (releaseBank s s.cur (o.sub.toNat % 2)))

/-- `aclr aB` (08 R208); it completes with VSTART 0 (03 R83; log 19). -/
def execAclr (o : VMOps) (s : State) : Res :=
  let b := o.sub.toNat % 2
  matrixEnter s false [] true [] [b] 0 fun s =>
    .next (finishWith (setOvf (setBank s s.cur b [] false) s.cur b false) fun x => { x.cleanBank b (List.range 64) with vstart := 0 })

/-! Extraction. -/

/-- One value of `axt` (08 R210, R211): the exact product, rounded once. -/
def extractValue (ty rm : Nat) (acc : BitVec 48) (scale : Nat) : Nat × Flags :=
  let a := fpOfInt acc.toInt
  let f := fpRead (fmtOf 10) scale
  if 8 ≤ ty then fpProd (fmtOf ty) rm a f
  else
    let v := fpToInt ty rm false (fpMul a f).1
    (unsigned (tyWidth ty) v.1, v.2)

/-- `axt.D vd, aB, vscale` (08 R210). -/
def execAxt (o : VMOps) (s : State) : Res :=
  let b := o.sub.toNat % 2
  matrixEnter s true [o.x, o.z] (decide (32 ≤ ewBits s.me) && decide (s.me.vl ≤ 64)) [] [b] 0 fun s =>
    match roundingMode s.me 0 with
    | none => .next (illegal s)
    | some rm =>
      withTokens s o.wait fun s =>
        let x := s.me
        let bank := Tab.get [] (s.core (coreOf s.cur)).banks b
        let ty := o.ty.toNat
        let r := (active x o.mask.toNat).foldl (fun (r : Bytes × Flags) t =>
          let v := extractValue ty rm (Tab.get 0 bank (64 * (t / x.vl) + t % x.vl))
            (viewAt (x.vreg o.z.toNat) 32 (t % x.vl))
          (setView r.1 (tyWidth ty) t v.1, r.2 ||| v.2)) (x.vreg o.x.toNat, 0)
        let whole := if tyWidth ty = ewBits x then active x o.mask.toNat else []
        .next (finishWith s fun x =>
          { ((x.setVreg o.x.toNat r.1).cleanV o.x.toNat whole).raise r.2 with vstart := 0 })

/-! Saving and loading a bank. -/

/-- The address of sector `k` of a bank image (08 R209). -/
def imageAddr (sa : Word) (k : Nat) : Nat := wrap ((sa.toNat + 32 * k : Nat) : Int)

/-- The problems of one sector of a bank image; a device-class page is an access fault (08 R209). -/
def imageCheck (s : State) (a : Agent) (k : Access) (va : Nat) : Except Nat Resolved := checkIn s a k true va 32

/-- The 768 sectors of a bank image, or the first problem and its address (08 R209). -/
def imagePlaces (s : State) (a : Agent) (k : Access) (sa : Word) : Except (Nat × Nat) (List Place) :=
  if sa.toNat % 128 ≠ 0 then .error (0x04, sa.toNat)
  else
    (List.range 768).foldr (fun i r =>
      match imageCheck s a k (imageAddr sa i) with
      | .error c => .error (c, imageAddr sa i)
      | .ok q =>
        match r with
        | .error e => .error e
        | .ok l => .ok (q.place :: l)) (.ok [])

/-- The image of a bank (08 R209). -/
def bankImage (m : SMap (BitVec 48)) : List Byte :=
  (List.range 4096).flatMap fun i => leBytes 6 (Tab.get 0 m i).toNat

/-- Translation and tags for every sector of a bank image. -/
def touchImage (s : State) (k : Access) (sa : Word) : State := touchAll s k (imageAddr sa) (List.range 768)

/-- A page of a bank image is not idempotent, so its rows are performed in ascending order (08 R209; 07 R184). -/
def imageOrdered (s : State) (k : Access) (sa : Word) : Bool :=
  (List.range 768).any fun i =>
    match resolve s (s.agent s.cur) k (imageAddr sa i) with
    | .ok r => r.cls != .pma
    | .error _ => false

/-- The accesses of an image by its rows of 12 sectors, where they are performed in order, else together (08 R209). -/
def byRows (ordered : Bool) (l : List (List Pending)) : List (List Pending) :=
  if ordered then (List.range 64).map fun r => ((l.drop (12 * r)).take 12).flatten else [l.flatten]

/-- The bytes of sector `k` of an image as stores of the vector queue, each on its own (13 R326); a poisoned sector loses its
poison with the last of them (16 R419). -/
def queuedSector (s : State) (image : List Byte) (k : Nat) (p : Place) : List Pending :=
  ((List.range 32).map fun i => .store (.ram (p.loc + i)) [image.getD (32 * k + i) 0])
    ++ if taintPlace s p 32 ≠ .sound ∨ storeQueueHeld s s.cur then [.cover p.loc] else []

/-- The places of an image are all of DRAM or of a scratchpad, so its accesses may wait in the vector queue. -/
def plainImage (l : List Place) : Bool := l.all fun p => match p with | .ram _ => true | _ => false

/-- The sectors of an image are stored, but for bytes that the stream has performed before their turn, 8 at a time (08 R209; 13
R325, R326). -/
def imageStore (s : State) (ordered : Bool) (image : List Byte) (l : List Place) : State :=
  let e := List.zip l (List.range 768)
  if (early s s.cur true).isEmpty then
    e.foldl (fun s e => storePlace s e.1 (slice image (32 * e.2) 32)) (freshAccess s true)
  else
    writeOwn s (e.flatMap fun e => (List.range 4).map fun i =>
      (⟨.ram (e.1.loc + 8 * i), if ordered then .nc else .pma⟩, slice image (32 * e.2 + 8 * i) 8))

/-- `asave aB, sa` (08 R209; 13 R326); it completes with VSTART 0 (03 R83; log 19). -/
def execAsave (o : VMOps) (s : State) : Res :=
  let b := o.sub.toNat % 2
  matrixEnter s false [] true [] [b] o.wait fun s =>
    let sa := s.me.readS o.y
    match imagePlaces s (s.agent s.cur) .store sa with
    | .error (c, va) => .next (trap s c (BitVec.ofNat 64 va))
    | .ok l =>
      let image := bankImage (Tab.get [] (s.core (coreOf s.cur)).banks b)
      let ordered := imageOrdered s .store sa
      if vectorLags s && plainImage l then
        let q := byRows ordered ((List.zip (List.range 768) l).map fun e => queuedSector s image e.1 e.2)
        .next (finishWith (enqueueEach (freshAccess (touchImage s .store sa) true) q) fun x => { x with vstart := 0 })
      else
        caughtUp (touchImage s .store sa) true fun s =>
          .next (finishWith (imageStore s ordered image l) fun x => { x with vstart := 0 })

/-- `aload aB, sa` (08 R209; 13 R326): its bytes arrive each on its own, and the bank takes the image with the last; it completes
with VSTART 0 (03 R83; log 19). -/
def execAload (o : VMOps) (s : State) : Res :=
  let b := o.sub.toNat % 2
  matrixEnter s false [] true [] [b] o.wait fun s =>
    let sa := s.me.readS o.y
    match imagePlaces s (s.agent s.cur) .load sa with
    | .error (c, va) =>
      .next (trap (noteRead s (resolve s (s.agent s.cur) .load va)) c (BitVec.ofNat 64 va))
    | .ok l =>
      if vectorLags s && plainImage l && s.me.image.isNone && !vectorHeld s s.cur then
        let q := byRows (imageOrdered s .load sa) ((List.zip (List.range 768) l).map fun e =>
          (List.range 32).map fun i => .toBank (.ram (e.2.loc + i)) b (32 * e.1 + i))
        let s := enqueueEach (freshAccess (touchImage s .load sa) true) q
        .next (finishWith s fun x => { x with image := some (24576, []), vstart := 0 })
      else
        caughtUp (touchImage s .load sa) false fun s =>
          let e := readElements s 32 (fun k => .ok ⟨l.getD k (.ram 0), .pma⟩) (List.range l.length)
          let r := bankOfImage (e.1.flatMap (·.2))
          .next (finishWith (setBank e.2 s.cur b r.1 r.2) fun x => { x.cleanBank b (List.range 64) with vstart := 0 })

end Sys2Proof.Machine
end

