-- ==== Sys2Proof/Machine/Sync.lean ====
section
/-! DEFINITION. Waits on a word and phase barriers (10 R245 to R253; 14 R347, R367), and the evaluation of armed waits
that follows every step. -/

namespace Sys2Proof.Machine

/-! Waits. -/

/-- The problems of a waited word (10 R242, R245): those of a load, a device-class page being an access fault. -/
def waitCheck (s : State) (a : Agent) (va n : Nat) : Except Nat Resolved := checkIn s a .load true va n

/-- The place of an armed location: the derived range, else memory (17 R425). -/
def armedPlace (loc : Nat) : Place := if 0x40000000000 ≤ loc ∧ loc < 0x50000000000 then .derived loc else .ram loc

/-- The word at an armed location. -/
def armedWord (s : State) (loc n : Nat) : Nat := leNat (readPlace s (armedPlace loc) n)

/-- (M[sa] AND sm) cc (sv AND sm) (10 R245). -/
def wordMeets (s : State) (loc : Nat) (mask value : Word) (ne eight : Bool) : Bool :=
  let n := if eight then 8 else 4
  let m := mask.toNat % 2 ^ (8 * n)
  decide (armedWord s loc n &&& m = value.toNat % 2 ^ (8 * n) &&& m) != ne

/-- The hart's wait is over: it runs again. -/
def awake (s : State) : State := s.setMe { s.me with run := .running }

/-- A soft error, or a bad granule, has poisoned the word at an armed location: the read that would end the wait takes its trap (10
R242, R245; 16 R420). -/
def armedPoison (s : State) (loc n : Nat) : Option Nat := poisonCause s (armedPlace loc) n

/-- A waiting hart goes on, or takes the trap of the poison that its word now holds (16 R420); else it goes on waiting. -/
def endWait (s : State) (hit : Bool) (poison : Option Nat) (met : Bool) (eval : Word) (k : State → Res) : Res :=
  if hit then .next (finish (awake s))
  else
    match poison with
    | some c => .next (trap (awake s) c eval)
    | none => if met then .next (finish (awake s)) else k s

/-- `waitw.cc.T sv, sa, sm, c` (10 R245, R247): a hart that waits is armed at the word's home. -/
def execWaitw (v a m : Reg) (cc : BitVec 2) (sz : Bool) (_code : BitVec 4) (s : State) : Res :=
  unchained s fun s =>
    match s.me.run with
    | .waiting (.word loc mask value ne eight hit) e =>
      endWait s hit (armedPoison s loc (if eight then 8 else 4)) (wordMeets s loc mask value ne eight) e fun s =>
        .next (waitAt s (.word loc mask value ne eight hit) e)
    | _ =>
      let va := s.me.readS a
      let n := if sz then 8 else 4
      match waitCheck s (s.agent s.cur) va.toNat n with
      | .error c => .next (trap (noteRead s (resolve s (s.agent s.cur) .load va.toNat)) c va)
      | .ok r =>
        let s := tagAt (touch (noteRead s (.ok r)) (s.agent s.cur) .load va.toNat) s.me r.place
        let loc := locOf r
        let mask := s.me.readS m
        let value := s.me.readS v
        let ne := cc == 1
        if wordMeets s loc mask value ne sz then .next (finish s)
        else .next (waitAt s (.word loc mask value ne sz false) va)

/-! Phase barriers. -/

/-- The fields of a phase barrier (10 R249). -/
structure Barrier where
  phase : Nat
  count : Nat
  pend : Nat
  bytes : Int
  deriving DecidableEq, Repr

/-- The barrier at a location (10 R249). -/
def pbRead (s : State) (loc : Nat) : Barrier :=
  let v := leNat (readPlace s (.ram loc) 8)
  ⟨v / 2 ^ 58, v / 2 ^ 46 % 2 ^ 12, v / 2 ^ 34 % 2 ^ 12, signed 34 v⟩

/-- Writes a barrier (10 R249). -/
def pbWrite (s : State) (loc : Nat) (b : Barrier) : State :=
  writeRam s loc (leBytes 8 (b.phase % 64 * 2 ^ 58 + b.count % 2 ^ 12 * 2 ^ 46 + b.pend % 2 ^ 12 * 2 ^ 34
    + unsigned 34 b.bytes))

/-- The location of a barrier (10 R250): outside the windows 0x08, misaligned 0x04, then the problems of an atomic. -/
def pbPlace (s : State) (a : Agent) (va : Nat) : Except Nat Nat :=
  match windowOf s a va with
  | .no => .error 0x08
  | _ =>
    match check s a .atomic va 8 with
    | .error c => .error c
    | .ok r => .ok (locOf r)

/-- The earliest arrival held at a barrier (10 R251). -/
def heldArrival (s : State) (loc : Nat) : Option SpoolReq :=
  s.requests.find? fun r => decide (r.loc = loc) && decide (r.count = 0)

/-- The number of arrivals held at a barrier. -/
def heldCount (s : State) (loc : Nat) : Nat :=
  (s.requests.filter fun r => decide (r.loc = loc) && decide (r.count = 0)).length

/-- A held arrival is applied: its sd receives the phase number, and the hart goes on (10 R251). -/
def applyHeld (s : State) (h phase : Nat) : State :=
  let s := { s with requests := s.requests.filter fun r => r.hart != h }
  let x := { s.hart h with run := .running }
  match waitingInstr x with
  | some (.pbarr d _) => s.setHart h (arrive (x.writeS d (BitVec.ofNat 64 phase)) (following x))
  | _ => s.setHart h x

/-- What a hart whose held arrival is applied would meet at the end of a loop: it is then not applied (04 R101). -/
def heldProblem (s : State) (h phase : Nat) : Option (Nat × Word) :=
  let x := { s.hart h with run := .running }
  match waitingInstr x with
  | some (.pbarr d _) => endProblem s h x (arrive (x.writeS d (BitVec.ofNat 64 phase)) (following x))
  | _ => none

/-- What follows an operation on a barrier (10 R251): a phase with PEND = 0 and BYTES = 0 completes, and held arrivals
are applied to the new phase. `fresh` says that a phase has completed in this operation. The operations are `pbarr`, `pbexp` and
bytes that land: an ordinary store that leaves PEND and BYTES 0 completes no phase of itself (R251 says any operation, R252 counts
stores among them; the model's choice: log 92). -/
def pbSettle : Nat → State → Nat → Bool → State
  | 0, s, _, _ => s
  | n + 1, s, loc, fresh =>
    let b := pbRead s loc
    let done := decide (b.pend = 0) && decide (b.bytes = 0)
    let s := if done then pbWrite s loc { b with phase := (b.phase + 1) % 64, pend := b.count } else s
    let b := pbRead s loc
    if done || fresh then
      match heldArrival s loc with
      | none => s
      | some r =>
        if b.pend = 0 then s
        else if let some p := heldProblem s r.hart b.phase then pbSettle n (leaveWith s r.hart p) loc true
        else pbSettle n (applyHeld (pbWrite s loc { b with pend := b.pend - 1 }) r.hart b.phase) loc true
    else s

/-- One operation on a barrier: its new fields, and what follows (10 R251). -/
def pbOperate (s : State) (loc : Nat) (b : Barrier) : State :=
  pbSettle (heldCount s loc + 1) (pbWrite s loc b) loc false

/-- `k` copy bytes land (10 R251): those that bring BYTES to 0 may complete the phase before the rest land. -/
def pbLand (s : State) (loc k : Nat) : State :=
  let b := pbRead s loc
  if taintPlace s (.ram loc) 8 ≠ .sound then reportError s loc
  else if 0 < b.bytes ∧ b.bytes ≤ (k : Int) then
    let s := pbOperate s loc { b with bytes := 0 }
    let b' := pbRead s loc
    if b.bytes = (k : Int) then s else pbOperate s loc { b' with bytes := b'.bytes - ((k : Int) - b.bytes) }
  else if k = 0 then s
  else pbOperate s loc { b with bytes := b.bytes - (k : Int) }

/-- The checks of a barrier address, then the operation (10 R250). -/
def pbEnter (s : State) (a : Reg) (k : State → Nat → Res) : Res :=
  unchained s fun s =>
    let va := s.me.readS a
    match pbPlace s (s.agent s.cur) va.toNat with
    | .error c => .next (trap s c va)
    | .ok loc => k (touch s (s.agent s.cur) .atomic va.toNat) loc

/-- `pbinit sc, sa` (10 R250). -/
def execPbinit (c a : Reg) (s : State) : Res :=
  pbEnter s a fun s loc =>
    let n := (s.me.readS c).toNat
    if n = 0 ∨ 4095 < n then .next (illegal s)
    else .next (finish (pbWrite s loc ⟨0, n, n, 0⟩))

/-- `pbarr sd, sa` (10 R250, R251): an arrival that finds PEND 0 is held at the bank. -/
def execPbarr (d a : Reg) (s : State) : Res :=
  match s.me.run with
  | .waiting (.arrival _) _ => .next s
  | _ =>
    pbEnter s a fun s loc =>
      let b := pbRead s loc
      if b.pend = 0 then
        .next (waitAt { s with requests := s.requests ++ [⟨loc, s.cur, true, 0⟩] } (.arrival loc) 0)
      else
        let s := finishWith s fun x => x.writeS d (BitVec.ofNat 64 b.phase)
        .next (pbOperate s loc { b with pend := b.pend - 1 })

/-- `pbexp sb, sa` (10 R250, R251). -/
def execPbexp (b a : Reg) (s : State) : Res :=
  pbEnter s a fun s loc =>
    let n := (s.me.readS b).toNat
    let f := pbRead s loc
    if 16777216 < n ∨ 8589934591 < f.bytes + (n : Int) then .next (illegal s)
    else .next (pbOperate (finish s) loc { f with bytes := f.bytes + (n : Int) })

/-- `pbwait sp, sa, c` (10 R250, R253): waits until PHASE differs from sp[5:0]. -/
def execPbwait (p a : Reg) (_code : BitVec 4) (s : State) : Res :=
  match s.me.run with
  | .waiting (.barrier loc phase hit) e =>
    endWait s hit (armedPoison s loc 8) ((pbRead s loc).phase != phase.toNat) e fun s =>
      .next (waitAt s (.barrier loc phase hit) e)
  | _ =>
    pbEnter s a fun s loc =>
      let phase : BitVec 6 := (s.me.readS p).truncate 6
      if (pbRead s loc).phase ≠ phase.toNat then .next (finish s)
      else .next (waitAt s (.barrier loc phase false) (s.me.readS a))

/-! Evaluation of armed waits. -/

/-- A write of the journal may change the word of up to 8 bytes at an armed location; a derived word changes with raw bytes
elsewhere (12 R317). -/
def mayChange (loc : Nat) (e : Nat × List Byte) : Bool :=
  match armedPlace loc with
  | .ram l => decide (e.1 < l + 8) && decide (l < e.1 + e.2.length)
  | _ => true

/-- Memory as it was before each write of the step that may change the word at `loc`, the last such write first
(10 R247). -/
def pastMems (s : State) (loc : Nat) : List (List Host.Cell) :=
  ((s.journal.filter (mayChange loc)).reverse.foldl (fun (r : List Host.Cell × List (List Host.Cell)) e =>
    let m := putMem r.1 e.1 e.2
    (m, r.2 ++ [m])) (s.mem, [])).2

/-- A condition on the word at `loc` holds now, or held of a value that it took after an earlier write of the step: a value
that a later write has replaced counts (10 R247). -/
def everMeets (s : State) (loc : Nat) (f : State → Bool) : Bool :=
  f s || (pastMems s loc).dropLast.any fun m => f { s with mem := m }

/-- A condition on the word of `n` bytes at `loc` that its home has seen met: a poisoned word meets none (16 R420). -/
def sweepMeets (s : State) (loc n : Nat) (f : State → Bool) : Bool := (armedPoison s loc n).isNone && everMeets s loc f

/-- The wait of a hart after the values that the writes of a step left (10 R247; 14 R365). -/
def sweepWait (s : State) (w : Wait) : Wait :=
  match w with
  | .word loc mask value ne eight hit =>
    .word loc mask value ne eight
      (hit || sweepMeets s loc (if eight then 8 else 4) fun s => wordMeets s loc mask value ne eight)
  | .join loc hit => .join loc (hit || sweepMeets s loc 8 fun s => armedWord s loc 8 == 0)
  | .barrier loc phase hit => .barrier loc phase (hit || sweepMeets s loc 8 fun s => (pbRead s loc).phase != phase.toNat)
  | w => w

/-- A hart after the evaluation of its armed wait. -/
def sweepHart (s : State) (x : Hart) : Hart :=
  match x.run with
  | .waiting w e => { x with run := .waiting (sweepWait s w) e }
  | _ => x

/-- The bytes of a watch entry's word. -/
def Watch.size (w : Watch) : Nat := if w.eight then 8 else 4

/-- The word of a watch entry satisfies its comparison (17 R433). -/
def watchMeets (s : State) (w : Watch) : Bool := wordMeets s w.pa w.mask w.value w.ne w.eight

/-- The lock words that hart `h` of context `asid` holds and a `waitw` is armed on, each with the highest priority of a
context that waits there (14 R367). -/
def lockRaise (s : State) (h asid : Nat) : SMap Nat :=
  s.harts.foldl (fun p e =>
    match e.2.run with
    | .waiting (.word loc _ _ _ true _) _ =>
      let w := armedWord s loc 8
      if bitOf w 63 && decide (w % 2 ^ 16 = h) && decide (w / 2 ^ 32 % 2 ^ 16 = asid) then
        Tab.put loc (max (Tab.get 0 p loc) (s.context e.2.asid).prio) p
      else p
    | _ => p) []

/-- The words of two tables of raised priorities, each with the greater priority. -/
def joinRaise (a b : SMap Nat) : SMap Nat := b.foldl (fun m e => Tab.put e.1 (max (Tab.get 0 m e.1) e.2) m) a

/-- The priority that a table of raised priorities gives. -/
def topRaise (m : SMap Nat) : Nat := m.foldl (fun p e => max p e.2) 0

/-- Two harts run strips of one grid group, and so are held resident together (02 R41). -/
def sameGrid (v w : Work) : Bool :=
  match v, w with
  | .group p _ _ _ g5 _, .group q _ _ _ k5 _ => decide (p = q ∧ g5 = k5)
  | _, _ => false

/-- The raised priority of every saved hart: that of the harts it resumes with, and of its grid group, counts for it (14 R367;
22 R453). -/
def sweepSaved (s : State) : List Saved :=
  let l := s.keel.saved.map fun r => { r with raised := lockRaise s r.hartid r.hart.asid }
  l.map fun r => { r with raised :=
    (l.filter fun o => o.group == r.group || sameGrid o.hart.work r.hart.work).foldl (fun p o => joinRaise p o.raised) [] }

/-- The harts that are held resident together with hart `h` (02 R41; 16 R410): its grid group, or itself alone. -/
def residentWith (s : State) (h : Nat) : List Nat :=
  match (s.hart h).work with
  | .group .. => (s.harts.filter fun e => sameGrid (s.hart h).work e.2.work).map (·.1)
  | _ => [h]

/-- A raised priority lasts while a `waitw` is armed on its word and one of the group's harts holds that word (14 R367). -/
def sweepRaised (s : State) (h : Nat) (x : Hart) : Hart :=
  if x.raised.isEmpty then x
  else { x with raised := x.raised.filter fun e =>
      (residentWith s h).any fun k => (lockRaise s k (s.hart k).asid).any fun o => o.1 == e.1 }

/-- Requests that wait on a poisoned control block end with trap 0x0D (14 R363), and on one that a soft error has poisoned with
0x14 (16 R420). -/
def endPoisoned (s : State) : State :=
  s.requests.foldl (fun s r =>
    if r.count ≠ 0 ∧ (qcbSpoiled s r.loc || bitOf (qStat (qcbRead s r.loc)) 0) then
      match (s.hart r.hart).run with
      | .waiting (.spool _) e =>
        let c := s.cur
        let s := withdraw { s with cur := r.hart } r.hart
        { trap (awake s) (if qcbSpoiled s r.loc then 0x14 else 0x0D) e with cur := c }
      | _ => s
    else s) s

/-- Every armed wait and watch entry is evaluated against the values that memory has taken (10 R247; 17 R433): what is armed
later sees later values alone. -/
def sweepArmed (s : State) : State :=
  { s with
    harts := s.harts.map fun e => (e.1, sweepHart s e.2)
    watches := s.watches.map fun w => { w with hit := w.hit || sweepMeets s w.pa w.size fun s => watchMeets s w }
    journal := [] }

/-- Every armed wait and watch entry is evaluated after a step, and every raised priority (10 R247, R248; 17 R433; 14 R363,
R365, R367). -/
def sweep (s : State) : State :=
  let s := endPoisoned s
  { sweepArmed s with
    harts := s.harts.map fun e => (e.1, sweepRaised s e.1 (sweepHart s e.2))
    keel := { s.keel with saved := sweepSaved s } }

/-! The ends of waits. -/

/-- The home completes an armed `waitw` or `joinw` at the first satisfying value (10 R247; 14 R365), or answers with the poison
of its word (16 R420). -/
def execWaitSatisfied (h : Nat) (s : State) : Res :=
  match (s.hart h).run with
  | .waiting (.word loc _ _ _ eight hit) e =>
    asHart s h fun s => endWait s hit (armedPoison s loc (if eight then 8 else 4)) false e .next
  | .waiting (.join loc hit) e => asHart s h fun s => endWait s hit (armedPoison s loc 8) false e .next
  | _ => .next s

/-- The poll of a waited word while the watch table is full (10 R247): a word that satisfies now completes the wait. -/
def execWatchPoll (h : Nat) (s : State) : Res :=
  match (s.hart h).run with
  | .waiting (.word loc mask value ne eight _) e =>
    asHart s h fun s =>
      endWait s false (armedPoison s loc (if eight then 8 else 4)) (wordMeets s loc mask value ne eight) e .next
  | .waiting (.join loc _) e =>
    asHart s h fun s => endWait s false (armedPoison s loc 8) (armedWord s loc 8 == 0) e .next
  | _ => .next s

/-- A waiting `pbwait` completes when its phase completes (10 R253), or meets the poison of its barrier (16 R420). -/
def execPbwaitComplete (h : Nat) (s : State) : Res :=
  match (s.hart h).run with
  | .waiting (.barrier loc _ hit) e => asHart s h fun s => endWait s hit (armedPoison s loc 8) false e .next
  | _ => .next s

/-- A wait of `waitw`, `pbwait` or a spool instruction passes its bound: trap 0x0C, nothing else changes (10 R246). -/
def expire (s : State) (h : Nat) (eval : Word) : Res :=
  asHart (withdraw s h) h fun s => .next (trap (awake s) 0x0C eval)

/-- A spool instruction passes its bound: ESTAT takes the spool layout (10 R266; 16 R403). -/
def expireSpool (s : State) (h q : Nat) (eval : Word) : Res :=
  asHart (withdraw s h) h fun s =>
    let b := qcbRead s q
    let estat : Word := BitVec.ofNat 64 (qHead b % 2 ^ 32 * 2 ^ 32 + qTail b % 2 ^ 32)
    let s := awake s
    .next (takeTrap s (trapPc s.me) 0x0C eval estat true false)

/-- The bound of a wait passes (10 R246; 14 R349); a wait that its home has already completed is over (10 R247). -/
def execWaitBoundExpired (h : Nat) (s : State) : Res :=
  match (s.hart h).run with
  | .waiting (.word _ _ _ _ _ hit) e => if hit then .next s else expire s h e
  | .waiting (.barrier _ _ hit) e => if hit then .next s else expire s h e
  | .waiting (.spool q) e => expireSpool s h q e
  | _ => .next s

end Sys2Proof.Machine
end

