-- ==== Sys2Proof/Machine/Stencil.lean ====
section
/-! DEFINITION. Iterations, stencil addresses and footprints (11 R277 to R283; 02 R42, R53) and the edges between
packets and jobs (02 R53; 09 R224). -/

namespace Sys2Proof.Machine

/-- The stencil of operand slot `j`. -/
def Packet.stencil (p : Packet) (j : Nat) : Stencil := p.desc.stencils.getD j ⟨0, false, 1, [], [], []⟩

/-- Extent D_d (11 R277). -/
def Packet.dim (p : Packet) (d : Nat) : Nat := p.desc.dims.getD d 1

/-- E1, the elements of a hart group (02 R42; 11 R281). -/
def Packet.groupSize (p : Packet) : Nat := (p.ext 1 - 1) * p.desc.strip + p.ext 0

/-- The linear index of the element with fields j, k, g2 to g5 (11 R281). -/
def Packet.linear (p : Packet) (j k g2 g3 g4 g5 : Nat) : Nat :=
  j + p.desc.strip * k + p.groupSize * (g2 + p.ext 2 * (g3 + p.ext 3 * (g4 + p.ext 4 * g5)))

/-- Component d of the iteration with linear index `l` (11 R281). -/
def Packet.iteration (p : Packet) (l d : Nat) : Nat :=
  l / ((List.range d).foldl (fun a e => a * p.dim e) 1) % p.dim d

/-- A[k][d] (11 R279). -/
def Stencil.a (t : Stencil) (k d : Nat) : Int := t.map.getD (4 * k + d) 0

/-- The coefficient c_d (11 R282). -/
def Stencil.coeff (t : Stencil) (d : Nat) : Int :=
  (List.range 4).foldl (fun z k => z + t.strd.getD k 0 * t.a k d) 0

/-- The coefficient c_b (11 R282). -/
def Stencil.offset (t : Stencil) : Int := (List.range 4).foldl (fun z k => z + t.strd.getD k 0 * t.offs.getD k 0) 0

/-- BASE_j, read when the packet was taken (11 R280, R282). -/
def Packet.base (p : Packet) (j : Nat) : Word := p.bases.getD j 0

/-- The stencil address of operand `j` at the element with linear index `l` (11 R282). -/
def Packet.elementAddr (p : Packet) (j l : Nat) : Nat :=
  let t := p.stencil j
  wrap ((p.base j).toNat + (t.esize : Int) * (t.offset
    + (List.range 4).foldl (fun z d => z + t.coeff d * (p.iteration l d : Int)) 0))

/-- The footprint of operand `j` as an exact half-open interval (11 R282; 02 R53). -/
def Packet.footprint (p : Packet) (j : Nat) : Interval :=
  let t := p.stencil j
  let b : Int := (p.base j).toNat
  let e : Int := t.esize
  let lo := (List.range 4).foldl (fun z d => z + min 0 (t.coeff d * ((p.dim d : Int) - 1))) t.offset
  let hi := (List.range 4).foldl (fun z d => z + max 0 (t.coeff d * ((p.dim d : Int) - 1))) t.offset
  ⟨b + e * lo, b + e * (hi + 1)⟩

/-- The operand slots that a descriptor declares (11 R279). -/
def Packet.slots (p : Packet) : List Nat := (List.range 8).filter fun j => (p.stencil j).access != 0
/-- Slots that are read. -/
def Packet.readSlots (p : Packet) : List Nat := p.slots.filter fun j => bitOf (p.stencil j).access 0
/-- Slots that are written. -/
def Packet.writeSlots (p : Packet) : List Nat := p.slots.filter fun j => bitOf (p.stencil j).access 1

/-- The addresses that an interval covers modulo 2^64, as at most two ranges (02 R53). -/
def Interval.ranges (i : Interval) : List (Nat × Nat) :=
  if i.hi ≤ i.lo then []
  else if (2 ^ 64 : Int) ≤ i.hi - i.lo then [(0, 2 ^ 64)]
  else
    let a := wrap i.lo
    let n := (i.hi - i.lo).toNat
    if a + n ≤ 2 ^ 64 then [(a, a + n)] else [(a, 2 ^ 64), (0, a + n - 2 ^ 64)]

/-- Two footprints overlap (02 R53). -/
def Interval.meets (i j : Interval) : Bool := i.ranges.any fun a => j.ranges.any fun b => rangesMeet a b

/-- An edge between footprints: they overlap and at least one is written (02 R53). -/
def edgeBetween (reads writes reads' writes' : List Interval) : Bool :=
  writes.any (fun a => (reads' ++ writes').any a.meets) || reads.any fun a => writes'.any a.meets

/-- An edge from one packet to a later one of its context (02 R53). -/
def packetEdge (p c : Packet) : Bool :=
  decide (p.asid = c.asid)
    && edgeBetween (p.readSlots.map p.footprint) (p.writeSlots.map p.footprint) (c.readSlots.map c.footprint)
      (c.writeSlots.map c.footprint)

/-- Edges from a packet are not resolved: its words are not written (02 R53; 11 R299; 18 R449, run 2). -/
def edgeOpen (p : Packet) : Bool := p.phase != .done

/-- A packet has not completed; a spliced pair completes as a whole (02 R53; 11 R294, R299). -/
def packetOpen (s : State) (p : Packet) : Bool :=
  p.phase != .done || (p.ran && match p.partner.bind s.packet with | some q => q.phase != .done | none => false)

/-- A job waits for an earlier job of its context and core (09 R224). -/
def jobBlocked (s : State) (j : Job) : Bool :=
  s.jobs.any fun e => decide (e.id < j.id) && decide (coreOf e.hart = coreOf j.hart) && decide (e.asid = j.asid)
    && edgeBetween e.reads e.writes j.reads j.writes

/-! The strip of a hart. -/

/-- The strip that a hart runs: its packet by SEG, the fields of its first element, its element count and the deleted
intermediates of its loop (02 R43; 11 R289, R295). -/
structure Strip where
  packet : Packet
  j : Nat
  k : Nat
  g2 : Nat
  g3 : Nat
  g4 : Nat
  g5 : Nat
  count : Nat
  deleted : List Deleted
  buffers : Nat
  deriving Repr

/-- Elements of strip `k` (02 R42). -/
def Packet.stripCount (p : Packet) (k : Nat) : Nat := if k + 1 < p.ext 1 then p.desc.strip else p.ext 0

/-- A field of a work identifier (02 R39). -/
def Packet.widField (p : Packet) (w : Word) (i : Nat) : Nat := w.toNat / 2 ^ p.shift i % 2 ^ p.width i

/-- Rounds up to a multiple of 128. -/
def up128 (n : Nat) : Nat := (n + 127) / 128 * 128

/-- Bytes of one pass buffer (11 R291). -/
def passBytes (strip esize : Nat) : Nat := up128 (strip * esize)

/-- The scratchpad offset of the pass buffers of hart group w2 = `h` (11 R291). -/
def passBase (p c : Packet) (h : Nat) : Nat :=
  up128 (max p.desc.spuse c.desc.spuse)
    + h * (p.deleted.map fun d => passBytes p.desc.strip d.esize).foldl (· + ·) 0

/-- The strip of a hart, when it runs one (02 R43, R59). -/
def stripOf (s : State) (x : Hart) : Option Strip :=
  match x.work with
  | .none => none
  | .task t =>
    match s.packet t.packet with
    | none => none
    | some p => some ⟨p, p.widField t.wid 0, p.widField t.wid 1, p.widField t.wid 2, p.widField t.wid 3, p.widField t.wid 4,
        p.widField t.wid 5, 1, [], 0⟩
  | .group id g2 g3 g4 g5 k =>
    match s.packet id, chargedPacket s x with
    | some p, some q =>
      let base := match p.partner.bind s.packet with | some c => passBase p c g2 | none => 0
      some ⟨q, 0, k, g2, g3, g4, g5, p.stripCount k, p.deleted, base⟩
    | _, _ => none

end Sys2Proof.Machine
end

