-- ==== Sys2Proof/Machine/Jobs.lean ====
section
/-! DEFINITION. Copy jobs: `vcopy`, `vcopyx`, `vcopy.job`, their start, progress and completion, and accesses that arrive
from other devices (09 R217 to R229; 14 R369; 15 R392, R393; 17 R437, R457). -/

namespace Sys2Proof.Machine

/-! Ranges. -/

/-- The place of a byte of a job's range (09 R219, R221; 17 R457): poison is carried in the data, and a job's read of a
PCI Express window finds poisoned bytes. -/
def jobPlace (s : State) (a : Agent) (k : Access) (va : Nat) : Except Nat Place :=
  match resolve s a k va with
  | .ok r => .ok r.place
  | .error c =>
    if c = 0x08 ∧ k = .load then
      match windowOf s a va, translate s a k va with
      | .no, .ok (pa, _) => (match placeOf s pa with | some (.window p) => .ok (.window p) | _ => .error c)
      | _, _ => .error c
    else .error c

/-- Bytes from a place that lie in one page, one stash line or one format window (07 R194; 17 R441). -/
def runLength (s : State) (a : Agent) (p : Place) (va : Nat) : Nat :=
  match p with
  | .derived d =>
    let left : Nat :=
      match decodedWindow s d, scaleWindow s d with
      | some (_, w), _ => w.dec.toNat + 64 * w.ngran.toNat - d
      | none, some (_, w) => w.scl.toNat + 4 * w.ngran.toNat - d
      | none, none => 1
    max 1 (min left (4096 - va % 4096))
  | _ =>
    match windowOf s a va with
    | .scratch _ _ => 128 - va % 128
    | _ => 4096 - va % 4096

/-- The places of `n` bytes from `va`, or the first problem in ascending address (09 R219). -/
def rangePlaces (s : State) (a : Agent) (k : Access) : Nat → Nat → Nat → Except (Nat × Nat) (List (Place × Nat))
  | 0, _, _ => .ok []
  | fuel + 1, va, n =>
    if n = 0 then .ok []
    else
      match jobPlace s a k va with
      | .error c => .error (c, va)
      | .ok p =>
        let m := min n (runLength s a p va)
        match rangePlaces s a k fuel ((va + m) % 2 ^ 64) (n - m) with
        | .error e => .error e
        | .ok l => .ok ((p, m) :: l)

/-- The places of a range of `n` bytes. -/
def rangeOf (s : State) (a : Agent) (k : Access) (va n : Nat) : Except (Nat × Nat) (List (Place × Nat)) :=
  rangePlaces s a k (n + 1) va n

/-- The place `i` bytes on. -/
def Place.add (p : Place) (i : Nat) : Place :=
  match p with
  | .ram l => .ram (l + i)
  | .derived l => .derived (l + i)
  | .latch l => .latch (l + i)
  | .imsic l => .imsic (l + i)
  | .window l => .window (l + i)

/-- Source runs and destination runs of equal total length, as pieces; `fuel` bounds their number. -/
def mergeRuns : Nat → List (Place × Nat) → List (Place × Nat) → List Piece
  | 0, _, _ => []
  | _, [], _ => []
  | _, _, [] => []
  | fuel + 1, (p, n) :: r, (q, m) :: t =>
    let k := min n m
    ⟨some p, q, k⟩ :: mergeRuns fuel (if k = n then r else (p.add k, n - k) :: r)
      (if k = m then t else (q.add k, m - k) :: t)

/-- Pieces of a copy. -/
def copyPieces (src dst : List (Place × Nat)) : List Piece := mergeRuns (src.length + dst.length) src dst

/-- Pieces whose bytes another device delivers. -/
def remotePieces (dst : List (Place × Nat)) : List Piece := dst.map fun e => ⟨none, e.1, e.2⟩

/-- The interval of `n` bytes from `va` (02 R53). -/
def spanOf (va n : Nat) : Interval := ⟨va, va + n⟩

/-! Issue. -/

/-- A trap of a copy instruction: VSTART is 0 (09 R218). An access that waits for its stack is none (17 R448). -/
def jobTrap (s : State) (c va : Nat) : Res :=
  .next (trap (if c = stackHeld then s else s.setMe { s.me with vstart := 0 }) c (BitVec.ofNat 64 va))

/-- The first bytes of the pages of a range, and of its stash lines where it lies in a window (07 R194). -/
def rangeSteps (s : State) (va n : Nat) : List Nat :=
  let steps (w a m : Nat) : List Nat :=
    (List.range ((a + m - 1) / w + 1 - a / w)).map fun i => if i = 0 then a else (a / w + i) * w
  (steps 4096 va n).flatMap fun a =>
    match windowOf s (s.agent s.cur) (wrap (a : Nat)) with
    | .no => [a]
    | _ => steps 128 a (min (va + n) ((a / 4096 + 1) * 4096) - a)

/-- The touched translations and stash lines of a range (15 R381; 07 R194). -/
def touchRange (s : State) (k : Access) (va n : Nat) : State :=
  if n = 0 then s else (rangeSteps s va n).foldl (fun s a => touch s (s.agent s.cur) k (wrap (a : Nat))) s

/-- A fill made by reading `n` bytes at a place of the derived range (12 R317; 17 R441). -/
def noteSpan (s : State) (p : Place) (n : Nat) : State :=
  match p with
  | .derived a => if n = 0 then s else (derivedSteps s a n).foldl noteFill s
  | _ => s

/-- The last-level cache lines behind `n` bytes of a place take the tag of packet `id`'s chain (02 R65). -/
def tagJob (s : State) (id : Nat) (p : Place) (n : Nat) : State :=
  let tag (c l : Nat) : State :=
    { s with chainTags := (List.range ((l + n - 1) / 128 + 1 - l / 128)).foldl (fun m k => Tab.set 0 (l / 128 + k) c m) s.chainTags }
  match s.packet id with
  | none => s
  | some q =>
    if q.chain = 0 ∨ n = 0 then s
    else
      match p with
      | .ram l => if 0x1000000000000 ≤ l then s else tag (q.asid * 4096 + q.chain) l
      | .derived a => tag (q.asid * 4096 + q.chain) a
      | _ => s

/-- The packet in whose body hart `x` runs, 0 for none. -/
def tagOf (s : State) (x : Hart) : Nat := ((chargedPacket s x).map (·.id)).getD 0

/-- A job's access to `n` bytes of a place: the fill, the chain tag of its packet and the recall of stash lines (12 R317; 02
R65; 07 R194). -/
def jobTouch (s : State) (tag : Nat) (c : Option Nat) (p : Place) (n : Nat) : State :=
  if n = 0 then s else recallSpan (tagJob (noteSpan s p n) tag p n) c p n

/-- The next job of the executing hart, for copy token `token`, with nothing to move. -/
def newJob (s : State) (token : Nat) (kind : JobKind) : Job where
  id := s.keel.accepted + 1
  hart := s.cur
  asid := s.me.asid
  token := token
  kind := kind
  pieces := []
  moved := 0
  total := 0
  started := false
  reads := []
  writes := []
  status := none
  pbar := none
  result := 0
  packet := (jobPacket s.me).getD 0
  desc := []
  order := 0
  tag := tagOf s s.me

/-- A job waits for earlier jobs of its copy unit, or for packets accepted before it, but for its own and the loop that this
is spliced in (02 R53; 09 R224; 14 R360). -/
def jobWaits (s : State) (j : Job) : Bool :=
  jobBlocked s j || s.keel.packets.any fun p =>
    decide (p.id < j.id) && decide (p.id ≠ j.packet) && decide (p.asid = j.asid) && edgeOpen p
      && decide (p.partner ≠ some j.packet)
      && edgeBetween (p.readSlots.map p.footprint) (p.writeSlots.map p.footprint) j.reads j.writes

/-- A job is accepted: its token becomes pending and the hart goes on (09 R218). It has read what its hart read for it before its
own earlier scalar accesses, unless an edge holds it (13 R333); where it waits for a channel, stores behind it wait (09 R218). -/
def acceptJob (s : State) (j : Job) : State :=
  let r := takeJobReads (early s s.cur true)
  let j := { j with early := if jobWaits s j then [] else r.1 }
  let s := dropJobReads (setEarly s s.cur true r.2) j.asid
  let t : State := { s.setMe (s.me.setToken j.token (.pending j.id)) with
    jobs := s.jobs ++ [j]
    keel := { s.keel with accepted := j.id } }
  if jobBehind t j then failStores t s.cur else t

/-- The global bytes behind the parts of an interval that lie in stash entries, whose pages the accesses use too (07 R194;
09 R221). -/
def stashSpans (s : State) (a : Agent) (v : Interval) : List Interval :=
  let c := s.context a.asid
  let parts (k : Nat) (base : Word) : List Interval :=
    (s.core k).stash.filterMap fun e =>
      let at_ : Int := base.toNat + e.off
      let lo := max v.lo at_
      let hi := min v.hi (at_ + e.len)
      if lo < hi then some ⟨e.va.toNat + (lo - at_), e.va.toNat + (hi - at_)⟩ else none
  match a.core with
  | none => []
  | some k =>
    if !c.valid then []
    else parts k c.swbase ++ (List.range (coresIn s (k / 32))).flatMap fun i =>
      parts (k / 32 * 32 + i) (c.cwbase + BitVec.ofNat 64 (i * 0x80000))

/-- The intervals whose translations an access of intervals `l` uses: themselves, and what stashes map there (09 R221). -/
def usesOf (s : State) (l : List Interval) : List Interval := l ++ l.flatMap (stashSpans s (s.agent s.cur))

/-- A local copy of `n` bytes in `pieces` (09 R219, R220). -/
def copyJob (s : State) (token : Nat) (pieces : List Piece) (n : Nat) (reads writes : Interval) : Job :=
  { newJob s token .copy with
    pieces := pieces
    total := n
    reads := [reads]
    writes := [writes]
    uses := usesOf s [reads, writes] }

/-- The entry of a copy instruction (09 R218): the chain, the WAIT tokens, the head of the store queue, then 0x15 while the
token is pending. -/
def copyEnter (s : State) (o : VMOps) (k : State → Nat → Res) : Res :=
  unchained s fun s =>
    withTokens s o.wait fun s => caughtUp s true fun s =>
      let t := o.sub.toNat % 8
      match s.me.token t with
      | .pending _ => jobTrap s 0x15 t
      | _ => k s t

/-- `vcopy kN, sd, ss, sn` (09 R218, R219). -/
def execVcopy (o : VMOps) (s : State) : Res :=
  copyEnter s o fun s t =>
    let x := s.me
    let a := s.agent s.cur
    let d := (x.readS o.x).toNat
    let f := (x.readS o.y).toNat
    let n := (x.readS o.z).toNat
    if n = 0 then .next (finishWith s fun x => x.setToken t (.done 0))
    else if 16777216 < n then .next (illegal (s.setMe { s.me with vstart := 0 }))
    else
      match rangeOf s a .load f n with
      | .error e => jobTrap s e.1 e.2
      | .ok src =>
        match rangeOf s a .store d n with
        | .error e => jobTrap s e.1 e.2
        | .ok dst =>
          if (spanOf f n).meets (spanOf d n) then jobTrap s 0x08 d
          else
            let s := touchRange (touchRange s .load f n) .store d n
            .next (finish (acceptJob s (copyJob s t (copyPieces src dst) n (spanOf f n) (spanOf d n))))

/-- The runs of the chunks of `vcopyx`, in ascending t, or the first problem (09 R220). -/
def chunkPieces (s : State) (a : Agent) (c : Nat) (src dst : Nat → Int) :
    List Nat → Except (Nat × Nat) (List Piece)
  | [] => .ok []
  | t :: r =>
    match rangeOf s a .load (wrap (src t)) c with
    | .error e => .error e
    | .ok f =>
      match rangeOf s a .store (wrap (dst t)) c with
      | .error e => .error e
      | .ok d =>
        match chunkPieces s a c src dst r with
        | .error e => .error e
        | .ok l => .ok (copyPieces f d ++ l)

/-- The interval that spans chunks of `c` bytes (09 R220). -/
def chunkSpan (c : Nat) (l : List Int) : Interval :=
  match l with
  | [] => ⟨0, 0⟩
  | a :: r => ⟨r.foldl min a, r.foldl max a + c⟩

/-- The checks of `vcopyx` before any other of its own (09 R218 item 1, R220): 0x18 for a register number or a narrow
element, with VSTART 0. -/
def vcopyxShape (s : State) (v : Reg) : Bool := vregsOk s.me [v] && decide (32 ≤ ewBits s.me)

/-- `vcopyx.gather` and `vcopyx.scatter` on checked registers (09 R218, R220). -/
def vcopyxRun (s : State) (o : VMOps) (t : Nat) : Res :=
  let x := s.me
  let a := s.agent s.cur
  let c := o.imm.toNat
  let index (i : Nat) : Int := signed (ewBits x) (elem (x.vreg o.z.toNat) (ewBytes x) i)
  let d : Int := (x.readS o.x).toNat
  let f : Int := (x.readS o.y).toNat
  let src (i : Nat) : Int := if o.sub.getLsbD 3 then f + (i : Int) * c else f + index i
  let dst (i : Nat) : Int := if o.sub.getLsbD 3 then d + index i else d + (i : Int) * c
  let l := active x o.mask.toNat
  match l with
  | [] => .next (finishWith s fun x => { x.setToken t (.done 0) with vstart := 0 })
  | m :: _ =>
    match chunkPieces s a c src dst l with
    | .error e => jobTrap s e.1 e.2
    | .ok p =>
      let rd := chunkSpan c (l.map src)
      let wr := chunkSpan c (l.map dst)
      if rd.meets wr then jobTrap s 0x08 (wrap (dst m))
      else
        let s := l.foldl (fun s i =>
          touchRange (touchRange s .load (wrap (src i)) c) .store (wrap (dst i)) c) s
        .next (finishWith (acceptJob s (copyJob s t p (l.length * c) rd wr)) fun x => { x with vstart := 0 })

/-- `vcopyx.gather` and `vcopyx.scatter` (09 R218, R220): in an open chain group a register number still comes first (04
R104); else the tokens of the WAIT field are acquired before any check. -/
def execVcopyx (o : VMOps) (s : State) : Res :=
  if s.me.chain.isSome && !vregsOk s.me [o.z] then .next (vconfTrap s)
  else
    unchained s fun s =>
      withTokens s o.wait fun s => caughtUp s true fun s =>
        let t := o.sub.toNat % 8
        if !vcopyxShape s o.z then .next (vconfTrap (s.setMe { s.me with vstart := 0 }))
        else
          match s.me.token t with
          | .pending _ => jobTrap s 0x15 t
          | _ => vcopyxRun s o t

/-! Jobs by descriptor. -/

/-- OP of a job descriptor (09 R225). -/
def jdOp (b : List Byte) : Nat := field b 0 1
/-- ETYPE. -/
def jdType (b : List Byte) : Nat := field b 2 1
/-- DEVID. -/
def jdDev (b : List Byte) : Nat := field b 4 4
/-- SRC. -/
def jdSrc (b : List Byte) : Nat := field b 8 8
/-- DST. -/
def jdDst (b : List Byte) : Nat := field b 16 8
/-- LEN. -/
def jdLen (b : List Byte) : Nat := field b 24 8
/-- GROUP. -/
def jdGroup (b : List Byte) : Nat := field b 32 8
/-- NRANKS. -/
def jdRanks (b : List Byte) : Nat := field b 40 4
/-- RANK. -/
def jdRank (b : List Byte) : Nat := field b 44 4

/-- A descriptor of a collective. -/
def isCollective (b : List Byte) : Bool := decide (jdOp b = 2) || decide (jdOp b = 3)

/-- The descriptor's own fields make it bad (09 R227, R229). -/
def badDescriptor (b : List Byte) : Bool :=
  decide (4 < jdOp b) || decide (field b 3 1 ≠ 0) || decide (2 ^ 22 ≤ jdDev b) || decide (16777216 < jdLen b)
    || (decide (jdOp b = 2)
      && (decide (2 < field b 1 1) || !([2, 3, 6, 7, 9, 10].contains (jdType b))
        || decide (jdLen b % (tyWidth (jdType b) / 8) ≠ 0)))
    || (isCollective b
      && (decide (jdRanks b < 2) || decide (65536 < jdRanks b) || decide (jdRanks b ≤ jdRank b)))

/-- A PUT or GET whose device is this one, or a COPY, is local (09 R228). -/
def localJob (s : State) (b : List Byte) : Bool :=
  decide (jdOp b = 4) || (decide (jdOp b < 2) && decide (jdDev b = s.hub.devid.toNat))

/-- The local ranges of a descriptor: reads and writes, as address and length (09 R226); an OP out of range has none. -/
def jdRanges (s : State) (b : List Byte) : List (Nat × Nat) × List (Nat × Nat) :=
  let n := jdLen b
  let rd := (jdSrc b, n)
  let wr := (jdDst b, n)
  if localJob s b then ([rd], [wr])
  else
    match jdOp b with
    | 0 => ([rd], [])
    | 1 => ([], [wr])
    | 2 => ([rd], [wr])
    | 3 => ([rd], [(jdDst b, jdRanks b * n)])
    | _ => ([], [])

/-- Every range of a list, or the first problem. -/
def rangesOf (s : State) (a : Agent) (k : Access) : List (Nat × Nat) → Except (Nat × Nat) (List (Place × Nat))
  | [] => .ok []
  | (va, n) :: r =>
    match rangeOf s a k va n with
    | .error e => .error e
    | .ok l =>
      match rangesOf s a k r with
      | .error e => .error e
      | .ok t => .ok (l ++ t)

/-- The pieces of a descriptor job (09 R226, R228, R229): an ALLGATHER's own rank copies SRC, other ranks arrive. -/
def jdPieces (s : State) (b : List Byte) (src dst : List (Place × Nat)) : List Piece :=
  if localJob s b then copyPieces src dst
  else
    match jdOp b with
    | 0 => src.map fun e => ⟨some e.1, e.1, e.2⟩
    | 1 => remotePieces dst
    | 2 => remotePieces dst
    | _ =>
      let n := jdLen b
      let lo := jdRank b * n
      let cut := dst.foldl (fun (r : Nat × List (Place × Nat) × List (Place × Nat) × List (Place × Nat)) e =>
        let p := r.1
        let a := min e.2 (lo - p)
        let m := min (e.2 - a) (lo + n - max p lo)
        let z := e.2 - a - m
        (p + e.2, r.2.1 ++ (if a = 0 then [] else [(e.1, a)]),
          r.2.2.1 ++ (if m = 0 then [] else [(e.1.add a, m)]),
          r.2.2.2 ++ (if z = 0 then [] else [(e.1.add (a + m), z)]))) (0, [], [], [])
      remotePieces cut.2.1 ++ copyPieces src cut.2.2.1 ++ remotePieces cut.2.2.2

/-- Each local destination byte counts in `cwp`; a PUT to another device has none (09 R222). -/
def jdTotal (s : State) (b : List Byte) : Nat := ((jdRanges s b).2.map (·.2)).foldl (· + ·) 0

/-- The status a job has when it is accepted; 0 leaves it to its completion (09 R227; 15 R392). A job of LEN 0 to another device
needs REMOTE too (the model's choice: log 84). -/
def jdStatus (s : State) (x : Hart) (b : List Byte) (own : Bool) : Nat :=
  if badDescriptor b || (isCollective b && !own) then 0x60000
  else if jdOp b ≠ 4 ∧ !(s.context x.asid).remote then 0x20008
  else 0

/-- Bytes of the group table of a collective, none for other jobs. -/
def groupTable (b : List Byte) : Nat × Nat := if isCollective b then (jdGroup b, 4 * jdRanks b) else (0, 0)

/-- The word at RANK names this device (09 R227). -/
def rankIsOwn (s : State) (b : List Byte) (l : List (Place × Nat)) : Bool :=
  decide (field ((l.flatMap fun e => readPlace s e.1 e.2)) (4 * jdRank b) 4 % 2 ^ 22 = s.hub.devid.toNat)

/-- The first poisoned byte of a list of runs, counted from its first byte, and its cause (05 R144 item 6). -/
def firstPoison (s : State) : Nat → List (Place × Nat) → Option (Nat × Nat)
  | _, [] => none
  | at_, (p, n) :: r =>
    match poisonCause s p n with
    | none => firstPoison s (at_ + n) r
    | some _ => ((List.range n).find? fun i => (poisonCause s (p.add i) 1).isSome).map fun i =>
        ((poisonCause s (p.add i) 1).getD 0x14, at_ + i)

/-- The places of the group table, read as a load reads it (09 R226; 16 R420), or the first problem in ascending address; the read
waits for the stacks of all its rows (17 R440). -/
def tablePlaces (s : State) (a : Agent) (va n : Nat) : Except (Nat × Nat) (List (Place × Nat)) :=
  let whole := rangeOf s a .load va n
  let good := match whole with | .ok l => l | .error e => ((rangeOf s a .load va (wrap ((e.2 : Int) - va))).toOption).getD []
  if !good.all fun e => placeReady s a.core e.1 e.2 then .error (stackHeld, va)
  else
    match firstPoison s 0 good with
    | some (c, i) => .error (c, wrap (va + i : Nat))
    | none => whole

/-- The phase barrier of a descriptor (09 R226): none for 0, an access fault outside the hart's own scratch window, 0x09 beyond
the window's limit (07 R186). -/
def jdBarrier (s : State) (b : List Byte) : Except Nat (Option Nat) :=
  let p := field b 56 8
  if p = 0 then .ok none
  else
    let sw := (s.context s.me.asid).swbase.toNat
    if p % 8 ≠ 0 ∨ p < sw ∨ sw + 0x100000 ≤ p then .error 0x08
    else
      match check s (s.agent s.cur) .atomic p 8 with
      | .error c => .error c
      | .ok r => .ok (some (locOf r))

/-- The k-th collective of a context with a GROUP address (09 R229). -/
def countCollective (s : State) (b : List Byte) : State × Nat :=
  if isCollective b then
    let c := s.context s.me.asid
    let k := Tab.get 0 c.collectives (jdGroup b) + 1
    (s.setContext s.me.asid { c with collectives := Tab.set 0 (jdGroup b) k c.collectives }, k)
  else (s, 0)

/-- The kind of a descriptor job. -/
def jdKind (s : State) (b : List Byte) : JobKind :=
  if localJob s b then .copy
  else
    match jdOp b with
    | 0 => .put (jdDev b)
    | 1 => .get (jdDev b)
    | 2 => .allreduce
    | _ => .allgather

/-- The intervals of ranges that are not empty (02 R53). -/
def spansOf (l : List (Nat × Nat)) : List Interval := (l.filter fun e => e.2 != 0).map fun e => spanOf e.1 e.2

/-- The translations and stash lines that a checked descriptor has used (15 R381; 07 R194). -/
def touchDescriptor (s : State) (b : List Byte) : State :=
  let r := jdRanges s b
  let s := touchRange (touch s (s.agent s.cur) .store (field b 48 8)) .load (groupTable b).1 (groupTable b).2
  let s := r.1.foldl (fun s e => touchRange s .load e.1 e.2) s
  r.2.foldl (fun s e => touchRange s .store e.1 e.2) s

/-- A checked descriptor becomes a job (09 R226 to R229); one that is refused moves nothing, has no edges, and counts the
bytes of its local destination (09 R222). -/
def issueDescriptor (s : State) (t : Nat) (b : List Byte) (st : Place) (pb : Option Nat) (table src dst : List (Place × Nat)) :
    Res :=
  let r := jdRanges s b
  let k := countCollective (touchDescriptor s b) b
  let status := jdStatus s s.me b (!isCollective b || rankIsOwn s b table)
  let j : Job := { newJob k.1 t (jdKind s b) with
    pieces := if status = 0 then jdPieces s b src dst else []
    total := jdTotal s b
    reads := if status = 0 then spansOf r.1 else []
    writes := if status = 0 then spansOf r.2 else []
    status := some st
    pbar := pb
    result := status
    desc := b
    order := k.2
    source := src
    group := table
    uses := usesOf s (spansOf (groupTable b :: (field b 48 8, 4) :: (field b 56 8, if pb.isSome then 8 else 0) :: r.1 ++ r.2)) }
  .next (finish (acceptJob k.1 j))

/-- `vcopy.job kN, sa` (09 R218, R225, R226). The spec gives the group table no alignment: every address may hold one (the
model's choice: log 85). -/
def execVcopyJob (o : VMOps) (s : State) : Res :=
  copyEnter s o fun s t =>
    let a := s.agent s.cur
    let sa := (s.me.readS o.y).toNat
    match check s a .load sa 64 with
    | .error c => jobTrap (noteRead s (resolve s a .load sa)) c sa
    | .ok q =>
      let b := readPlace s q.place 64
      let s := tagAt (touch (noteRead s (.ok q)) a .load sa) s.me q.place
      match check s a .store (field b 48 8) 4 with
      | .error c => jobTrap s c (field b 48 8)
      | .ok st =>
        match tablePlaces s a (groupTable b).1 (groupTable b).2 with
        | .error e => jobTrap s e.1 e.2
        | .ok g =>
          match rangesOf s a .load (jdRanges s b).1 with
          | .error e => jobTrap s e.1 e.2
          | .ok src =>
            match rangesOf s a .store (jdRanges s b).2 with
            | .error e => jobTrap s e.1 e.2
            | .ok dst =>
              match jdBarrier s b with
              | .error c => jobTrap s c (field b 56 8)
              | .ok pb =>
                if localJob s b && (spanOf (jdSrc b) (jdLen b)).meets (spanOf (jdDst b) (jdLen b)) then
                  jobTrap s 0x08 (jdDst b)
                else
                  let s := g.foldl (fun s e => jobTouch s (tagOf s s.me) a.core e.1 e.2) s
                  issueDescriptor s t b st.place pb g src dst

/-! Progress. -/

/-- A job by its number. -/
def jobAt (s : State) (id : Nat) : Option Job := s.jobs.find? fun j => decide (j.id = id)

/-- Replaces a job. -/
def setJob (s : State) (j : Job) : State := { s with jobs := s.jobs.map fun e => if e.id = j.id then j else e }

/-- A copy channel is free for the job, and no earlier job of its hart waits for one (09 R218; 14 R353). -/
def channelFree (s : State) (j : Job) : Bool :=
  decide ((s.jobs.filter fun e => decide (coreOf e.hart = coreOf j.hart) && e.started).length < 4)
    && s.jobs.all fun e => decide (j.id ≤ e.id) || decide (coreOf e.hart ≠ coreOf j.hart) || e.started

/-- The condition that a copied byte carries (09 R221; 17 R457). -/
def carriedTaint (s : State) (p : Option Place) (i : Nat) : Taint :=
  match p with
  | some (.window _) => .error
  | some p => placeTaint s p i
  | none => .sound

/-- What a job reads: memory as it stands, but for the bytes that it read before its hart's earlier scalar accesses (13 R333). -/
def jobView (s : State) (j : Job) : State :=
  if j.early.isEmpty then s
  else { s with
    mem := Tab.sets 0 j.early s.mem
    taint := s.taint.filter fun e => !j.early.any fun c => decide (c.1 = e.1) }

/-- Bytes `lo` to `lo + n − 1` of a piece, of which the first is byte `at` of the job: what they are and whether they are
poisoned. -/
def pieceBytes (s : State) (j : Job) (p : Piece) (at_ lo n : Nat) : List Carried :=
  let v := jobView s j
  (List.range n).map fun i =>
    (match p.src with
      | some q => placeByte v q (lo + i)
      | none => Config.remoteByte j.id (at_ + i) s.n, carriedTaint v p.src (lo + i))

/-- The next `n` source bytes of a job, behind `skip` of its pieces' bytes (13 R333). -/
def sourceBytes (s : State) (j : Job) : List Piece → Nat → Nat → Nat → List Carried
  | [], _, _, _ => []
  | p :: r, at_, skip, n =>
    if n = 0 then []
    else if p.len ≤ skip then sourceBytes s j r at_ (skip - p.len) n
    else
      let m := min n (p.len - skip)
      pieceBytes s j p at_ skip m ++ sourceBytes s j r (at_ + m) 0 (n - m)

/-- How many of the leading `n` bytes at a place a job may access now: their stacks and links are ready (17 R440, R448). -/
def readyPrefix (s : State) (c : Option Nat) (p : Place) (n : Nat) : Nat :=
  if placeReady s c p n then n else ((List.range n).find? fun i => !placeReady s c (p.add i) 1).getD n

/-- How many of the next `n` bytes of pieces, behind `skip` of theirs, may move now; `ahead` of them need no source any more,
and without `write` only sources count. -/
def movable (s : State) (c : Option Nat) (write : Bool) : List Piece → Nat → Nat → Nat → Nat
  | [], _, _, n => n
  | p :: r, skip, ahead, n =>
    if n = 0 then 0
    else if p.len ≤ skip then movable s c write r (skip - p.len) ahead n
    else
      let m := min n (p.len - skip)
      let a := min m ahead
      let src := match p.src with | some q => a + readyPrefix s c (q.add (skip + a)) (m - a) | none => m
      let k := if write then min src (readyPrefix s c (p.dst.add skip) m) else src
      if k < m then k else m + movable s c write r 0 (ahead - a) (n - m)

/-- The core of a job, from which its accesses cross to other dies. -/
def Job.core (j : Job) : Option Nat := some (coreOf j.hart)

/-- The pieces of the source of an ALLREDUCE, which it reads whole before it writes (09 R229). -/
def reducePieces (j : Job) : List Piece := j.source.map fun e => ⟨some e.1, e.1, e.2⟩

/-- A job's source bytes are read ahead of its writes (13 R333): each is read once, at a point of the global order of its
own. -/
def readAhead (s : State) (j : Job) (n : Nat) : State :=
  let at_ := j.moved + j.ahead.length
  let n := movable s j.core false j.pieces at_ 0 (min n (j.total - at_))
  setJob s { j with ahead := j.ahead ++ sourceBytes s j j.pieces at_ at_ n }

/-- Poisons the destination bytes that a copy writes from poisoned ones (09 R221; 16 R419). -/
def poisonBytes (s : State) (p : Place) (l : List Carried) : State :=
  match p with
  | .ram loc =>
    if l.all fun e => e.2 == .sound then s
    else (List.zip (List.range l.length) l).foldl (fun s e => if e.2.2 = .sound then s else setTaint s (loc + e.1) 1 e.2.2) s
  | _ => s

/-- The naturally aligned runs of `w` bytes among `n` bytes from address `a`, as offsets. -/
def alignedRuns (w a n : Nat) : List Nat := (List.range n).filter fun i => decide ((a + i) % w = 0) && decide (i + w ≤ n)

/-- The stores of a job's bytes at a place (13 R326): byte by byte in memory; on a latch page each naturally aligned 8-byte
run is one latch store, and on an interrupt file each aligned 4-byte run one store (log 36). -/
def landAt (s : State) (p : Place) (b : List Byte) : State :=
  match p with
  | .ram l => writeEach s l b
  | .latch a => (alignedRuns 8 a b.length).foldl (fun s i => storePlace s (.latch (a + i)) (slice b i 8)) s
  | .imsic a => (alignedRuns 4 a b.length).foldl (fun s i => storePlace s (.imsic (a + i)) (slice b i 4)) s
  | p => if b.isEmpty then s else storePlace s p b

/-- Writes bytes at a piece's destination, counting them at the job's barrier (09 R221, R222, R227); poisoned ones follow the
accesses that wait in queues (log 4). -/
def landBytes (s : State) (j : Job) (dst : Place) (l : List Carried) : State :=
  let s := if l.all fun e => e.2 == .sound then s else performAll s
  let s := poisonBytes (landAt (jobTouch s j.tag j.core dst l.length) dst (l.map (·.1))) dst l
  match j.pbar with
  | some loc => pbLand (jobTouch s j.tag j.core (.ram loc) 8) loc l.length
  | none => s

/-- What bytes landed at a place do to the poison of their sectors: one whose 32 bytes the job has all written loses its poison,
but for the bytes that were poisoned themselves (16 R419; 09 R221). -/
def noteLanded (s : State) (j : Job) (dst : Place) (l : List Carried) : State × Job :=
  match dst with
  | .ram loc =>
    if s.taint.isEmpty then (s, j)
    else
      let new := (List.zip (List.range l.length) l).filterMap fun e =>
        if taintPlace s (.ram ((loc + e.1) / 32 * 32)) 32 = .sound then none else some (loc + e.1, e.2.2 != .sound)
      let all := (j.landed.filter fun e => !new.any fun f => f.1 == e.1) ++ new
      let full := (distinct (new.map (·.1 / 32))).filter fun k => (List.range 32).all fun i => all.any fun e => e.1 == 32 * k + i
      let kept (e : Nat × Taint) : Bool := !full.contains (e.1 / 32) || all.any fun f => f.1 == e.1 && f.2
      ({ s with taint := s.taint.filter kept }, { j with landed := all.filter fun e => !full.contains (e.1 / 32) })
  | _ => (s, j)

/-- The bytes that a move of up to `n` lands at a place: whole aligned runs where stores of several bytes are made
(log 36), at most the `left` that remain of the piece. -/
def landSize (p : Place) (n left : Nat) : Nat :=
  match p with
  | .latch a => min left ((a + n + 7) / 8 * 8 - a)
  | .imsic a => min left ((a + n + 3) / 4 * 4 - a)
  | _ => min left n

/-- Moves the next `n` bytes of a job in the order of 09 R222, bytes that it has read ahead first; `skip` is what earlier
moves have performed. -/
def movePieces (j : Job) : List Piece → Nat → Nat → State → State
  | [], _, _, s => s
  | p :: r, skip, n, s =>
    if n = 0 then s
    else if p.len ≤ skip then movePieces j r (skip - p.len) n s
    else
      let m := landSize (p.dst.add skip) n (p.len - skip)
      let k := min m j.ahead.length
      let s := match p.src with | some q => jobTouch s j.tag j.core (q.add skip) m | none => s
      let l := j.ahead.take m ++ pieceBytes s j p (j.moved + k) (skip + k) (m - k)
      let e := match j.kind with
        | .put _ => (s, j)
        | _ => noteLanded (landBytes s j (p.dst.add skip) l) j (p.dst.add skip) l
      let s := e.1
      let j := { e.2 with moved := j.moved + m, ahead := j.ahead.drop m }
      movePieces j r 0 (n - m) (setJob s j)

/-- Up to `n` more bytes of a job (09 R222). -/
def moveJob (s : State) (j : Job) (n : Nat) : State :=
  movePieces j j.pieces j.moved (movable s j.core true j.pieces j.moved j.ahead.length (min n (j.total - j.moved))) s

/-! Routes. -/

/-- The longest valid route that matches a DEVID; a tie goes to the lower number (17 R437). -/
def routeFor (s : State) (dev : Nat) : Option Word :=
  let ok (w : Word) : Bool := w.getLsbD 63 && decide (w.toNat / 2 ^ 56 % 32 ≤ 22)
    && decide (dev / 2 ^ (22 - w.toNat / 2 ^ 56 % 32) = w.toNat / 2 ^ 32 % 2 ^ 22 / 2 ^ (22 - w.toNat / 2 ^ 56 % 32))
  s.hub.route.foldl (fun b e =>
    if ok e.2 then
      match b with
      | none => some e.2
      | some w => if w.toNat / 2 ^ 56 % 32 < e.2.toNat / 2 ^ 56 % 32 then some e.2 else b
    else b) none

/-- The fabric port of a job to a device, by the hash of 17 R437; none without a route. -/
def portFor (s : State) (j : Job) (dev : Nat) : Option Nat :=
  match routeFor s dev with
  | none => none
  | some w =>
    let ports := (List.range 16).filter fun p => w.getLsbD p
    if ports.isEmpty then none else ports[Config.portHash s.hub.devid.toNat dev j.id % ports.length]?

/-- The other devices that a job reaches (09 R228, R229), by the group table as it was found at issue. -/
def jobDevices (s : State) (j : Job) : List Nat :=
  match j.kind with
  | .copy => []
  | .put d => [d]
  | .get d => [d]
  | _ =>
    let t := j.group.flatMap fun e => readPlace s e.1 e.2
    ((List.range (jdRanks j.desc)).map fun i => field t (4 * i) 4 % 2 ^ 22).filter fun d => d != s.hub.devid.toNat

/-- A device of the job has no route (17 R437). -/
def unreachable (s : State) (j : Job) : Bool := (jobDevices s j).any fun d => (portFor s j d).isNone

/-- The one fabric port that a job uses (17 R436): a collective takes that of the first other member (log 75). -/
def jobPort (s : State) (j : Job) : Option Nat := (jobDevices s j).head?.bind (portFor s j)

/-- The fabric port that the job uses is up (17 R436, R448). -/
def portsUp (s : State) (j : Job) : Bool :=
  match jobPort s j with
  | some p => s.hub.fabstat.getLsbD p
  | none => true

/-- A started job makes, or may make, remote accesses: it is not refused, no edge holds it, and it has bytes to move
(14 R369; 09 R227). -/
def jobRemote (s : State) (j : Job) : Bool :=
  j.started && j.result == 0 && !jobWaits s j && j.kind != .copy && decide (jdLen j.desc ≠ 0)

/-! Collectives. -/

/-- The value at element `e` of rank `r`: SRC's for this device's rank, another device's otherwise (09 R229). -/
def rankValue (s : State) (j : Job) (own : List Byte) (w r e : Nat) : Nat :=
  let b := j.desc
  if r = jdRank b then field own (w * e) w
  else leNat ((List.range w).map fun i => Config.remoteByte j.id (r * jdLen b + w * e + i) s.n)

/-- The combination of 09 R229: the pairwise tree of 06 R169, rounded RNE. -/
def combine (b : List Byte) (l : List Nat) : Nat :=
  let o : VAOps := ⟨0, 0, 0, 0, 1, false, false, false, 0, 0, BitVec.ofNat 4 (jdType b)⟩
  ((redTree (redFn o (field b 1 1) 0) l.length l).1).headD 0

/-- The bytes that ALLREDUCE writes, from the bytes that it has read (09 R229); a poisoned one poisons the element. -/
def reduceBytes (s : State) (j : Job) (src : List Carried) : List Carried :=
  let b := j.desc
  let w := tyWidth (jdType b) / 8
  let own := src.map (·.1)
  let bad := src.map (·.2)
  (List.range (jdLen b / w)).flatMap fun e =>
    let v := combine b ((List.range (jdRanks b)).map fun r => rankValue s j own w r e)
    let t := ((bad.drop (w * e)).take w).foldl worse .sound
    (leBytes w v).map fun c => (c, t)

/-- An ALLREDUCE reads `n` more bytes of its source, each at a point of its own (13 R333); with the last of them it has the
bytes that it writes (09 R229). -/
def reduceAhead (s : State) (j : Job) (n : Nat) : State :=
  if j.reduced then s
  else
    let at_ := j.ahead.length
    let n := movable s j.core false (reducePieces j) at_ 0 (min n (j.total - at_))
    let l := j.ahead ++ sourceBytes s j (reducePieces j) at_ at_ n
    if l.length < j.total then setJob s { j with ahead := l }
    else setJob s { j with ahead := reduceBytes s j l, reduced := true }

/-- An ALLREDUCE reads the rest of its source, where its stacks are ready, and moves up to `n` of the combined bytes. -/
def reduceJob (s : State) (j : Job) (n : Nat) : State :=
  let s := if j.reduced then s else j.source.foldl (fun s e => jobTouch s j.tag j.core e.1 e.2) s
  let s := reduceAhead s j j.total
  match jobAt s j.id with
  | some k => if k.reduced then moveJob s k n else s
  | none => s

/-- A job holds its channel, and what waited behind it is performed (09 R218). -/
def takeChannel (s : State) (j : Job) : State := releaseBehind (setJob s { j with started := true }) j

/-- A job takes a free channel and, once its edges resolve, moves up to `n` more bytes (09 R218, R222, R224). -/
def execJobStart (id n : Nat) (s : State) : Res :=
  match jobAt s id with
  | none => .next s
  | some j =>
    if !j.started && !channelFree s j then .next s
    else
      let s := takeChannel s j
      match jobAt s id with
      | none => .next s
      | some j =>
        if jobWaits s j then .next s
        else
          match j.kind with
          | .allreduce => if unreachable s j || !portsUp s j then .next s else .next (reduceJob s j n)
          | .put _ => .next s
          | _ => .next (moveJob s j n)

/-! Completion. -/

/-- The token of a hart that waits for job `id` becomes done (09 R218, R227). -/
def tokenDone (x : Hart) (k id n : Nat) : Hart := if x.token k = .pending id then x.setToken k (.done n) else x

/-- The same for a hart that is suspended meanwhile (16 R411). -/
def savedTokenDone (j : Job) (r : Saved) : Saved :=
  if r.hartid = j.hart ∧ r.hart.asid = j.asid then { r with hart := tokenDone r.hart j.token j.id j.total } else r

/-- A job completes with a status: the status word, then its token; its channel frees (09 R227). -/
def endJob (s : State) (j : Job) (status : Nat) : State :=
  let s := dropJobReads (releaseBehind s j) j.asid
  let s := match j.status with
    | some p => storePlace (jobTouch s j.tag j.core p 4) p (leBytes 4 status)
    | none => s
  let s := s.setHart j.hart (tokenDone (s.hart j.hart) j.token j.id j.total)
  { s with
    jobs := s.jobs.filter fun e => e.id != j.id
    keel := { s.keel with saved := s.keel.saved.map (savedTokenDone j) } }

/-- The status word of a job accepts its store: its stack is ready (17 R440). -/
def statusReady (s : State) (j : Job) : Bool :=
  match j.status with
  | some p => placeReady s j.core p 4
  | none => true

/-- A job completes with a status, once its status word can be written (17 R440). -/
def completeJob (s : State) (j : Job) (status : Nat) : State := if statusReady s j then endJob s j status else s

/-- The status of a remote job whose devices answer (09 R227, R229; 15 R393): a device may refuse an access for want of a
binding or a permission, cause 0x08, or for a page fault, 0x06 of a read and 0x07 of a write. -/
def remoteStatus (s : State) (j : Job) : Nat :=
  let refused : Nat :=
    match Config.remoteCause j.id s.n % 4, j.kind with
    | 0, _ => 0
    | 1, _ => 0x20008
    | _, .put _ => 0x20007
    | _, .get _ => 0x20006
    | 2, _ => 0x20006
    | _, _ => 0x20007
  match j.kind with
  | .allreduce => if Config.membersAgree j.id s.n then refused else 0x40000
  | .allgather => if Config.membersAgree j.id s.n then refused else 0x40000
  | _ => refused

/-- The bytes that a job still has to move are performed, as far as their stacks are ready (09 R222, R229; 17 R440). -/
def finishBytes (s : State) (j : Job) : State :=
  match j.kind with
  | .put _ => j.source.foldl (fun s e => jobTouch s j.tag j.core e.1 e.2) s
  | .allreduce => reduceJob s j (j.total - j.moved)
  | _ => moveJob s j (j.total - j.moved)

/-- All bytes of job `id` are performed; those that a PUT reads are where their stacks are ready. -/
def bytesDone (s : State) (id : Nat) : Bool :=
  match jobAt s id with
  | none => false
  | some j =>
    match j.kind with
    | .put _ => j.source.all fun e => placeReady s j.core e.1 e.2
    | _ => decide (j.total ≤ j.moved)

/-- What is left of a job is performed, and it completes with DONE, unless a stack is not ready (09 R218, R227; 17 R440). -/
def finishJob (s : State) (j : Job) : State :=
  let t := finishBytes s j
  if bytesDone t j.id then completeJob t j 0 else t

/-- A job's last byte is performed, its status word written and its token done (09 R218, R227; 14 R369). -/
def execJobComplete (id : Nat) (s : State) : Res :=
  match jobAt s id with
  | none => .next s
  | some j =>
    if !j.started || jobWaits s j then .next s
    else if j.result ≠ 0 then .next (completeJob s j j.result)
    else if j.kind = .copy then .next (finishJob s j)
    else if jdLen j.desc = 0 then .next (completeJob s j 0)
    else if unreachable s j then .next (completeJob s j 0x30000)
    else if !portsUp s j then .next s
    else
      let st := remoteStatus s j
      if st = 0 then .next (finishJob s j) else .next (completeJob s j st)

/-- A remote access, of a collective too, that has no answer within 1 s completes its job with UNREACHABLE (14 R369). -/
def execRemoteAccessTimeout (id : Nat) (s : State) : Res :=
  match jobAt s id with
  | none => .next s
  | some j => if jobRemote s j then .next (completeJob s j 0x30000) else .next s

/-- A member that does not join within 1 s completes the collective with TIMEOUT (09 R227). -/
def execCollectiveJoinTimeout (id : Nat) (s : State) : Res :=
  match jobAt s id with
  | none => .next s
  | some j =>
    match j.kind with
    | .allreduce => if jobRemote s j then .next (completeJob s j 0x50000) else .next s
    | .allgather => if jobRemote s j then .next (completeJob s j 0x50000) else .next s
    | _ => .next s

/-- The lowest-numbered binding of an origin (15 R392). -/
def bindingFor (s : State) (dev asid : Nat) : Option Word :=
  (s.hub.rbind.find? fun e => e.2.getLsbD 63 && decide (e.2.toNat % 2 ^ 22 = dev)
    && decide (e.2.toNat / 2 ^ 22 % 2 ^ 16 = asid)).map (·.2)

/-- What an access from another device meets (15 R392, R393): the places that it reads or writes through the local context
bound to its origin, or the cause with which the origin's job completes. -/
def remoteAnswer (s : State) (r : RemoteRequest) : Except Nat (List (Place × Nat)) :=
  match bindingFor s r.devid r.srcAsid with
  | none => .error 0x08
  | some w =>
    if !w.getLsbD (if r.write then 62 else 61) || (s.context (w.toNat / 2 ^ 38 % 2 ^ 16)).dying then .error 0x08
    else
      match rangeOf s ⟨w.toNat / 2 ^ 38 % 2 ^ 16, .user, none⟩ (if r.write then .store else .load) r.va.toNat
          (if r.write then r.bytes.length else r.len) with
      | .error e => .error e.1
      | .ok l => .ok l

/-- An access from another device with the places that it reaches. -/
def remotePerform (s : State) (r : RemoteRequest) (l : List (Place × Nat)) : State :=
  if r.write then
    (l.foldl (fun (e : State × List Byte) p =>
      (landAt (jobTouch e.1 0 none p.1 p.2) p.1 (e.2.take p.2), e.2.drop p.2)) (s, r.bytes)).1
  else l.foldl (fun s e => jobTouch s 0 none e.1 e.2) s

/-- An access that arrives from another device is performed at its home, or refused, whereupon nothing changes here (15
R392, R393); while a stack that it needs is not ready it waits (17 R440). The data or the cause that it sends back is no
state of this device. -/
def execRemoteAccessReceived (r : RemoteRequest) (s : State) : Res :=
  let held : State := { s with hub := { s.hub with remotes := s.hub.remotes ++ [r] } }
  match remoteAnswer s r with
  | .error c => .next (if c = stackHeld then held else s)
  | .ok l => .next (if l.all fun e => placeReady s none e.1 e.2 then remotePerform s r l else held)

/-- The `k`-th access of another device that waits for a stack is tried again (17 R440). -/
def retryRemote (s : State) (k : Nat) : Res :=
  match s.hub.remotes[k]? with
  | none => .next s
  | some r =>
    match execRemoteAccessReceived r { s with hub := { s.hub with remotes := s.hub.remotes.eraseIdx k } } with
    | .next t => .next (if t.hub.remotes.length = s.hub.remotes.length then s else t)
    | o => o

/-! Tokens. -/

/-- `waitk kA+kB+…` (09 R223). -/
def execWaitk (set : BitVec 8) (s : State) : Res :=
  unchained s fun s => withTokens s set fun s => .next (finish s)

/-- What `cwp` reads for a token (09 R222). -/
def writePointer (s : State) (t : Token) : Nat :=
  match t with
  | .idle => 0
  | .pending id => (match jobAt s id with | some j => j.moved | none => 0)
  | .done n => n

/-- `cwp sd, kN` (09 R222). -/
def execCwp (d : Reg) (k : BitVec 3) (s : State) : Res :=
  unchained s fun s =>
    .next (finishWith s fun x => x.writeS d (BitVec.ofNat 64 (writePointer s (x.token k.toNat))))

end Sys2Proof.Machine
end

