-- ==== Sys2Proof/Machine/Movement.lean ====
section
/-! DEFINITION. Operand streams (09 R231, R232; 11 R292) and tethers (09 R233 to R238). -/

namespace Sys2Proof.Machine

/-! Streams. -/

/-- The operand slot of a packet that names a stream handle. -/
def slotOfHandle (p : Packet) (h : Nat) : Option Nat := (List.range 8).find? fun j => p.handle j == h

/-- The checks of a stream instruction (09 R231): the slot that the handle names, or the trap; `bit` is the access bit
that the stencil must have. -/
def streamSlot (s : State) (sh : Word) (bit : Nat) : Except Nat (Strip × Nat) :=
  if 64 ≤ sh.toNat then .error 0x08
  else
    match stripOf s s.me with
    | none => .error 0x08
    | some p =>
      match slotOfHandle p.packet sh.toNat with
      | none => .error 0x08
      | some j =>
        if !bitOf (p.packet.stencil j).access bit then .error 0x08
        else if (p.packet.stencil j).esize ≠ ewBytes s.me then .error 0x18
        else .ok (p, j)

/-- The stencil address of strip element `m` (09 R231; 11 R281, R282). -/
def streamAddr (p : Strip) (j m : Nat) : Nat :=
  p.packet.elementAddr j (p.packet.linear (p.j + m) p.k p.g2 p.g3 p.g4 p.g5)

/-- The deleted intermediate that a handle names (11 R292). -/
def deletedOf (p : Strip) (h : Nat) : Option Deleted := p.deleted.find? fun d => d.handle == h

/-- The place of pass element `m` in the hart's own scratchpad (11 R291). -/
def passPlace (s : State) (p : Strip) (d : Deleted) (m : Nat) : Place :=
  .ram (scratchLoc (coreOf s.cur) (p.buffers + d.off + m * d.esize))

/-- Element `m` is served from the pass buffer: every store, and a load of a valid element (11 R292). -/
def passServes (x : Hart) (p : Strip) (h m : Nat) (write : Bool) : Bool :=
  (deletedOf p h).isSome && (write || Tab.get false (Tab.get [] x.pass h) m)

/-- The active elements of a stream access (09 R231). -/
def streamActive (x : Hart) (p : Strip) (h m : Nat) : List Nat :=
  (active x m).filter fun t => decide (Tab.get 0 x.cursors h + t < p.count)

/-- The check of element `t`; a pass access has no problem (11 R292), and so reads a byte of the pass buffer that a soft error has
poisoned as it stands (R292 raises no problem for it, and 16 R420 lets no agent receive poisoned data as sound; the model's choice:
log 95). -/
def streamCheck (s : State) (p : Strip) (j h : Nat) (write : Bool) (t : Nat) : Except Nat Resolved :=
  let m := Tab.get 0 s.me.cursors h + t
  match deletedOf p h, passServes s.me p h m write with
  | some d, true => .ok ⟨passPlace s p d m, .pma⟩
  | _, _ => check s (s.agent s.cur) (if write then .store else .load) (streamAddr p j m) (ewBytes s.me)

/-- The cursor after a completed stream access (09 R231). -/
def advance (x : Hart) (h : Nat) : Hart := { x with cursors := Tab.set 0 h (Tab.get 0 x.cursors h + tiles x) x.cursors }

/-- The other members of the executing hart's gang (02 R61). -/
def gangOthers (s : State) : List (Nat × Hart) :=
  s.harts.filter fun e => e.1 != s.cur && e.2.gang.isSome && e.2.gang == s.me.gang && clusterOf e.1 == clusterOf s.cur

/-- The pass elements of a deleted intermediate that a store has made valid (11 R292). -/
def streamValid (s : State) (p : Strip) (h : Nat) (l : List Nat) : State :=
  let c := Tab.get 0 s.me.cursors h
  if (deletedOf p h).isNone ∨ l.isEmpty then s
  else s.setMe { s.me with
    pass := Tab.set [] h (Tab.sets false (l.map fun t => (c + t, true)) (Tab.get [] s.me.pass h)) s.me.pass }

/-- The entry of a stream instruction (04 R104; 09 R231). -/
def streamEnter (s : State) (o : VMOps) (bit : Nat) (k : State → Strip → Nat → Nat → Res) : Res :=
  if !vregsOk s.me [o.x] then .next (vconfTrap s)
  else
    unchained s fun s =>
      let sh := s.me.readS o.y
      match streamSlot s sh bit with
      | .error 0x18 => .next (vconfTrap s)
      | .error c => .next (trap s c sh)
      | .ok (p, j) => withTokens s o.wait fun s => k s p j sh.toNat

/-- The translations, lines and fills that a stream access touches: those of its elements outside the pass buffer (11 R292). -/
def streamTouch (s : State) (p : Strip) (h : Nat) (k : Access) (addr : Nat → Nat) (pl : List Nat × Ending) : State :=
  let x := s.me
  let inMemory := pl.1.filter fun t => !passServes x p h (Tab.get 0 x.cursors h + t) (k == .store)
  let s := touchAll s k addr inMemory
  if k = .load then touchEnd s pl.2 addr else s

/-- A stream access ends: the cursor moves on where it completes (09 R231). -/
def streamEnd (s : State) (h : Nat) (addr : Nat → Nat) (e : Ending) : Res :=
  match e with
  | .complete => endAccess (s.setMe (advance s.me h)) .complete addr
  | e => endAccess s e addr

/-- A stream access whose elements wait in the hart's vector queue, that of a ganged load apart, which the other members need (13
R323, R324; 09 R232). -/
def streamLater (s : State) (p : Strip) (j h : Nat) (l : List Nat) (write : Bool) (f : Nat → Place → Pending) : Option Res :=
  let x := s.me
  let addr (t : Nat) := streamAddr p j (Tab.get 0 x.cursors h + t)
  let chk := streamCheck s p j h write
  let pl := plan x l chk trimNone
  if !vectorLags s || (!write && x.gang.isSome) || pl.2 != .complete then none
  else
    match queuedElements chk f pl.1 with
    | none => none
    | some q =>
      if !mayQueue s q then none
      else
        let s := freshAccess (streamTouch s p h (if write then .store else .load) addr pl) true
        some (streamEnd (streamValid (enqueueAll s q) p h (if write then pl.1 else [])) h addr pl.2)

/-- A stream load fetched by this hart (09 R231, R232): the leader of a gang hands its data to the other members. -/
def streamLoad (s : State) (o : VMOps) (p : Strip) (j h : Nat) : Res :=
  let x := s.me
  let b := ewBytes x
  let addr (t : Nat) := streamAddr p j (Tab.get 0 x.cursors h + t)
  let chk := streamCheck s p j h false
  let pl := plan x (streamActive x p h o.mask.toNat) chk trimNone
  let r := readElements (streamTouch s p h .load addr pl) b chk pl.1
  let tile := r.1.foldl (fun m e => Tab.putBytes m (b * e.1) e.2) (x.vreg o.x.toNat)
  let s := r.2
  let s := s.setMe ((s.me.setVreg o.x.toNat tile).cleanV o.x.toNat pl.1)
  match pl.2 with
  | .complete =>
    let feed : Feed := ⟨h, o.x.toNat, streamActive { x with vstart := 0 } p h o.mask.toNat, tile⟩
    let s := (gangOthers s).foldl (fun s e => s.setHart e.1 { e.2 with gangFeed := e.2.gangFeed ++ [feed] }) s
    endAccess (s.setMe (advance s.me h)) .complete addr
  | e => endAccess s e addr

/-- A member's stream load: the leader's k-th load arrives in order, also after the leader has left (09 R232). An element that is
active under the member's own mask and that the leader did not fetch keeps its value (the model's choice: log 29). -/
def streamFeed (s : State) (o : VMOps) (p : Strip) (h : Nat) : Res :=
  let x := s.me
  match x.gangFeed with
  | [] => .next (waitAt s .gang 0)
  | f :: r =>
    let s := s.setMe { x with run := .running }
    if f.handle ≠ h ∨ f.reg ≠ o.x.toNat then .next (vconfTrap s)
    else
      let b := ewBytes x
      let l := (streamActive x p h o.mask.toNat).filter f.elems.contains
      let tile := l.foldl (fun r t => Tab.putBytes r (b * t) (Tab.bytes f.data (b * t) b)) (x.vreg o.x.toNat)
      .next (finishWith s fun x =>
        { advance ((x.setVreg o.x.toNat tile).cleanV o.x.toNat l) h with gangFeed := r, vstart := 0 })

/-- `vstrm vd, sh` (09 R231, R232; 11 R292). -/
def execVstrm (o : VMOps) (s : State) : Res :=
  streamEnter s o 0 fun s p j h =>
    if !s.me.gangFeed.isEmpty || (s.me.gang.isSome && s.me.gangLead != s.cur) then
      caughtUp s false fun s => streamFeed s o p h
    else
      match streamLater s p j h (streamActive s.me p h o.mask.toNat) false
          (fun t q => .toElement q o.x.toNat t (ewBytes s.me)) with
      | some r => r
      | none => caughtUp s false fun s => streamLoad s o p j h

/-- A stream store performed in its own step (09 R231; 11 R292). -/
def streamStore (s : State) (o : VMOps) (p : Strip) (j h : Nat) : Res :=
  let x := s.me
  let b := ewBytes x
  let c := Tab.get 0 x.cursors h
  let addr (t : Nat) := streamAddr p j (c + t)
  let chk := streamCheck s p j h true
  let pl := plan x (streamActive x p h o.mask.toNat) chk trimNone
  let w := pl.1.filterMap fun t =>
    match chk t with
    | .ok q => some (q, Tab.bytes (x.vreg o.x.toNat) (b * t) b)
    | .error _ => none
  let s := writeOwn (streamTouch s p h .store addr pl) w
  streamEnd (streamValid s p h pl.1) h addr pl.2

/-- `vstrmx vs, sh` (09 R231; 11 R292). -/
def execVstrmx (o : VMOps) (s : State) : Res :=
  streamEnter s o 1 fun s p j h =>
    let x := s.me
    let b := ewBytes x
    match streamLater s p j h (streamActive x p h o.mask.toNat) true
        (fun t q => .store q (Tab.bytes (x.vreg o.x.toNat) (b * t) b)) with
    | some r => r
    | none => caughtUp s true fun s => streamStore s o p j h

/-! Tethers. -/

/-- The tether handle `t` of the hart's core (03 R76). -/
def tetherAt (s : State) (h t : Nat) : Option Tether := Tab.get none (s.core (coreOf h)).tethers t

/-- Replaces a tether handle. -/
def setTether (s : State) (h t : Nat) (v : Option Tether) : State :=
  let c := s.core (coreOf h)
  s.setCore (coreOf h) { c with tethers := Tab.set none t v c.tethers }

/-- Hart `h` owns tether handle `t` (03 R76). -/
def ownsTether (s : State) (h t : Nat) : Bool :=
  match tetherAt s h t with
  | some e => e.owner == h
  | none => false

/-- `topen sd, tN, sa` (09 R233, R234). -/
def execTopen (d a : Reg) (t : BitVec 3) (s : State) : Res :=
  unchained s fun s =>
    let sa := s.me.readS a
    match tetherRow s (s.agent s.cur) sa.toNat with
    | .error c => .next (trap s c sa)
    | .ok row =>
      let s := touch s (s.agent s.cur) .load sa.toNat
      let put (s : State) (v : Nat) : Res := .next (finishWith s fun x => x.writeS d (BitVec.ofNat 64 v))
      if (tetherAt s s.cur t.toNat).isSome && !ownsTether s s.cur t.toNat then put s 2
      else
        let free := setTether s s.cur t.toNat none
        let st := rowStatus s.plate (heldRows free) row
        if st = 0 then put (setTether free s.cur t.toNat (some ⟨s.cur, (sa >>> 10) <<< 10, row, .held⟩)) 0
        else put s st

/-- Releases a tether handle that hart `h` owns (09 R238). -/
def releaseTether (s : State) (h t : Nat) : State := if ownsTether s h t then setTether s h t none else s

/-- `trel tN` (09 R238). -/
def execTrel (t : BitVec 3) (s : State) : Res :=
  unchained s fun s => .next (finish (releaseTether s s.cur t.toNat))

/-- The code of a tether state (09 R238). -/
def tetherCode (t : TetherState) : Word :=
  match t with
  | .held => 1
  | .reopening => 2
  | .dropped => 3

/-- What `tstat` reads of tether handle `t`: 0 where hart `h` does not own it (09 R238). -/
def tstatWord (s : State) (h t : Nat) : Word :=
  match tetherAt s h t with
  | some e => if e.owner = h then (e.va >>> 10) <<< 10 ||| tetherCode e.st else 0
  | none => 0

/-- `tstat sd, tN` (09 R238). -/
def execTstat (d : Reg) (t : BitVec 3) (s : State) : Res :=
  unchained s fun s => .next (finishWith s fun x => x.writeS d (tstatWord s s.cur t.toNat))

/-- Changes the state of every tether on a row that is in state `f` (09 R235). -/
def changeTethers (s : State) (row : Nat) (f g : TetherState) : State :=
  { s with cores := s.cores.map fun c => (c.1, { c.2 with tethers := c.2.tethers.map fun e =>
      (e.1, e.2.map fun t => if t.row = row ∧ t.st = f then { t with st := g } else t) }) }

/-- A refresh closes a held row (09 R235; 17 R440). -/
def execRefreshCloseRow (row : Nat) (s : State) : Res := .next (changeTethers s row .held .reopening)

/-- The row is open again (09 R235). -/
def execTetherReopened (row : Nat) (s : State) : Res := .next (changeTethers s row .reopening .held)

/-- The granules of the format windows whose first raw byte lies in a row, in ascending raw address: raw address, window
and granule number (09 R236). -/
def rowGranules (s : State) (row : Nat) : List (Nat × Window × Nat) :=
  let l := s.windows.flatMap fun w =>
    if w.2.format ≠ 1 then []
    else
      let r := w.2.raw.toNat
      let first := (row - r + 55) / 56
      ((List.range 19).map fun i => (r + 56 * (first + i), w.2, first + i)).filter fun g =>
        decide (row ≤ g.1) && decide (g.1 < row + 1024) && decide (g.2.2 < w.2.ngran.toNat)
  (sortAsc (l.map (·.1))).filterMap fun a => l.find? fun g => decide (g.1 = a)

/-- The row meets the raw region of a format window (09 R236). -/
def rowDecodes (s : State) (row : Nat) : Bool := (rawWindow s row (row + 1024)).isSome

/-- The span of a row (09 R236). -/
def rowSpan (s : State) (row : Nat) : Nat := if rowDecodes s row then 64 * (rowGranules s row).length else 1024

/-- The decoded window address of offset `o` of a row that decodes (09 R236). -/
def rowDecoded (s : State) (row o : Nat) : Option (Nat × Window × Nat) :=
  ((rowGranules s row)[o / 64]?).map fun g => (g.2.1.dec.toNat + 64 * g.2.2 + o % 64, g.2)

/-- The offset of element `t` of `vldt` (09 R236). -/
def tetherOffset (x : Hart) (o : VMOps) (t : Nat) : Nat := unitAddr x o t

/-- The row that a tether reads: the row it recorded, or the DRAM row that a dropped tether's address translates to now; none
where that address no longer lies in DRAM, and each byte is then one at its own virtual address (09 R237; log 28). -/
def rowOfTether (s : State) (e : Tether) : Option Nat :=
  if e.st = .dropped then
    match resolve s (s.agent s.cur) .load e.va.toNat with
    | .ok ⟨.ram l, _⟩ => some (l / 1024 * 1024)
    | _ => none
  else some e.row

/-- The span of the row that a tether reads (09 R236). -/
def tetherSpan (s : State) (e : Tether) : Nat :=
  match rowOfTether s e with
  | some row => rowSpan s row
  | none => 1024

/-- The decoded window address of offset `o` of a tether's row, where the row decodes (09 R236). -/
def tetherDecoded (s : State) (e : Tether) (o : Nat) : Option Nat :=
  match rowOfTether s e with
  | some row => if rowDecodes s row ∧ o < rowSpan s row then (rowDecoded s row o).map (·.1) else none
  | none => none

/-- The home address of offset `o`, or the row's virtual address plus `o` beyond the span (09 R236). -/
def tetherHome (s : State) (e : Tether) (o : Nat) : Nat := (tetherDecoded s e o).getD (wrap (e.va.toNat + o : Nat))

/-- A place that `vldt` reads, unless it is poisoned or its stack is not ready (09 R236; 12 R317; 17 R440). -/
def soundPlace (s : State) (p : Place) (b : Nat) : Except Nat Resolved :=
  if !placeReady s (s.agent s.cur).core p b then .error stackHeld
  else
    match poisonCause s p b with
    | some c => .error c
    | none => .ok ⟨p, .pma⟩

/-- The address of a dropped tether is looked up in a stack that is not ready (17 R440). -/
def rowWaits (s : State) (e : Tether) : Bool :=
  e.st == .dropped && match resolve s (s.agent s.cur) .load e.va.toNat with | .error c => c == stackHeld | .ok _ => false

/-- The problems of one element of `vldt` (09 R236, R237). Through a dropped tether a decoded byte is decoded from the row that
the tether's address translates to now (log 28). -/
def tetherCheck (s : State) (e : Tether) (b o : Nat) : Except Nat Resolved :=
  if o % b ≠ 0 then .error 0x04
  else if rowWaits s e then .error stackHeld
  else if tetherSpan s e ≤ o then .error 0x09
  else
    match tetherDecoded s e o, e.st with
    | some a, _ => soundPlace s (.derived a) b
    | none, .dropped => check s (s.agent s.cur) .load (wrap (e.va.toNat + o : Nat)) b
    | none, _ => soundPlace s (.ram (e.row + o)) b

/-- Fills of decoded granules that `vldt` reads (12 R317). -/
def tetherFills (s : State) (e : Tether) (l : List Nat) : State :=
  (l.filterMap (tetherDecoded s e)).foldl noteFill s

/-- `vldt.T vd, tN, sa, off` (09 R236, R237). -/
def execVldt (o : VMOps) (s : State) : Res :=
  vmEnter s o [o.x] (vmWidth s.me o) fun s =>
    let n := o.sub.toNat % 8
    match tetherAt s s.cur n with
    | none => .next (trap s 0x16 (BitVec.ofNat 64 n))
    | some e =>
      if e.owner ≠ s.cur then .next (trap s 0x16 (BitVec.ofNat 64 n))
      else if e.st = .reopening then .next (waitAt s .tether 0)
      else
        let s := awake s
        let x := s.me
        let b := ewBytes x
        let off := tetherOffset x o
        let chk (t : Nat) := tetherCheck s e b (off t)
        let p := plan x (active x o.mask.toNat) chk trimScratch
        let home (t : Nat) := tetherHome s e (off t)
        let stop := match p.2 with | .complete => [] | .trimmed f => [f] | .trapped f _ => [f]
        let filled (s : State) : State := tetherFills s e ((p.1 ++ stop).map off)
        let queued := if vectorLags s && p.2 == .complete then queuedElements chk (fun t p => .toElement p o.x.toNat t b) p.1 else none
        match queued.filter (mayQueue s) with
        | some q => endAccess (enqueueAll (freshAccess (filled s) true) q) p.2 home
        | none =>
          caughtUp s false fun s =>
            let r := readElements (filled s) b chk p.1
            let tile := r.1.foldl (fun m e => Tab.putBytes m (b * e.1) e.2) (s.me.vreg o.x.toNat)
            endAccess (r.2.setMe ((r.2.me.setVreg o.x.toNat tile).cleanV o.x.toNat p.1)) p.2 home

end Sys2Proof.Machine
end

