-- ==== Sys2Proof/Machine/Spool.lean ====
section
/-! DEFINITION. The spool instructions and the spool's own steps (10 R254 to R266; 14 R362 to R364). -/

namespace Sys2Proof.Machine

/-- A spool instruction that traps leaves the queue of its spool (14 R347); one that waits for a stack keeps its place there (17
R440; 14 R362). -/
def spoolTrap (s : State) (c : Nat) (eval : Word) : Res :=
  if c = stackHeld then .next (waitAt s .stack 0) else .next (trap (awake (withdraw s s.cur)) c eval)

/-- `n` bytes from `va` in naturally aligned words of `w` bytes, each checked as 10 R242 gives; the places in order, or
the first problem and its address. -/
def wordPlaces (s : State) (a : Agent) (k : Access) (w va : Nat) : Nat → Except (Nat × Nat) (List Place)
  | 0 => .ok []
  | n + 1 =>
    match checkIn s a k true va w with
    | .error c => .error (c, va)
    | .ok q =>
      match wordPlaces s a k w ((va + w) % 2 ^ 64) n with
      | .error e => .error e
      | .ok l => .ok (q.place :: l)

/-- Words of `w` bytes from `va`, whose places are `l`, are used: translations are cached, stash lines filled, the lines of a
decoded word filled and lines tagged (15 R381; 07 R194; 12 R317; 02 R65). -/
def useWords (s : State) (k : Access) (w va : Nat) (l : List Place) : State :=
  (List.zip (List.range l.length) l).foldl (fun s e =>
    let s := touch s (s.agent s.cur) k (wrap ((va + w * e.1 : Nat) : Int))
    tagAt (if k = .load then noteRead s (.ok ⟨e.2, .pma⟩) else s) s.me e.2) s

/-- The fill that the word behind a problem of `wordPlaces` makes (12 R317). -/
def noteProblem (s : State) (e : Nat × Nat) : State := noteRead s (resolve s (s.agent s.cur) .load e.2)

/-- Bytes at a list of words. -/
def readWords (s : State) (l : List Place) (w : Nat) : List Byte := l.flatMap fun p => readPlace s p w

/-- Writes bytes over a list of words. -/
def writeWords (s : State) (l : List Place) (w : Nat) (b : List Byte) : State :=
  (List.zip (List.range l.length) l).foldl (fun s e => storePlace s e.2 (slice b (w * e.1) w)) s

/-- The control block behind a QCB address (10 R258 item 2): never in a window, never a hub spool's. -/
def spoolAddress (s : State) (va : Nat) : Except Nat Nat :=
  let a := s.agent s.cur
  match checkIn s a .store true va 64 with
  | .error c => .error c
  | .ok r =>
    match windowOf s a va, r.place with
    | .no, .ram q =>
      if q = s.hub.tivqcb.toNat ∨ q = s.hub.faultqcb.toNat ∨ q = s.hub.watchqcb.toNat then .error 0x08
      else .ok q
    | _, _ => .error 0x08

/-- Items 2 to 4 of 10 R258: the block, or the trap; `s` gains the poisoning of item 3. A block that a soft error has poisoned takes
0x14 (16 R420). -/
def spoolBlock (s : State) (va : Nat) : Except (Nat × State) Nat :=
  match spoolAddress s va with
  | .error c => .error (c, s)
  | .ok q =>
    let s := touch s (s.agent s.cur) .store va
    if qcbSpoiled s q then .error (0x14, s)
    else if !qcbOk (qcbRead s q) then .error (0x0D, qcbPoison s q)
    else if qOwner (qcbRead s q) ≠ s.me.asid then .error (0x08, s)
    else .ok q

/-- An earlier request of the same kind waits at the spool (10 R259, R262). -/
def behindOthers (s : State) (q : Nat) (taking : Bool) : Bool :=
  match s.requests.find? fun r => decide (r.loc = q) && r.taking == taking && r.count != 0 with
  | some r => r.hart != s.cur
  | none => false

/-- The hart waits at the spool, in its order of arrival (10 R259). -/
def spoolWait (s : State) (q : Nat) (taking : Bool) (n : Nat) (va : Word) : Res :=
  let s := if s.requests.any fun r => r.hart == s.cur then s
    else { s with requests := s.requests ++ [⟨q, s.cur, taking, n⟩] }
  .next (waitAt s (.spool q) va)

/-- The address of slot `i` (10 R254). -/
def slotVa (b : List Byte) (i : Nat) : Nat := wrap ((qBase b + i % qCap b * qEsize b : Nat) : Int)

/-- The words of slot `i` through the hart's translation; a word in a window counts as not present (10 R254, R261). -/
def slotPlaces (s : State) (b : List Byte) (k : Access) (i : Nat) : Except Nat (List Place) :=
  let a := s.agent s.cur
  (List.range (qEsize b / 4)).foldr (fun j r =>
    let va := wrap ((slotVa b i + 4 * j : Nat) : Int)
    match windowOf s a va, checkIn s a k true va 4 with
    | .no, .error c => .error c
    | .no, .ok q => r.map (q.place :: ·)
    | _, _ => .error 0x06) (.ok [])

/-- Writes elements into slots from index `i` (10 R259): all of them, or the first slot that cannot be written. -/
def writeSlots (s : State) (b : List Byte) : Nat → List (List Byte) → State × Option Nat
  | _, [] => (s, none)
  | i, e :: r =>
    match slotPlaces s b .store i with
    | .error _ => (s, some (slotVa b i))
    | .ok l =>
      writeSlots (writeWords (useWords s .store 4 (slotVa b i) l) l 4 e) b (i + 1) r

/-- Reads `n` slots from index `i` (10 R259): their bytes, or the problem of the first that cannot be read. -/
def readSlots (s : State) (b : List Byte) (i : Nat) : Nat → Except (Nat × Nat) (List (List Byte))
  | 0 => .ok []
  | n + 1 =>
    match slotPlaces s b .load i with
    | .error c => .error (c, slotVa b i)
    | .ok l =>
      match readSlots s b (i + 1) n with
      | .error e => .error e
      | .ok r => .ok (readWords s l 4 :: r)

/-- The `n` slots from index `i` have been read. -/
def useSlots (s : State) (b : List Byte) (i n : Nat) : State :=
  (List.range n).foldl (fun s k =>
    match slotPlaces s b .load (i + k) with
    | .ok l => useWords s .load 4 (slotVa b (i + k)) l
    | .error _ => s) s

/-- The block with `n` slots reserved (10 R259). -/
def reserved (b : List Byte) (n : Nat) : List Byte :=
  setField (setField (setField b 8 8 (qTail b + n)) 24 4 (qFree b - n)) 28 4 (qResvd b + n)

/-- Reserves, writes and commits elements as one operation (10 R259, R261, R266); the index of the first, or the slot
that could not be written, the reservation standing in the poisoned block. -/
def enqueue (s : State) (q : Nat) (l : List (List Byte)) : State × Except Nat Nat :=
  let b := qcbRead s q
  let n := l.length
  let i := qTail b
  let w := writeSlots (qcbWrite s q (reserved b n)) b i l
  match w.2 with
  | some va => (qcbPoison w.1 q, .error va)
  | none => (commitSlots w.1 q n, .ok i)

/-- Takes `n` elements and reads them (10 R259, R261): a slot that cannot be read leaves the taking in the block,
poisoned unless its bytes are. -/
def dequeue (s : State) (q n : Nat) : State × Except (Nat × Nat) (List (List Byte)) :=
  let b := qcbRead s q
  let s := qcbWrite s q (setField b 0 8 (qHead b + n))
  match readSlots s b (qHead b) n with
  | .error (c, va) => if c = 0x14 ∨ c = 0x0B then (s, .error (c, va)) else (qcbPoison s q, .error (0x0D, va))
  | .ok l => (freeTaken (useSlots s b (qHead b) n) q n, .ok l)

/-- One of `n` slots from index `i` lies in a stack that is not ready, for which the hart waits (17 R440, R448). -/
def slotsHeld (s : State) (q : Nat) (k : Access) (i n : Nat) : Bool :=
  (List.range n).any fun j =>
    match slotPlaces s (qcbRead s q) k (i + j) with
    | .error c => c == stackHeld
    | .ok _ => false

/-- The condition of a reservation of `n` slots (10 R259). -/
def canReserve (s : State) (q n : Nat) : Bool := decide ((n : Int) ≤ qRoom (qcbRead s q)) && !behindOthers s q false

/-- The condition of a taking of `n` elements: TAIL covers them and they are committed, none of them by a commit that waits in
a queue (10 R259). -/
def canTake (s : State) (q n : Nat) : Bool :=
  let b := qcbRead s q
  let late := lateCommits s q
  decide (n + (qResvd b - (late.map (·.2)).foldl (· + ·) 0) ≤ qFill b)
    && late.all (fun e => decide (qHead b + n ≤ e.1) || decide (e.1 + e.2 ≤ qHead b)) && !behindOthers s q true

/-- The request has ended: the hart leaves the queue and runs. -/
def served (s : State) : State := awake (withdraw s s.cur)

/-! Scalar forms. -/

/-- The element that `enq` writes, or the trap at sz (10 R258 item 6, R259). -/
def enqElement (s : State) (q : Nat) (v z : Reg) : Except (Nat × Nat) (List Byte) :=
  let n := qEsize (qcbRead s q)
  if n ≤ 8 then .ok (leBytes n (s.me.readS v).toNat)
  else
    let va := (s.me.readS z).toNat
    match wordPlaces s (s.agent s.cur) .load 4 va (n / 4) with
    | .error e => .error e
    | .ok l => .ok (readWords s l 4)

/-- Where `deq` writes an element in memory, or the trap at sz (10 R258 item 6). -/
def deqPlaces (s : State) (q : Nat) (z : Reg) : Except (Nat × Nat) (List Place) :=
  let n := qEsize (qcbRead s q)
  if n ≤ 8 then .ok [] else wordPlaces s (s.agent s.cur) .store 4 (s.me.readS z).toNat (n / 4)

/-- The bytes at sz, where the element lies in memory, are used (07 R194; 02 R65). -/
def elementUsed (s : State) (k : Access) (q : Nat) (z : Reg) : State :=
  let n := qEsize (qcbRead s q)
  let va := (s.me.readS z).toNat
  if n ≤ 8 then s
  else
    match wordPlaces s (s.agent s.cur) k 4 va (n / 4) with
    | .error _ => s
    | .ok l => useWords s k 4 va l

/-- The outcome of `enq` and `enqt` on a checked spool. -/
def enqRun (s : State) (q : Nat) (v z : Reg) (wait : State → Res) (done : Hart → Hart) : Res :=
  match enqElement s q v z with
  | .error e => spoolTrap (noteProblem s e) e.1 (BitVec.ofNat 64 e.2)
  | .ok e =>
    if !canReserve s q 1 then wait s
    else if slotsHeld s q .store (qTail (qcbRead s q)) 1 then .next (waitAt s .stack 0)
    else
      let r := enqueue (elementUsed s .load q z) q [e]
      match r.2 with
      | .error va => spoolTrap r.1 0x0D (BitVec.ofNat 64 va)
      | .ok _ => .next (finishWith (served r.1) done)

/-- The outcome of `deq` and `deqt` on a checked spool. -/
def deqRun (s : State) (q : Nat) (d z : Reg) (wait : State → Res) (done : Hart → Hart) : Res :=
  match deqPlaces s q z with
  | .error e => spoolTrap s e.1 (BitVec.ofNat 64 e.2)
  | .ok l =>
    if !canTake s q 1 then wait s
    else if slotsHeld s q .load (qHead (qcbRead s q)) 1 then .next (waitAt s .stack 0)
    else
      let small := decide (qEsize (qcbRead s q) ≤ 8)
      let r := dequeue (elementUsed s .store q z) q 1
      match r.2 with
      | .error (c, va) => spoolTrap r.1 c (BitVec.ofNat 64 va)
      | .ok e =>
        let b := e.headD []
        if small then .next (finishWith (served r.1) fun x => done (x.writeS d (leWord b)))
        else .next (finishWith (served (writeWords r.1 l 4 b)) done)

/-- Items 2 to 4 of 10 R258 for the executing hart, then `k` on the block. -/
def spoolEnter (s : State) (a : Reg) (k : State → Nat → Res) : Res :=
  let va := s.me.readS a
  match spoolBlock s va.toNat with
  | .error (c, s) => spoolTrap s c va
  | .ok q => k (touch s (s.agent s.cur) .store va.toNat) q

/-- `enq sv, sa, sz, c` (10 R258 to R261). -/
def execEnq (v a z : Reg) (_code : BitVec 4) (s : State) : Res :=
  unchained s fun s => spoolEnter s a fun s q => enqRun s q v z (fun s => spoolWait s q false 1 (s.me.readS a)) id

/-- `deq sd, sa, sz, c` (10 R258 to R261). -/
def execDeq (d a z : Reg) (_code : BitVec 4) (s : State) : Res :=
  unchained s fun s => spoolEnter s a fun s q => deqRun s q d z (fun s => spoolWait s q true 1 (s.me.readS a)) id

/-- Predicate `j` of the hart (03 R73). -/
def setPred (x : Hart) (j : BitVec 3) (v : Bool) : Hart :=
  { x with pred := if v then x.pred ||| BitVec.ofNat 8 (2 ^ j.toNat) else x.pred &&& ~~~(BitVec.ofNat 8 (2 ^ j.toNat)) }

/-- A try form in user mode needs TRYQ (10 R258 item 1; 15 R384). -/
def tryAllowed (s : State) : Bool := s.me.mode == .system || (s.context s.me.asid).tryq

/-- `enqt sv, sa, sz, pj` (10 R262). -/
def execEnqt (v a z : Reg) (p : BitVec 3) (s : State) : Res :=
  unchained s fun s =>
    if !tryAllowed s then .next (illegal s)
    else spoolEnter s a fun s q =>
      enqRun s q v z (fun s => .next (finishWith s fun x => setPred x p false)) fun x => setPred x p true

/-- `deqt sd, sa, sz, pj` (10 R262). -/
def execDeqt (d a z : Reg) (p : BitVec 3) (s : State) : Res :=
  unchained s fun s =>
    if !tryAllowed s then .next (illegal s)
    else spoolEnter s a fun s q =>
      deqRun s q d z (fun s => .next (finishWith s fun x => setPred x p false)) fun x => setPred x p true

/-! Vector forms. -/

/-- Items 1 to 5 of 10 R258 for a vector form: the active elements and the block. -/
def vspoolEnter (s : State) (v a : Reg) (m : BitVec 3) (k : State → Nat → List Nat → Res) : Res :=
  if !vregsOk s.me [v] then .next (vconfTrap s)
  else
    unchained s fun s => spoolEnter s a fun s q =>
      let l := active s.me m.toNat
      let b := qcbRead s q
      if qEsize b ≠ ewBytes s.me ∨ qCap b < l.length then spoolTrap s 0x18 (trapPc s.me)
      else if l.isEmpty then .next (finishWith (served s) fun x => { x with vstart := 0 })
      else k s q l

/-- The place of each of `n` slots from index `i`, a run of bytes that one access moves, where each may wait in the vector
queue (13 R323). -/
def slotRuns (s : State) (q : Nat) (k : Access) (i n : Nat) : Option (List Place) :=
  let b := qcbRead s q
  (List.range n).mapM fun j =>
    match slotPlaces s b k (i + j) with
    | .ok (p :: r) =>
      if r.all (fun o => decide (o = .ram (p.loc + 4))) then queueable (.ok ⟨p, .pma⟩) else none
    | _ => none

/-- `venq` performed in its own step. -/
def venqNow (s : State) (q : Nat) (e : List (List Byte)) : Res :=
  let r := enqueue s q e
  match r.2 with
  | .error va => spoolTrap r.1 0x0D (BitVec.ofNat 64 va)
  | .ok _ => .next (finishWith (served r.1) fun x => { x with vstart := 0 })

/-- The accesses of `venq` to slots at some places, and their commit, where they may wait in the vector queue (13 R323, R324). -/
def venqQueue (s : State) (q i : Nat) (e : List (List Byte)) : Option (List (List Pending)) :=
  if !vectorLags s then none
  else
    ((slotRuns s q .store i e.length).map fun r =>
      (List.zipWith (fun p e => [Pending.store p e]) r e) ++ [[.commit q i e.length]]).filter (mayQueue s)

/-- `venq vs, sa, mN, c` (10 R258 to R261): the slots are reserved in its step, and its elements and their commit are accesses
of the vector stream of their own (13 R323). -/
def execVenq (v a : Reg) (m : BitVec 3) (_code : BitVec 4) (s : State) : Res :=
  vspoolEnter s v a m fun s q l =>
    let n := l.length
    let b := qcbRead s q
    let i := qTail b
    if !canReserve s q n then spoolWait s q false n (s.me.readS a)
    else if slotsHeld s q .store i n then .next (waitAt s .stack 0)
    else
      let e := l.map fun t => Tab.bytes (s.me.vreg v.toNat) (ewBytes s.me * t) (ewBytes s.me)
      match venqQueue s q i e with
      | none => caughtUp s true fun s => venqNow s q e
      | some r =>
        let s := (List.range n).foldl (fun s k =>
          match slotPlaces s b .store (i + k) with
          | .ok p => useWords s .store 4 (slotVa b (i + k)) p
          | .error _ => s) (qcbWrite s q (reserved b n))
        let s := enqueueAll s r
        .next (finishWith (served s) fun x => { x with vstart := 0 })

/-- `vdeq` performed in its own step. -/
def vdeqNow (s : State) (q : Nat) (d : Reg) (l : List Nat) : Res :=
  let b := ewBytes s.me
  let r := dequeue s q l.length
  match r.2 with
  | .error (c, va) => spoolTrap r.1 c (BitVec.ofNat 64 va)
  | .ok e =>
    let tile := (List.zip l e).foldl (fun t p => Tab.putBytes t (b * p.1) p.2) (s.me.vreg d.toNat)
    .next (finishWith (served r.1) fun x => { (x.setVreg d.toNat tile).cleanV d.toNat l with vstart := 0 })

/-- The reads of `vdeq` at the slots from index `i` and their freeing, where they may wait in the vector queue (13 R323, R324). -/
def vdeqQueue (s : State) (q i : Nat) (d : Reg) (l : List Nat) : Option (List (List Pending)) :=
  if !vectorLags s then none
  else
    ((slotRuns s q .load i l.length).map fun r =>
      (List.zipWith (fun p t => [Pending.toElement p d.toNat t (ewBytes s.me)]) r l) ++ [[.freeSlots q l.length]]).filter
        (mayQueue s)

/-- `vdeq vd, sa, mN, c` (10 R258 to R261): the elements are taken in its step, and their reading and the freeing of their
slots are accesses of the vector stream of their own (13 R323). -/
def execVdeq (d a : Reg) (m : BitVec 3) (_code : BitVec 4) (s : State) : Res :=
  vspoolEnter s d a m fun s q l =>
    let n := l.length
    let b := qcbRead s q
    let i := qHead b
    if !canTake s q n then spoolWait s q true n (s.me.readS a)
    else if slotsHeld s q .load i n then .next (waitAt s .stack 0)
    else
      match vdeqQueue s q i d l with
      | none => caughtUp s false fun s => vdeqNow s q d l
      | some r =>
        let s := useSlots (qcbWrite s q (setField b 0 8 (i + n))) b i n
        let s := enqueueAll s r
        .next (finishWith (served s) fun x => { x with vstart := 0 })

/-! Control blocks. -/

/-- A template is valid (10 R257). -/
def templateOk (b : List Byte) : Bool :=
  decide (qLogcap b ≤ 24) && decide (qEsize b % 4 = 0) && decide (4 ≤ qEsize b) && decide (qEsize b ≤ 256)
    && decide (field b 42 2 = 0) && decide (field b 60 2 = 0) && decide (qStat b / 4 = 0)

/-- The block that `qinit` writes (10 R257). -/
def freshBlock (b : List Byte) (asid : Nat) : List Byte :=
  leBytes 8 0 ++ leBytes 8 0 ++ slice b 16 8 ++ leBytes 4 (qCap b) ++ leBytes 4 0 ++ slice b 32 1
    ++ leBytes 1 (qStat b &&& 2) ++ slice b 34 2 ++ leBytes 2 asid ++ slice b 38 4 ++ leBytes 2 0 ++ slice b 44 12
    ++ leBytes 4 0 ++ leBytes 2 0 ++ leBytes 2 0

/-- The key of the tail latch of the block at `q`; its head latch follows (17 R426). -/
def latchKey (q : Nat) : Nat := (0x20000000000 + q / 4) / 8

/-- `qinit sa, st` (10 R257, R265): the latches restart, a launch spool that the Keel has left is served again (02 R51),
and one that is being removed leaves, its HEAD being its TAIL (17 R430). -/
def execQinit (a t : Reg) (s : State) : Res :=
  unchained s fun s =>
    let va := s.me.readS a
    let st := s.me.readS t
    match spoolAddress s va.toNat with
    | .error c => .next (trap s c va)
    | .ok q =>
      match wordPlaces s (s.agent s.cur) .load 8 st.toNat 8 with
      | .error e => .next (trap (noteProblem s e) e.1 (BitVec.ofNat 64 e.2))
      | .ok l =>
        let b := readWords s l 8
        if !templateOk b then .next (trap s 0x0D va)
        else
          let s := useWords (touch s (s.agent s.cur) .store va.toNat) .load 8 st.toNat l
          let s := writeRam s q (qcbSeal (freshBlock b s.me.asid))
          let lat := Tab.set 0 (latchKey q + 1) 0 (Tab.set 0 (latchKey q) 0 s.hub.latches)
          let spools := s.keel.spools.map fun e => if e.qcb = q then { e with next := 0, stopped := false, batches := [], unread := false } else e
          let packets := s.keel.packets.map fun e => if e.qcb = q then { e with old := true } else e
          .next (finish (settleRemoval { s with
            hub := { s.hub with latches := lat }
            keel := { s.keel with spools := spools, packets := packets } } q))

/-- `qstat sd, sa` (10 R263). -/
def execQstat (d a : Reg) (s : State) : Res :=
  unchained s fun s =>
    let va := s.me.readS a
    match spoolAddress s va.toNat with
    | .error c => .next (trap s c va)
    | .ok q =>
      let s := touch s (s.agent s.cur) .store va.toNat
      if qcbSpoiled s q then .next (trap s 0x14 va)
      else if qOwner (qcbRead s q) ≠ s.me.asid then .next (trap s 0x08 va)
      else
        let s := if qcbOk (qcbRead s q) then s else qcbPoison s q
        let b := qcbRead s q
        let v : Word := flag (bitOf (qStat b) 0) <<< 63
          ||| BitVec.ofNat 64 (qFree b % 2 ^ 25 * 2 ^ 32 + qFill b % 2 ^ 25)
        .next (finishWith s fun x => x.writeS d v)

/-! Steps of the home. -/

/-- Every waiting request of one kind at a spool is examined again, in the order of arrival. -/
def examine (s : State) (q : Nat) (taking : Bool) : Res :=
  (s.requests.filter fun r => decide (r.loc = q) && r.taking == taking && r.count != 0).foldl (fun r e =>
    match r with
    | .next s =>
      match waitingInstr (s.hart e.hart) with
      | some (.enq v a z c) => asHart s e.hart (execEnq v a z c)
      | some (.deq d a z c) => asHart s e.hart (execDeq d a z c)
      | some (.venq v a m c) => asHart s e.hart (execVenq v a m c)
      | some (.vdeq d a m c) => asHart s e.hart (execVdeq d a m c)
      | _ => .next s
    | r => r) (.next s)

/-- Waiting reservations are granted in arrival order (10 R259; 14 R362). -/
def execSpoolReservationGrant (q : Nat) (s : State) : Res := examine s q false

/-- Waiting takings are granted in arrival order (10 R259; 14 R362). -/
def execSpoolTakingGrant (q : Nat) (s : State) : Res := examine s q true

/-- NDLY × 64 cycles after UNNOT rose from 0 the spool's MSI is sent, from a poisoned block too (10 R264). Bytes whose CHECK
is not theirs are no control block. -/
def execSpoolNotifyDelay (q : Nat) (s : State) : Res :=
  let b := qcbRead s q
  if !qcbSpoiled s q ∧ field b 62 2 = qcbCheck b ∧ field b 40 2 ≠ 0 ∧ qUnnot b ≠ 0 then .next (notifyNow s q) else .next s

/-- A store to a tail latch (01 R35; 10 R265; 17 R426). -/
def execDoorbellStore (pa : Nat) (v : Word) (s : State) : Res :=
  if 0x20000000000 ≤ pa ∧ pa < 0x23000000000 ∧ pa % 16 = 0 then .next (latchStore s pa v) else .next s

/-- A store to a head latch (10 R265; 17 R426). -/
def execHeadLatchStore (pa : Nat) (v : Word) (s : State) : Res :=
  if 0x20000000000 ≤ pa ∧ pa < 0x23000000000 ∧ pa % 16 = 8 then .next (latchStore s pa v) else .next s

end Sys2Proof.Machine
end

