-- ==== Sys2Proof/Machine/Keel.lean ====
section
/-! DEFINITION. The Keel: taking packets (02 R46 to R51), the Graver (11 R284 to R294), dispatch (02 R52 to R56) and the
completion of packets (02 R49, R50; 11 R299). -/

namespace Sys2Proof.Machine

/-! Records about packets. -/

/-- A fault record about a packet (16 R405, R406). -/
def packetRecord (s : State) (p : Packet) (kind cause : Nat) (eval : Word) (subject : Subject) : State :=
  pushRecord s { kind, cause, asid := p.asid, eval, spool := p.qcb, index := p.index, lspool := p.lspool, subject }

/-- The agent that a check in the spool owner's context is (02 R50; 11 R280). -/
def ownerAgent (asid : Nat) : Agent := ⟨asid, .user, none⟩

/-- `n` bytes as a load by the owner's context reads them, in pieces within a 64-byte block, or the first problem and
its address (11 R280). -/
def ownerRead (s : State) (asid : Nat) : Nat → Nat → Nat → Except (Nat × Nat) (List Byte)
  | 0, _, _ => .ok []
  | fuel + 1, va, n =>
    if n = 0 then .ok []
    else
      let m := min n (64 - va % 64)
      match resolve s (ownerAgent asid) .load va with
      | .error c => .error (c, va)
      | .ok r =>
        match poisonCause s r.place m with
        | some c => .error (c, va + ((List.range m).find? fun i => placeTaint s r.place i != .sound).getD 0)
        | none =>
          match ownerRead s asid fuel ((va + m) % 2 ^ 64) (n - m) with
          | .error e => .error e
          | .ok l => .ok (readPlace s r.place m ++ l)

/-! The kernel descriptor. -/

/-- `n` fields of `w` bytes from offset `o`, each two's complement. -/
def signedFields (b : List Byte) (o w n : Nat) : List Int := (List.range n).map fun i => signed (8 * w) (field b (o + w * i) w)

/-- A stencil, none where it breaks 11 R279 or R280. -/
def readStencil (b : List Byte) : Option Stencil :=
  let a := field b 0 1
  let e := field b 2 2
  if a = 0 then (if field b 0 128 = 0 then some ⟨0, false, 1, [], [], []⟩ else none)
  else if 3 < a ∨ 1 < field b 1 1 ∨ ¬(e = 1 ∨ e = 2 ∨ e = 4 ∨ e = 8) ∨ field b 4 4 ≠ 0 ∨ field b 104 24 ≠ 0 then none
  else some ⟨a, bitOf (field b 1 1) 0, e, signedFields b 8 2 16, signedFields b 40 8 4, signedFields b 72 8 4⟩

/-- A kernel descriptor, none where it breaks 11 R277 to R280. -/
def readDescriptor (b : List Byte) : Option Descriptor :=
  let dims := (List.range 4).map fun d => field b (16 + 8 * d) 8
  let st := (List.range 8).map fun j => readStencil (slice b (64 + 128 * j) 128)
  if field b 0 8 % 2 = 1 ∨ field b 8 4 = 0 ∨ 65536 < field b 8 4 ∨ field b 12 1 = 0 ∨ 4 < field b 12 1
      ∨ 3 < field b 13 1 ∨ field b 14 2 ≠ 0 ∨ 524288 < field b 48 4 ∨ field b 52 12 ≠ 0 then none
  else if dims.any (· == 0) || (dims.drop (field b 12 1)).any (· != 1) || st.any (·.isNone) then none
  else some {
    entry := BitVec.ofNat 64 (field b 0 8)
    strip := field b 8 4
    ndim := field b 12 1
    notask := bitOf (field b 13 1) 1
    carry := bitOf (field b 13 1) 0
    dims := dims
    spuse := field b 48 4
    stencils := st.filterMap id }

/-- A packet before its descriptor has been read. -/
def noDescriptor : Descriptor := ⟨0, 1, 1, false, false, [], 0, []⟩

/-- Strips, hart groups and elements of a launch (02 R42). -/
def Packet.elements (p : Packet) : Nat := p.groupSize * p.ext 2 * p.ext 3 * p.ext 4 * p.ext 5

/-- The header of a packet passes the checks of 02 R40, R46, R48 and 11 R280 that need the descriptor's fields. -/
def headerOk (s : State) (p : Packet) : Bool :=
  let w := (List.range 6).map p.width
  let n := (List.range 6).map p.ext
  let h := (List.range 8).map p.handle
  let declared (j : Nat) : Bool := p.slots.contains j
  w.all (fun v => decide (v ≤ 64)) && decide (w.foldl (· + ·) 0 ≤ 64)
    && (List.zip n w).all (fun e => decide (e.1 ≤ 2 ^ e.2))
    && decide (p.ext 0 ≤ p.desc.strip) && decide (p.desc.strip ≤ 2 ^ p.width 0) && decide (p.ext 2 ≤ 8)
    && decide (p.ext 4 ≤ (s.plate.clusters.filter fun c => decide (p.ext 3 ≤ c.2.2)).length)
    && decide (p.flags < 16) && decide (field p.bytes 23 1 = 0) && decide (field p.bytes 24 2 < 4096)
    && decide (field p.bytes 26 6 = 0) && decide (field p.bytes 120 1 < 2) && decide (field p.bytes 121 7 = 0)
    && h.all (fun v => decide (v < 64) || v == 255)
    && (List.range 8).all (fun j => declared j == (p.handle j != 255))
    && decide ((distinct (p.slots.map p.handle)).length = p.slots.length)
    && decide (p.descVa % 64 = 0)
    && decide (p.dim 0 * p.dim 1 * p.dim 2 * p.dim 3 = p.elements)

/-! The words of a packet. -/

/-- STADDR (02 R46). -/
def Packet.statusVa (p : Packet) : Nat := field p.bytes 112 8
/-- SIGADDR (02 R46). -/
def Packet.signalVa (p : Packet) : Nat := field p.bytes 88 8
/-- Bytes of the signal word (02 R46). -/
def Packet.signalSize (p : Packet) : Nat := if bitOf (field p.bytes 120 1) 0 then 8 else 4
/-- The slot holds STADDR, SIGADDR, SIGMASK, SIGVAL and SIGCTL in full (10 R270). -/
def Packet.hasWords (p : Packet) : Bool := decide (121 ≤ p.bytes.length)

/-- The status word's place, or the problem of a store by the owner's context there (02 R50). -/
def statusPlace (s : State) (p : Packet) : Except (Nat × Nat) (Option Place) :=
  if !p.hasWords || p.statusVa == 0 then .ok none
  else
    match check s (ownerAgent p.asid) .store p.statusVa 4 with
    | .error c => .error (c, p.statusVa)
    | .ok r => .ok (some r.place)

/-- The signal word's place, or the problem of a store by the owner's context there (02 R50). -/
def signalPlace (s : State) (p : Packet) : Except (Nat × Nat) (Option Place) :=
  if !p.hasWords then .ok none
  else
    match check s (ownerAgent p.asid) .store p.signalVa p.signalSize with
    | .error c => .error (c, p.signalVa)
    | .ok r => .ok (some r.place)

/-- The first of a packet's words that is not writable (02 R50): of two that are not, the status word is named, whose
address R50 does not put before the other's (the model's choice: log 73). -/
def wordProblem (s : State) (p : Packet) : Option (Nat × Nat) :=
  match statusPlace s p, signalPlace s p with
  | .error e, _ => some e
  | _, .error e => some e
  | _, _ => none

/-- Writes the status word where it can be written (02 R49). -/
def writeStatus (s : State) (p : Packet) (v : Nat) : State :=
  match statusPlace s p with
  | .ok (some q) => agentStore s q (leBytes 4 v)
  | _ => s

/-- Updates the signal word where it can be written: (word AND NOT SIGMASK) OR (SIGVAL AND SIGMASK), as one atomic
operation (02 R49). A poisoned word stays poisoned and is reported by a KIND 6 record (16 R420). -/
def writeSignal (s : State) (p : Packet) : State :=
  match signalPlace s p with
  | .ok (some q) =>
    let n := p.signalSize
    let m := 2 ^ (8 * n)
    let mask := field p.bytes 96 8 % m
    let old := leNat (readPlace s q n)
    let new := (old &&& (m - 1 - mask)) ||| (field p.bytes 104 8 &&& mask)
    let s := if taintPlace s q n = .sound then s
      else pushRecord s { kind := 6, cause := 0x14, eval := BitVec.ofNat 64 (locOf ⟨q, .pma⟩) }
    agentStore s q (leBytes n new)
  | _ => s

/-! The Graver. -/

/-- The shift of operand q of C behind operand p of P, when they compose (11 R287). -/
def composeShift (p c : Packet) (i j : Nat) : Option Nat :=
  let a := p.stencil i
  let b := c.stencil j
  let sep := decide (1 ≤ a.coeff 0) && [1, 2, 3].all fun d => decide (p.dim d ≤ 1)
    || decide ((List.range d).foldl (fun z e => z + a.coeff e * ((p.dim e : Int) - 1)) 0 + 1 ≤ a.coeff d)
  if p.handle i ≠ c.handle j ∨ p.base i ≠ c.base j ∨ a.esize ≠ b.esize ∨ a.strd ≠ b.strd ∨ a.map ≠ b.map ∨ !sep then none
  else if a.offs = b.offs then some 0
  else
    match (List.range 4).find? fun k => a.a k 0 != 0 with
    | none => none
    | some k =>
      let d := (a.offs.getD k 0 - b.offs.getD k 0) / a.a k 0
      if 0 ≤ d ∧ d ≤ (p.desc.strip : Int) ∧ p.ext 2 = 1 ∧ p.ext 3 = 1 ∧ p.ext 4 = 1 ∧ p.ext 5 = 1
          ∧ (List.range 4).all fun k => decide (b.offs.getD k 0 - a.offs.getD k 0 = -d * a.a k 0) then some d.toNat
      else none

/-- The operand pairs of P and C whose footprints overlap (11 R286), by ascending slot of P. -/
def overlaps (p c : Packet) : List (Nat × Nat) :=
  p.slots.flatMap fun i => (c.slots.filter fun j => (p.footprint i).meets (c.footprint j)).map fun j => (i, j)

/-- P and C may be spliced (11 R286); `mid` are the packets between them. -/
def maySplice (s : State) (p c : Packet) (mid : List Packet) : Bool :=
  let black := (s.context p.asid).nosplice
  p.phase == .window && c.phase == .window && p.status.isNone && c.status.isNone
    && !bitOf c.flags 0 && mid.all (fun x => !bitOf x.flags 0 && x.phase == .window && !packetEdge x c)
    && !bitOf p.flags 1 && !bitOf c.flags 1
    && !black.contains (BitVec.ofNat 64 p.descVa) && !black.contains (BitVec.ofNat 64 c.descVa)
    && p.desc.notask && c.desc.notask && !p.desc.carry && !c.desc.carry
    && decide (p.desc.strip = c.desc.strip) && decide (p.desc.dims = c.desc.dims)
    && decide (slice p.bytes 16 6 = slice c.bytes 16 6) && decide (slice p.bytes 32 48 = slice c.bytes 32 48)
    && !(overlaps p c).isEmpty
    && (overlaps p c).all fun e => bitOf (p.stencil e.1).access 1 && decide ((c.stencil e.2).access = 1)
        && (composeShift p c e.1 e.2).isSome

/-- The first later packet that C may be, after the packets `mid` behind P (11 R285). -/
def findConsumer (s : State) (p : Packet) (taken : List Nat) : List Packet → List Packet → Option Packet
  | _, [] => none
  | mid, c :: r =>
    if !taken.contains c.id && maySplice s p c mid then some c else findConsumer s p taken (mid ++ [c]) r

/-- The pairs of a window (11 R285): P with the first later C, no packet twice. -/
def findPairs (s : State) : List Nat → List Packet → List (Packet × Packet)
  | _, [] => []
  | taken, p :: r =>
    if taken.contains p.id then findPairs s taken r
    else
      match findConsumer s p taken [] r with
      | some c => (p, c) :: findPairs s (c.id :: taken) r
      | none => findPairs s taken r

/-- The intermediates of a pair that are deleted (11 R290, R291), `others` being the rest of the window. -/
def deletions (p c : Packet) (others : List Packet) : List Deleted :=
  (overlaps p c).foldl (fun l e =>
    let a := p.stencil e.1
    let h := p.handle e.1
    let sum := (l.map fun d => passBytes p.desc.strip d.esize).foldl (· + ·) 0
    let size := passBytes p.desc.strip a.esize
    let free := others.all fun x =>
      (List.range 8).all (fun j => x.handle j != h) && x.slots.all fun j => !(x.footprint j).meets (p.footprint e.1)
    if composeShift p c e.1 e.2 = some 0 ∧ a.elide ∧ (c.stencil e.2).elide ∧ a.coeff 0 = 1 ∧ free
        ∧ up128 (max p.desc.spuse c.desc.spuse) + p.ext 2 * (sum + size) ≤ 524288 then
      l ++ [⟨e.1, e.2, h, sum, a.esize⟩]
    else l) []

/-- The Keel takes nothing from a spool whose control block has failed its checks, or that a soft error has poisoned (02 R51; 16
R420). -/
def spoolBroken (s : State) (l : LaunchSpool) : Bool := qcbSpoiled s l.qcb || !qcbOk (qcbRead s l.qcb)

/-- The Keel takes no further packet from this spool now (02 R51; 11 R280; 16 R406). -/
def spoolIdle (s : State) (l : LaunchSpool) : Bool :=
  let b := qcbRead s l.qcb
  l.stopped || (!qcbSpoiled s l.qcb && (!(s.context (qOwner b)).valid || (s.context (qOwner b)).dying || decide (8 ≤ (windowPackets s l.num).length)
    || (qcbOk b && decide (qTail b - qResvd b ≤ l.next))))

/-- Packets of a batch that one tail store revealed are still to be taken, and a packet of the batch waits for them (18 R449):
behind a slot that could not be read, once the reply has come. -/
def batchHolds (s : State) (p : Packet) : Bool :=
  s.keel.spools.any fun l => decide (l.num = p.lspool) && !p.old && !spoolBroken s l && !spoolIdle s { l with stopped := false }
    && l.batches.any fun e => decide (e.1 ≤ p.index) && decide (p.index < e.2)

/-- The Graver evaluates a spool's window (11 R284): packets of one tail store together (18 R449). -/
def evaluateWindow (s : State) (num : Nat) : State :=
  let w := windowPackets s num
  let s := w.foldl (fun s p => s.mapPacket p.id fun p => { p with partner := none, producer := false, deleted := [] }) s
  (findPairs s [] (w.filter fun p => !batchHolds s p)).foldl (fun s e =>
    let others := w.filter fun x => x.id != e.1.id && x.id != e.2.id
    let d := deletions e.1 e.2 others
    (s.mapPacket e.1.id fun p => { p with partner := some e.2.id, producer := true, deleted := d }).mapPacket e.2.id
      fun c => { c with partner := some e.1.id, producer := false, deleted := [] }) s

/-- The handle of a context is elided: a dispatched pair that deletes its tensor has not completed (02 R54; 11 R294). -/
def elided (s : State) (asid h : Nat) : Bool :=
  s.keel.packets.any fun p => decide (p.asid = asid) && p.ran && packetOpen s p && p.producer
    && p.deleted.any fun d => decide (d.handle = h)

/-! The consumed index of a launch spool. -/

/-- Changes a launch spool. -/
def State.mapSpool (s : State) (num : Nat) (f : LaunchSpool → LaunchSpool) : State :=
  { s with keel := { s.keel with spools := s.keel.spools.map fun l => if l.num = num then f l else l } }

/-- HEAD passes every packet that, with every earlier one of its spool, has been dispatched or refused (14 R374); a
spool that is being removed leaves when HEAD equals TAIL (17 R430). -/
def advanceHead (s : State) (num : Nat) : State :=
  match s.keel.spools.find? fun l => decide (l.num = num) with
  | none => s
  | some l =>
    let b := qcbRead s l.qcb
    let low := ((windowPackets s num).filter fun p => !p.old).foldl (fun m p => min m p.index) l.next
    let h := max (qHead b) low
    if qcbSpoiled s l.qcb then reportSpoiled s l.qcb
    else settleRemoval
      (if qcbOk b ∧ qHead b < h then qcbWrite s l.qcb (setField (setField b 24 4 (qFree b + (h - qHead b))) 0 8 h) else s) l.qcb

/-! Taking packets. -/

/-- The spool that the Keel takes from next: the highest priority, round-robin among equals (02 R51; 14 R357). -/
def nextSpool (s : State) : Option LaunchSpool :=
  let prio (l : LaunchSpool) : Nat := (s.context (qOwner (qcbRead s l.qcb))).prio
  let dist (l : LaunchSpool) : Nat := (l.num + 4096 - Tab.get 0 s.keel.turns (prio l)) % 4096
  s.keel.spools.foldl (fun best l =>
    if spoolIdle s l then best
    else
      match best with
      | none => some l
      | some b => if prio b < prio l ∨ (prio b = prio l ∧ dist l < dist b) then some l else best) none

/-- A packet is refused: it never runs, and completes with its status (02 R48). -/
def refusePacket (s : State) (id status : Nat) : State :=
  s.mapPacket id fun p => { p with status := some status, phase := if p.hasWords then .completing else .done }

/-- The descriptor of a packet, and its stream handle table where it declares a stencil, as a load by the owner's context
reads them, or the first problem (11 R280). -/
def packetTables (s : State) (p : Packet) : Except (Nat × Nat) (List Byte × List Byte) :=
  match ownerRead s p.asid 1088 p.descVa 1088 with
  | .error e => .error e
  | .ok b =>
    if (List.range 8).any fun j => field b (64 + 128 * j) 1 != 0 then
      match ownerRead s p.asid 64 p.args.toNat 64 with
      | .error e => .error e
      | .ok t => .ok (b, t)
    else .ok (b, [])

/-- The checks of a packet need a stack that is not ready: the Keel waits (17 R440, R448). -/
def packetHeld (s : State) (p : Packet) : Bool :=
  (match wordProblem s p with | some e => e.1 == stackHeld | none => false)
    || decide (p.bytes.length = 128) && match packetTables s p with | .error e => e.1 == stackHeld | .ok _ => false

/-- Fills of derived lines made by reading `n` bytes in the owner's context (12 R317; 17 R441). -/
def ownerFills (s : State) (asid : Nat) : Nat → Nat → Nat → State
  | 0, _, _ => s
  | fuel + 1, va, n =>
    if n = 0 then s
    else
      let m := min n (64 - va % 64)
      match resolve s (ownerAgent asid) .load va with
      | .error _ => s
      | .ok r =>
        let t := jobTouch s 0 none r.place m
        if poisonCause s r.place m = none then ownerFills t asid fuel ((va + m) % 2 ^ 64) (n - m) else t

/-- The checks of a taken packet (02 R46, R48, R50; 11 R280, R294): the words, the descriptor and the handle table, then
the header. -/
def vetPacket (s : State) (id : Nat) : State :=
  match s.packet id with
  | none => s
  | some p =>
    let hold (s : State) (kind : Nat) (e : Nat × Nat) : State :=
      packetRecord (s.mapPacket id fun p => { p with phase := .held }) p kind e.1 (BitVec.ofNat 64 e.2) (.take id)
    match wordProblem s p with
    | some e => hold s 3 e
    | none =>
      if p.bytes.length ≠ 128 then refusePacket s id 0x40000
      else
        let s := ownerFills s p.asid 1088 p.descVa 1088
        match packetTables s p with
        | .error e => hold (ownerFills s p.asid 64 p.args.toNat 64) 4 e
        | .ok (b, t) =>
          let s := ownerFills s p.asid 64 p.args.toNat t.length
          match readDescriptor b with
          | none => refusePacket s id 0x40000
          | some d =>
            let q := { p with desc := d, bases := (List.range 8).map fun j => BitVec.ofNat 64 (field t (8 * j) 8) }
            if !headerOk s q then refusePacket s id 0x40000
            else s.mapPacket id fun _ => { q with phase := .window, status := if q.late then some 0x10011 else none }

/-- The packets of a spool that `jstat` still knows (10 R271): the 4 096 most recently taken, and any not completed. -/
def trimPackets (s : State) (num : Nat) : State :=
  let mine := s.keel.packets.filter fun p => decide (p.lspool = num)
  let drop := (mine.take (mine.length - 4096)).filter fun p => p.phase == .done
  { s with keel := { s.keel with packets := s.keel.packets.filter fun p => !(drop.any fun q => decide (q.id = p.id)) } }

/-- The packet that the Keel takes at a spool's next index from its control block `b` and the bytes of its element (02 R46,
R51); it is late where it names a handle that is elided (11 R294). -/
def newPacket (s : State) (l : LaunchSpool) (b bytes : List Byte) : Packet :=
  let asid := qOwner b
  let p : Packet := {
    id := s.keel.accepted + 1
    lspool := l.num
    qcb := l.qcb
    index := l.next
    asid := asid
    bytes := if qEsize b = 128 then bytes else bytes.take 127
    desc := noDescriptor
    bases := []
    phase := .window
    partner := none
    producer := false
    deleted := []
    gen := 0
    status := none
    sent := 0
    started := []
    live := 0
    tasks := 0
    pendingStatus := false
    reported := false }
  { p with late := (List.range 8).any fun j => p.handle j != 255 && elided s asid (p.handle j) }

/-- The batches of tail stores that are over: their packets are all taken, or the window has been filled (18 R449). -/
def closeBatches (s : State) (num : Nat) : State :=
  let full := decide (8 ≤ (windowPackets s num).length)
  s.mapSpool num fun l => { l with batches := if full then [] else l.batches.filter fun e => decide (l.next < e.2) }

/-- The Keel takes the packet at a spool's next index (02 R51); one that it knows already, after a restart, is passed
over (14 R374). EVAL of the record about a slot that cannot be read is the slot's address, as 11 R280 has it, where 16 R406 says the
first failing address (the model's choice: log 97). -/
def takeNext (s : State) (l : LaunchSpool) : State :=
  let b := qcbRead s l.qcb
  let asid := qOwner b
  let prio := (s.context asid).prio
  let before := s
  let s := { s with keel := { s.keel with turns := Tab.set 0 prio ((l.num + 1) % 4096) s.keel.turns } }
  if s.keel.packets.any fun p => decide (p.lspool = l.num ∧ p.index = l.next) && !p.old then
    advanceHead (closeBatches (s.mapSpool l.num fun l => { l with next := l.next + 1 }) l.num) l.num
  else if !stackReady s l.qcb then before
  else if qcbSpoiled s l.qcb then reportSpoiled (s.mapSpool l.num fun l => { l with stopped := true }) l.qcb
  else if l.unread then s.mapSpool l.num fun l => { l with next := qHead b, unread := false }
  else if !qcbOk b then
    let s := (qcbPoison s l.qcb).mapSpool l.num fun l => { l with stopped := true }
    let q := BitVec.ofNat 64 l.qcb
    pushRecord s { kind := 8, cause := 0x0D, eval := q, spool := l.qcb, lspool := l.num }
  else
    let va := wrap ((qBase b + l.next % qCap b * qEsize b : Nat) : Int)
    match ownerRead s asid (qEsize b) va (qEsize b) with
    | .error e =>
      if e.1 = stackHeld then before
      else pushRecord ((ownerFills s asid (qEsize b) va (qEsize b)).mapSpool l.num fun l => { l with stopped := true }) {
        kind := 4
        cause := e.1
        asid := asid
        eval := BitVec.ofNat 64 va
        spool := l.qcb
        index := l.next
        lspool := l.num
        subject := .slot l.num l.next }
    | .ok bytes =>
      let p := newPacket s l b bytes
      if packetHeld s p then before
      else
      let s := ownerFills s asid (qEsize b) va (qEsize b)
      let s := (trimPackets s l.num).mapSpool l.num fun l => { l with next := l.next + 1 }
      let s := dropJobReads { s with keel := { s.keel with packets := s.keel.packets ++ [p], accepted := p.id } } asid
      advanceHead (evaluateWindow (closeBatches (vetPacket s p.id) l.num) l.num) l.num

/-- The Keel runs (14 R373; 17 R448). -/
def keelReady (s : State) : Bool := s.keel.up && s.hub.ready.getLsbD 51

/-- The Keel takes a packet from launch spool `num`, when it is the one it takes from next (02 R51). -/
def execTakePacket (num : Nat) (s : State) : Res :=
  if !keelReady s then .next s
  else
    match nextSpool s with
    | some l => if l.num = num then .next (takeNext s l) else .next s
    | none => .next s

/-! Dispatch. -/

/-- The pages from `va` on, `n` of them: the first that is neither in a window nor present, with its cause: a stack on the way
of its walk that is not ready says nothing of the page yet (02 R55; 17 R440). -/
def firstAbsent (s : State) (asid : Nat) : Nat → Nat → Option (Nat × Nat)
  | 0, _ => none
  | n + 1, va =>
    let a := ownerAgent asid
    match windowOf s a va, leafFor s a .load va with
    | .no, .error c => some (va, c)
    | _, _ => firstAbsent s asid n ((va + 4096) % 2 ^ 64)

/-- The first page of a packet's result space that is not present (02 R55; 11 R288): deleted tensors have none. -/
def spaceMissing (s : State) (p : Packet) : Option (Nat × Nat) :=
  (p.writeSlots.filter fun j => !(p.deleted.any fun d => decide (d.slotP = j))).findSome? fun j =>
    (p.footprint j).ranges.findSome? fun r =>
      firstAbsent s p.asid ((r.2 - 1) / 4096 + 1 - r.1 / 4096) (r.1 / 4096 * 4096)

/-- An edge into operands of a packet, which it reads at `r` and writes at `w`, is not resolved (02 R53): from an earlier
packet of its context but `skip`, or from a job. -/
def edgeInto (s : State) (p : Packet) (skip : Nat) (r w : List Interval) : Bool :=
  s.keel.packets.any (fun x => decide (x.id < p.id) && decide (x.id ≠ skip) && decide (x.asid = p.asid) && edgeOpen x
      && edgeBetween (x.readSlots.map x.footprint) (x.writeSlots.map x.footprint) r w)
    || s.jobs.any fun j => decide (j.id < p.id) && decide (j.asid = p.asid) && edgeBetween j.reads j.writes r w

/-- An edge into operand `j` of a packet is not resolved (02 R53, R54). -/
def operandWaits (s : State) (p : Packet) (skip j : Nat) : Bool :=
  let own (b : Nat) : List Interval := if bitOf (p.stencil j).access b then [p.footprint j] else []
  edgeInto s p skip (own 0) (own 1)

/-- A packet's input lines are still to be prefetched (02 R47, R65). -/
def Packet.cold (p : Packet) : Bool := bitOf p.flags 2 && p.chain != 0 && !p.warm

/-- The states of a stream handle of a context (02 R54). -/
inductive HandleState where
  | free | bound | resident | elided
  deriving DecidableEq, Repr

/-- The state of stream handle `h` of a context (02 R54): elided, or that of the earliest packet that names it. -/
def handleState (s : State) (asid h : Nat) : HandleState :=
  if elided s asid h then .elided
  else
    match s.keel.packets.find? fun p => decide (p.asid = asid) && packetOpen s p && (slotOfHandle p h).isSome with
    | none => .free
    | some p =>
      match slotOfHandle p h with
      | none => .free
      | some j => if operandWaits s p (p.partner.getD p.id) j || p.cold then .bound else .resident

/-- The parts, in one page each, of what a packet reads, but for the handles `gone` (02 R47; 11 R282). -/
def inputParts (p : Packet) (gone : List Nat) : List (Nat × Nat) :=
  (p.readSlots.filter fun j => !gone.contains (p.handle j)).flatMap fun j =>
    (p.footprint j).ranges.flatMap fun r => pageParts r.1 (r.2 - r.1)

/-- A page of a packet's input cannot be brought in yet: its stack, or one that its walk reads, is not ready (17 R440). -/
def warmHeld (s : State) (p : Packet) (gone : List Nat) : Bool :=
  (inputParts p gone).any fun e =>
    match resolve s (ownerAgent p.asid) .load e.1 with
    | .error c => c == stackHeld
    | .ok _ => false

/-- PREFETCH: the input lines of a packet, but for those of the handles `gone`, are brought into the last-level cache before
its dispatch, where they take its chain tag (02 R47, R54, R65). A page that is not present or that is device-class has none, and the
packet is dispatched without it (R47 says nothing of such a page; the model's choice: log 89). -/
def warmPacket (s : State) (p : Packet) (gone : List Nat) : State :=
  let s := (inputParts p gone).foldl (fun s e =>
    match resolve s (ownerAgent p.asid) .load e.1 with
    | .ok r => if r.cls = .io then s else jobTouch s p.id none r.place (e.2 - e.1)
    | .error _ => s) s
  s.mapPacket p.id fun p => { p with warm := true }

/-- An edge into a packet is not resolved (02 R53). -/
def edgesWait (s : State) (p : Packet) (skip : Nat) : Bool :=
  edgeInto s p skip (p.readSlots.map p.footprint) (p.writeSlots.map p.footprint)

/-- The key of a packet's chain; 0 for none (02 R65). -/
def chainKey (p : Packet) : Nat := if p.chain = 0 then 0 else p.asid * 4096 + p.chain

/-- The chain quotas after a packet's chain has been granted its own, when it fits (02 R56). -/
def grantChain (s : State) (p : Packet) (m : SMap Nat) : Option (SMap Nat) :=
  let k := chainKey p
  if k = 0 ∨ m.any (fun e => e.1 == k) then some m
  else
    let q := (s.context p.asid).quota
    if (m.map (·.2)).foldl (· + ·) 0 + q ≤ 5898240 then some (Tab.set 0 k q m) else none

/-- The chain quotas after a dispatch (02 R55, R56). -/
def grantChains (s : State) (l : List Packet) : Option (SMap Nat) :=
  l.foldl (fun m p => m.bind fun m => grantChain s p m) (some s.keel.chains)

/-- The packets that a dispatch of `p` dispatches: itself, and its consumer (11 R288). -/
def dispatchGroup (s : State) (p : Packet) : List Packet :=
  if p.producer then p :: (p.partner.bind s.packet).toList else [p]

/-- The handles of the intermediates of a pair, which are no inputs of it (11 R288). -/
def pairHandles (s : State) (p : Packet) : List Nat :=
  if p.producer then
    match p.partner.bind s.packet with
    | some c => (overlaps p c).map fun e => p.handle e.1
    | none => []
  else []

/-- A packet of the spool, earlier than `p`, has not completed (02 R52): a refused packet has completed for a BARRIER once its
words are written (02 R48 and R49 leave the point within its completion open; the model's choice: log 74). -/
def earlierOpen (s : State) (p : Packet) : Bool :=
  s.keel.packets.any fun x => decide (x.lspool = p.lspool) && decide (x.id < p.id) && x.phase != .done

/-- The Keel dispatches the first packet of a spool's window, when nothing holds it back (02 R52 to R56; 11 R288, R294; 18
R449). A packet that is to be refused under R294 waits for no BARRIER and no edge, which R52 and R294 leave open (the model's
choice: log 72). A handle that is still bound through an earlier packet of another spool holds it only by an edge into its own
operands: R55 has every input handle resident, and R54 takes the state of a handle from the earliest packet bound to it (the model's
choice: log 90). A packet behind a unit that is gated or waking waits for it (02 R66). -/
def dispatchFirst (s : State) (p : Packet) : State :=
  let g := dispatchGroup s p
  if p.phase ≠ .window ∨ p.reported ∨ g.any (batchHolds s) then s
  else if doorbellHeld s p.qcb then wakeFor s p.qcb
  else if p.status.isSome then advanceHead (s.mapPacket p.id fun p => { p with phase := .completing }) p.lspool
  else if bitOf p.flags 0 ∧ earlierOpen s p then s
  else if g.any fun x => edgesWait s x p.id then s
  else
    match g.find? Packet.cold with
    | some x => if warmHeld s x (pairHandles s p) then s else warmPacket s x (pairHandles s p)
    | none =>
      match g.findSome? fun x => (spaceMissing s x).map fun e => (x, e) with
      | some (x, va, c) =>
        if c = stackHeld then s
        else packetRecord (s.mapPacket p.id fun p => { p with reported := true }) x 2 0x06 (BitVec.ofNat 64 va) (.space x.id)
      | none =>
        match grantChains s g with
        | none => s
        | some m =>
          let s := { s with keel := { s.keel with chains := m } }
          let s := g.foldl (fun s x => s.mapPacket x.id fun x => { x with phase := .dispatched, ran := true }) s
          advanceHead s p.lspool

/-- The scoreboard dispatches the packet at the front of launch spool `num`, or refuses or reports it (02 R52 to R56). -/
def execDispatchPacket (num : Nat) (s : State) : Res :=
  if !keelReady s then .next s
  else
    let s := evaluateWindow s num
    match windowPackets s num with
    | [] => .next s
    | p :: _ => .next (dispatchFirst s p)

/-! Completion. -/

/-- No further cluster group of a dispatched packet is placed: its job is cancelled, or its spliced loop has ended
(10 R272; 11 R296). -/
def Packet.ended (p : Packet) : Bool := decide (p.gen ≠ 0) || (p.partner.isSome && p.status.isSome)

/-- Cluster groups of a packet on a link or in a Gondola's queue (02 R57). -/
def placementsOf (s : State) (id : Nat) : Nat :=
  (s.clusters.map fun c =>
    ((placementsIn c.2.underway ++ c.2.queue).filter fun e => decide (e.packet = id)).length).foldl (· + ·) 0

/-- Every strip and task of a dispatched packet has retired and every job it started has completed (02 R49, R60). -/
def packetOver (s : State) (p : Packet) : Bool :=
  (p.ended || decide (p.sent = p.ext 4 * p.ext 5)) && decide (placementsOf s p.id = 0) && decide (p.live = 0)
    && decide (p.tasks = 0) && s.jobs.all fun j => decide (j.packet ≠ p.id) && decide (some j.packet ≠ p.partner)

/-- A retiring CHAINEND packet frees its chain's quota and tags (02 R56, R65). -/
def endChain (s : State) (p : Packet) : State :=
  let k := chainKey p
  if k = 0 ∨ !bitOf p.flags 3 ∨ !p.ran then s
  else { s with
    chainTags := s.chainTags.filter fun e => e.2 != k
    keel := { s.keel with chains := Tab.del k s.keel.chains } }

/-- A completed job needs its cancel generation no longer (02 R60). -/
def forgetStops (s : State) (id : Nat) : State :=
  { s with clusters := s.clusters.map fun e =>
      (e.1, if (Tab.get none e.2.stops id).isSome then { e.2 with stops := Tab.del id e.2.stops } else e.2) }

/-- A word of a packet lies in a stack that is not ready (17 R440). -/
def wordsHeld (s : State) (p : Packet) : Bool :=
  (match statusPlace s p with | .error e => e.1 == stackHeld | .ok _ => false)
    || match signalPlace s p with | .error e => e.1 == stackHeld | .ok _ => false

/-- The completion unit writes a packet's words: the status word, then the signal (02 R49); with `force` it skips a word
that cannot be written, else it holds the completion behind a KIND 3 record (02 R50). -/
def completeWords (s : State) (p : Packet) (force : Bool) : State :=
  if wordsHeld s p then s
  else
    match (if force then none else wordProblem s p) with
    | some e =>
      packetRecord (s.mapPacket p.id fun p => { p with pendingStatus := true }) p 3 e.1 (BitVec.ofNat 64 e.2) (.completion p.id)
    | none =>
      let v := p.status.getD 0
      let s := writeSignal (writeStatus s p v) p
      let s := s.mapPacket p.id fun p => { p with phase := .done, status := some v, pendingStatus := false }
      endChain (forgetStops (dropJobReads s p.asid) p.id) p

/-- The dispatched packets that are over become ready for their words: P's, then C's (02 R49; 11 R299). -/
def settlePacket (s : State) (id : Nat) : State :=
  match s.packet id with
  | none => s
  | some p =>
    if p.phase = .dispatched ∧ (p.partner.isNone ∨ p.producer) ∧ packetOver s p then
      (dispatchGroup s p).foldl (fun s x => s.mapPacket x.id fun x => { x with phase := .completing }) s
    else s

/-- A consumer waits for its producer's words (11 R299). -/
def behindProducer (s : State) (p : Packet) : Bool :=
  match p.partner.bind s.packet with
  | some q => !p.producer && q.phase != .done
  | none => false

/-- A packet completes: its words are written, in the order of 02 R49 and 11 R299. -/
def execPacketComplete (id : Nat) (s : State) : Res :=
  let s := settlePacket s id
  match s.packet id with
  | none => .next s
  | some p =>
    if p.phase ≠ .completing ∨ p.pendingStatus ∨ behindProducer s p then .next s
    else .next (completeWords s p false)

end Sys2Proof.Machine
end

