-- ==== Sys2Proof/Machine/Gondola.lean ====
section
/-! DEFINITION. The Gondolas: placement (02 R57, R58; 14 R358), the entry and the end of strips and tasks (02 R43 to R45,
R59; 11 R289), pre-emption and resumption (10 R273; 14 R359, R361; 16 R410 to R415). -/

namespace Sys2Proof.Machine

/-! Cores and harts. -/

/-- The enabled harts of a core. -/
def hartsOf (c : Nat) : List Nat := (List.range 8).map fun i => 8 * c + i

/-- The harts of a core that run no work (02 R57). -/
def freeHarts (s : State) (c : Nat) : List Nat := (hartsOf c).filter fun h => (s.hart h).run == .free

/-- A place lies in the scratchpad of core `c`. -/
def inScratch (c : Nat) (p : Place) : Bool :=
  match p with
  | .ram l => decide (scratchLoc c 0 ≤ l) && decide (l < scratchLoc (c + 1) 0)
  | _ => false

/-- A job of another context reads or writes the scratchpad of core `c`, which stays that context's until the job has
completed (15 R385, R387; log 76). -/
def jobHoldsCore (s : State) (c asid : Nat) : Bool :=
  s.jobs.any fun j => decide (j.asid ≠ asid) && (j.pieces.any (fun p => inScratch c p.dst || p.src.any (inScratch c))
    || j.source.any (fun e => inScratch c e.1) || j.group.any (fun e => inScratch c e.1) || j.status.any (inScratch c)
    || j.pbar.any fun l => inScratch c (.ram l))

/-- A store of another context to the scratchpad of core `c` waits behind a job (09 R218), and the scratchpad with it (15 R385). -/
def storeHoldsCore (s : State) (c asid : Nat) : Bool :=
  let there (q : List (List Pending)) : Bool := q.flatten.any fun p => p.source.isNone && inScratch c (.ram p.span.1)
  s.harts.any (fun e => e.2.asid != asid && storeQueueHeld s e.1 && there e.2.vectorQueue)
    || s.jobs.any fun j => j.asid != asid && there j.behind

/-- A context may run on a core: every hart that runs work there runs the same context, and no job and no store of
another uses its scratchpad (15 R385, R387). -/
def coreTakes (s : State) (c asid : Nat) : Bool :=
  (hartsOf c).all (fun h => (s.hart h).run == .free || decide ((s.hart h).asid = asid)) && !jobHoldsCore s c asid
    && !storeHoldsCore s c asid

/-- The enabled cores of a cluster. -/
def coresOf (s : State) (cl : Nat) : List Nat := (List.range (coresIn s cl)).map fun i => 32 * cl + i

/-- The cells of a core's scratchpad. -/
def scratchCells (s : State) (c : Nat) : List Host.Cell :=
  s.mem.filter fun e => decide (scratchLoc c 0 ≤ e.1) && decide (e.1 < scratchLoc (c + 1) 0)

/-- The conditions of a core's scratchpad bytes. -/
def scratchTaint (s : State) (c : Nat) : SMap Taint :=
  s.taint.filter fun e => decide (scratchLoc c 0 ≤ e.1) && decide (e.1 < scratchLoc (c + 1) 0)

/-- The core's scratchpad zeroed, its stash table empty (15 R385). -/
def clearScratch (s : State) (c : Nat) : State :=
  let out (a : Nat) : Bool := !(decide (scratchLoc c 0 ≤ a) && decide (a < scratchLoc (c + 1) 0))
  let s := { s with mem := s.mem.filter fun e => out e.1, taint := s.taint.filter fun e => out e.1 }
  s.setCore c { s.core c with stash := [] }

/-- A stash entry as a core record holds it: no line filled, its range to be translated again (16 R415). -/
def restedStash (e : Stash) : Stash := { e with lines := [], pages := e.pages.map fun _ => none }

/-- A core record of the context that leaves a core (16 R415). -/
def coreRecord (s : State) (c asid : Nat) : CoreRecord :=
  ⟨c, asid, scratchCells s c, scratchTaint s c, (s.core c).stash.map restedStash⟩

/-- The location that a waiting hart watches or has an arrival held at, where its wait has not been met. -/
def Wait.unmet (w : Wait) : Option Nat :=
  match w with
  | .word loc _ _ _ _ false => some loc
  | .join loc false => some loc
  | .barrier loc _ false => some loc
  | .arrival loc => some loc
  | _ => none

/-- Harts that wait execute their instructions anew; what they had asked for is withdrawn. -/
def rearmHarts (s : State) (l : List Nat) : State :=
  { s with
    harts := s.harts.map fun e => (e.1, if l.contains e.1 then { e.2 with run := .running } else e.2)
    requests := s.requests.filter fun r => !(l.contains r.hart) }

/-- Harts that wait on a place in the scratchpad of core `c` execute their instructions anew: their context, which reached it
through its cluster window, holds the core no longer (15 R386, R387; 07 R187; log 76). -/
def rearm (s : State) (c : Nat) : State :=
  let there (x : Hart) : Bool :=
    match x.run with
    | .waiting w _ => w.unmet.any fun l => inScratch c (.ram l)
    | _ => false
  rearmHarts s ((s.harts.filter fun e => there e.2).map (·.1))

/-- The filled lines of every stash entry of a core stand in its scratchpad too (07 R194, R195). -/
def spillStashes (s : State) (c : Nat) (p : Stash → Bool) : State :=
  ((s.core c).stash.filter p).foldl (fun s e => stashSpill s c e) s

/-- What harts have read before its turn from the scratchpad of core `c` serves no access after the core has gone over to another
context (15 R387). -/
def dropReads (s : State) (c : Nat) : State :=
  let there (l : List Host.Cell) : Bool := l.any fun e => inScratch c (.ram e.1)
  if s.ahead.isEmpty then s
  else { s with ahead := s.ahead.filter fun e =>
    match e.item with
    | .read _ _ l => !there l
    | .job l => !there l
    | .wrote .. => true }

/-- The core goes over to a context: a core record is made of the outgoing one, whose queued accesses are performed first,
and the incoming one's record is restored, or the scratchpad zeroed (15 R385; 16 R415). -/
def switchCore (s : State) (c asid : Nat) : State :=
  if (s.core c).holder = some asid then s
  else
    let s := spillStashes (rearm (dropReads (performAll s) c) c) c fun _ => true
    let here (r : CoreRecord) : Bool := decide (r.core = c) && decide (r.asid = asid)
    let back := s.keel.cores.find? here
    let out := (s.core c).holder.map (coreRecord s c)
    let s := { s with keel := { s.keel with cores := (s.keel.cores.filter fun r => !here r) ++ out.toList } }
    let s := clearScratch s c
    match back with
    | none => s.setCore c { s.core c with holder := some asid }
    | some r =>
      let s := { s with mem := Tab.sets 0 r.image s.mem, taint := Tab.sets .sound r.taint s.taint }
      s.setCore c { s.core c with holder := some asid, stash := r.stash }

/-- The hart at the entry of a strip, as 02 R43 and R44 give; bit 0 of its PC is zero (04 R100). -/
def entryHart (asid : Nat) (wid : Word) (count : Nat) (arg table entry : Word) (work : Work) (gen placed : Nat) : Hart :=
  { ({} : Hart) with
    s := Tab.sets 0 [(1, wid), (2, BitVec.ofNat 64 count), (3, arg), (4, table)] []
    pc := entry &&& ~~~1
    asid := asid
    wid := wid
    work := work
    gen := gen
    placed := placed
    run := .running }

/-! The items that wait in a Gondola. -/

/-- The priority of a running hart's work: a raise counts for every hart that is held resident with the raised one, running,
suspended or fault-held (14 R367; 22 R453). -/
def hartPrio (s : State) (h : Nat) : Nat :=
  let run := (residentWith s h).foldl (fun p k => max p (topRaise (s.hart k).raised)) (s.context (s.hart h).asid).prio
  (s.keel.saved.filter fun r => sameGrid r.hart.work (s.hart h).work).foldl (fun p r => max p (topRaise r.raised)) run

/-- The priority of a saved hart's group (14 R367, R377). -/
def savedPrio (s : State) (r : Saved) : Nat := max (s.context r.hart.asid).prio (topRaise r.raised)

/-- The priority of a placement. -/
def placementPrio (s : State) (e : Placement) : Nat :=
  match s.packet e.packet with
  | some p => (s.context p.asid).prio
  | none => 0

/-- Placement `a` starts before `b`: the higher priority, then the earlier in acceptance order (02 R58). -/
def placementBefore (s : State) (a b : Placement) : Bool :=
  let p := placementPrio s a
  let q := placementPrio s b
  decide (q < p) || (decide (p = q) && (decide (a.packet < b.packet)
    || (decide (a.packet = b.packet) && (decide (a.g5 < b.g5) || (decide (a.g5 = b.g5) && decide (a.g4 < b.g4))))))

/-- The cluster group that starts first among those in a Gondola's queue (02 R58). -/
def headPlacement (s : State) (cl : Nat) : Option Placement :=
  (s.cluster cl).queue.foldl (fun m e =>
    match m with
    | none => some e
    | some b => if placementBefore s e b then some e else m) none

/-- The priority of a task record. -/
def taskPrio (s : State) (t : Task) : Nat := (s.context t.asid).prio

/-- The task record that starts first: the highest priority, then spool order (02 R58). -/
def headTask (s : State) (cl : Nat) : Option Task :=
  (s.cluster cl).tasks.foldl (fun m t =>
    match m with
    | none => some t
    | some b => if taskPrio s b < taskPrio s t then some t else m) none

/-- The cluster and its die are awake and place work (17 R447, R448). -/
def clusterAwake (s : State) (cl : Nat) : Bool :=
  !(s.cluster cl).gated && !(s.cluster cl).waking && !s.hub.gatedDies.contains (cl / 16)
    && !s.hub.wakingDies.contains (cl / 16) && s.hub.ready.getLsbD (47 + cl / 16)

/-- A core group of a packet fits on a core (02 R57; 15 R385). -/
def coreFits (s : State) (p : Packet) (c : Nat) : Bool :=
  coreTakes s c p.asid && decide (p.ext 2 ≤ (freeHarts s c).length)

/-- The cores for a cluster group: the choice named, when it is one, else the lowest-numbered that fit (02 R57; 20 R452);
none while its core groups cannot all start at once. -/
def chooseCores (s : State) (p : Packet) (cl : Nat) (choice : List Nat) : Option (List Nat) :=
  let n := p.ext 3
  let fit := (coresOf s cl).filter (coreFits s p)
  let named := choice.map fun i => 32 * cl + i % 32
  if choice.length = n ∧ (distinct named).length = n ∧ named.all fit.contains then some named
  else if n ≤ fit.length then some (fit.take n) else none

/-- The hart for a task of a context: the one named, when it fits, else the lowest-numbered free hart of a core that may
run the context (02 R58, R59). -/
def chooseHart (s : State) (cl asid : Nat) (choice : Option Nat) : Option Nat :=
  let fit := (coresOf s cl).flatMap fun c => if coreTakes s c asid then freeHarts s c else []
  match choice with
  | some h => if fit.contains h then some h else fit.head?
  | none => fit.head?

/-- A task of a saved hart's job waits in the spool of some cluster (14 R361). -/
def jobTasksWait (s : State) (r : Saved) : Bool :=
  s.clusters.any fun c => c.2.tasks.any fun t => jobPacket r.hart == some t.packet

/-- A waiting group of suspended harts that stands before a placement of priority `p` and packet `id` (14 R358, R377). -/
def suspendedBefore (s : State) (cl p id : Nat) : Bool :=
  s.keel.saved.any fun r => decide (clusterOf r.hartid = cl)
    && !(s.keel.saved.any fun o => decide (o.group = r.group) && (o.held || (o.parked && jobTasksWait s o)))
    && (decide (p < savedPrio s r) || (decide (p = savedPrio s r) && decide (r.yielded ≠ id)
      && decide ((jobPacket r.hart).getD 0 < id)))

/-! Placement. -/

/-- The clusters to which a cluster group of the same grid group has gone: it waits there, or has started there (02 R41). -/
def gridClusters (s : State) (id g5 : Nat) : List Nat :=
  let sent := s.clusters.flatMap fun c =>
    ((placementsIn c.2.underway ++ c.2.queue).filter fun e => decide (e.packet = id ∧ e.g5 = g5)).map fun _ => c.1
  sent ++ (match s.packet id with | some p => (p.started.filter fun e => decide (e.2.1 = g5)).map (·.2.2) | none => [])

/-- The Keel sends the next cluster group of a dispatched packet to a Gondola, spending a permit (01 R29; 02 R57); a
gated cluster is woken first (02 R66). The spec gives the cluster groups of one packet no order among themselves, and grid
groups may run in any (02 R41): they are sent by ascending w5, then w4, and so ranked in a queue (the model's choice: log 78). -/
def execPlacementMessage (id cl : Nat) (s : State) : Res :=
  match s.packet id with
  | none => .next s
  | some p =>
    let n := p.sent
    let g5 := n / p.ext 4
    let c := s.cluster cl
    if !keelReady s || p.phase != .dispatched || (p.partner.isSome && !p.producer) || p.ended
        || decide (p.ext 4 * p.ext 5 ≤ n) || decide (coresIn s cl < p.ext 3) || decide (coresIn s cl = 0)
        || (gridClusters s id g5).contains cl || decide (c.permits = 0) || !c.backlog.isEmpty then .next s
    else if !clusterAwake s cl then .next (wakeDie (wakeCluster s cl) (cl / 16))
    else
      let s := sendCommand s cl (.place ⟨id, n % p.ext 4, g5⟩)
      .next (s.mapPacket id fun p => { p with sent := n + 1 })

/-- What a message from a Gondola tells the Keel (01 R29; 02 R45, R59; 16 R404). -/
def heedReport (s : State) (r : Report) : State :=
  match r with
  | .fault r => { s with keel := { s.keel with held := s.keel.held ++ [r] } }
  | .retired id => s.mapPacket id fun p => { p with live := p.live - 1 }
  | .taskEnded id => s.mapPacket id fun p => { p with tasks := p.tasks - 1 }

/-- The Keel, while it runs, copies the oldest message of a Gondola's link and returns the permit, which the oldest message
that waits for one takes (01 R29; 14 R370, R373). -/
def copyReport (s : State) (cl : Nat) : State :=
  let c := s.cluster cl
  match c.reports with
  | [] => s
  | r :: l =>
    if !keelReady s then s
    else
      let c := match c.outbox with
        | [] => { c with reports := l, reportPermits := c.reportPermits + 1 }
        | e :: o => { c with reports := l ++ [e], outbox := o }
      heedReport (s.setCluster cl c) r

/-- The hart groups of one core group start on a core's free harts, in ascending w2 order (02 R57). -/
def startCore (s : State) (p : Packet) (e : Placement) (g3 c : Nat) : State :=
  let s := switchCore s c p.asid
  let l := List.zip (List.range (p.ext 2)) (freeHarts s c)
  l.foldl (fun s w => s.setHart w.2 (entryHart p.asid (p.wid [0, 0, w.1, g3, e.g4, e.g5]) (p.stripCount 0) p.args p.args
    p.desc.entry (.group p.id w.1 g3 e.g4 e.g5 0) (stopGen s (c / 32) p.id) s.keel.ids)) s

/-- A cluster group starts on its cores. -/
def startGroup (s : State) (p : Packet) (cl : Nat) (e : Placement) (cores : List Nat) : State :=
  let c := s.cluster cl
  let s := s.setCluster cl { c with queue := c.queue.filter fun q => decide (q ≠ e) }
  let s := (List.zip (List.range cores.length) cores).foldl (fun s w => startCore s p e w.1 w.2) s
  let s := { s with keel := { s.keel with ids := s.keel.ids + 1 } }
  s.mapPacket p.id fun p => { p with started := p.started ++ [(e.g4, e.g5, cl)], live := p.live + p.ext 2 * p.ext 3 }

/-- The first waiting cluster group of a Gondola starts, when all its core groups can (02 R57, R58; 14 R358). -/
def execStartClusterGroup (cl : Nat) (cores : List Nat) (s : State) : Res :=
  match headPlacement s cl with
  | none => .next s
  | some e =>
    match s.packet e.packet with
    | none => .next s
    | some p =>
      let prio := placementPrio s e
      let taskFirst := match headTask s cl with | some t => decide (prio ≤ taskPrio s t) | none => false
      if !clusterAwake s cl || taskFirst || suspendedBefore s cl prio p.id then .next s
      else
        match chooseCores s p cl cores with
        | none => .next s
        | some l => .next (startGroup s p cl e l)

/-! Tasks. -/

/-- The place of a task's join counter in the spawning context, or the problem of an atomic there (02 R59). -/
def joinPlace (s : State) (t : Task) : Except Nat Place :=
  let a : Agent := ⟨t.asid, .user, some t.core⟩
  let lost := match windowOf s a t.join.toNat with | .scratch c _ => decide ((s.core c).holder ≠ some t.asid) | _ => false
  if lost then .error 0x08
  else
    match check s a .atomic t.join.toNat 8 with
    | .error c => .error c
    | .ok r => .ok r.place

/-- The join counter of a task lies in a stack that is not ready, for which its decrement waits (17 R440, R448). -/
def joinHeld (s : State) (t : Task) : Bool :=
  match joinPlace s t with
  | .error c => c == stackHeld
  | .ok _ => false

/-- The join counter of a task that retires or is discarded is decremented, and the Keel learns that its job has one task
fewer (02 R60); it waits for a stack that is not ready (17 R440), and a failure is held behind a KIND 9 record (02 R59; 16
R406). -/
def joinDecrement (s : State) (t : Task) : State :=
  match joinPlace s t with
  | .ok q =>
    sendReport (agentStore s q (leBytes 8 (leNat (readPlace s q 8) + (2 ^ 64 - 1)))) (t.core / 32) (.taskEnded t.packet)
  | .error c =>
    let p := s.packet t.packet
    if c = stackHeld then { s with keel := { s.keel with joins := s.keel.joins ++ [t] } }
    else reportFault s (t.core / 32) {
      kind := 9
      cause := c
      asid := t.asid
      eval := t.join
      spool := (p.map (·.qcb)).getD 0
      index := (p.map (·.index)).getD 0
      lspool := (p.map (·.lspool)).getD 0
      subject := .join t }

/-- The decrements that waited for a stack are performed where it is ready (02 R59; 17 R440). -/
def releaseJoins (s : State) : State := s.keel.joins.foldl joinDecrement { s with keel := { s.keel with joins := [] } }

/-- A task record in cluster `cl` carries an older cancel generation than its job's there (02 R60). -/
def taskStale (s : State) (cl : Nat) (t : Task) : Bool := decide (t.gen < stopGen s cl t.packet)

/-- Every stale task record of a cluster is discarded, its join decremented (02 R60). -/
def discardTasks (s : State) (cl : Nat) : State :=
  let c := s.cluster cl
  let old := c.tasks.filter (taskStale s cl)
  old.foldl joinDecrement (s.setCluster cl { c with tasks := c.tasks.filter fun t => !taskStale s cl t })

/-! The end of a body. -/

/-- Hart `h` retires: its stores are performed, its claims are released, and the Keel or its task's join learns of it (02
R45, R59); a pre-emption request that was kept for it has nothing more to do. -/
def retireHart (s : State) (h : Nat) : State :=
  let s := endEarly (leaveBehind (performHart s h) h) h
  let w := (s.hart h).work
  let s := (releaseClaims (leaveGang s h) h).setHart h {}
  let s := { s with keel := { s.keel with requests := s.keel.requests.filter fun e => e.1 != h } }
  match w with
  | .none => s
  | .group id _ _ _ _ _ => sendReport s (clusterOf h) (.retired id)
  | .task t => joinDecrement s t

/-- Every cluster group of the hart's grid group has started (02 R41). -/
def gridStarted (p : Packet) (g5 : Nat) : Bool :=
  (List.range (p.ext 4)).all fun g4 => p.started.any fun e => decide (e.1 = g4 ∧ e.2.1 = g5)

/-- `next` once the hart's outstanding work has been performed: the hart retires (02 R45), unless cluster groups held
resident with it have not started (02 R41). -/
def retireNext (s : State) : State :=
  let ready :=
    match s.me.work with
    | .group id _ _ _ g5 _ =>
      stoppedAt s (clusterOf s.cur) id || (match s.packet id with | some p => gridStarted p g5 | none => true)
    | .task t => !joinHeld s t
    | .none => true
  if ready && (jobsOf s s.cur).isEmpty then retireHart s s.cur else waitAt s .drain 0

/-- Enters strip `k` of a packet that is not spliced: s1, s2 and WID change, every active loop ends and the stream
cursors are 0 (02 R45; 05 R137; 09 R231). -/
def enterStrip (s : State) (p : Packet) (g2 g3 g4 g5 k : Nat) : State :=
  let x := s.me
  let w := p.wid [0, k, g2, g3, g4, g5]
  let x := { x with
    lc0 := { x.lc0 with busy := false }
    lc1 := { x.lc1 with busy := false }
    mode := .user
    wid := w
    work := .group p.id g2 g3 g4 g5 k
    pc := p.desc.entry
    cursors := []
    qual := false }
  s.setMe ((x.writeS 1 w).writeS 2 (BitVec.ofNat 64 (p.stripCount k)))

/-- Enters a body of a spliced loop, as at a first strip (11 R289): `q` is the packet whose body it is, `seg` its SEG. -/
def enterBody (s : State) (p q : Packet) (g2 g3 g4 g5 k : Nat) (seg : Bool) : State :=
  let s := releaseClaims (leaveGang (endEarly (performHart s s.cur) s.cur) s.cur) s.cur
  let x := s.me
  let w := p.wid [0, k, g2, g3, g4, g5]
  let y := entryHart p.asid w (p.stripCount k) q.args q.args q.desc.entry (.group p.id g2 g3 g4 g5 k) x.gen x.placed
  s.setMe { y with
    seg := seg
    pass := if seg then x.pass else []
    raised := x.raised
    lag := x.lag
    scalarTime := x.scalarTime
    vectorTime := x.vectorTime
    halted := x.halted
    stepping := x.stepping }

/-- `next` in a spliced loop (11 R289): P's body, then C's, strip by strip. -/
def splicedNext (s : State) (p c : Packet) (g2 g3 g4 g5 k : Nat) : State :=
  if !(jobsOf s s.cur).isEmpty then waitAt s .drain 0
  else if stoppedAt s (clusterOf s.cur) p.id then retireNext s
  else if !s.me.seg then enterBody s p c g2 g3 g4 g5 k true
  else if k + 1 < p.ext 1 then enterBody s p p g2 g3 g4 g5 (k + 1) false
  else retireNext s

/-- `next` (10 R274; 02 R45; 11 R289; 10 R272). -/
def execNext (s : State) : Res :=
  unchained s fun s =>
    match s.me.work with
    | .group id g2 g3 g4 g5 k =>
      match s.packet id with
      | none => .next (retireNext s)
      | some p =>
        match p.partner.bind s.packet with
        | some c => .next (splicedNext s p c g2 g3 g4 g5 k)
        | none =>
          if !stoppedAt s (clusterOf s.cur) id && decide (k + 1 < p.ext 1) then .next (enterStrip s p g2 g3 g4 g5 (k + 1)) else .next (retireNext s)
    | _ => .next (retireNext s)

/-! Pre-emption. -/

/-- Suspensions that the Keel has sent and Gondolas have not copied: the group of each, and a hart with the step of its
placement (01 R29; 16 R410). -/
def suspensions (s : State) : List (Nat × Nat × Nat) :=
  s.clusters.flatMap fun c => c.2.underway.flatMap fun m =>
    match m with
    | .suspend g l => l.map fun e => (g, e)
    | _ => []

/-- Bytes of the save region in use or spoken for: hart records of 576 KiB and core records of 513 KiB (16 R414). -/
def saveBytes (s : State) : Nat :=
  (s.keel.saved.length + (suspensions s).length) * 589824 + s.keel.cores.length * 525312

/-- The save region has room for `n` more hart records (16 R414). -/
def saveRoom (s : State) (n : Nat) : Bool := decide (saveBytes s + n * 589824 ≤ s.hub.savesize.toNat)

/-- The harts of a list that run, each with the step of its placement, but for those whose suspension is on its way. -/
def toSuspend (s : State) (l : List Nat) : List (Nat × Nat) :=
  (l.filter fun h => (s.hart h).run != .free && !(suspensions s).any fun e => decide (e.2 = (h, (s.hart h).placed))).map
    fun h => (h, (s.hart h).placed)

/-- The Gondola of cluster `cl` suspends those of the harts of a list that it still runs, as part of group `g`; a hart in a
chain group follows at the group's end (16 R410). -/
def suspendHere (s : State) (cl g : Nat) (l : List (Nat × Nat)) : State :=
  (l.filter fun e => decide (clusterOf e.1 = cl) && (s.hart e.1).run != .free && decide ((s.hart e.1).placed = e.2)).foldl
    (fun s e => suspendHart s e.1 g) s

/-- The Keel asks the Gondolas to suspend the harts of a list as one group, by one message to each cluster that it names (01
R29; 16 R410, R413). -/
def suspendAll (s : State) (l : List Nat) : State :=
  let m := toSuspend s l
  let g := s.keel.ids
  if m.isEmpty then s
  else
    (distinct (m.map fun e => clusterOf e.1)).foldl
      (fun s cl => sendCommand s cl (.suspend g (m.filter fun e => decide (clusterOf e.1 = cl))))
      { s with keel := { s.keel with ids := g + 1 } }

/-- The Gondola of cluster `cl` suspends its own harts of a list at once; the Keel asks the other Gondolas to suspend the
rest (10 R273; 14 R361; 16 R410). -/
def suspendFrom (s : State) (cl : Nat) (l : List Nat) : State :=
  let m := toSuspend s l
  let g := s.keel.ids
  let s := suspendHere { s with keel := { s.keel with ids := g + 1 } } cl g m
  (distinct ((m.map fun e => clusterOf e.1).filter fun k => k != cl)).foldl
    (fun s k => sendCommand s k (.suspend g (m.filter fun e => decide (clusterOf e.1 = k)))) s

/-- A placement message that its Gondola no longer queues: it was told that the packet starts no further strip, or the packet
has completed (10 R272; 11 R296; 15 R391). -/
def placementEnded (s : State) (cl : Nat) (e : Placement) : Bool :=
  stoppedAt s cl e.packet || !(s.packet e.packet).any fun p => p.phase == .dispatched

/-- What a context that is destroyed has at cluster `cl` is discarded: its harts, its waiting task records and its cluster groups
(15 R391 step 2). -/
def discardHere (s : State) (cl asid : Nat) : State :=
  let s := (s.harts.filter fun e => decide (clusterOf e.1 = cl) && e.2.run != .free && decide (e.2.asid = asid)).foldl
    (fun s e => retireHart (withdraw s e.1) e.1) s
  let c := s.cluster cl
  let other (e : Placement) : Bool := !(s.packet e.packet).any fun p => decide (p.asid = asid)
  (c.tasks.filter fun t => decide (t.asid = asid)).foldl joinDecrement (s.setCluster cl { c with
    tasks := c.tasks.filter fun t => decide (t.asid ≠ asid)
    queue := c.queue.filter other })

/-- What a message from the Keel makes a Gondola do (02 R57, R60; 10 R272; 11 R296; 15 R391; 16 R410): a cluster group joins its
queue, harts are suspended, a job is stopped, its cluster groups and its older task records being discarded, or what a context has
there is discarded. -/
def heedCommand (s : State) (cl : Nat) (m : Command) : State :=
  match m with
  | .place e =>
    if placementEnded s cl e then s
    else s.setCluster cl { s.cluster cl with queue := (s.cluster cl).queue ++ [e] }
  | .suspend g l => suspendHere s cl g l
  | .discard asid => discardHere s cl asid
  | .stop id gen =>
    let c := s.cluster cl
    let live := (s.packet id).any fun p => p.phase == .dispatched
    discardTasks (s.setCluster cl { c with
      stops := if live then Tab.set none id (some (max gen (stopGen s cl id))) c.stops else c.stops
      queue := c.queue.filter fun e => decide (e.packet ≠ id) }) cl

/-- The Gondola copies the oldest message of its link and returns the permit (01 R29; 02 R57). -/
def copyCommand (s : State) (cl : Nat) : State :=
  let c := s.cluster cl
  match c.link with
  | [] => s
  | m :: _ => heedCommand (s.setCluster cl c.copied) cl m

/-- The Gondola copies the oldest message of its link (01 R29; 02 R57). -/
def execGondolaCopyMessage (cl : Nat) (s : State) : Res := .next (copyCommand s cl)

/-- The Keel tells every Gondola that no further strip of a packet starts, and its cancel generation (02 R60; 10 R272; 11
R296). -/
def stopEverywhere (s : State) (id gen : Nat) : State :=
  (s.plate.clusters.map fun c => 16 * c.1 + c.2.1).foldl (fun s cl => sendCommand s cl (.stop id gen)) s

/-- The state once all the harts of a list have been suspended, each as it stands: what the suspension frees. -/
def freedBy (s : State) (l : List Nat) : State :=
  (l.filter fun h => (s.hart h).run != .free).foldl (fun s h => saveHart s h s.keel.ids false (s.hart h).raised) s

/-- A request of the Keel to suspend hart `h` and the groups held resident with it (16 R410), made while the save region has
room for them. -/
def requestSuspension (s : State) (h : Nat) : State :=
  let l := residentWith s h
  if (s.hart h).run = .free ∨ !saveRoom s l.length then s else suspendAll s l

/-- A pre-emption request (16 R410, R411): one that comes while the Keel restarts is sent when the restart ends (14 R376). -/
def execPreemptRequest (h : Nat) (s : State) : Res :=
  if (s.hart h).run = .free then .next s
  else if !s.keel.up then
    .next { s with keel := { s.keel with requests := s.keel.requests.filter (fun e => e != (h, none)) ++ [(h, none)] } }
  else .next (requestSuspension s h)

/-- A kept request can be carried out: the Keel runs again, or the hart's chain group has ended (14 R376; 16 R410). -/
def requestDue (s : State) (e : Nat × Option Nat) : Bool :=
  match e.2 with
  | none => s.keel.up
  | some _ => !midGroup (s.hart e.1)

/-- A kept request is carried out (14 R376; 16 R410). -/
def serveRequest (s : State) (e : Nat × Option Nat) : State :=
  let s := { s with keel := { s.keel with requests := s.keel.requests.filter fun o => o != e } }
  match e.2 with
  | none => requestSuspension s e.1
  | some g => if (s.hart e.1).run = .free then s else saveHart s e.1 g false (s.hart e.1).raised

/-- The oldest kept request that can be carried out is (14 R376; 16 R410). -/
def runRequest (s : State) : State :=
  match s.keel.requests.find? (requestDue s) with
  | none => s
  | some e => serveRequest s e

/-- The item at the head of a Gondola: a placement, or a group of suspended harts that may resume (02 R58; 14 R377). -/
inductive Waiting where
  | group (e : Placement)
  | task (t : Task)
  | resume (group : Nat)
  deriving DecidableEq, Repr

/-- The harts of a group all find their items, no task of their own job waits for harts, and what a `yield` gave way to
has started (10 R273; 14 R361; 16 R413). -/
def groupResumable (s : State) (g : Nat) : Bool :=
  let l := s.keel.saved.filter fun r => decide (r.group = g)
  let free (r : Saved) : Bool := !r.held && !(s.context r.hart.asid).dying && resumable s r && !jobHoldsCore s (coreOf r.hartid) r.hart.asid
    && !storeHoldsCore s (coreOf r.hartid) r.hart.asid
  let want (c : Nat) : Nat := (l.filter fun r => decide (coreOf r.hartid = c)).foldl (fun a r =>
    a + (match r.hart.conf with | some v => v.shares | none => 0)) 0
  !l.isEmpty && !s.keel.requests.any (fun e => e.2 == some g) && !(suspensions s).any (fun e => decide (e.1 = g))
    && l.all (fun r => free r && decide (sharesUsed s (coreOf r.hartid) + want (coreOf r.hartid) ≤ 8))
    && !l.any fun r => (r.parked && jobTasksWait s r) || (s.cluster (clusterOf r.hartid)).queue.any fun e => decide (e.packet = r.yielded)

/-- A waiting item can start now. -/
def canStart (s : State) (cl : Nat) (w : Waiting) : Bool :=
  match w with
  | .group e => (match s.packet e.packet with | some p => (chooseCores s p cl []).isSome | none => false)
  | .task t => (chooseHart s cl t.asid none).isSome
  | .resume g => groupResumable s g

/-- The priority of a waiting item. -/
def waitingPrio (s : State) (w : Waiting) : Nat :=
  match w with
  | .group e => placementPrio s e
  | .task t => taskPrio s t
  | .resume g => (s.keel.saved.filter fun r => decide (r.group = g)).foldl (fun p r => max p (savedPrio s r)) 0

/-- The items at the heads of a Gondola's queues. -/
def waitingHeads (s : State) (cl : Nat) : List Waiting :=
  (headPlacement s cl).toList.map .group ++ (headTask s cl).toList.map .task

/-- A group that was suspended at a `yield` stands behind the cluster group that it gave way to (10 R273). -/
def yieldTo (s : State) (g : Nat) (w : Waiting) : State :=
  match w with
  | .group e =>
    { s with keel := { s.keel with saved := s.keel.saved.map fun r => if r.group = g then { r with yielded := e.packet } else r } }
  | _ => s

/-- `yield` (10 R273): the yielding hart's groups are suspended when that lets work of equal or higher priority start,
which cannot start now; else nothing. -/
def execYield (s : State) : Res :=
  unchained s fun s =>
    let h := s.cur
    let p := hartPrio s h
    let cl := clusterOf h
    let l := residentWith s h
    let t := finish s
    let u := freedBy t l
    let gives (w : Waiting) : Bool := decide (p ≤ waitingPrio s w) && !canStart t cl w && canStart u cl w
    if !saveRoom t l.length then .next t
    else
      match (waitingHeads s cl).find? gives with
      | none => .next t
      | some w => .next (yieldTo (suspendFrom t cl l) t.keel.ids w)

/-- Running harts, the lowest priority first, then the most recently placed (14 R359). -/
def weakestFirst (s : State) (l : List (Nat × Hart)) : List Nat :=
  let key (e : Nat × Hart) : Nat := hartPrio s e.1 * (s.keel.ids + 1) + (s.keel.ids - e.2.placed)
  (sortAsc (distinct (l.map key))).flatMap fun k => ((l.filter fun e => decide (key e = k)).map (·.1))

/-- The harts of clusters that run cluster groups with a priority below `p` (14 R359). -/
def victims (s : State) (cls : List Nat) (p : Nat) : List Nat :=
  weakestFirst s (s.harts.filter fun e => cls.contains (clusterOf e.1) && e.2.run != .free && decide (hartPrio s e.1 < p)
    && (match e.2.work with | .group .. => true | _ => false))

/-- The victims, each with the harts held resident with it, whose suspension lets the item start; none where all of them do
not suffice (14 R359). -/
def makeRoom (s : State) (cl : Nat) (w : Waiting) : List Nat → Option (List (List Nat))
  | [] => none
  | h :: r =>
    let l := residentWith s h
    if (s.hart h).run = .free then makeRoom s cl w r
    else if !saveRoom s l.length then none
    else
      let t := freedBy s l
      if canStart t cl w then some [l] else (makeRoom t cl w r).map (l :: ·)

/-- Suspended groups of a cluster, none of whose harts is fault-held. -/
def suspendedGroups (s : State) (cl : Nat) : List Nat :=
  (distinct ((s.keel.saved.filter fun r => decide (clusterOf r.hartid = cl)).map (·.group))).filter fun g =>
    (s.keel.saved.filter fun r => decide (r.group = g)).all fun r => !r.held

/-- The Gondola starts the first waiting task record on a free hart, unless a cluster group of higher priority waits,
or a suspended group of higher priority that can resume (02 R58, R59; 14 R377); stale records are discarded (02 R60). -/
def execStartTask (cl hart : Nat) (s : State) : Res :=
  let s := discardTasks s cl
  match headTask s cl with
  | none => .next s
  | some t =>
    let groupFirst := match headPlacement s cl with | some e => decide (taskPrio s t < placementPrio s e) | none => false
    let resumeFirst := (suspendedGroups s cl).any fun g => groupResumable s g && decide (taskPrio s t < waitingPrio s (.resume g))
    if !clusterAwake s cl || groupFirst || resumeFirst then .next s
    else
      match chooseHart s cl t.asid (some hart) with
      | none => .next s
      | some h =>
        let s := switchCore s (coreOf h) t.asid
        let c := s.cluster cl
        let s := s.setCluster cl { c with tasks := c.tasks.erase t }
        let s := s.setHart h (entryHart t.asid t.wid 1 t.arg t.table t.entry (.task t) (stopGen s cl t.packet) s.keel.ids)
        .next { s with keel := { s.keel with ids := s.keel.ids + 1 } }

/-- Items that wait, the highest priority first. -/
def byPrio (s : State) (l : List Waiting) : List Waiting :=
  ((List.range 8).reverse).flatMap fun p => l.filter fun w => decide (min 7 (waitingPrio s w) = p)

/-- The clusters on which an item of cluster `cl` starts: a suspended group's are all those that its harts left (16 R413). -/
def itemClusters (s : State) (cl : Nat) (w : Waiting) : List Nat :=
  match w with
  | .resume g => distinct ((s.keel.saved.filter fun r => decide (r.group = g)).map fun r => clusterOf r.hartid)
  | _ => [cl]

/-- A cluster group, or a suspended one, that has waited at the head of its Gondola makes the Keel pre-empt work of lower
priority on that cluster, or on those where it starts, enough of it for the group to start (14 R359, R367, R377): the first, by priority, that this lets
start. -/
def execPreemptStarvation (cl : Nat) (s : State) : Res :=
  let items := (headPlacement s cl).toList.map .group ++ (suspendedGroups s cl).map .resume
  let room := ((byPrio s items).filter fun w => !canStart s cl w).findSome? fun w =>
    makeRoom s cl w (victims s (itemClusters s cl w) (waitingPrio s w))
  match room with
  | some l => if s.keel.up then .next (l.foldl suspendAll s) else .next s
  | none => .next s

/-- While a task record waits and no hart of the cluster is free for it, the Gondola suspends a hart that waits in `joinw` or
`spawn`, with the groups held resident with it: the lowest priority first, then the most recently placed (14 R361). -/
def parkWaiter (s : State) (cl : Nat) : State :=
  let s := discardTasks s cl
  match headTask s cl with
  | none => s
  | some t =>
    if (chooseHart s cl t.asid none).isSome || !clusterAwake s cl then s
    else
      match weakestFirst s (s.harts.filter fun e => decide (clusterOf e.1 = cl) && tasksWaiter e.2) with
      | [] => s
      | h :: _ =>
        let l := residentWith s h
        if saveRoom s l.length then suspendFrom s cl l else s

/-- Something else that waits on a cluster stands before a suspended group of priority `prio` and packet `id` (14 R357, R358,
R377): a cluster group, a task that can start, or another suspended group that can. -/
def resumeBehind (s : State) (cl g prio id : Nat) : Bool :=
  let first (p i : Nat) : Bool := decide (prio < p) || (decide (prio = p) && decide (i < id))
  (headPlacement s cl).any (fun e => first (placementPrio s e) e.packet)
    || (headTask s cl).any (fun t => decide (prio ≤ taskPrio s t) && canStart s cl (.task t))
    || (suspendedGroups s cl).any fun o => o != g && groupResumable s o
        && first (waitingPrio s (.resume o)) (((s.keel.saved.find? fun r => decide (r.group = o)).bind fun r => jobPacket r.hart).getD 0)

/-- The Gondola resumes a suspended group on the harts it left, all together (16 R412, R413; 14 R361, R367, R377), when
nothing of higher priority waits there: each core's context returns, and each tether reopens in ascending handle number
(19 R450). A raise above the context's own priority stays with the harts, word by word. -/
def execResumeHartGroup (g : Nat) (s : State) : Res :=
  let l := s.keel.saved.filter fun r => decide (r.group = g)
  let prio := waitingPrio s (.resume g)
  let id := (l.head?.bind fun r => jobPacket r.hart).getD 0
  if !groupResumable s g || l.any fun r => resumeBehind s (clusterOf r.hartid) g prio id then .next s
  else
    let s := l.foldl (fun s r => switchCore s (coreOf r.hartid) r.hart.asid) s
    let raised (r : Saved) : SMap Nat := r.raised.filter fun e => decide ((s.context r.hart.asid).prio < e.2)
    let s := l.foldl (fun s r => restoreHart s { r with hart := { r.hart with raised := raised r, placed := s.keel.ids } }) s
    .next { s with keel := { s.keel with ids := s.keel.ids + 1 } }

end Sys2Proof.Machine
end

