-- ==== Sys2Proof/Machine/Tasks.lean ====
section
/-! DEFINITION. The task and job instructions: `spawn`, `joinw`, `launch`, `jstat` and `cancel` (10 R267 to R272; 02 R59,
R60; 14 R371, R372). -/

namespace Sys2Proof.Machine

/-- The task record of a 32-byte image, with the tags its Gondola adds (02 R59, R60). -/
def taskOf (s : State) (b : List Byte) : Task :=
  let x := s.me
  let p := chargedPacket s x
  let id := (jobPacket x).getD 0
  { entry := BitVec.ofNat 64 (field b 0 8)
    arg := BitVec.ofNat 64 (field b 8 8)
    wid := BitVec.ofNat 64 (field b 16 8)
    join := BitVec.ofNat 64 (field b 24 8)
    asid := x.asid
    packet := id
    gen := stopGen s (clusterOf s.cur) id
    table := match x.work with | .task t => t.table | _ => (p.map (·.args)).getD 0
    core := coreOf s.cur }

/-- The record enters the cluster task spool (10 R268), or is discarded there when the spawning hart was dispatched under
an older generation (14 R371). -/
def acceptTask (s : State) (t : Task) : State :=
  let s := s.mapPacket t.packet fun p => { p with tasks := p.tasks + 1 }
  if s.me.gen < t.gen then joinDecrement s t
  else
    let cl := clusterOf s.cur
    let c := s.cluster cl
    s.setCluster cl { c with tasks := c.tasks ++ [t] }

/-- The hart waits for a slot of its cluster's task spool, in its order of arrival (14 R347, R362). -/
def spawnWait (s : State) : State :=
  let cl := clusterOf s.cur
  let c := s.cluster cl
  waitAt (if c.spawners.contains s.cur then s else s.setCluster cl { c with spawners := c.spawners ++ [s.cur] }) .spawn 0

/-- A trap of `spawn`, whose hart leaves the queue for a slot (14 R347); one that waits for a stack keeps its place there (17 R440; 14
R362). -/
def spawnTrap (s : State) (c : Nat) (eval : Word) : Res :=
  if c = stackHeld then .next (waitAt s .stack 0) else .next (trap (awake (leaveSpawners s s.cur)) c eval)

/-- No slot of the cluster's task spool is free for the executing hart, or another hart has waited longer (14 R362). -/
def spawnBlocked (s : State) : Bool :=
  let c := s.cluster (clusterOf s.cur)
  decide (4096 ≤ c.tasks.length) || c.spawners.head?.any fun h => h != s.cur

/-- `spawn sr` (10 R268; 11 R289). -/
def execSpawn (r : Reg) (s : State) : Res :=
  unchained s fun s =>
    if spliced s s.me then .next (illegal s)
    else
      let a := s.agent s.cur
      let va := s.me.readS r
      match waitCheck s a va.toNat 32 with
      | .error c => spawnTrap (noteRead s (resolve s a .load va.toNat)) c va
      | .ok q =>
        let t := taskOf s (readPlace s q.place 32)
        let s := tagAt (touch (noteRead s (.ok q)) a .load va.toNat) s.me q.place
        match check s a .atomic t.join.toNat 8 with
        | .error c => spawnTrap s c t.join
        | .ok j =>
          let n := leNat (readPlace s j.place 8)
          if 2 ^ 32 - 1 ≤ n then spawnTrap s 0x17 t.join
          else if spawnBlocked s then .next (spawnWait s)
          else
            let s := leaveSpawners s s.cur
            let s := storePlace (tagAt (touch s a .atomic t.join.toNat) s.me j.place) j.place (leBytes 8 (n + 1))
            .next (finish (awake (acceptTask s t)))

/-- `joinw sj` (10 R269): waits until the counter reads 0. -/
def execJoinw (j : Reg) (s : State) : Res :=
  unchained s fun s =>
    match s.me.run with
    | .waiting (.join loc hit) e =>
      endWait s hit (armedPoison s loc 8) (armedWord s loc 8 == 0) e fun s => .next (waitAt s (.join loc hit) e)
    | _ =>
      let a := s.agent s.cur
      let va := s.me.readS j
      match waitCheck s a va.toNat 8 with
      | .error c => .next (trap (noteRead s (resolve s a .load va.toNat)) c va)
      | .ok r =>
        let s := tagAt (touch (noteRead s (.ok r)) a .load va.toNat) s.me r.place
        if armedWord s (locOf r) 8 = 0 then .next (finish s) else .next (waitAt s (.join (locOf r) false) va)

/-- The slot that `launch` writes on a spool of element size `n` (10 R270). -/
def launchElement (b : List Byte) (n : Nat) : List Byte := slice b 0 n

/-- `launch sd, sq, sp` (10 R270; 11 R289): never waits. -/
def execLaunch (d q p : Reg) (s : State) : Res :=
  unchained s fun s =>
    if spliced s s.me then .next (illegal s)
    else
      let a := s.agent s.cur
      let va := s.me.readS p
      match wordPlaces s a .load 64 va.toNat 2 with
      | .error e => .next (trap (noteProblem s e) e.1 (BitVec.ofNat 64 e.2))
      | .ok l =>
        let b := readWords s l 64
        let s := useWords s .load 64 va.toNat l
        let sq := s.me.readS q
        match spoolBlock s sq.toNat with
        | .error (c, s) => .next (trap s c sq)
        | .ok k =>
          let s := touch s a .store sq.toNat
          if !canReserve s k 1 then .next (finishWith s fun x => x.writeS d (BitVec.allOnes 64))
          else if slotsHeld s k .store (qTail (qcbRead s k)) 1 then .next (waitAt s .stack 0)
          else
            let r := enqueue s k [launchElement b (qEsize (qcbRead s k))]
            match r.2 with
            | .error e => .next (trap r.1 0x0D (BitVec.ofNat 64 e))
            | .ok i => .next (finishWith r.1 fun x => x.writeS d (BitVec.ofNat 64 i))

/-- The packet that a launch spool's control block and an index name, while the Keel still knows it (10 R271). -/
def knownPacket (s : State) (qcb index : Nat) : Option Packet :=
  let l := s.keel.packets.filter fun p => decide (p.qcb = qcb)
  (l.drop (l.length - 4096)).reverse.find? fun p => decide (p.index = index)

/-- The job that `jstat` and `cancel` name, or the trap of the control block (10 R271; 10 R258 items 2 and 4). -/
def jobNamed (s : State) (q i : Reg) : Except Nat (Option Packet) :=
  if q = 0 then .ok (chargedPacket s s.me)
  else
    match spoolAddress s (s.me.readS q).toNat with
    | .error c => .error c
    | .ok k =>
      if qcbSpoiled s k then .error 0x14
      else if qOwner (qcbRead s k) ≠ s.me.asid then .error 0x08 else .ok (knownPacket s k (s.me.readS i).toNat)

/-- The translation of the control block that `jstat` or `cancel` has used. -/
def touchJob (s : State) (q : Reg) : State :=
  if q = 0 then s else touch s (s.agent s.cur) .store (s.me.readS q).toNat

/-- What `jstat` reads of a job (10 R271): either packet of a spliced loop reports the loop's state (11 R298). -/
def jstatWord (s : State) (p : Option Packet) : Word :=
  match p with
  | none => 3
  | some p =>
    let state : Nat :=
      match p.phase with
      | .held => 0
      | .window => 0
      | .dispatched => 1
      | .completing => if p.ran then 1 else 0
      | .done => if packetOpen s p then 1 else 2
    let status := if state = 2 then p.status.getD 0 else 0
    BitVec.ofNat 64 (status % 2 ^ 32 * 2 ^ 32 + (if p.gen = 0 then 0 else 256) + state)

/-- `jstat sd, sq, si` (10 R271). -/
def execJstat (d q i : Reg) (s : State) : Res :=
  unchained s fun s =>
    match jobNamed s q i with
    | .error c => .next (trap s c (s.me.readS q))
    | .ok p => .next (finishWith (touchJob s q) fun x => x.writeS d (jstatWord s p))

/-! Cancelling. -/

/-- The members of a gang that hart `h` of a saved group leaves behind when it is discarded (06 R152). -/
def dropFromGang (s : State) (r : Saved) : State :=
  match r.hart.gang with
  | none => s
  | some m =>
    let bit : BitVec 32 := BitVec.ofNat 32 (2 ^ (coreOf r.hartid % 32))
    let mates := s.keel.saved.filter fun o => decide (o.group = r.group) && o.hart.gang == some m
    let lead := (sortAsc (mates.map (·.hartid))).headD 0
    let off (x : Hart) : Hart :=
      if mates.length ≤ 1 then { x with gang := none, gangLead := 0 }
      else { x with gang := some (m &&& ~~~bit), gangLead := if x.gangLead = r.hartid then lead else x.gangLead }
    { s with keel := { s.keel with saved := s.keel.saved.map fun o =>
        if o.group = r.group ∧ o.hart.gang = some m then { o with hart := off o.hart } else o } }

/-- A saved hart is discarded: it retires where it was saved, and its task's join is decremented (16 R406, R408). -/
def discardSaved (s : State) (r : Saved) : State :=
  let s := { s with keel := { s.keel with saved := s.keel.saved.filter fun e => e.id != r.id } }
  let s := dropFromGang s r
  match r.hart.work with
  | .none => s
  | .group id _ _ _ _ _ => sendReport s (clusterOf r.hartid) (.retired id)
  | .task t => joinDecrement s t

/-- A packet that has not been dispatched is cancelled (10 R272): it leaves the window. -/
def cancelWaiting (s : State) (p : Packet) : State :=
  let s := s.mapPacket p.id fun p => { p with
    gen := p.gen + 1
    phase := if p.hasWords then .completing else .done
    status := if p.status = none ∨ p.status = some 0x10011 then some 0x30000 else p.status
    reported := false
    partner := none
    producer := false
    deleted := [] }
  let s := match p.partner with
    | some c => s.mapPacket c fun c => { c with partner := none, producer := false, deleted := [], reported := false }
    | none => s
  advanceHead s p.lspool

/-- A dispatched packet is cancelled, with the loop it may be spliced in (10 R272; 11 R298; 02 R60; 16 R408): each Gondola is
told, and acts on what it is told in the order in which that reaches it (02 R60). -/
def cancelRunning (s : State) (p : Packet) : State :=
  let c := p.partner.bind s.packet
  let first := p.status.isNone && (c.map (·.status.isNone)).getD true
  let lead := if p.producer then p.id else (c.map (·.id)).getD p.id
  let s := s.mapPacket p.id fun p => { p with gen := p.gen + 1, status := if first then some 0x30000 else p.status }
  let s := match c with
    | some c => s.mapPacket c.id fun c => { c with gen := c.gen + 1, status := if first then some 0x20000 else c.status }
    | none => s
  let s := stopEverywhere s lead (p.gen + 1)
  (s.keel.saved.filter fun r => r.held && jobPacket r.hart == some lead).foldl discardSaved s

/-- Every strip and task of a dispatched job has retired, the messages about them on their way or copied (14 R372). -/
def jobRetired (s : State) (p : Packet) : Bool :=
  let q := if p.producer then p else (p.partner.bind s.packet).getD p
  let told (r : Report) : Nat := (reportsUnderway s).count r
  (q.ended || decide (q.sent = q.ext 4 * q.ext 5)) && decide (placementsOf s q.id = 0)
    && decide (q.live ≤ told (.retired q.id)) && decide (q.tasks ≤ told (.taskEnded q.id))

/-- The cancel generation of a job is raised (02 R60; 10 R272); a completed job is left as it is (14 R372). -/
def cancelPacket (s : State) (id : Nat) : State :=
  match s.packet id with
  | none => s
  | some p =>
    match p.phase with
    | .held => cancelWaiting s p
    | .window => cancelWaiting s p
    | .dispatched => if jobRetired s p then s else cancelRunning s p
    | .completing => s
    | .done => s

/-- `cancel sq, si` (10 R272). -/
def execCancel (q i : Reg) (s : State) : Res :=
  unchained s fun s =>
    match jobNamed s q i with
    | .error c => .next (trap s c (s.me.readS q))
    | .ok none => .next (finish (touchJob s q))
    | .ok (some p) => .next (finish (cancelPacket (touchJob s q) p.id))

end Sys2Proof.Machine
end

