-- ==== Sys2Proof/Machine/Faults.lean ====
section
/-! DEFINITION. The fault spool and the replies to its records (16 R405 to R408; 22 R453, R454, R456), and the restart of
the Keel (14 R373 to R375). -/

namespace Sys2Proof.Machine

/-- The 64 bytes of a fault record (16 R405). -/
def recordBytes (r : FaultRecord) : List Byte :=
  leBytes 1 r.kind ++ leBytes 1 r.cause ++ leBytes 2 r.asid ++ leBytes 2 (if r.kind ≤ 1 then r.hartid else 0)
    ++ leBytes 1 r.flags.toNat ++ leBytes 1 r.ucause ++ leBytes 8 r.pc.toNat ++ leBytes 8 r.eval.toNat
    ++ leBytes 8 r.estat.toNat ++ leBytes 8 r.spool ++ leBytes 8 r.index ++ leBytes 8 r.time ++ leBytes 4 r.vstart
    ++ leBytes 2 r.lspool ++ leBytes 2 0

/-- A record that needs a reply (16 R406). -/
def needsReply (r : FaultRecord) : Bool := decide (r.kind ≤ 4) || decide (r.kind = 9)

/-- A hub spool can take an element of `n` bytes: its block is sound and passes its checks, is not 0, and a slot is free (16 R408,
R420). -/
def hubSpoolTakes (s : State) (q n : Nat) : Bool :=
  let b := qcbRead s q
  decide (q ≠ 0) && dramOk s q && stackReady s q && !qcbSpoiled s q && qcbOk b && decide (qEsize b = n) && decide (1 ≤ qRoom b)

/-- A hub spool's control block can be read now, and a soft error has poisoned it (16 R420; 17 R440). -/
def hubSpoiled (s : State) (q : Nat) : Bool := decide (q ≠ 0) && dramOk s q && stackReady s q && qcbSpoiled s q

/-- The oldest fault record that the Keel holds is written into the fault spool (16 R405, R408): its BASE is physical
(10 R255). A slot that answers no agent poisons the block (10 R261). -/
def execFaultRecordWrite (s : State) : Res :=
  let q := s.hub.faultqcb.toNat
  match s.keel.held with
  | [] => .next s
  | r :: _ =>
    if s.keel.up && hubSpoiled s q then .next (reportSpoiled s q)
    else if !s.keel.up || !hubSpoolTakes s q 64 then .next s
    else
      let b := qcbRead s q
      let i := qTail b
      let slot := qBase b + i % qCap b * 64
      if !dramOk s slot then .next (qcbPoison s q)
      else if !ramReady s none slot 64 then .next s
      else
        let s := agentStore s (.ram slot) (recordBytes r)
        let b := setField (setField (setField b 8 8 (i + 1)) 24 4 (qFree b - 1)) 56 4 (qUnnot b + 1)
        let s := notifyThreshold (qcbWrite s q b) q
        .next { s with keel := { s.keel with
          held := s.keel.held.drop 1
          awaiting := if needsReply r then s.keel.awaiting ++ [(i, r)] else s.keel.awaiting } }

/-! Replies. -/

/-- A fatal fault ends the packet whose body a hart was running (16 R406; 22 R456): the first of a packet, or of a spliced
pair, decides; a pair's descriptors go on the no-splice list (11 R296 to R298). The producer's DESC is added before the consumer's, one
that is on the list already moves to its newest end without a second entry, and a pair that has one DESC for both takes two entries
(the model's choice: log 93). -/
def fatal (s : State) (p : Packet) (cause : Nat) : State :=
  let c := if p.phase = .dispatched then p.partner.bind s.packet else none
  if p.status.isSome || (c.map (·.status.isSome)).getD false then s
  else
    let s := s.mapPacket p.id fun p => { p with status := some (0x10000 + cause % 256) }
    match c with
    | none => s
    | some c =>
      let s := s.mapPacket c.id fun c => { c with status := some 0x20000 }
      let lead := if p.producer then p else c
      let s := stopEverywhere s lead.id lead.gen
      let x := s.context p.asid
      let two := [BitVec.ofNat 64 lead.descVa, BitVec.ofNat 64 (if p.producer then c else p).descVa]
      let l := x.nosplice.filter (fun d => !two.contains d) ++ two
      s.setContext p.asid { x with nosplice := l.drop (l.length - 16) }

/-- The saved hart of a record. -/
def savedAt (s : State) (id : Nat) : Option Saved := s.keel.saved.find? fun r => decide (r.id = id)

/-- The translations of a context that the cores of a cluster and the cluster itself have cached are dropped: what is done again
walks the tables after the reply (22 R454; 16 R407). -/
def forgetWalks (s : State) (c asid : Nat) : State :=
  let drop (l : List TlbEntry) : List TlbEntry := l.filter fun e => e.asid != asid && !e.glob
  let each (k : Nat × CoreState) : Nat × CoreState := if k.1 / 32 = c / 32 then (k.1, { k.2 with tlb := drop k.2.tlb }) else k
  let s : State := { s with cores := s.cores.map each }
  s.setCluster (c / 32) { s.cluster (c / 32) with tlb := drop (s.cluster (c / 32)).tlb }

/-- RESUME acts on what a record was about (16 R406; 22 R453, R454). -/
def resumeSubject (s : State) (r : FaultRecord) : State :=
  match r.subject with
  | .hart id =>
    let s := match savedAt s id with
      | some e => forgetWalks s (coreOf e.hartid) e.hart.asid
      | none => s
    { s with keel := { s.keel with saved := s.keel.saved.map fun e => if e.id = id then { e with held := false } else e } }
  | .space id =>
    match s.packet id with
    | none => s
    | some p =>
      let s := s.mapPacket id fun p => { p with reported := false }
      (match p.partner with | some c => s.mapPacket c fun c => { c with reported := false } | none => s)
  | .take id =>
    match s.packet id with
    | some p =>
      if p.phase = .held then advanceHead (evaluateWindow (vetPacket s id) p.lspool) p.lspool else s
    | none => s
  | .slot num _ => s.mapSpool num fun l => { l with stopped := false }
  | .completion id => s.mapPacket id fun p => { p with pendingStatus := false }
  | .join t => if ((s.packet t.packet).map (·.phase)).getD .dispatched = .done then s
    else joinDecrement (forgetWalks s t.core t.asid) t
  | .nothing => s

/-- KILL acts on what a record was about (16 R406; 02 R50; 22 R456). That of a KIND 2 record about one packet of a pair that still
waits for its result space ends that packet alone with FAULT: its partner is evaluated again, without SPLICEABORT, and no DESC is
listed (whether 11 R296 and R297 apply before the pair is dispatched they do not say; the model's choice: log 94). -/
def killSubject (s : State) (r : FaultRecord) : State :=
  match r.subject with
  | .hart id =>
    match savedAt s id with
    | none => s
    | some e =>
      let s := match chargedPacket s e.hart with
        | some p => fatal s p r.cause
        | none => s
      discardSaved s e
  | .space id =>
    match s.packet id with
    | none => s
    | some p =>
      if p.phase ≠ .window then s
      else
        let s := s.mapPacket id fun p => { p with reported := false, status := some 0x10006 }
        let s := match p.partner with | some c => s.mapPacket c fun c => { c with reported := false } | none => s
        evaluateWindow s p.lspool
  | .take id =>
    match s.packet id with
    | some p =>
      if p.phase = .held then
        advanceHead (evaluateWindow (s.mapPacket id fun p => { p with phase := .done }) p.lspool) p.lspool
      else s
    | none => s
  | .slot num i => advanceHead (s.mapSpool num fun l => { l with stopped := false, next := max l.next (i + 1) }) num
  | .completion id =>
    match s.packet id with
    | some p => if p.pendingStatus then completeWords s p true else s
    | none => s
  | .join t =>
    let s := match s.packet t.packet with
      | some p => if p.status.isNone then s.mapPacket p.id fun p => { p with status := some (0x10000 + r.cause % 256) } else s
      | none => s
    heedReport s (.taskEnded t.packet)
  | .nothing => s

/-- A reply to record `index` is performed: to one that needs a reply and has had none (16 R407). -/
def performReply (s : State) (index : Nat) (kill : Bool) : State :=
  match s.keel.awaiting.find? fun e => decide (e.1 % 2 ^ 56 = index) with
  | none => s
  | some e =>
    let s := { s with keel := { s.keel with awaiting := s.keel.awaiting.filter fun o => o.1 != e.1 } }
    if kill then killSubject s e.2 else resumeSubject s e.2

/-- What the Keel would have to read or write for a reply to a record lies in a stack that is not ready (17 R440, R448). -/
def subjectHeld (s : State) (r : FaultRecord) (kill : Bool) : Bool :=
  match r.subject with
  | .take id => !kill && (s.packet id).any fun p => p.phase == .held && packetHeld s p
  | .completion id => kill && (s.packet id).any (wordsHeld s)
  | .join t => !kill && joinHeld s t
  | _ => false

/-- A reply to record `index` waits for a stack. -/
def replyHeld (s : State) (index : Nat) (kill : Bool) : Bool :=
  s.keel.awaiting.any fun e => decide (e.1 % 2 ^ 56 = index) && subjectHeld s e.2 kill

/-- The replies that wait are performed in the order in which they reached the hub, up to one that must still wait (16 R407). -/
def serveReplies (s : State) : State :=
  s.keel.replies.foldl (fun s e =>
    if s.keel.replies.head? = some e ∧ !replyHeld s e.1 e.2 then
      performReply { s with keel := { s.keel with replies := s.keel.replies.drop 1 } } e.1 e.2
    else s) s

/-- A reply reaches the hub: it waits behind one that waits for a stack (16 R407). -/
def reply (s : State) (index : Nat) (kill : Bool) : State :=
  if s.keel.replies.isEmpty && !replyHeld s index kill then performReply s index kill
  else serveReplies { s with keel := { s.keel with replies := s.keel.replies ++ [(index, kill)] } }

/-- A FAULTREPLY store with ACTION 0 (16 R407). -/
def execFaultreplyResume (index : Nat) (s : State) : Res := .next (reply s index false)

/-- A FAULTREPLY store with ACTION 1 (16 R407). -/
def execFaultreplyKill (index : Nat) (s : State) : Res := .next (reply s index true)

/-- What waited for a DRAM stack goes on once it is ready: stores, join decrements and replies (02 R59; 16 R407; 17 R440). -/
def releaseHeld (s : State) : State := serveReplies (releaseJoins (releaseStores s))

/-! The Keel's restart. -/

/-- The Keel restarts (14 R373): placed work runs on, no packet is taken or dispatched. -/
def restartKeel (s : State) : State := { s with keel := { s.keel with up := false } }

/-- A restart that the operating system requests (14 R373; 17 R429). -/
def execKeelRestart (s : State) : Res := .next (restartKeel s)

/-- A Keel that posts no heartbeat for 10 ms is restarted (14 R373). -/
def execKeelHeartbeatTimeout (s : State) : Res := .next (restartKeel s)

/-- The restarted Keel takes again from HEAD up to the greatest tail (14 R374): packets that were taken and not
dispatched go back to their ring, with the records about them; dispatched ones are known from the Gondolas, and the
completion unit's journal keeps every completion (14 R375). The doorbells that its latches held are applied (R373). -/
def execKeelRestartComplete (s : State) : Res :=
  if s.keel.up then .next s
  else
    let again (p : Packet) : Bool := (p.phase == .window || p.phase == .held) && !p.old
    let spools := s.keel.spools.map fun l =>
      { l with next := ((windowPackets s l.num).filter fun p => !p.old).foldl (fun m p => min m p.index) l.next }
    let live := (s.keel.packets.filter again).map (·.id)
    let held (r : FaultRecord) : Bool :=
      match r.subject with
      | .take id => live.contains id
      | .space id => live.contains id
      | _ => false
    let t := { s with keel := { s.keel with
      up := true
      spools := spools
      packets := s.keel.packets.filter fun p => !again p
      held := s.keel.held.filter fun r => !held r
      awaiting := s.keel.awaiting.filter fun e => !held e.2 } }
    .next (applyLatches t fun q => (lspoolAt t q).isSome)

end Sys2Proof.Machine
end

