-- ==== Sys2Proof/Machine/Contexts.lean ====
section
/-! DEFINITION. The translation invalidation spool (15 R388 to R391), context descriptors (15 R378 to R380), the watch
spool (17 R433) and launch spool registration (17 R430). -/

namespace Sys2Proof.Machine

/-! Hub spools. -/

/-- The slot of the element at HEAD of a hub spool with elements of `n` bytes (10 R255). -/
def hubSlot (s : State) (q n : Nat) : Nat := qBase (qcbRead s q) + qHead (qcbRead s q) % qCap (qcbRead s q) * n

/-- The element at HEAD of a hub spool with elements of `n` bytes: its index and bytes, none while there is none, the block
is poisoned or fails its checks, or their stack is not ready (10 R255, R258; 16 R420; 17 R440). -/
def hubElement (s : State) (q n : Nat) : Option (Nat × List Byte) :=
  let b := qcbRead s q
  let slot := hubSlot s q n
  if q = 0 ∨ !dramOk s q ∨ !stackReady s q ∨ qcbSpoiled s q ∨ !qcbOk b ∨ qEsize b ≠ n ∨ qFill b = 0 ∨ !dramOk s slot
      ∨ !ramReady s none slot n then none
  else some (qHead b, readPlace s (.ram slot) n)

/-- The element at HEAD of a hub spool has been consumed. -/
def hubConsume (s : State) (q : Nat) : State :=
  let b := qcbRead s q
  qcbWrite s q (setField (setField b 0 8 (qHead b + 1)) 24 4 (qFree b + 1))

/-- The element at HEAD of a hub spool with elements of `n` bytes, for `k`. A poisoned control block is reported, and a poisoned
element is reported and passed over: what it asked for is not known (16 R420; the model's choice: log 91). -/
def hubTake (s : State) (q n : Nat) (k : Nat → List Byte → State) : State :=
  if hubSpoiled s q then reportSpoiled s q
  else
    match hubElement s q n with
    | none => s
    | some (i, b) =>
      if taintPlace s (.ram (hubSlot s q n)) n = .sound then k i b else hubConsume (reportError s (hubSlot s q n)) q

/-! Elements of the translation invalidation spool. -/

/-- OP of an element. -/
def tivOp (b : List Byte) : Nat := field b 0 1
/-- ASID of an element. -/
def tivAsid (b : List Byte) : Nat := field b 2 2
/-- COUNT of an element. -/
def tivCount (b : List Byte) : Nat := field b 4 4
/-- VA of an element. -/
def tivVa (b : List Byte) : Nat := field b 8 8

/-- An element that breaks R388 (15 R389: BADELEM). -/
def tivBad (b : List Byte) : Bool :=
  decide (5 ≤ tivOp b) || decide (1 < field b 1 1) || decide (field b 16 8 ≠ 0)
    || (if tivOp b = 0 then decide (tivCount b = 0) || decide (1048576 < tivCount b) || decide (tivVa b % 4096 ≠ 0)
      else decide (field b 1 1 ≠ 0) || decide (tivCount b ≠ 0) || decide (tivVa b ≠ 0))

/-- The element is finished: its completion word, then HEAD (15 R389). A word that is misaligned or answers no memory is
not written, and a KIND 5 record is (16 R406). -/
def tivDone (s : State) (q i : Nat) (b : List Byte) (status : Nat) : State :=
  let cw := field b 24 8
  let s := hubConsume s q
  if cw % 8 ≠ 0 then pushRecord s { kind := 5, cause := 0x04, eval := BitVec.ofNat 64 cw }
  else if dramOk s cw then homeStore s cw (leBytes 8 ((i + 1) * 256 + status))
  else pushRecord s { kind := 5, cause := 0x08, eval := BitVec.ofNat 64 cw }

/-- What an element removes: the pages of one context or of every context, and the global ones (15 R381, R388). -/
structure Removal where
  asid : Option Nat
  pages : Option (Nat × Nat)
  globals : Bool
  deriving DecidableEq, Repr

/-- The page lies in what is removed. -/
def Removal.page (r : Removal) (p : Nat) : Bool :=
  match r.pages with
  | none => true
  | some (lo, n) => decide (lo ≤ p) && decide (p < lo + n)

/-- A page of the range `[va, va + n)` lies in what is removed. -/
def Removal.range (r : Removal) (va n : Nat) : Bool :=
  match r.pages with
  | none => true
  | some (lo, k) => decide (va < (lo + k) * 4096) && decide (lo * 4096 < va + n)

/-- The context is one of those. -/
def Removal.context (r : Removal) (asid : Nat) : Bool :=
  match r.asid with
  | none => true
  | some a => decide (a = asid)

/-- A cached translation is removed. -/
def Removal.hits (r : Removal) (e : TlbEntry) : Bool :=
  r.page e.page && (r.context e.asid && (r.globals || !e.glob) || r.globals && e.glob)

/-- A job may still use a translation that is removed (09 R221; 15 R390). -/
def Removal.holdsJob (r : Removal) (j : Job) : Bool :=
  r.context j.asid && j.uses.any fun i => i.ranges.any fun e => r.range e.1 (e.2 - e.1)

/-- The virtual address of the word, counter, barrier or control block that a hart waits on, while its wait has not been met. -/
def armedVa (x : Hart) : Option Nat :=
  match x.run with
  | .waiting (.arrival _) _ => match waitingInstr x with | some (.pbarr _ a) => some (x.readS a).toNat | _ => none
  | .waiting (.spool _) e => some e.toNat
  | .waiting w e => w.unmet.map fun _ => e.toNat
  | _ => none

/-- A context holds the core, and its translations are among those removed. -/
def Removal.mine (r : Removal) (c : CoreState) : Bool := c.holder.any r.context

/-- A stash entry of a core whose range has a removed page (07 R196; 15 R390). -/
def Removal.stash (r : Removal) (c : CoreState) (e : Stash) : Bool := r.mine c && r.range e.va.toNat e.len

/-- Hart `h` waits on a removed page, or on a stash line behind which one lies (15 R390; 07 R194). -/
def Removal.waits (r : Removal) (s : State) (h : Nat) : Bool :=
  let x := s.hart h
  r.context x.asid && (armedVa x).any fun va => r.page (va / 4096)
    || (match windowOf s ⟨x.asid, x.mode, some (coreOf h)⟩ va with
      | .scratch c o => (stashAt s c o).any (r.stash (s.core c))
      | _ => false)

/-- Harts that wait on a removed page walk the tables again: they execute their instructions anew (15 R390; 10 R247). -/
def Removal.rearm (r : Removal) (s : State) : State := rearmHarts s ((s.harts.filter fun e => r.waits s e.1).map (·.1))

/-- A core after a removal: its TLB, the stash entries covered, absent again (07 R196), and the tethers on covered rows,
dropped (09 R235). -/
def Removal.core (r : Removal) (c : CoreState) : CoreState :=
  { c with
    tlb := c.tlb.filter fun e => !r.hits e
    stash := c.stash.map fun e => if r.stash c e then restedStash e else e
    tethers := c.tethers.map fun e =>
      (e.1, e.2.map fun t => if r.mine c && r.page (t.va.toNat / 4096) then { t with st := .dropped } else t) }

/-- Translations are removed from every cache of the device, once every access that used one has been performed (15 R390);
a stash line that was filled keeps its last value as plain scratchpad (07 R195, R196). -/
def removeTranslations (s : State) (r : Removal) : State :=
  let s := r.rearm (performAll s)
  let s := s.cores.foldl (fun s e => spillStashes s e.1 (r.stash (s.core e.1))) s
  { s with
    cores := s.cores.map fun e => (e.1, r.core e.2)
    clusters := s.clusters.map fun e => (e.1, { e.2 with tlb := e.2.tlb.filter fun t => !r.hits t }) }

/-- What INVASID removes. -/
def asidRemoval (asid : Nat) : Removal := ⟨some asid, none, false⟩

/-- The next element of the translation invalidation spool, when the Keel runs and it is one that `ops` takes; an element
that breaks R388 completes with BADELEM. -/
def tivEnter (s : State) (ops : Nat → Bool) (k : State → Nat → Nat → List Byte → State) : Res :=
  let q := s.hub.tivqcb.toNat
  if !keelReady s then .next s
  else
    .next (hubTake s q 32 fun i b =>
      if !(ops (tivOp b) || decide (5 ≤ tivOp b)) then s
      else if tivBad b then tivDone s q i b 1
      else k s q i b)

/-- A job may still use what is removed, or a store that has used it waits behind a job (15 R390; 09 R218, R221). -/
def removalWaits (s : State) (r : Removal) : Bool :=
  s.jobs.any (fun j => r.holdsJob j || (r.context j.asid && !j.behind.isEmpty))
    || s.harts.any fun e => r.context e.2.asid && storeQueueHeld s e.1 && e.2.vectorQueue.any isStore

/-- A removal once no job uses what it removes (15 R390): the element waits for them. -/
def tivRemove (s : State) (q i : Nat) (b : List Byte) (r : Removal) : State :=
  if removalWaits s r then s else tivDone (removeTranslations s r) q i b 0

/-- INVPAGE (15 R388). -/
def execInvpage (s : State) : Res :=
  tivEnter s (· == 0) fun s q i b =>
    let all := bitOf (field b 1 1) 0
    tivRemove s q i b ⟨if all then none else some (tivAsid b), some (tivVa b / 4096, tivCount b), all⟩

/-- INVASID (15 R388). -/
def execInvasid (s : State) : Res := tivEnter s (· == 1) fun s q i b => tivRemove s q i b (asidRemoval (tivAsid b))

/-- INVALL (15 R388). -/
def execInvall (s : State) : Res := tivEnter s (· == 2) fun s q i b => tivRemove s q i b ⟨none, none, true⟩

/-! Contexts. -/

/-- A context descriptor, none where R380 refuses it (15 R379, R380). -/
def readContext (b : List Byte) : Option Context :=
  let root := field b 0 8
  let mode := root / 2 ^ 60
  let sw := field b 16 8
  let cw := field b 24 8
  let c57 := decide (mode = 10)
  if (mode ≠ 9 ∧ mode ≠ 10) ∨ root / 2 ^ 44 % 2 ^ 16 ≠ 0 ∨ 7 < field b 8 1 ∨ 7 < field b 9 1 ∨ field b 10 6 ≠ 0
      ∨ field b 48 16 ≠ 0 ∨ sw % 0x100000 ≠ 0 ∨ cw % 0x2000000 ≠ 0
      ∨ !canonical c57 sw ∨ !canonical c57 (sw + 0xFFFFF) ∨ !canonical c57 cw ∨ !canonical c57 (cw + 0x1FFFFFF)
      ∨ rangesMeet (sw, sw + 0x100000) (cw, cw + 0x2000000) ∨ field b 40 8 % 2 = 1 ∨ 5898240 < field b 32 8 then none
  else some {
    valid := bitOf (field b 9 1) 0
    root := root % 2 ^ 44
    sv57 := c57
    prio := field b 8 1
    tryq := bitOf (field b 9 1) 1
    remote := bitOf (field b 9 1) 2
    swbase := BitVec.ofNat 64 sw
    cwbase := BitVec.ofNat 64 cw
    quota := field b 32 8
    handler := BitVec.ofNat 64 (field b 40 8) }

/-- The context has a hart running or suspended, or a core holds its scratchpad (15 R389). -/
def contextBusy (s : State) (asid : Nat) : Bool :=
  s.harts.any (fun e => e.2.run != .free && decide (e.2.asid = asid))
    || s.keel.saved.any (fun r => decide (r.hart.asid = asid)) || s.cores.any fun c => c.2.holder == some asid

/-- CTXLOAD (15 R378, R380, R388, R389). -/
def execCtxload (s : State) : Res :=
  tivEnter s (· == 3) fun s q i b =>
    let asid := tivAsid b
    let pa := s.hub.ctxbase.toNat + 64 * asid
    let r := asidRemoval asid
    let old := s.context asid
    if !dramOk s pa then tivDone s q i b 1
    else if !stackReady s pa then s
    else if taintPlace s (.ram pa) 64 ≠ .sound then
      tivDone (pushRecord s { kind := 6, cause := 0x14, eval := BitVec.ofNat 64 pa }) q i b 1
    else
      match readContext (readPlace s (.ram pa) 64) with
      | none => tivDone s q i b 1
      | some c =>
        if (old.swbase ≠ c.swbase ∨ old.cwbase ≠ c.cwbase) ∧ contextBusy s asid then tivDone s q i b 2
        else if removalWaits s r then s
        else
          let s := s.setContext asid { c with nosplice := old.nosplice, collectives := old.collectives }
          tivDone (removeTranslations s r) q i b 0

/-- Every packet of a context that was taken and has not completed is cancelled (15 R391 step 1). -/
def cancelContext (s : State) (asid : Nat) : State :=
  (s.keel.packets.filter fun p => decide (p.asid = asid) && p.phase != .done).foldl (fun s p => cancelPacket s p.id) s

/-- Every Gondola is asked to discard what a context has at its cluster, by a message of its link (15 R391 step 2; 01 R29). -/
def askDiscard (s : State) (asid : Nat) : State :=
  (s.plate.clusters.map fun c => 16 * c.1 + c.2.1).foldl (fun s cl => sendCommand s cl (.discard asid)) s

/-- The saved harts of a context are discarded (15 R391 step 2). -/
def discardSuspended (s : State) (asid : Nat) : State :=
  (s.keel.saved.filter fun r => decide (r.hart.asid = asid)).foldl discardSaved s

/-- A Gondola has not yet discarded what a context has at its cluster (15 R391 step 2; 01 R29). -/
def contextRuns (s : State) (asid : Nat) : Bool :=
  s.harts.any (fun e => e.2.run != .free && decide (e.2.asid = asid))
    || s.clusters.any fun c => c.2.underway.any fun m => m == .discard asid

/-- Each packet of a context that was taken completes with CANCELLED (15 R391 step 3); a word that cannot be written is
skipped. -/
def completeContext (s : State) (asid : Nat) : State :=
  (s.keel.packets.filter fun p => decide (p.asid = asid) && p.phase != .done).foldl (fun s p =>
    match s.packet p.id with
    | some p => completeWords s { p with status := some 0x30000 } true
    | none => s) s

/-- A context's resources are freed and its scratchpads zeroed (15 R391 steps 5 and 6); numbers of launch spools that the
Keel has left are free again (16 R403). -/
def freeContext (s : State) (asid : Nat) : State :=
  let s := s.cores.foldl (fun s e =>
    if e.2.holder = some asid then clearScratch (s.setCore e.1 { s.core e.1 with holder := none, tethers := [] }) e.1 else s) s
  let s := { s with
    chainTags := s.chainTags.filter fun e => e.2 / 4096 != asid
    keel := { s.keel with
      chains := s.keel.chains.filter fun e => e.1 / 4096 != asid
      cores := s.keel.cores.filter fun r => r.asid != asid
      retired := s.keel.retired.filter fun e => e.2.2 != asid } }
  removeTranslations (s.setContext asid {}) (asidRemoval asid)

/-- A job of the context has not completed, or a word of one of its packets or a join counter of one of its tasks lies in a
stack that is not ready (15 R391 step 4; 17 R440). -/
def contextOpen (s : State) (asid : Nat) : Bool :=
  s.jobs.any (fun j => decide (j.asid = asid)) || s.keel.joins.any (fun t => decide (t.asid = asid))
    || s.keel.packets.any fun p => decide (p.asid = asid) && p.phase != .done

/-- CTXDESTROY (15 R391): its first step at once, the second as the Gondolas copy what they are told, the third as the words can be
written, the rest once the context's jobs have completed. -/
def execCtxdestroy (s : State) : Res :=
  tivEnter s (· == 4) fun s q i b =>
    let asid := tivAsid b
    if !(s.context asid).valid then tivDone s q i b 3
    else
      let t := s.setContext asid { s.context asid with dying := true }
      let s := discardSuspended (if (s.context asid).dying then s else askDiscard (cancelContext t asid) asid) asid
      if contextRuns s asid then s
      else
        let s := completeContext s asid
        if contextOpen s asid then s else tivDone (freeContext s asid) q i b 0

/-! The watch spool. -/

/-- A malformed element of the watch spool (17 R433). -/
def watchBad (s : State) (b : List Byte) : Bool :=
  let n : Nat := if bitOf (field b 24 1) 0 then 8 else 4
  decide (field b 0 8 % n ≠ 0) || !dramOk s (field b 0 8) || decide (3 < field b 24 1) || decide (field b 25 3 ≠ 0)
    || decide (field b 40 24 ≠ 0)

/-- The hub takes the next element of the watch spool (17 R433): an entry is armed, sends its MSI at once when it is
satisfied, or is discarded when malformed. The word that it watches is read once its stack is ready, and a poisoned one meets
nothing (17 R440; 16 R420). -/
def execWatchElement (s : State) : Res :=
  let q := s.hub.watchqcb.toNat
  .next (hubTake s q 64 fun _ b =>
    let u := s
    let s := hubConsume s q
    if watchBad s b then { s with hub := { s.hub with watchbad := s.hub.watchbad + 1 } }
    else
      let w : Watch := {
        id := s.keel.ids
        pa := field b 0 8
        mask := BitVec.ofNat 64 (field b 8 8)
        value := BitVec.ofNat 64 (field b 16 8)
        eight := bitOf (field b 24 1) 0
        ne := bitOf (field b 24 1) 1
        msiData := BitVec.ofNat 32 (field b 28 4)
        msiAddr := field b 32 8
        hit := false }
      let s := { s with keel := { s.keel with ids := s.keel.ids + 1 } }
      if !ramReady s none w.pa w.size then u
      else if (armedPoison s w.pa w.size).isNone && watchMeets s w then queueMsi s (watchKey w.id) w.msiAddr w.msiData.toNat
      else { s with watches := s.watches ++ [w] })

/-- The home sends the MSI of a watch entry that has seen a satisfying value, once, and frees it (17 R433). -/
def execWatchEntryFired (id : Nat) (s : State) : Res :=
  match s.watches.find? fun w => decide (w.id = id) with
  | none => .next s
  | some w =>
    if !w.hit then .next s
    else .next (queueMsi { s with watches := s.watches.filter fun e => e.id != id } (watchKey id) w.msiAddr w.msiData.toNat)

/-! Launch spool registration. -/

/-- QCB of LSPOOLCTL (17 R430). -/
def lspoolQcb (v : Word) : Nat := v.toNat / 64 % 2 ^ 42 * 64

/-- A number for the launch spool with the control block at `q` (16 R403): its own, when it has one; else one that no spool,
no known packet and no spool of a living context carries, when there is one. -/
def lspoolNumber (s : State) (q : Nat) : Option Nat :=
  let used := s.keel.spools.map (·.num)
  let kept := used ++ s.keel.packets.map (·.lspool) ++ s.keel.retired.map (·.1)
  let first (l : List Nat) : Nat := (List.range 4096).foldl (fun m i => if m = i ∧ l.contains i then i + 1 else m) 0
  match s.keel.retired.find? fun e => decide (e.2.1 = q) && !used.contains e.1 with
  | some e => some e.1
  | none => if first kept < 4096 then some (first kept) else if first used < 4096 then some (first used) else none

/-- LSPOOLCTL with ADD set (17 R430): the Keel serves the spool from its HEAD on, which it reads once the stack of the block is
ready (17 R440), or writes a KIND 7 record beyond 4 096 spools. -/
def execLspoolRegister (v : Word) (s : State) : Res :=
  let q := lspoolQcb v
  if !dramOk s q then .next s
  else if (lspoolAt s q).isSome then
    .next { s with keel := { s.keel with
      spools := s.keel.spools.map fun l => if l.qcb = q then { l with removing := false } else l } }
  else
    match (if s.keel.spools.length < 4096 then lspoolNumber s q else none) with
    | none => .next (pushRecord s { kind := 7, cause := 0, eval := BitVec.ofNat 64 q, spool := q })
    | some n =>
      .next { s with keel := { s.keel with
        spools := s.keel.spools ++ [{
          num := n
          qcb := q
          removing := false
          next := if stackReady s q then qHead (qcbRead s q) else 0
          stopped := false
          unread := !stackReady s q }]
        retired := s.keel.retired.filter fun e => e.2.1 != q } }

/-- LSPOOLCTL with ADD clear (17 R430): the removal takes effect once HEAD equals TAIL. -/
def execLspoolRemove (v : Word) (s : State) : Res :=
  match lspoolAt s (lspoolQcb v) with
  | none => .next s
  | some l => .next (advanceHead (s.mapSpool l.num fun l => { l with removing := true }) l.num)

end Sys2Proof.Machine
end

