-- ==== Sys2Proof/Machine/Iommu.lean ====
section
/-! DEFINITION. The IOMMU of the root ports (17 R427, R435). The spec names the RISC-V IOMMU, says which of its features the
device has, and does not repeat it: registers, tables, commands and causes below are that standard's, read for these features
(log 61). -/

namespace Sys2Proof.Machine

/-- A fault of a translation: its cause, the second value of its record, and whether the device context has its record left
out. An access whose stack is not ready has the cause `stackHeld`: it is no fault, and waits (17 R440). -/
structure IoFault where
  cause : Nat
  value : Nat := 0
  quiet : Bool := false
  deriving DecidableEq, Repr

/-- The number in `n` bytes of memory that the IOMMU reads: `denied` is the cause where nothing answers, `corrupt` where the
bytes are poisoned. -/
def ioRead (s : State) (pa n denied corrupt : Nat) : Except IoFault Nat :=
  match placeOf s pa with
  | some (.ram l) =>
    if !ramReady s none l n then .error { cause := stackHeld }
    else if taintPlace s (.ram l) n ≠ .sound then .error { cause := corrupt }
    else .ok (leNat (readPlace s (.ram l) n))
  | _ => .error { cause := denied }

/-! The device directory. -/

/-- The page number in bits 53 to 10 of a word. -/
def ioPage (w : Nat) : Nat := w / 2 ^ 10 % 2 ^ 44

/-- The address of the device context of a device below a directory page, `levels` further directory pages down: indices of 6 and
then 9 bits. -/
def contextAddr (s : State) (device : Nat) : Nat → Nat → Except IoFault Nat
  | 0, base => .ok (base + device % 64 * 64)
  | k + 1, base =>
    match ioRead s (base + device / 2 ^ (6 + 9 * k) % 512 * 8) 8 257 268 with
    | .error e => .error e
    | .ok w =>
      if !bitOf w 0 then .error { cause := 258 }
      else if w % 2 ^ 10 ≠ 1 ∨ w / 2 ^ 54 ≠ 0 then .error { cause := 259 }
      else contextAddr s device k (ioPage w * 4096)

/-- A double-word of a device context: 0 tc, 1 iohgatp, 2 ta, 3 fsc, 4 msiptp, 5 the MSI address mask, 6 its pattern. -/
def contextWord (b : List Byte) (i : Nat) : Nat := field b (8 * i) 8

/-- The mode of a root pointer: 0 Bare. -/
def ioMode (w : Nat) : Nat := w / 2 ^ 60
/-- The page of a root pointer. -/
def ioRoot (w : Nat) : Nat := w % 2 ^ 44

/-- A device context asks for what the device provides, and its reserved bits are 0: no ATS, PRI, PASID, memory-resident
interrupt files or updates of A and D; process directories can be absent alone. -/
def contextOk (b : List Byte) : Bool :=
  let tc := contextWord b 0
  let g := contextWord b 1
  let f := contextWord b 3
  let m := contextWord b 4
  let known (w : Nat) : Bool := decide (ioMode w = 0) || decide (ioMode w = 9) || decide (ioMode w = 10)
  tc &&& 0xFFFFFFFFFFFFFFCE == 0 && known g && decide (ioMode g = 0 ∨ g % 4 = 0) && decide (contextWord b 2 / 2 ^ 32 = 0)
    && decide (contextWord b 2 % 2 ^ 12 = 0) && decide (f / 2 ^ 44 % 2 ^ 16 = 0)
    && (if bitOf tc 5 then decide (ioMode f = 0) else known f) && decide (ioMode m ≤ 1) && decide (m / 2 ^ 44 % 2 ^ 16 = 0)
    && decide (contextWord b 5 / 2 ^ 52 = 0) && decide (contextWord b 6 / 2 ^ 52 = 0) && decide (contextWord b 7 = 0)

/-- The device context of a requester: a cached one that still serves, or the directory's. -/
def deviceContext (s : State) (device : Nat) : Except IoFault (List Byte) :=
  let u := s.hub.iommu
  let levels := u.ddtp.toNat % 16 - 2
  let fresh : Except IoFault (List Byte) :=
    if 2 ^ (6 + 9 * levels) ≤ device then .error { cause := 260 }
    else
      match contextAddr s device levels (ioPage u.ddtp.toNat * 4096) with
      | .error e => .error e
      | .ok a =>
        match ioRead s a 64 257 268 with
        | .error e => .error e
        | .ok w =>
          if !bitOf w 0 then .error { cause := 258 }
          else if !contextOk (leBytes 64 w) then .error { cause := 259 } else .ok (leBytes 64 w)
  match u.devices.find? fun e => decide (e.device = device) with
  | some e => if Config.tlbServes s.n device then .ok e.bytes else fresh
  | none => fresh

/-! Page tables. -/

/-- A walk of `levels` levels: `read` gives the 8-byte entry at an address, `fault` is the page fault, `wide` the entries of the
root. A leaf is a user page that allows the access, with A set, and D for a write; no field is reserved for it but the page and
the permissions. -/
def ioWalk (read : Nat → Except IoFault Nat) (fault : IoFault) (write : Bool) (page : Nat) : Nat → Nat → Nat → Except IoFault Nat
  | 0, _, _ => .error fault
  | k + 1, wide, base =>
    match read (base + page / 512 ^ k % wide * 8) with
    | .error e => .error e
    | .ok w =>
      if !bitOf w 0 || (!bitOf w 1 && bitOf w 2) || decide (w / 2 ^ 54 ≠ 0) then .error fault
      else if !bitOf w 1 && !bitOf w 3 then
        if bitOf w 4 || bitOf w 6 || bitOf w 7 then .error fault else ioWalk read fault write page k 512 (ioPage w * 4096)
      else if !bitOf w 4 || !bitOf w 6 || (if write then !bitOf w 2 || !bitOf w 7 else !bitOf w 1)
          || decide (ioPage w % 512 ^ k ≠ 0) then .error fault
      else .ok (ioPage w + page % 512 ^ k)

/-- The cause of an access that nothing answers. -/
def ioDenied (write : Bool) : Nat := if write then 7 else 5

/-- The page behind a guest physical address, through the second stage of a device context: `write` is what this access does,
`cause` the guest page fault of the request, `implied` that it reads a table of the first stage. -/
def guestPage (s : State) (c : List Byte) (write implied : Bool) (request : Bool) (gpa : Nat) : Except IoFault Nat :=
  let g := contextWord c 1
  let fault : IoFault := { cause := if request then 23 else 21, value := gpa / 4 * 4 + implied.toNat }
  let read (a : Nat) : Except IoFault Nat := ioRead s a 8 (ioDenied request) 274
  match ioMode g with
  | 9 => if gpa < 2 ^ 50 then ioWalk read fault write (gpa / 4096) 4 2048 (ioRoot g * 4096) else .error fault
  | 10 => if gpa < 2 ^ 59 then ioWalk read fault write (gpa / 4096) 5 2048 (ioRoot g * 4096) else .error fault
  | _ => .ok (gpa / 4096)

/-- The guest physical page behind an address of a requester, through the first stage. -/
def firstPage (s : State) (c : List Byte) (write : Bool) (va : Nat) : Except IoFault Nat :=
  let f := contextWord c 3
  let fault : IoFault := { cause := if write then 15 else 13 }
  let read (a : Nat) : Except IoFault Nat :=
    match guestPage s c false true write a with
    | .error e => .error e
    | .ok p => ioRead s (p * 4096 + a % 4096) 8 (ioDenied write) 274
  match ioMode f with
  | 9 => if canonical false va then ioWalk read fault write (va / 4096) 4 512 (ioRoot f * 4096) else .error fault
  | 10 => if canonical true va then ioWalk read fault write (va / 4096) 5 512 (ioRoot f * 4096) else .error fault
  | _ => .ok (va / 4096)

/-- The bits of a page number that a mask names, gathered from bit 0. -/
def gather (mask page : Nat) : Nat :=
  ((List.range 52).filter fun i => bitOf mask i).foldr (fun i n => 2 * n + (bitOf page i).toNat) 0

/-- A guest physical page is that of an interrupt file, by the MSI address mask and pattern of a device context. -/
def msiPage (c : List Byte) (page : Nat) : Bool :=
  decide (ioMode (contextWord c 4) = 1)
    && (List.range 52).all fun i => bitOf (contextWord c 5) i || bitOf page i == bitOf (contextWord c 6) i

/-- The page that an interrupt file's page is translated to, by the flat MSI page table. -/
def msiTarget (s : State) (c : List Byte) (page : Nat) : Except IoFault Nat :=
  match ioRead s (ioRoot (contextWord c 4) * 4096 + gather (contextWord c 5) page * 16) 16 261 270 with
  | .error e => .error e
  | .ok w =>
    let w := w % 2 ^ 64
    if !bitOf w 0 then .error { cause := 262 }
    else if w % 2 ^ 10 ≠ 7 ∨ w / 2 ^ 54 ≠ 0 then .error { cause := 263 } else .ok (ioPage w)

/-- The tags of a translation: the guest where there is a second stage, the process where there is a first. -/
def ioTags (c : List Byte) : Option Nat × Option Nat :=
  (if ioMode (contextWord c 1) = 0 then none else some (contextWord c 1 / 2 ^ 44 % 2 ^ 16),
   if ioMode (contextWord c 3) = 0 then none else some (contextWord c 2 / 2 ^ 12 % 2 ^ 20))

/-- The physical page behind a page of a requester, by the tables as they stand. -/
def freshPage (s : State) (c : List Byte) (write : Bool) (va : Nat) : Except IoFault Nat :=
  match firstPage s c write va with
  | .error e => .error e
  | .ok p => if msiPage c p then msiTarget s c p else guestPage s c write false write (p * 4096 + va % 4096)

/-- The entry of the translation cache for a page of a requester. -/
def ioEntry (s : State) (c : List Byte) (write : Bool) (va : Nat) : Option IoEntry :=
  s.hub.iommu.entries.find? fun e =>
    decide ((e.gscid, e.pscid) = ioTags c) && decide (e.page = va / 4096) && (e.write || !write)

/-- The physical page behind a page of a requester: a cached one that still serves, or the tables'. -/
def contextPage (s : State) (c : List Byte) (write : Bool) (va : Nat) : Except IoFault Nat :=
  match ioEntry s c write va with
  | some e => if Config.tlbServes s.n e.page then .ok e.target else freshPage s c write va
  | none => freshPage s c write va

/-- The physical address that a request's address is translated to, with its device context where it has one (17 R435). -/
def ioTranslate (s : State) (requester va : Nat) (write : Bool) : Except IoFault (Nat × Option (List Byte)) :=
  match s.hub.iommu.ddtp.toNat % 16 with
  | 0 => .error { cause := 256 }
  | 1 => .ok (va, none)
  | _ =>
    match deviceContext s (requester % 2 ^ 24) with
    | .error e => .error e
    | .ok c =>
      match contextPage s c write va with
      | .error e => .error { e with quiet := bitOf (contextWord c 0) 4 }
      | .ok p => .ok (p * 4096 + va % 4096, some c)

/-- The caches once a translation has been used. -/
def noteIo (s : State) (requester va : Nat) (write : Bool) (c : List Byte) (pa : Nat) : State :=
  let u := s.hub.iommu
  let d := requester % 2 ^ 24
  let e : IoEntry := { gscid := (ioTags c).1, pscid := (ioTags c).2, page := va / 4096, write := write, target := pa / 4096 }
  { s with hub := { s.hub with iommu := { u with
    devices := if u.devices.any fun o => o.device == d then u.devices else u.devices ++ [⟨d, c⟩]
    entries := if (ioEntry s c write va).isSome || e.gscid == none && e.pscid == none then u.entries else u.entries ++ [e] } } }

/-! Interrupts. -/

/-- Word `i` of the MSI table: two for each of 16 vectors, the address, then the data with the mask bit at bit 32. -/
def Iommu.msiWord (u : Iommu) (i : Nat) : Word := Tab.get 0 u.msis i

/-- The MSI of a vector is sent, or waits while its mask bit is set (17 R432). -/
def sendVector (s : State) (v : Nat) : State :=
  let u := s.hub.iommu
  if (u.msiWord (2 * v + 1)).getLsbD 32 then
    { s with hub := { s.hub with iommu := { u with masked := sortAsc (distinct (v :: u.masked)) } } }
  else sendMsi s (u.msiWord (2 * v)).toNat ((u.msiWord (2 * v + 1)).toNat % 2 ^ 32)

/-- An interrupt of the command queue (0) or the fault queue (1) becomes pending: an MSI tells of it. -/
def ioInterrupt (s : State) (k : Nat) : State :=
  let u := s.hub.iommu
  if u.ipsr.getLsbD k then s
  else sendVector { s with hub := { s.hub with iommu := { u with ipsr := u.ipsr ||| BitVec.ofNat 32 (2 ^ k) } } }
    (u.icvec.toNat / 16 ^ k % 16)

/-- The command queue has an error, or a fence that asked to be told of, and tells of it. -/
def tellCommand (s : State) : State :=
  let c := s.hub.iommu.cqcsr.toNat
  if bitOf c 1 && decide (c / 256 % 16 ≠ 0) then ioInterrupt s 0 else s

/-! The fault queue. -/

/-- The entries of a queue, from its base register. -/
def ioEntries (base : Word) : Nat := 2 ^ (base.toNat % 32 + 1)

/-- The 32 bytes of a fault record: cause, kind of the request (2 a read, 3 a write), requester, address and second value. -/
def ioRecord (requester va : Nat) (write : Bool) (f : IoFault) : List Byte :=
  leBytes 8 (f.cause + (if write then 3 else 2) * 2 ^ 34 + requester % 2 ^ 24 * 2 ^ 40) ++ leBytes 8 0 ++ leBytes 8 va
    ++ leBytes 8 f.value

/-- The address of the next fault record. -/
def Iommu.faultSlot (u : Iommu) : Nat := ioPage u.fqb.toNat * 4096 + 32 * u.fqt

/-- A fault is recorded: the queue is on and the context does not leave it out. -/
def ioRecorded (s : State) (f : IoFault) : Bool := s.hub.iommu.fqcsr.getLsbD 16 && !f.quiet

/-- A fault's record must wait for the stack of its slot (17 R440). -/
def recordWaits (s : State) (f : IoFault) : Bool :=
  ioRecorded s f && match placeOf s s.hub.iommu.faultSlot with | some (.ram l) => !ramReady s none l 32 | _ => false

/-- A fault is recorded in the fault queue: one that is full overflows, and one that nothing answers fails, and then takes no
record until software has cleared that. -/
def recordFault (s : State) (requester va : Nat) (write : Bool) (f : IoFault) : State :=
  let u := s.hub.iommu
  let put (u : Iommu) : State := { s with hub := { s.hub with iommu := u } }
  let s :=
    if u.fqcsr.getLsbD 8 || u.fqcsr.getLsbD 9 then s
    else if (u.fqt + 1) % ioEntries u.fqb = u.fqh then put { u with fqcsr := u.fqcsr ||| 0x200 }
    else
      match placeOf s u.faultSlot with
      | some (.ram l) => agentStore (put { u with fqt := (u.fqt + 1) % ioEntries u.fqb }) (.ram l) (ioRecord requester va write f)
      | _ => put { u with fqcsr := u.fqcsr ||| 0x100 }
  if ioRecorded s f && u.fqcsr.getLsbD 1 then ioInterrupt s 1 else s

/-- A translation has met a fault. -/
def ioFail (s : State) (requester va : Nat) (write : Bool) (f : IoFault) : State :=
  if ioRecorded s f then recordFault s requester va write f else s

/-! The command queue. -/

/-- The command queue in error `bits` takes no further command, and tells of it. -/
def commandError (s : State) (bits : BitVec 32) : State :=
  tellCommand { s with hub := { s.hub with iommu := { s.hub.iommu with cqcsr := s.hub.iommu.cqcsr ||| bits } } }

/-- The command at the head of the queue is done. -/
def commandDone (s : State) : State :=
  let u := s.hub.iommu
  { s with hub := { s.hub with iommu := { u with cqh := (u.cqh + 1) % ioEntries u.cqb } } }

/-- The translations that an invalidation of the first stage, or of the second, drops (words of the command): one of the second
stage drops those of its guests whole. -/
def ioDropped (second : Bool) (a b : Nat) (e : IoEntry) : Bool :=
  let guest := if bitOf a 33 then e.gscid == some (a / 2 ^ 40 % 2 ^ 16) else if second then e.gscid.isSome else e.gscid.isNone
  guest && (second || (e.pscid.isSome && (!bitOf a 32 || e.pscid == some (a / 2 ^ 12 % 2 ^ 20))
    && (!bitOf a 10 || decide (e.page % 2 ^ 52 = b / 2 ^ 10 % 2 ^ 52))))

/-- A command of the IOMMU, by its two words: invalidations of translations (IOTINVAL) and of device contexts (IODIR), and the
fence (IOFENCE), whose requests have been performed by then. -/
def runCommand (s : State) (a b : Nat) : State :=
  let u := s.hub.iommu
  let put (u : Iommu) : State := commandDone { s with hub := { s.hub with iommu := u } }
  let illegal := commandError s 0x400
  match a % 2 ^ 7, a / 2 ^ 7 % 8 with
  | 1, 0 => put { u with entries := u.entries.filter fun e => !ioDropped false a b e }
  | 1, 1 => if bitOf a 32 then illegal else put { u with entries := u.entries.filter fun e => !ioDropped true a b e }
  | 2, 0 =>
    if bitOf a 11 then illegal
    else if !bitOf a 10 then commandDone s
    else
      match placeOf s (4 * (b % 2 ^ 62)) with
      | some (.ram l) =>
        if ramReady s none l 4 then commandDone (agentStore s (.ram l) (leBytes 4 (a / 2 ^ 32))) else s
      | some (.imsic p) => commandDone (imsicStore s p (leBytes 4 (a / 2 ^ 32)))
      | _ => commandError s 0x100
  | 3, 0 => put { u with devices := if bitOf a 33 then u.devices.filter fun e => e.device != a / 2 ^ 40 else [] }
  | _, _ => illegal

/-- The IOMMU takes the command at the head of its command queue, unless the queue is off, empty or in error, or the command's
stack is not ready. -/
def stepIommu (s : State) : State :=
  let u := s.hub.iommu
  if !u.cqcsr.getLsbD 16 || decide (u.cqh = u.cqt) || decide (u.cqcsr.toNat / 256 % 8 ≠ 0) then s
  else
    match ioRead s (ioPage u.cqb.toNat * 4096 + 16 * u.cqh) 16 0 0 with
    | .error e => if e.cause = stackHeld then s else commandError s 0x100
    | .ok w => runCommand s (w % 2 ^ 64) (w / 2 ^ 64)

/-! Registers. -/

/-- The base of the IOMMU's register block (17 R427). -/
def iommuBase : Nat := 0x10000080000

/-- The capability register (17 R435): version 1.0, Sv48 and Sv57 in both stages, flat MSI translation, interrupts by MSI,
physical addresses of 48 bits (R425). -/
def ioCapabilities : Word := BitVec.ofNat 64 (0x10 + 2 ^ 10 + 2 ^ 11 + 2 ^ 18 + 2 ^ 19 + 2 ^ 22 + 48 * 2 ^ 32)

/-- What an 8-byte load at offset `o` of the register block reads. -/
def iommuWord (u : Iommu) (o : Nat) : Word :=
  match o with
  | 0 => ioCapabilities
  | 16 => u.ddtp
  | 24 => u.cqb
  | 32 => BitVec.ofNat 64 (u.cqh + u.cqt * 2 ^ 32)
  | 40 => u.fqb
  | 48 => BitVec.ofNat 64 (u.fqh + u.fqt * 2 ^ 32)
  | 72 => BitVec.ofNat 64 (u.cqcsr.toNat + u.fqcsr.toNat * 2 ^ 32)
  | 80 => BitVec.ofNat 64 (u.ipsr.toNat * 2 ^ 32)
  | 0x2F8 => u.icvec
  | o => if 0x300 ≤ o ∧ o < 0x400 then u.msiWord ((o - 0x300) / 8) else 0

/-- The control register of a queue after a write of `v`: enable and interrupt enable are written, errors in `errors` are cleared
by a 1, and the queue is on while it is enabled. -/
def queueControl (old errors : BitVec 32) (v : Nat) : BitVec 32 :=
  let kept : BitVec 32 := if bitOf v 0 && !old.getLsbD 16 then 0 else old &&& errors &&& ~~~BitVec.ofNat 32 v
  kept ||| BitVec.ofNat 32 (v % 4 + (if bitOf v 0 then 2 ^ 16 else 0))

/-- The bits of a queue's base register that are not reserved, and of the directory pointer. -/
def ioBaseMask : Word := 0x003FFFFFFFFFFC1F

/-- The register block after a store: `w` is the 8-byte word at offset `o` as the store leaves it, `raw` the bytes stored, in
their places among zeros, `low` and `high` the halves that it covers. -/
def iommuWrite (u : Iommu) (o : Nat) (w raw : Word) (low high : Bool) : Iommu :=
  let half (k : Nat) : Nat := w.toNat / 2 ^ (32 * k) % 2 ^ 32
  match o with
  | 16 => if w.toNat % 16 ≤ 4 then { u with ddtp := w &&& 0x003FFFFFFFFFFC0F } else u
  | 24 => { u with cqb := w &&& ioBaseMask }
  | 32 => if high then { u with cqt := half 1 % ioEntries u.cqb } else u
  | 40 => { u with fqb := w &&& ioBaseMask }
  | 48 => if low then { u with fqh := half 0 % ioEntries u.fqb } else u
  | 72 =>
    let u := if low then { u with
      cqcsr := queueControl u.cqcsr 0xF00 (half 0)
      cqh := if w.getLsbD 0 && !u.cqcsr.getLsbD 16 then 0 else u.cqh } else u
    if high then { u with
      fqcsr := queueControl u.fqcsr 0x300 (half 1)
      fqt := if w.getLsbD 32 && !u.fqcsr.getLsbD 16 then 0 else u.fqt } else u
  | 80 => { u with ipsr := u.ipsr &&& ~~~(raw >>> 32).truncate 32 }
  | 0x2F8 => { u with icvec := w &&& 0xFF }
  | o =>
    if 0x300 ≤ o ∧ o < 0x400 then
      let i := (o - 0x300) / 8
      { u with msis := Tab.set 0 i (w &&& (if i % 2 = 0 then 0x00FFFFFFFFFFFFFC else 0x1FFFFFFFF)) u.msis }
    else u

/-- A store of bytes at offset `o` of the register block, of 4 or 8 bytes and naturally aligned: a vector that is masked no
longer is sent, and an interrupt whose cause stands is pending again. -/
def writeIommu (s : State) (o : Nat) (b : List Byte) : State :=
  if !(b.length == 4 || b.length == 8) || decide (o % b.length ≠ 0) then s
  else
    let k := o % 8
    let old := leBytes 8 (iommuWord s.hub.iommu (o - k)).toNat
    let w := leWord (old.take k ++ b ++ old.drop (k + b.length))
    let raw := leWord (List.replicate k 0 ++ b)
    let u := iommuWrite s.hub.iommu (o - k) w raw (decide (k = 0)) (decide (k + b.length = 8))
    let free := u.masked.filter fun v => !(u.msiWord (2 * v + 1)).getLsbD 32
    let u := { u with masked := u.masked.filter fun v => !free.contains v }
    let s := free.foldl sendVector { s with hub := { s.hub with iommu := u } }
    let s := tellCommand s
    if u.fqcsr.getLsbD 1 && (u.fqcsr.getLsbD 8 || u.fqcsr.getLsbD 9) then ioInterrupt s 1 else s

end Sys2Proof.Machine
end

