-- ==== Sys2Proof/Machine/Ecam.lean ====
section
/-! DEFINITION. The configuration space of the root ports (17 R427, R434, R448, R457). The registers of a port are those of a PCI
Express root port, which the spec names and does not repeat (log 79). -/

namespace Sys2Proof.Machine

/-- The base of ECAM space (17 R427): 256 MiB for each root port. -/
def ecamBase : Nat := 0x30000000000

/-- The logic of root port `j` is ready (17 R448). -/
def portReady (h : Hub) (j : Nat) : Bool := decide (j < 8) && h.ready.getLsbD (23 + j)

/-- The link of the `n`-th of 32 ports is up (17 R434). -/
def portUp (h : Hub) (n : Nat) : Bool := h.pcieUp.getLsbD n

/-- The greatest width of a port's link: 16 lanes, or 8 or 4 where its root port is bifurcated (17 R434). -/
def portLanes (h : Hub) (j : Nat) : Nat := 16 / portCount h j

/-- The link control and status register of port `k` of root port `j` but for its control bits: the rate and the width that its
link trained to, which both ends choose, and whether it is up (17 R434, R448). -/
def linkStatus (h : Hub) (j k : Nat) : Nat :=
  if portUp h (4 * j + k) then
    let l := Config.portLink (4 * j + k)
    2 ^ 29 + (1 + l.1 % 7) * 2 ^ 16 + min (max 1 l.2) (portLanes h j) * 2 ^ 20
  else 0

/-- What a register of port `k` of root port `j` reads where it cannot be written: a bridge of type 1 with the PCI Express
capability of a root port, 10-bit tags, and AER (17 R434). -/
def portFixed (h : Hub) (j k o : Nat) : Nat :=
  match o with
  | 0x00 => Config.portIdentity
  | 0x04 => 0x100000
  | 0x08 => 0x6040000
  | 0x0C => 0x10000
  | 0x24 => 0x10001
  | 0x34 => 0x40
  | 0x40 => 0x420010
  | 0x44 => 0x8000
  | 0x4C => 7 + portLanes h j * 16 + (4 * j + k) * 2 ^ 24
  | 0x50 => linkStatus h j k
  | 0x64 => 0x30000
  | 0x100 => 0x20001
  | 0x104 => (h.aer.getLsbD (4 * j + k)).toNat * 2 ^ 20
  | _ => 0

/-- The bits of a register of a port that a write changes. -/
def portMask (o : Nat) : BitVec 32 :=
  match o with
  | 0x04 => 0x547
  | 0x0C => 0xFF
  | 0x18 => 0x00FFFFFF
  | 0x20 => 0xFFF0FFF0
  | 0x24 => 0xFFF0FFF0
  | 0x28 => 0xFFFFFFFF
  | 0x2C => 0xFFFFFFFF
  | 0x3C => 0x005F00FF
  | 0x48 => 0x7FFF
  | 0x50 => 0x0FFB
  | 0x5C => 0xF
  | 0x68 => 0x13F0
  | 0x108 => 0x07FFF030
  | 0x10C => 0x07FFF030
  | _ => 0

/-- The 4-byte register at offset `o` of port `k` of root port `j`. -/
def portWord (h : Hub) (j k o : Nat) : BitVec 32 :=
  BitVec.ofNat 32 (portFixed h j k o) ||| (Tab.get 0 h.config (configWordAt j k o) &&& portMask o)

/-- The port of a root port whose secondary to subordinate bus numbers hold a bus. -/
def busPort (h : Hub) (j bus : Nat) : Option Nat :=
  (List.range (portCount h j)).find? fun k =>
    let w := (portWord h j k 0x18).toNat
    decide (w / 2 ^ 8 % 256 ≤ bus) && decide (bus ≤ w / 2 ^ 16 % 256)

/-- What a configuration request finds at offset `e` of ECAM space: the register of a port, a function behind a port whose link
is up, or nothing. -/
inductive ConfigAt where
  | port (j k o : Nat)
  | behind
  | nothing
  deriving DecidableEq, Repr

/-- What is at offset `e` of ECAM space. The ports that a root port is bifurcated to are the first devices of its bus 0. A port
that is not ready, or whose link is down, answers for nothing (17 R448). -/
def configAt (h : Hub) (e : Nat) : ConfigAt :=
  let j := e / 2 ^ 28
  let bus := e / 2 ^ 20 % 256
  let device := e / 2 ^ 15 % 32
  if !portReady h j then .nothing
  else if bus = 0 then
    if device < portCount h j ∧ e / 2 ^ 12 % 8 = 0 then .port j device (e % 4096 / 4 * 4) else .nothing
  else
    match busPort h j bus with
    | some k => if portUp h (4 * j + k) then .behind else .nothing
    | none => .nothing

/-- What a load of the 4-byte word at offset `e` of ECAM space reads in step `n`: all ones where nothing answers. -/
def configWord (h : Hub) (n e : Nat) : BitVec 32 :=
  match configAt h e with
  | .port j k o => portWord h j k o
  | .behind => Config.deviceConfig n e
  | .nothing => 0xFFFFFFFF

/-- The hub after a store of up to 4 bytes at offset `e` of ECAM space: a register of a port takes its writable bits, and the
logged error of AER is cleared by a 1; what a function behind a port makes of it is its own. -/
def writeConfig (h : Hub) (e : Nat) (b : List Byte) : Hub :=
  match configAt h e with
  | .port j k o =>
    let i := e % 4
    let raw := leNat (List.replicate i 0 ++ b)
    let old := leBytes 4 (Tab.get 0 h.config (configWordAt j k o)).toNat
    let new : BitVec 32 := BitVec.ofNat 32 (leNat (old.take i ++ b ++ old.drop (i + b.length)))
    if o = 0x104 then
      if bitOf raw 20 then { h with aer := h.aer &&& ~~~BitVec.ofNat 32 (2 ^ (4 * j + k)) } else h
    else { h with config := Tab.set 0 (configWordAt j k o) (new &&& portMask o) h.config }
  | _ => h

/-- Root port `j` is bifurcated to 2 or 4 ports, or is one, before its link training begins (17 R434). -/
def bifurcate (s : State) (j ports : Nat) : State :=
  if portReady s.hub j || decide (8 ≤ j) || !(ports == 1 || ports == 2 || ports == 4) then s
  else { s with hub := { s.hub with splits := Tab.set 1 j ports s.hub.splits } }

end Sys2Proof.Machine
end

