-- ==== Sys2Proof/Machine/Hub.lean ====
section
/-! DEFINITION. The hub: its register block (17 R428 to R430), gating and waking (02 R66; 17 R447), power (17 R444 to
R446), the security mailbox (15 R394 to R399; 17 R427), errors (16 R418 to R420), links (17 R434 to R436, R448) and the
stores of application cores and PCI Express devices (17 R425, R435, R443). -/

namespace Sys2Proof.Machine

/-! Waking and gating. -/

/-- A gated cluster or die finishes its wake sequence and reports ready (02 R66): a die once every enabled stack of it has
passed its check. -/
def execWakeComplete (u : UnitName) (s : State) : Res :=
  match u with
  | .cluster c =>
    if (s.cluster c).waking then
      .next (applyLatches (s.setCluster c { s.cluster c with waking := false }) fun q => decide (Config.doorbellCluster q = c))
    else .next s
  | .die d =>
    if s.hub.wakingDies.contains d && s.hub.checking.all (fun k => k / 3 != d) then
      .next (applyLatches { s with hub := { s.hub with wakingDies := s.hub.wakingDies.filter fun e => e != d } } fun q =>
        decide (dieOf q = d))
    else .next s
  | .hart _ => .next s
  | .core _ => .next s

/-- The cluster holds no placed and no suspended work (17 R447). -/
def clusterIdle (s : State) (cl : Nat) : Bool :=
  let c := s.cluster cl
  c.link.isEmpty && c.backlog.isEmpty && c.queue.isEmpty && c.tasks.isEmpty
    && (s.harts.all fun e => decide (clusterOf e.1 ≠ cl) || e.2.run == .free)
    && s.keel.saved.all fun r => decide (clusterOf r.hartid ≠ cl)

/-- The Keel gates a cluster that has been idle for 1 ms (17 R447). -/
def execGateCluster (cl : Nat) (s : State) : Res :=
  if keelReady s && s.hub.gateClusters && decide (coresIn s cl ≠ 0) && !(s.cluster cl).waking && clusterIdle s cl then
    .next (s.setCluster cl { s.cluster cl with gated := true })
  else .next s

/-- The Keel gates a die once all its clusters have been gated for 10 ms (17 R447). -/
def execGateDie (d : Nat) (s : State) : Res :=
  let l := s.plate.clusters.filter fun e => decide (e.1 = d)
  if keelReady s && s.hub.gateDies && !l.isEmpty && l.all (fun e => (s.cluster (16 * d + e.2.1)).gated)
      && !s.hub.gatedDies.contains d && !s.hub.wakingDies.contains d then
    .next { s with hub := { s.hub with gatedDies := sortAsc (d :: s.hub.gatedDies) } }
  else .next s

/-- GATECTL (17 R428, R447): clearing a bit wakes every unit that the bit governs. -/
def execGatectlWrite (v : Word) (s : State) : Res :=
  let s := { s with hub := { s.hub with gateClusters := v.getLsbD 0, gateDies := v.getLsbD 1 } }
  let s := if v.getLsbD 0 then s else s.clusters.foldl (fun s e => wakeCluster s e.1) s
  .next (if v.getLsbD 1 then s else s.hub.gatedDies.foldl wakeDie s)

/-! Registers. -/

/-- The base of the hub register block (17 R425). -/
def hubBase : Nat := 0x10000000000
/-- The base of the security mailbox (17 R427). -/
def mailboxBase : Nat := 0x10000020000

/-- DEVIDSET (17 R428): honoured once per reset. -/
def execDevidsetWrite (v : Word) (s : State) : Res :=
  if s.hub.devidSet ∨ v.toNat / 2 ^ 22 ≠ 0 then .next s
  else .next { s with hub := { s.hub with devid := v.truncate 22, devidSet := true } }

/-- CTXBASE, SAVEBASE and SAVESIZE may be written: no context is loaded and no save record is in use (17 R428). -/
def basesFree (s : State) : Bool :=
  (s.contexts.all fun e => !e.2.valid) && s.keel.saved.isEmpty && s.keel.cores.isEmpty

/-- THERMCTL after a write (17 R445): HOT is cleared by a 1, a limit outside its range is ignored. -/
def writeThermctl (h : Hub) (v : Word) : Hub :=
  let t := v.toNat / 2 ^ 16 % 256
  let p := v.toNat % 2 ^ 16
  { h with
    hot := h.hot && !v.getLsbD 24
    tlimit := if 80 ≤ t ∧ t ≤ 105 then t else h.tlimit
    plimit := if 150 ≤ p ∧ p ≤ 320 then p else h.plimit }

/-- An RBIND entry without its reserved bits (15 R392). -/
def rbindMask : Word := 0xE03FFFFFFFFFFFFF
/-- A ROUTE entry without its reserved bits (17 R437). -/
def routeMask : Word := 0x9F3FFFFF0000FFFF

/-- The hub after a write of `v` at offset `o` of its register block, for the registers without behaviour of their own
(17 R428). -/
def writeHub (s : State) (o : Nat) (v : Word) : Hub :=
  let h := s.hub
  match o with
  | 0x0000 => if basesFree s && decide (v.toNat % 2 ^ 22 = 0) then { h with ctxbase := v } else h
  | 0x0008 => if basesFree s && decide (v.toNat % 2 ^ 20 = 0) then { h with savebase := v } else h
  | 0x0010 => if basesFree s && decide (v.toNat % 2 ^ 20 = 0) then { h with savesize := v } else h
  | 0x0018 => { h with tivqcb := v }
  | 0x0020 => { h with faultqcb := v }
  | 0x0048 => { h with watchqcb := v }
  | 0x0058 => writeThermctl h v
  | 0x0078 => if 1 ≤ v.toNat ∧ v.toNat ≤ 24 then { h with scrub := v.toNat } else h
  | o =>
    if 0x0080 ≤ o ∧ o ≤ 0x00F8 then
      let k := (o - 0x80) / 8
      { h with cecount := Tab.set 0 k (Tab.get 0 h.cecount k &&& ~~~v) h.cecount }
    else if 0x8000 ≤ o ∧ o ≤ 0xFFF8 then { h with rbind := Tab.set 0 ((o - 0x8000) / 8) (v &&& rbindMask) h.rbind }
    else if 0x10000 ≤ o ∧ o ≤ 0x107F8 then { h with route := Tab.set 0 ((o - 0x10000) / 8) (v &&& routeMask) h.route }
    else h

/-- What an 8-byte load of an application core reads at offset `o` of the hub register block (17 R428, R444 to R448). DEVIDSET
reads the device identifier in force, which a warm reset keeps (16 R422); the spec does not say what DEVIDSET itself then
reads (the model's choice: log 80). -/
def hubWord (s : State) (o : Nat) : Word :=
  let h := s.hub
  match o with
  | 0x0000 => h.ctxbase
  | 0x0008 => h.savebase
  | 0x0010 => h.savesize
  | 0x0018 => h.tivqcb
  | 0x0020 => h.faultqcb
  | 0x0038 => h.devid.zeroExtend 64
  | 0x0048 => h.watchqcb
  | 0x0050 => h.ready
  | 0x0058 => BitVec.ofNat 64 (h.hot.toNat * 2 ^ 24 + h.tlimit * 2 ^ 16 + h.plimit)
  | 0x0060 => BitVec.ofNat 64 ((1700 - 100 * h.thermal) * 16 + h.thermal)
  | 0x0068 => BitVec.ofNat 64 h.power
  | 0x0070 => BitVec.ofNat 64 (h.gateDies.toNat * 2 + h.gateClusters.toNat)
  | 0x0078 => BitVec.ofNat 64 h.scrub
  | 0x0100 => h.watchbad
  | 0x0108 => BitVec.ofNat 64 (reservedBase s.plate)
  | 0x0110 => 0x40000000
  | 0x0118 => h.fabstat.zeroExtend 64
  | o =>
    if o % 8 ≠ 0 then 0
    else if 0x0080 ≤ o ∧ o ≤ 0x00F8 then Tab.get 0 h.cecount ((o - 0x80) / 8)
    else if 0x1000 ≤ o ∧ o ≤ 0x11F8 then Tab.get 0 h.temps ((o - 0x1000) / 8)
    else if 0x8000 ≤ o ∧ o ≤ 0xFFF8 then Tab.get 0 h.rbind ((o - 0x8000) / 8)
    else if 0x10000 ≤ o ∧ o ≤ 0x107F8 then Tab.get 0 h.route ((o - 0x10000) / 8)
    else 0

/-- What a naturally aligned load of `n` bytes at offset `o` of the hub register block reads (17 R428). -/
def hubBytes (s : State) (o n : Nat) : Nat := (hubWord s (o / 8 * 8)).toNat / 2 ^ (8 * (o % 8)) % 2 ^ (8 * n)

/-- MBSTAT (17 R427). -/
def mbstatWord (c : Security) : Word := BitVec.ofNat 64 (c.length * 2 ^ 32 + c.result * 2 ^ 8 + c.busy.toNat)

/-- What an 8-byte load of an application core in machine mode reads at offset `o` of the mailbox (17 R427): MBCMD is write-only
and reads zero (00 R5). -/
def mailboxWord (c : Security) (o : Nat) : Word :=
  match o with
  | 0x008 => mbstatWord c
  | 0x010 => c.opAddr
  | 0x018 => c.opLen
  | 0x020 => c.rspAddr
  | 0x028 => c.rspLen
  | _ => 0

/-- The mailbox after a write of `v` at offset `o` (17 R427); the address of a buffer is a multiple of 64. -/
def writeMailbox (c : Security) (o : Nat) (v : Word) : Security :=
  match o with
  | 0x010 => if v.toNat % 64 = 0 then { c with opAddr := v } else c
  | 0x018 => { c with opLen := v }
  | 0x020 => if v.toNat % 64 = 0 then { c with rspAddr := v } else c
  | 0x028 => { c with rspLen := v }
  | _ => c

/-- FAULTREPLY (16 R407): ACTION 2 and 3 are ignored. -/
def writeReply (s : State) (v : Word) : Res :=
  match v.toNat % 4 with
  | 0 => execFaultreplyResume (v.toNat / 256) s
  | 1 => execFaultreplyKill (v.toNat / 256) s
  | _ => .next s

/-! The security mailbox. -/

/-- Record `k` of the Plate; one whose signature fails is ignored (15 R394). -/
def Plate.record (p : Plate) (k : Nat) : Option (List Byte) :=
  let b := Config.plateRecord p.source k
  if ed25519Verify Config.plateKey b (Config.plateSignature p.source k) then some b else none

/-- The identity seed, unsealed from the record of the Plate that holds it (15 R394, R397). -/
def identitySeed (p : Plate) : List Byte := Config.unseal ((p.record 1).getD [])

/-- The attestation seed of this reset (15 R398). -/
def attestationSeed (s : State) : List Byte :=
  (leBytes 64 (digest (identitySeed s.plate ++ (List.range 32).map (Config.randomByte s.sec.nonceSeed))).toNat).take 32

/-- The report that QUOTE returns (15 R398). -/
def quoteReport (s : State) (nonce : List Byte) : List Byte :=
  let seed := attestationSeed s
  let pub := slice (ed25519Public seed) 0 32
  let head := nonce ++ leBytes 64 s.sec.measure.toNat ++ leBytes 4 s.sec.extcount.toNat ++ leBytes 4 s.hub.devid.toNat
    ++ Config.partNumber ++ leBytes 8 (capaWord s.plate).toNat ++ leBytes 8 (capbWord s).toNat ++ pub
  let body := head ++ slice (ed25519Sign (identitySeed s.plate) (slice head 144 32)) 0 64
  body ++ slice (ed25519Sign seed body) 0 64

/-- The length that the operand of a command must have, none where any will do (15 R399). -/
def commandLength (code : Nat) : Option Nat :=
  match code with
  | 1 => some 32
  | 2 => some 64
  | 3 => some 0
  | _ => none

/-- What a command does with its operand (15 R394 to R399): its RESULT, its response and the state after it. EXTEND makes M
SHA-512(M ‖ d) and returns the new EXTCOUNT; IDENTITY returns the identity public key and its certificate; PLATEUPD has a signed
package with a higher sequence number accepted for the next cold reset. -/
def commandEffect (s : State) (code : Nat) (b : List Byte) : Nat × List Byte × State :=
  match code with
  | 1 => (0, quoteReport s b, s)
  | 2 =>
    let n := s.sec.extcount + 1
    let m := digest (leBytes 64 s.sec.measure.toNat ++ b)
    (0, leBytes 4 n.toNat, { s with sec := { s.sec with measure := m, extcount := n } })
  | 3 => (0, slice (ed25519Public (identitySeed s.plate)) 0 32 ++ (s.plate.record 4).getD [], s)
  | 4 =>
    let q := Config.packageSequence b
    if ed25519Verify Config.plateKey b (Config.packageSignature b) && decide (s.plate.sequence < q) then
      (0, [], { s with plate := { s.plate with pending := some ⟨q, b⟩ } })
    else (1, [], s)
  | _ => (2, [], s)

/-- The operand of a command lies in memory that answers the mailbox. -/
def operandOk (s : State) : Bool :=
  let a := s.sec.opAddr.toNat
  let n := s.sec.opLen.toNat
  decide (n = 0) || (dramOk s a && dramOk s (a + n - 1))

/-- The mailbox has done a command, and BUSY stays set until its response is written: one that is longer than its buffer gives
RESULT 2 (17 R427). -/
def mailboxDone (r : Nat × List Byte × State) : State :=
  let t := r.2.2
  let long := decide (t.sec.rspLen.toNat < r.2.1.length)
  { t with sec := { t.sec with
    busy := true
    command := none
    result := if long then 2 else r.1
    length := if long then 0 else r.2.1.length
    response := if long then [] else r.2.1 } }

/-- The mailbox performs a command (17 R427): an operand of another length, or an unknown code, gives RESULT 2; one that does not
lie in memory, or that a soft error has poisoned, is refused, which the spec leaves open (the model's choice: log 54), and a
KIND 6 record tells of the poison (16 R420). It waits while the stack of its operand is not ready (17 R448). -/
def performCommand (s : State) (code : Nat) : State :=
  let a := s.sec.opAddr.toNat
  let n := s.sec.opLen.toNat
  let bad := match commandLength code with | some k => decide (n ≠ k) | none => decide (code ≠ 4)
  if bad then mailboxDone (2, [], s)
  else if !operandOk s then mailboxDone (1, [], s)
  else if decide (n ≠ 0) && !ramReady s none a n then { s with sec := { s.sec with busy := true, command := some code } }
  else if taintPlace s (.ram a) n ≠ .sound then mailboxDone (1, [], reportError s a)
  else mailboxDone (commandEffect (recallSpan s none (.ram a) n) code (readPlace s (.ram a) n))

/-- A command starts (17 R427, R448): it is ignored while BUSY and before MAILBOX is ready. -/
def mailboxStart (s : State) (code : Nat) : Res :=
  if s.sec.busy || !s.hub.ready.getLsbD 53 then .next s else .next (performCommand s code)

/-- QUOTE (15 R398, R399). -/
def execQuote (s : State) : Res := mailboxStart s 1

/-- EXTEND (15 R396, R399). -/
def execExtend (s : State) : Res := mailboxStart s 2

/-- IDENTITY (15 R397, R399). -/
def execIdentity (s : State) : Res := mailboxStart s 3

/-- PLATEUPD (15 R394, R399). -/
def execPlateupd (s : State) : Res := mailboxStart s 4

/-- A command finishes (17 R427): the response lies at MBRSPADDR, BUSY clears and APLIC source 5 is raised, once the stacks of its
buffers are ready (R448). -/
def execMailboxComplete (s : State) : Res :=
  let a := s.sec.rspAddr.toNat
  let n := s.sec.response.length
  let lies := decide (n ≠ 0) && dramOk s a && dramOk s (a + n - 1)
  if !s.sec.busy then .next s
  else
    match s.sec.command with
    | some code => .next (performCommand s code)
    | none =>
      if lies && !ramReady s none a n then .next s
      else
        let s' := if lies then agentStore s (.ram a) s.sec.response else s
        .next (raiseAplic { s' with sec := { s'.sec with busy := false, response := [] } } 5)

/-! Power. -/

/-- TEMP of a monitor word in 1/16 °C (17 R444). -/
def sensorTemp (w : Word) : Int := signed 16 w.toNat

/-- The power controller acts each millisecond on what it finds (17 R444 to R446). -/
def execThermalStepEval (r : ThermalReading) (s : State) : Res :=
  let h := s.hub
  let words := (r.temps.take 53).map fun w => w &&& 0x0000FFFFFFFFFFFF
  let sensors := (words.take 52).map sensorTemp
  let hotNow := sensors.any fun t => decide ((h.tlimit : Int) * 16 ≤ t)
  let cool := sensors.all (fun t => decide (t < ((h.tlimit : Int) - 5) * 16)) && decide (r.power ≤ 9 * h.plimit)
  let up := hotNow || decide (10 * h.plimit < r.power)
  let n := if cool then h.coolFor + 1 else 0
  let k := if up then min 8 (h.thermal + 1) else if 10 ≤ n then h.thermal - 1 else h.thermal
  let flagged := hotNow && decide (h.thermal = 8)
  let temps := Tab.sets 0 (List.zip (List.range words.length) words) []
  let s := { s with hub := { h with thermal := k, coolFor := n, power := r.power, temps := temps, hot := h.hot || flagged } }
  .next (if flagged then raiseAplic s 1 else s)

/-! Errors. -/

/-- The sectors of `n` bytes are poisoned in DRAM itself (16 R419). -/
def uncache (s : State) (l n : Nat) : State :=
  { s with cached := s.cached.filter fun e => !(decide (l / 32 ≤ e.1) && decide (e.1 ≤ (l + n - 1) / 32)) }

/-- Only a cache holds what has poisoned a sector, and DRAM holds it sound: no byte of it was stored since (16 R419, R421). -/
def inCache (s : State) (k : Nat) : Bool :=
  Tab.get false s.cached k && (List.range 32).all fun i => !Tab.get false s.dirty (32 * k + i)

/-- The sectors of `n` bytes of DRAM are poisoned in the cache that holds them (16 R418): those whose DRAM copy is sound are
noted. -/
def spoilCache (s : State) (l n : Nat) : State :=
  let sound (k : Nat) : Bool := (List.range 32).all fun i => Tab.get .sound s.taint (32 * k + i) == .sound
  let l' := ((List.range ((l + n - 1) / 32 + 1 - l / 32)).map (l / 32 + ·)).filter fun k => sound k || Tab.get false s.cached k
  { setTaint s l n .error with cached := l'.foldl (fun m k => Tab.set false k true m) s.cached }

/-- The patrol scrub reads a sector of DRAM (16 R418, R420): one that cannot be corrected is poisoned and recorded. -/
def execPatrolScrub (pa : Nat) (bad : Bool) (s : State) : Res :=
  let a := pa / 32 * 32
  if !(decide (pa < 4 * dieSpan) && decide (pa % dieSpan < dieBytes s.plate (pa / dieSpan))) then .next s
  else if bad then .next (reportError (uncache (setTaint (performAll s) a 32 .error) a 32) pa)
  else if (List.range 32).any (fun i => Tab.get .sound s.taint (a + i) == .error) && !inCache s (a / 32) then
    .next (reportError s pa)
  else .next s

/-- An uncorrectable error outside any hart (16 R418, R420): the sector is poisoned and a KIND 6 record is written. -/
def execUncorrectableError (pa : Nat) (s : State) : Res :=
  if dramOk s pa then .next (reportError (uncache (setTaint (performAll s) (pa / 32 * 32) 32 .error) pa 1) pa) else .next s

/-- A corrected error in a unit: the count of its class rises, up to 2^64 − 1 (16 R418; 17 R428). -/
def countCorrected (s : State) (unit : Nat) : State :=
  if 9 ≤ unit then s
  else
    let n := Tab.get 0 s.hub.cecount unit
    { s with hub := { s.hub with cecount := Tab.set 0 unit (if n = BitVec.allOnes 64 then n else n + 1) s.hub.cecount } }

/-- An uncorrectable error in the tags, the directory, a control block's home or a watch table (16 R418): every sector of the
line is poisoned where the cache holds it, and one KIND 6 record is written. -/
def lineError (s : State) (pa : Nat) : State :=
  if dramOk s pa then reportError (spoilCache (performAll s) (pa / 128 * 128) 128) (pa / 128 * 128) else s

/-! Links. -/

/-- The dies that a UCIe link joins; 4 is the hub die (17 R448). -/
def linkDies (n : Nat) : Nat × Nat :=
  match n with
  | 0 => (4, 0)
  | 1 => (4, 1)
  | 2 => (4, 2)
  | 3 => (4, 3)
  | 4 => (0, 1)
  | 5 => (0, 2)
  | 6 => (0, 3)
  | 7 => (1, 2)
  | 8 => (1, 3)
  | _ => (2, 3)

/-- The dies whose memory a job moves bytes of. -/
def jobDies (j : Job) : List Nat :=
  j.pieces.flatMap fun p => (p.src.toList ++ [p.dst]).filterMap fun q =>
    match q with
    | .ram l => if l < 4 * dieSpan then some (dieOf l) else none
    | _ => none

/-- A started job uses a link (16 R418; 17 R436): its one fabric port, the link of its die to the hub die, or a link to a die
whose memory it moves; a job that is refused, waits for an edge or has no byte to move uses none. -/
def jobUses (s : State) (j : Job) (l : LinkName) : Bool :=
  let die := clusterOf j.hart / 16
  let moves := j.started && j.result == 0 && !jobWaits s j && decide (j.total ≠ 0)
  match l with
  | .fabric p => jobRemote s j && jobPort s j == some p
  | .ucie n =>
    let e := linkDies n
    if e.1 = 4 then decide (e.2 = die) && jobRemote s j && !(jobDevices s j).isEmpty
    else moves && ((decide (e.1 = die) && (jobDies j).contains e.2) || (decide (e.2 = die) && (jobDies j).contains e.1))
  | .pcie p =>
    moves && j.pieces.any fun q => (q.src.toList ++ [q.dst]).any fun r =>
      match r with
      | .window a => decide (windowPort s.hub a = p)
      | _ => false

/-- The hub after a link has come up or gone down: FABSTAT, or the status of one of the 32 ports that the root ports may be
split into (17 R428, R434, R448). -/
def setLink (h : Hub) (l : LinkName) (up : Bool) : Hub :=
  match l with
  | .ucie _ => h
  | .fabric n =>
    let b : BitVec 16 := BitVec.ofNat 16 (2 ^ (n % 16))
    { h with fabstat := if up then h.fabstat ||| b else h.fabstat &&& ~~~b }
  | .pcie n =>
    let b : BitVec 32 := BitVec.ofNat 32 (2 ^ (n % 32))
    { h with pcieUp := if up then h.pcieUp ||| b else h.pcieUp &&& ~~~b }

/-- The APLIC source of a link's events (17 R427). -/
def linkSource (l : LinkName) : Nat :=
  match l with
  | .ucie _ => 2
  | .fabric _ => 3
  | .pcie _ => 4

/-- A link goes down, and the jobs that use it complete with UNREACHABLE (16 R418; 17 R436). What a job that starts later does at
a PCI Express window whose link is down, 17 R457 says. -/
def execLinkDown (l : LinkName) (s : State) : Res :=
  let lost := s.jobs.filter fun j => jobUses s j l
  let s := raiseAplic { s with hub := setLink s.hub l false } (linkSource l)
  .next (lost.foldl (fun s j => endJob s j 0x30000) s)

/-- A port's logic is ready to train (17 R448). -/
def linkReady (s : State) (l : LinkName) : Bool :=
  match l with
  | .ucie n => decide (n < 10) && s.hub.ready.getLsbD (13 + n)
  | .fabric n => decide (n < 16) && s.hub.ready.getLsbD (31 + n)
  | .pcie n => portReady s.hub (n / 4) && decide (n % 4 < portCount s.hub (n / 4))

/-- A link finishes training and comes up (17 R428, R448). -/
def execLinkUp (l : LinkName) (s : State) : Res :=
  if linkReady s l then .next (raiseAplic { s with hub := setLink s.hub l true } (linkSource l)) else .next s

/-! The APLIC (17 R427, R431). Its registers are those of the RISC-V AIA, which the spec names and does not repeat (log 79). -/

/-- The base of the APLIC's machine-level domain; its child lies 16 KiB above (17 R427). -/
def aplicBase : Nat := 0x10000040000

/-- A domain of the APLIC. -/
def Hub.domain (h : Hub) (machine : Bool) : Aplic := if machine then h.aplicM else h.aplicS

/-- The hub with a domain of the APLIC as given. -/
def Hub.withDomain (h : Hub) (machine : Bool) (a : Aplic) : Hub := if machine then { h with aplicM := a } else { h with aplicS := a }

/-- A wired source that is implemented, and that a domain takes (17 R427). -/
def sourceActive (h : Hub) (machine : Bool) (n : Nat) : Bool := decide (1 ≤ n) && decide (n ≤ 5) && sourceMode h machine n != 0

/-- The address of the MSI of a target word, from the machine-level domain's address registers. -/
def aplicAddress (h : Hub) (machine : Bool) (target : Nat) : Nat :=
  let reg (i : Nat) : Nat := (Tab.get 0 h.aplicM.addresses i).toNat
  let m := reg 1
  let low := if machine then reg 0 else reg 2
  let high := if machine then m else reg 3
  let hart := target / 2 ^ 18 % 2 ^ 14
  let lhxw := m / 2 ^ 12 % 16
  let hhxw := m / 2 ^ 16 % 8
  let page := (low + high % 2 ^ 12 * 2 ^ 32) ||| (hart / 2 ^ lhxw % 2 ^ hhxw) <<< (m / 2 ^ 24 % 32 + 12)
    ||| (hart % 2 ^ lhxw) <<< (high / 2 ^ 20 % 8) ||| (if machine then 0 else target / 2 ^ 12 % 64)
  page * 4096

/-- A domain sends the MSI of a source that is pending and enabled, which is then pending no longer. -/
def sendWired (s : State) (machine : Bool) (n : Nat) : State :=
  let a := s.hub.domain machine
  if a.enabled && a.pending.contains n && a.enables.contains n && sourceActive s.hub machine n then
    let t := (Tab.get 0 a.targets n).toNat
    sendMsi { s with hub := s.hub.withDomain machine { a with pending := a.pending.filter fun k => k != n } }
      (aplicAddress s.hub machine t) (t % 2 ^ 11)
  else s

/-- The configuration of a source in a domain: delegation for the machine-level domain alone, and a mode the AIA defines. A
source that the domain does not take is neither pending nor enabled there. -/
def configureSource (h : Hub) (machine : Bool) (n : Nat) (v : BitVec 32) : Hub :=
  let mode := v.toNat % 8
  let w : BitVec 32 := if machine && v.getLsbD 10 then 0x400 else if mode = 2 ∨ mode = 3 then 0 else BitVec.ofNat 32 mode
  let a := h.domain machine
  let h := h.withDomain machine { a with sources := Tab.set 0 n w a.sources }
  [true, false].foldl (fun h m =>
    let a := h.domain m
    if sourceActive h m n then h
    else h.withDomain m { a with
      pending := a.pending.filter fun k => k != n
      enables := a.enables.filter fun k => k != n }) h

/-- The sources that a word of a set or clear register names. -/
def namedSources (v : BitVec 32) : List Nat := (List.range 32).filter fun i => v.getLsbD i

/-- A 4-byte store of `v` at offset `o` of a domain of the APLIC. -/
def writeAplic (s : State) (machine : Bool) (o : Nat) (v : BitVec 32) : State :=
  let a := s.hub.domain machine
  let active (l : List Nat) : List Nat := l.filter (sourceActive s.hub machine)
  let put (a : Aplic) : State := { s with hub := s.hub.withDomain machine a }
  let pend (l : List Nat) : State := put ((active l).foldl Aplic.pend a)
  let unpend (l : List Nat) : State := put { a with pending := a.pending.filter fun k => !l.contains k }
  let allow (l : List Nat) : State := put { a with enables := sortAsc (distinct (active l ++ a.enables)) }
  let forbid (l : List Nat) : State := put { a with enables := a.enables.filter fun k => !l.contains k }
  match o with
  | 0x0000 => put { a with enabled := v.getLsbD 8 }
  | 0x1C00 => pend (namedSources v)
  | 0x1CDC => pend [v.toNat]
  | 0x1D00 => unpend (namedSources v)
  | 0x1DDC => unpend [v.toNat]
  | 0x1E00 => allow (namedSources v)
  | 0x1EDC => allow [v.toNat]
  | 0x1F00 => forbid (namedSources v)
  | 0x1FDC => forbid [v.toNat]
  | 0x2000 => pend [v.toNat]
  | 0x2004 => pend [leNat (leBytes 4 v.toNat).reverse]
  | 0x3000 => sendMsi (put { a with genmsi := v &&& 0xFFFC07FF }) (aplicAddress s.hub machine v.toNat) (v.toNat % 2 ^ 11)
  | o =>
    if machine && decide (0x1BC0 ≤ o) && decide (o ≤ 0x1BCC) then
      if (Tab.get 0 a.addresses 1).getLsbD 31 then s else put { a with addresses := Tab.set 0 ((o - 0x1BC0) / 4) v a.addresses }
    else if 0x0004 ≤ o ∧ o ≤ 0x0014 then
      let n := o / 4
      if machine || (Tab.get 0 s.hub.aplicM.sources n).getLsbD 10 then { s with hub := configureSource s.hub machine n v } else s
    else if 0x3004 ≤ o ∧ o ≤ 0x3014 then
      let n := (o - 0x3000) / 4
      if sourceActive s.hub machine n then put { a with targets := Tab.set 0 n v a.targets } else s
    else s

/-- A number with the bits of a list. -/
def sourceBits (l : List Nat) : Nat := l.foldl (fun n i => n + 2 ^ i) 0

/-- What a 4-byte load at offset `o` of a domain of the APLIC reads. A source is an event, and its input reads 0. -/
def aplicWord (h : Hub) (machine : Bool) (o : Nat) : BitVec 32 :=
  let a := h.domain machine
  match o with
  | 0x0000 => BitVec.ofNat 32 (2 ^ 31 + a.enabled.toNat * 2 ^ 8 + 2 ^ 2)
  | 0x1C00 => BitVec.ofNat 32 (sourceBits a.pending)
  | 0x1E00 => BitVec.ofNat 32 (sourceBits a.enables)
  | 0x3000 => a.genmsi
  | o =>
    if o % 4 ≠ 0 then 0
    else if 0x0004 ≤ o ∧ o ≤ 0x0014 then
      if machine || (Tab.get 0 h.aplicM.sources (o / 4)).getLsbD 10 then Tab.get 0 a.sources (o / 4) else 0
    else if machine && decide (0x1BC0 ≤ o) && decide (o ≤ 0x1BCC) then Tab.get 0 a.addresses ((o - 0x1BC0) / 4)
    else if 0x3004 ≤ o ∧ o ≤ 0x3014 then
      if sourceActive h machine ((o - 0x3000) / 4) then Tab.get 0 a.targets ((o - 0x3000) / 4) else 0
    else 0

/-! Stores from outside the compute dies. -/

/-- A store of bytes at a physical address by an agent that every range marked for all agents answers (17 R425, R443): a
decoded window, a scale window and every range that answers no agent refuse it. -/
def outsideStore (s : State) (pa : Nat) (b : List Byte) : State :=
  match b with
  | [] => s
  | _ =>
    match placeOf s pa, placeOf s (pa + b.length - 1) with
    | some (.ram l), some (.ram _) => homeStore s l b
    | some (.latch a), _ => storePlace s (.latch a) b
    | some (.imsic a), _ => storePlace s (.imsic a) b
    | some (.window a), _ => storePlace s (.window a) b
    | _, _ => s

/-- Where a request of a PCI Express requester leads, through the IOMMU (17 R435): the physical address, and its device context
where it has one. A request crosses no 4 KiB boundary. -/
def inboundAt (s : State) (r : InboundRequest) : Except IoFault (Nat × Option (List Byte)) :=
  ioTranslate s r.requester r.pa r.write

/-- The memory behind a request is ready for it (17 R440). -/
def inboundReady (s : State) (r : InboundRequest) : Bool :=
  match inboundAt s r with
  | .error f => decide (f.cause ≠ stackHeld) && !recordWaits s f
  | .ok (pa, _) =>
    match placeOf s pa with
    | some p => placeReady s none p r.bytes.length
    | none => true

/-- A request waits (17 R435, R440): a stack that it needs is not ready, or, without the Relaxed Ordering attribute, a write of
its requester in `earlier` has not been performed. -/
def postedWaits (s : State) (earlier : List InboundRequest) (r : InboundRequest) : Bool :=
  !inboundReady s r || (!r.relaxed && earlier.any fun q => q.write && q.requester == r.requester)

/-- A request is accepted and waits to be performed (17 R435). -/
def postWrite (s : State) (r : InboundRequest) : State := { s with hub := { s.hub with posted := s.hub.posted ++ [r] } }

/-- A request is performed (17 R435): the IOMMU translates it, or records a fault; a write is then made at its home; a read changes no
byte, but it may fill a decoded line (17 R441). One that crosses a 4 KiB boundary is malformed and does nothing. -/
def performInbound (s : State) (r : InboundRequest) : State :=
  if 4096 < r.pa % 4096 + r.bytes.length then s
  else
    match inboundAt s r with
    | .error f => ioFail s r.requester r.pa r.write f
    | .ok (pa, c) =>
      let s := match c with | some c => noteIo s r.requester r.pa r.write c pa | none => s
      if r.write then outsideStore s pa r.bytes
      else match placeOf s pa with | some p => noteSpan (recallSpan s none p r.bytes.length) p r.bytes.length | none => s

/-- The `k`-th request that waits is performed, where it need wait no longer (17 R435). -/
def performPosted (s : State) (k : Nat) : State :=
  match s.hub.posted[k]? with
  | none => s
  | some r =>
    if postedWaits s (s.hub.posted.take k) r then s
    else performInbound { s with hub := { s.hub with posted := s.hub.posted.eraseIdx k } } r

/-- An inbound PCI Express request (17 R435): it is performed, unless it waits behind an earlier write or for a stack. -/
def execPcieInboundRequest (r : InboundRequest) (s : State) : Res :=
  .next (if postedWaits s s.hub.posted r then postWrite s r else performInbound s r)

end Sys2Proof.Machine
end

