-- ==== Sys2Proof/Machine/Reset.lean ====
section
/-! DEFINITION. Resets, the boot chain and training (15 R394 to R398; 16 R421 to R423; 17 R448), and stores to the hub's
registers (17 R427 to R430). -/

namespace Sys2Proof.Machine

/-! The boot chain. -/

/-- The components in the order of the chain: the Plate, the Keel's firmware, the Gondolas', the loader (15 R395). -/
def bootStages : List Nat := [0, 1, 2, 3]

/-- The least security version that the Plate admits: none while the record of it fails (15 R394, R395). -/
def leastVersion (p : Plate) : Nat := match p.record 3 with | some _ => p.minVersion | none => 0

/-- A component verifies (15 R394, R395): of the Plate, the record of the repair maps and enables; of an image, its key
against the root key hash that the Plate holds, its version and its signature. -/
def stageVerifies (s : State) (i : Nat) : Bool :=
  if i = 0 then (s.plate.record 0).isSome
  else s.plate.record 2 == some (leBytes 64 (digest (Config.firmwareKey i)).toNat)
    && decide (leastVersion s.plate ≤ Config.firmwareVersion i)
    && ed25519Verify (Config.firmwareKey i) (Config.bootComponent i) (Config.firmwareSignature i)

/-- A component as it is measured (15 R396): the Plate's records one after another, or an image. -/
def componentBytes (p : Plate) (i : Nat) : List Byte :=
  if i = 0 then (List.range 5).flatMap (Config.plateRecord p.source) else Config.bootComponent i

/-- M after a component: SHA-512(M ‖ SHA-512(component)) (15 R396). -/
def measureStage (p : Plate) (m : BitVec 512) (i : Nat) : BitVec 512 :=
  digest (leBytes 64 m.toNat ++ leBytes 64 (digest (componentBytes p i)).toNat)

/-- The bits that boot sets in READY: FABRIC, KEEL, COMPL and MAILBOX (17 R448). -/
def bootReady : Word := 0x00387FFF80000000

/-- Boot after a reset (15 R395, R396, R398; 16 R423): the security logic draws its random bytes, each component is
verified and measured, and the functions post their ready bits; a failure stops boot, with a code on the management
interface. -/
def boot (s : State) : State :=
  let s := { s with sec := { s.sec with nonceSeed := s.n }, n := s.n + 1 }
  match bootStages.find? fun i => !stageVerifies s i with
  | some i => { s with hub := { s.hub with bootCode := i + 1 } }
  | none => { s with
      sec := { s.sec with measure := bootStages.foldl (measureStage s.plate) 0 }
      hub := { s.hub with ready := bootReady, bootCode := 0 } }

/-! Resets. -/

/-- What a warm reset leaves of the hub's registers (16 R422): CAPB.DEVID among them, and with it what DEVIDSET reads, and
POWER, which has no Reset column (the model's choice: log 80). -/
def warmHub (h : Hub) : Hub :=
  { ({} : Hub) with
    ctxbase := h.ctxbase
    savebase := h.savebase
    savesize := h.savesize
    tivqcb := h.tivqcb
    faultqcb := h.faultqcb
    watchqcb := h.watchqcb
    devid := h.devid
    tlimit := h.tlimit
    plimit := h.plimit
    hot := h.hot
    power := h.power
    gateClusters := h.gateClusters
    gateDies := h.gateDies
    scrub := h.scrub
    route := h.route }

/-- The global bytes that lie in dirty lines of stash entries, as ranges of locations (07 R194). -/
def stashDirty (s : State) : List (Nat × Nat) :=
  s.cores.flatMap fun c => c.2.stash.flatMap fun e => (e.lines.filter fun l => l.2 == .dirty).map fun l =>
    (stashLoc e (e.off + 128 * l.1), 128)

/-- The bytes of DRAM whose latest store a reset loses (16 R421): every byte not written back, or, when the reset is orderly,
those that a dirty stash line holds, for only the last-level cache is written back. -/
def lostBytes (s : State) (orderly : Bool) : List Nat :=
  let l := s.dirty.map (·.1)
  if orderly then
    let d := stashDirty s
    l.filter fun a => d.any fun r => decide (r.1 ≤ a) && decide (a < r.1 + r.2)
  else l

/-- The poison of DRAM that a warm reset leaves, before what it loses (16 R421): none of a sector that only a cache held
poisoned, and that was never to be written back. -/
def keptTaint (s : State) : SMap Taint :=
  s.taint.filter fun e => decide (e.1 < 0x1000000000000) && !inCache s (e.1 / 32)

/-- A warm reset (16 R421, R422): DRAM, the Plate, TIME and the registers that R422 names are kept, all else is at its
reset value; `orderly` writes every dirty line of the last-level cache back first. A byte whose latest store is lost holds
what was written back last, which the model leaves open (log 8). -/
def warmReset (s : State) (orderly : Bool) : State :=
  let mem := s.mem.filter fun e => decide (e.1 < 0x1000000000000)
  boot { State.reset with
    mem := (lostBytes s orderly).foldl (fun m a => Tab.set 0 a (Config.lostByte s.n a) m) mem
    taint := (distinct ((lostBytes s orderly).map (· / 32))).foldl
      (fun m k => (List.range 32).foldl (fun m i => Tab.set .sound (32 * k + i) (Config.lostTaint s.n k) m) m)
      (keptTaint s)
    hub := warmHub s.hub
    plate := s.plate
    time := s.time
    agenda := s.agenda
    n := s.n }

/-- An orderly warm reset, requested through RESETCTL (16 R421; 17 R429). -/
def execResetOrderlyWarm (s : State) : Res := .next (warmReset s true)
/-- A warm reset, requested through RESETCTL (16 R421; 17 R429). -/
def execResetWarm (s : State) : Res := .next (warmReset s false)
/-- A warm reset, requested through the management interface (16 R421). -/
def execMgmtWarmReset (orderly : Bool) (s : State) : Res := .next (warmReset s orderly)

/-- The Plate after a cold reset: a pending package is applied when its sequence number is the higher (15 R394). -/
def coldPlate (p : Plate) : Plate :=
  match p.pending with
  | some u =>
    if p.sequence < u.sequence then
      { Config.packagePlate u.package with sequence := u.sequence, source := u.package, pending := none }
    else { p with pending := none }
  | none => p

/-- A cold reset (15 R394, R395; 16 R421, R423). -/
def execColdReset (s : State) : Res :=
  .next (boot { State.reset with plate := coldPlate s.plate, agenda := s.agenda, n := s.n })

/-! Training. -/

/-- A compute die places work once its link to the hub die and every enabled stack of it are ready (17 R448). -/
def dieReady (s : State) (d : Nat) : Bool :=
  s.plate.dies.contains d && s.hub.ready.getLsbD (13 + d)
    && (s.plate.hbm.filter fun k => k / 3 == d).all fun k => s.hub.ready.getLsbD k

/-- Sets a bit of READY; it stays set until the next reset (17 R448). -/
def setReady (s : State) (b : Nat) : State :=
  { s with hub := { s.hub with ready := s.hub.ready ||| BitVec.ofNat 64 (2 ^ b) } }

/-- The DIE bits that READY now has (17 R448). -/
def settleDies (s : State) : State := [0, 1, 2, 3].foldl (fun s d => if dieReady s d then setReady s (47 + d) else s) s

/-- A link is of an enabled die. -/
def linkEnabled (p : Plate) (n : Nat) : Bool :=
  let e := linkDies n
  decide (n < 10) && (decide (e.1 = 4) || p.dies.contains e.1) && p.dies.contains e.2

/-- A die-to-die link finishes retraining, and what waited for it is performed (16 R423; 17 R448). -/
def execUcieLinkTrained (n : Nat) (s : State) : Res :=
  if linkEnabled s.plate n && s.hub.ready.getLsbD 53 then 
    .next (applyLatches (releaseHeld (settleDies (setReady s (13 + n)))) fun q => decide (dieOf q = n))
  else .next s

/-- A stack's check passes, and it is ready: what waited for it is performed; a failure starts its training again (02 R66; 16
R423; 17 R440, R448). -/
def execStackTrainingComplete (n : Nat) (pass : Bool) (s : State) : Res :=
  if pass && s.plate.hbm.contains n && s.hub.ready.getLsbD 53 then
    let s := settleDies (setReady s n)
    let s := { s with hub := { s.hub with checking := s.hub.checking.filter fun k => k != n } }
    .next (applyLatches (releaseHeld s) fun q => decide (stackOf s.plate q = n))
  else .next s

/-- A root port's logic is ready, and its link training begins (17 R448). -/
def execPciePortReady (n : Nat) (s : State) : Res :=
  if decide (n < 8) && s.hub.ready.getLsbD 53 then .next (setReady s (23 + n)) else .next s

/-! Stores to the hub. -/

/-- RESETCTL (17 R429). -/
def writeResetctl (v : Word) (s : State) : Res :=
  match v.toNat % 4 with
  | 1 => execResetOrderlyWarm s
  | 2 => execResetWarm s
  | 3 => execKeelRestart s
  | _ => .next s

/-- MBCMD (15 R399; 17 R427): a code that is none of the commands gives RESULT 2. -/
def writeMbcmd (v : Word) (s : State) : Res :=
  match v.toNat % 256 with
  | 1 => execQuote s
  | 2 => execExtend s
  | 3 => execIdentity s
  | 4 => execPlateupd s
  | c => mailboxStart s c

/-- A naturally aligned 8-byte store to the hub register block or the mailbox (17 R427 to R430). -/
def execRegisterWrite (pa : Nat) (v : Word) (s : State) : Res :=
  if pa % 8 ≠ 0 then .next s
  else if hubBase ≤ pa ∧ pa < hubBase + 0x20000 then
    match pa - hubBase with
    | 0x0028 => writeReply s v
    | 0x0030 => writeResetctl v s
    | 0x0038 => execDevidsetWrite v s
    | 0x0040 => if v.getLsbD 0 then execLspoolRegister v s else execLspoolRemove v s
    | 0x0070 => execGatectlWrite v s
    | o => .next { s with hub := writeHub s o v }
  else if pa = mailboxBase then writeMbcmd v s
  else if mailboxBase ≤ pa ∧ pa < mailboxBase + 0x1000 then
    .next { s with sec := writeMailbox s.sec (pa - mailboxBase) v }
  else .next s

/-- A store to a register of the APLIC, of the IOMMU or of the root ports' configuration space, at physical address `pa` (17 R427,
R435; 4-byte words, the IOMMU's also 8-byte ones). -/
def unitStore (s : State) (pa : Nat) (b : List Byte) : State :=
  if aplicBase ≤ pa ∧ pa < aplicBase + 0x8000 then
    let o := pa - aplicBase
    if b.length = 4 ∧ pa % 4 = 0 then writeAplic s (decide (o < 0x4000)) (o % 0x4000) (BitVec.ofNat 32 (leNat b)) else s
  else if iommuBase ≤ pa ∧ pa < iommuBase + 0x1000 then writeIommu s (pa - iommuBase) b
  else if pa % 4 + b.length ≤ 4 then { s with hub := writeConfig s.hub (pa - ecamBase) b }
  else s

/-- The address is that of a register which only application cores reach, outside the hub register block and the mailbox
(17 R425). -/
def unitAddress (pa : Nat) : Bool :=
  (decide (aplicBase ≤ pa) && decide (pa < aplicBase + 0x8000)) || (decide (iommuBase ≤ pa) && decide (pa < iommuBase + 0x1000))
    || (decide (ecamBase ≤ pa) && decide (pa < ecamBase + 0x80000000))

/-- An application core's store or atomic to device memory, performed at its home (17 R425, R443; 16 R419), an 8-byte store to
the hub's registers (17 R428), or a store to the registers of another unit of the hub (17 R427). -/
def execApplicationCoreStore (pa : Nat) (b : List Byte) (s : State) : Res :=
  if hubBase ≤ pa ∧ pa < hubBase + 0x21000 then
    (if b.length = 8 then execRegisterWrite pa (leWord b) s else .next s)
  else .next (if unitAddress pa then unitStore s pa b else outsideStore s pa b)

end Sys2Proof.Machine
end

