-- ==== Sys2Proof/Machine/Management.lean ====
section
/-! DEFINITION. The management interface: halting, resuming, stepping, reading and writing a halted hart (16 R416, R417), and
the layouts of the save region (16 R414, R415). -/

namespace Sys2Proof.Machine

/-- The hart lies in the unit that a request names (16 R416). -/
def unitHolds (u : UnitName) (h : Nat) : Bool :=
  match u with
  | .hart k => decide (k = h)
  | .core c => decide (c = coreOf h)
  | .cluster c => decide (c = clusterOf h)
  | .die d => decide (d = clusterOf h / 16)

/-- The management interface lets hart `h` run: it goes on at its PC, where it makes the test of an active loop's END (05 R136; 16
R417). -/
def letRun (s : State) (h : Nat) (steps : Bool) : State :=
  let x := { s.hart h with halted := false, stepping := steps }
  if x.run = .running then goOn s h x else s.setHart h x

/-- Hart `h` halts at its suspension point (16 R410 steps 1 to 3, R416): its committed instructions complete, and its wait is
withdrawn. -/
def haltNow (s : State) (h : Nat) : State :=
  let s := withdraw (completeResults s h) h
  s.setHart h { rollback (s.hart h) with halted := true, stepping := false }

/-- Halts hart `h` (16 R416); an open chain group or a qualified instruction runs to its end first. -/
def haltHart (s : State) (h : Nat) : State :=
  let x := s.hart h
  if x.run = .free then s
  else if midGroup x then s.setHart h { x with stepping := true }
  else haltNow s h

/-- The management interface halts a hart, a core or a cluster (16 R416). -/
def execMgmtHalt (u : UnitName) (s : State) : Res :=
  .next ((s.harts.filter fun e => unitHolds u e.1).foldl (fun s e => haltHart s e.1) s)

/-- The management interface resumes a halted hart at its resume PC; HALTED and STABLE clear (16 R417). -/
def execMgmtResume (h : Nat) (s : State) : Res :=
  if (s.hart h).halted then .next (letRun s h false) else .next s

/-- The management interface steps a halted hart by one instruction or one chain group, after which it halts again
(16 R417): the hart runs next. -/
def execMgmtStep (h : Nat) (s : State) : Res :=
  if (s.hart h).halted then
    .next { letRun s h true with agenda := .hart h :: s.agenda }
  else .next s

/-! Reading the layouts of R414 and R415. -/

/-- Words as bytes. -/
def wordBytes (l : List Word) : List Byte := l.flatMap fun w => leBytes 8 w.toNat

/-- `n` bytes of a bit table, from bit 0 (16 R414). -/
def bitBytes (m : Bits) (n : Nat) : List Byte :=
  (List.range n).map fun i => BitVec.ofNat 8 ((List.range 8).foldl (fun a k => a + if Tab.get false m (8 * i + k) then 2 ^ k else 0) 0)

/-- The 40 bytes of a loop (16 R414). S has three bits there, and a loopm of eight stages shows S 0 (the model's choice: log
81). -/
def loopBytes (l : Loop) : List Byte :=
  wordBytes [lcWord l, l.body, l.fin,
    BitVec.ofNat 64 (l.total * 2 ^ 32 + (if l.mode = .system then 16 else 0) + (if l.modulo then 8 else 0) + l.stages % 8),
    BitVec.ofNat 64 l.index]

/-- The operand slots that a hart owns, in ascending number. -/
def ownedSlots (s : State) (h : Nat) : List Nat := (List.range 16).filter (ownsSlot s h)
/-- The accumulator banks that a hart owns. -/
def ownedBanks (s : State) (h : Nat) : List Nat := (List.range 2).filter (ownsBank s h)

/-- The first 4 096 bytes of a hart record (16 R414). -/
def fixedBytes (s : State) (h : Nat) : List Byte :=
  let x := s.hart h
  let tok (k : Nat) : Word := match x.token k with | .pending j => BitVec.ofNat 64 j | _ => 0
  wordBytes ((List.range 32).map (fun r => x.readS (BitVec.ofNat 5 r)) ++ (List.range 16).map (fun r => x.readF (BitVec.ofNat 5 r))
      ++ [x.pc, BitVec.ofNat 64 x.vl, BitVec.ofNat 64 x.vrows, BitVec.ofNat 64 x.vstart, x.frm.zeroExtend 64,
        x.fflags.zeroExtend 64, x.pred.zeroExtend 64, accst s h, vconfWord x, tokstWord x, oslotsWord s h, x.wid, hstatWord s h,
        (x.gang.getD 0).zeroExtend 64, BitVec.ofNat 64 x.scalarTime, BitVec.ofNat 64 x.vectorTime, x.epc,
        x.ecause.zeroExtend 64, x.eval, x.estat, (s.context x.asid).handler, x.escratch])
    ++ loopBytes x.lc0 ++ loopBytes x.lc1
    ++ wordBytes ([flag x.seg] ++ (List.range 8).map (tstatWord s h) ++ (List.range 8).map tok)
    ++ (List.range 64).flatMap (fun n => leBytes 4 (Tab.get 0 x.cursors n)) ++ List.replicate 3064 0

/-- The bytes of a hart record from offset 0x1000 (16 R414). -/
def variableBytes (s : State) (h : Nat) : List Byte :=
  let x := s.hart h
  let c := s.core (coreOf h)
  let regs := match x.conf with
    | none => []
    | some cf => (List.range cf.count).flatMap (fun r => Tab.bytes (x.vreg r) 0 (cf.shares * 32768 / cf.count))
        ++ (List.range 7).flatMap fun m => bitBytes (Tab.get [] x.m (m + 1)) (up128 (tileMax x / 8))
  let valid := match stripOf s x with
    | none => []
    | some t => t.deleted.flatMap fun d => bitBytes (Tab.get [] x.pass d.handle) (up128 ((t.packet.desc.strip + 7) / 8))
  regs ++ (ownedSlots s h).flatMap (fun i => Tab.bytes (Tab.get [] c.slots i) 0 8192)
    ++ (ownedBanks s h).flatMap (fun b => (List.range 4096).flatMap fun i => leBytes 6 (Tab.get 0 (Tab.get [] c.banks b) i).toNat)
    ++ valid

/-- The hart record of hart `h`, as the management interface reads it of a halted hart (16 R414, R417). -/
def hartRecord (s : State) (h : Nat) : List Byte := fixedBytes s h ++ variableBytes s h

/-- The hart record of a suspended or fault-held hart, which the management interface reads (16 R412, R414): that of the
hart with all that it owned. -/
def savedRecord (s : State) (r : Saved) : List Byte :=
  let own {α : Type} (m : SMap α) : SMap (Option Nat) := m.map fun e => (e.1, some r.hartid)
  hartRecord ((s.setHart r.hartid r.hart).setCore (coreOf r.hartid) { s.core (coreOf r.hartid) with
    slotOwner := own r.slots
    slots := r.slots.map fun e => (e.1, e.2.getD [])
    bankOwner := own r.banks
    banks := r.banks.map fun e => (e.1, e.2.getD [])
    bankOvf := r.ovf
    tethers := r.tethers }) r.hartid

/-- The 64 bytes of a stash entry in a core record, `sw` being the base of the scratch window (16 R415). -/
def stashBytes (sw : Word) (e : Stash) : List Byte :=
  wordBytes [sw + BitVec.ofNat 64 e.off, e.va, BitVec.ofNat 64 e.len] ++ [if e.readonly then 3 else 1] ++ List.replicate 39 0

/-- A core record: 16 stash entries, then the scratchpad image (16 R415). -/
def coreRecordBytes (s : State) (r : CoreRecord) : List Byte :=
  let e := r.stash.flatMap (stashBytes (s.context r.asid).swbase)
  e ++ List.replicate (1024 - e.length) 0 ++ (List.range 524288).map fun i => Tab.get 0 r.image (scratchLoc r.core i)

/-! Writing the layout of R414. -/

/-- The 8 bytes of `v` in a register table from offset `o`. -/
def putWord (m : Bytes) (o : Nat) (v : Word) : Bytes := Tab.putBytes m o (leBytes 8 v.toNat)

/-- The 64 bits of `v` in a bit table from bit `o`. -/
def putBits (m : Bits) (o : Nat) (v : Word) : Bits :=
  (List.range 64).foldl (fun m i => Tab.set false (o + i) (v.getLsbD i) m) m

/-- A loop record after word `k` of its 40 bytes has been written (16 R414): S 0 of a loopm is eight stages (the model's choice:
log 81). -/
def putLoop (l : Loop) (k : Nat) (v : Word) : Loop :=
  match k with
  | 0 => { l with busy := v.getLsbD 63, count := v.truncate 32 }
  | 1 => { l with body := v }
  | 2 => { l with fin := v }
  | 3 => { l with
      stages := if v.getLsbD 3 ∧ v.toNat % 8 = 0 then 8 else v.toNat % 8
      modulo := v.getLsbD 3
      mode := if v.getLsbD 4 then .system else .user
      total := v.toNat / 2 ^ 32 }
  | _ => { l with index := v.toNat % 2 ^ 32 }

/-- The hart after one of the eight-byte words of VL to PRED has been written (16 R414). -/
def putStatus (x : Hart) (k : Nat) (v : Word) : Hart :=
  match k with
  | 0 => { x with vl := v.toNat % 2 ^ 17 }
  | 1 => { x with vrows := v.toNat % 2 ^ 7 }
  | 2 => { x with vstart := v.toNat % 2 ^ 17 }
  | 3 => { x with frm := v.truncate 3 }
  | 4 => { x with fflags := v.truncate 5 }
  | 5 => { x with pred := v.truncate 8 }
  | _ => x

/-- The hart after one of the trap registers has been written (16 R414); EVEC is its context's. -/
def putTrap (x : Hart) (k : Nat) (v : Word) : Hart :=
  match k with
  | 0 => { x with epc := v &&& ~~~1 }
  | 1 => { x with ecause := v.truncate 10 }
  | 2 => { x with eval := v }
  | 3 => { x with estat := estatWrite x v }
  | 4 => x
  | _ => { x with escratch := v }

/-- The hart after the word at an offset below 0x1000 has been written (16 R414). A token's word is its job's number, 0
for a token that is not pending. -/
def putFixed (x : Hart) (o : Nat) (v : Word) : Hart :=
  if o < 0x100 then x.writeS (BitVec.ofNat 5 (o / 8)) v
  else if o < 0x180 then x.writeF (BitVec.ofNat 5 ((o - 0x100) / 8)) v
  else if o = 0x180 then { x with pc := v &&& ~~~1 }
  else if o < 0x1D8 then putStatus x ((o - 0x188) / 8) v
  else if o = 0x1D8 then { x with wid := v }
  else if o = 0x1E0 then { x with mode := if v.getLsbD 0 then .system else .user }
  else if o = 0x1E8 then x
  else if o = 0x1F0 then { x with scalarTime := v.toNat }
  else if o = 0x1F8 then { x with vectorTime := v.toNat }
  else if o < 0x230 then putTrap x ((o - 0x200) / 8) v
  else if o < 0x258 then { x with lc0 := putLoop x.lc0 ((o - 0x230) / 8) v }
  else if o < 0x280 then { x with lc1 := putLoop x.lc1 ((o - 0x258) / 8) v }
  else if o = 0x280 then { x with seg := v.getLsbD 0 }
  else if o < 0x2C8 then x
  else if o < 0x308 then
    let k := (o - 0x2C8) / 8
    (match x.token k with
    | .pending _ => x.setToken k (if v = 0 then .idle else .pending v.toNat)
    | t => if v = 0 then x.setToken k t else x.setToken k (.pending v.toNat))
  else if o < 0x408 then
    let h := (o - 0x308) / 4
    { x with cursors := Tab.set 0 (h + 1) (v.toNat / 2 ^ 32) (Tab.set 0 h (v.toNat % 2 ^ 32) x.cursors) }
  else x

/-- Word `o` of a bank's image is written: the elements it covers change, with whether one of them was clamped, since no bank
holds −2^47 (08 R209; 12 R318). -/
def putBank (m : SMap (BitVec 48)) (o : Nat) (v : Word) : SMap (BitVec 48) × Bool :=
  let first := o / 6
  let old := (List.range 3).flatMap fun i => leBytes 6 (Tab.get 0 m (first + i)).toNat
  let k := o - 6 * first
  let new := old.take k ++ leBytes 8 v.toNat ++ old.drop (k + 8)
  (List.range 3).foldl (fun m i =>
    let e := sat48 (signed 48 (field new (6 * i) 6))
    if first + i < 4096 then (Tab.set 0 (first + i) (BitVec.ofInt 48 e.1) m.1, m.2 || e.2) else m) (m, false)

/-- Word `o` of the image of bank `b` of hart `h` is written; a clamp sets the bank's overflow flag (12 R318). -/
def writeBank (s : State) (h b o : Nat) (v : Word) : State :=
  let c := s.core (coreOf h)
  let r := putBank (Tab.get [] c.banks b) o v
  s.setCore (coreOf h) { c with
    banks := Tab.set [] b r.1 c.banks
    bankOvf := if r.2 then Tab.set false b true c.bankOvf else c.bankOvf }

/-- The state after the word at an offset of 0x1000 or above of a hart's record has been written (16 R414): vector
registers, masks, owned slots, owned banks, then pass valid bits. -/
def putVariable (s : State) (h o : Nat) (v : Word) : State :=
  let x := s.hart h
  let p := o - 0x1000
  match x.conf with
  | none =>
    let c := s.core (coreOf h)
    match (ownedSlots s h)[p / 8192]? with
    | some i => s.setCore (coreOf h) { c with slots := Tab.set [] i (putWord (Tab.get [] c.slots i) (p % 8192) v) c.slots }
    | none =>
      let q := p - 8192 * (ownedSlots s h).length
      match (ownedBanks s h)[q / 24576]? with
      | some b => writeBank s h b (q % 24576) v
      | none => s
  | some cf =>
    let rb := cf.shares * 32768 / cf.count
    let mb := up128 (tileMax x / 8)
    let regs := rb * cf.count
    if p < regs then
      let n := 2 ^ cf.ew.toNat
      s.setHart h ((x.setVreg (p / rb) (putWord (x.vreg (p / rb)) (p % rb) v)).cleanV (p / rb)
        ((List.range (8 / n)).map (p % rb / n + ·)))
    else if p < regs + 7 * mb then
      let m := (p - regs) / mb + 1
      let o := 8 * ((p - regs) % mb)
      s.setHart h (({ x with m := Tab.set [] m (putBits (Tab.get [] x.m m) o v) x.m } : Hart).cleanM m
        ((List.range 64).map (o + ·)))
    else
      let q := p - regs - 7 * mb
      let c := s.core (coreOf h)
      match (ownedSlots s h)[q / 8192]? with
      | some i => s.setCore (coreOf h) { c with slots := Tab.set [] i (putWord (Tab.get [] c.slots i) (q % 8192) v) c.slots }
      | none =>
        let q := q - 8192 * (ownedSlots s h).length
        match (ownedBanks s h)[q / 24576]? with
        | some b => writeBank s h b (q % 24576) v
        | none =>
          let q := q - 24576 * (ownedBanks s h).length
          match stripOf s x with
          | none => s
          | some t =>
            let size := up128 ((t.packet.desc.strip + 7) / 8)
            match t.deleted[q / size]? with
            | some d =>
              s.setHart h { x with pass := Tab.set [] d.handle (putBits (Tab.get [] x.pass d.handle) (8 * (q % size)) v) x.pass }
            | none => s

/-! What a hart holds of its core, as R414 shows it. -/

/-- VCONF is written: a configuration that the free shares of the core allow, its registers and masks zero as after `vcfg`,
or none (06 R149; log 30). -/
def writeVconf (s : State) (h : Nat) (v : Word) : State :=
  let x := s.hart h
  let n := v.toNat / 2 ^ 8 % 64
  let k := v.toNat / 2 ^ 16 % 16
  let own := match x.conf with | some c => c.shares | none => 0
  if v = 0 then unconfigure s h
  else if (n = 4 ∨ n = 8 ∨ n = 16 ∨ n = 32) ∧ 1 ≤ k ∧ k ≤ 8 ∧ sharesUsed s (coreOf h) - own + k ≤ 8 then
    s.setHart h { configured x n k (v.truncate 2) with vl := x.vl, vrows := x.vrows, vstart := x.vstart, run := x.run }
  else s

/-- TOKST is written: a token becomes idle, or done with no length; one cannot become pending (log 30). -/
def writeTokst (x : Hart) (v : Word) : Hart :=
  (List.range 8).foldl (fun x k =>
    match v.toNat / 4 ^ k % 4, x.token k with
    | 0, _ => x.setToken k .idle
    | 2, .done _ => x
    | 2, _ => x.setToken k (.done 0)
    | _, _ => x) x

/-- OSLOTS is written: the hart claims free slots, which are zero, and releases those whose bit is 0 (08 R201, R202). -/
def writeOslots (s : State) (h : Nat) (v : Word) : State :=
  (List.range 16).foldl (fun s i =>
    let c := s.core (coreOf h)
    if !v.getLsbD i then releaseSlot s h i
    else if Tab.get none c.slotOwner i = none then
      s.setCore (coreOf h) { c with slotOwner := Tab.set none i (some h) c.slotOwner, slots := Tab.del i c.slots }
    else s) s

/-- ACCST is written: claims of banks, and the overflow flags of the banks that the hart then owns (08 R207, R208). -/
def writeAccst (s : State) (h : Nat) (v : Word) : State :=
  (List.range 2).foldl (fun s b =>
    let c := s.core (coreOf h)
    let s :=
      if !v.getLsbD (8 + b) then releaseBank s h b
      else if Tab.get none c.bankOwner b = none then
        s.setCore (coreOf h) { c with
          bankOwner := Tab.set none b (some h) c.bankOwner
          banks := Tab.del b c.banks
          bankOvf := Tab.del b c.bankOvf }
      else s
    if ownsBank s h b then setOvf s h b (v.getLsbD b) else s) s

/-- A tether word is written: the handle is released, or becomes the hart's, on the row that the address translates to now,
else dropped (09 R233, R235). -/
def writeTether (s : State) (h t : Nat) (v : Word) : State :=
  if (tetherAt s h t).isSome && !ownsTether s h t then s
  else if v.toNat % 4 = 0 then releaseTether s h t
  else
    let va := (v >>> 10) <<< 10
    let s := setTether s h t none
    match tetherRow s (s.agent h) va.toNat with
    | .ok row =>
      let held := v.toNat % 4 ≠ 3 ∧ rowStatus s.plate (heldRows s) row = 0
      setTether s h t (some ⟨h, va, row, if held then (if v.toNat % 4 = 2 then .reopening else .held) else .dropped⟩)
    | .error _ => setTether s h t (some ⟨h, va, 0, .dropped⟩)

/-- The gang core mask is written: 0 leaves the hart ganged no longer. -/
def writeGang (x : Hart) (v : Word) : Hart :=
  if v.truncate 32 = (0 : BitVec 32) then { x with gang := none, gangLead := 0, gangFeed := [] } else { x with gang := some (v.truncate 32) }

/-- The management interface writes one 8-byte word of a halted hart's state, at its offset in the layout of 16 R414
(16 R417; log 30). Of HSTAT the hart holds only MODE: HALTED ends by a resume, and the other bits are its context's and its
core's. -/
def execMgmtWriteState (h off : Nat) (v : Word) (s : State) : Res :=
  if !(s.hart h).halted || decide (off % 8 ≠ 0) then .next s
  else if off = 0x1B8 then .next (writeAccst s h v)
  else if off = 0x1C0 then .next (writeVconf s h v)
  else if off = 0x1C8 then .next (s.setHart h (writeTokst (s.hart h) v))
  else if off = 0x1D0 then .next (writeOslots s h v)
  else if off = 0x1E8 then .next (s.setHart h (writeGang (s.hart h) v))
  else if 0x288 ≤ off ∧ off < 0x2C8 then .next (writeTether s h ((off - 0x288) / 8) v)
  else if off < 0x1000 then .next (s.setHart h (putFixed (s.hart h) off v))
  else .next (putVariable s h off v)

end Sys2Proof.Machine
end

