-- ==== Sys2Proof/Machine/Dispatch.lean ====
section
/-! DEFINITION. One arm for each row of the opcode table: hart instructions act on the executing hart, device steps on
the whole device. -/

namespace Sys2Proof.Machine

/-- The meaning of an instruction or a device step. -/
def exec (i : Instr) (s : State) : Host.Outcome State Fault Refusal :=
  match i with
  | .add d a b => Sys2Proof.Machine.execAdd d a b s
  | .sub d a b => Sys2Proof.Machine.execSub d a b s
  | .mul d a b => Sys2Proof.Machine.execMul d a b s
  | .mulh d a b => Sys2Proof.Machine.execMulh d a b s
  | .mulhn d a b => Sys2Proof.Machine.execMulhn d a b s
  | .div d a b => Sys2Proof.Machine.execDiv d a b s
  | .divn d a b => Sys2Proof.Machine.execDivn d a b s
  | .rem d a b => Sys2Proof.Machine.execRem d a b s
  | .remn d a b => Sys2Proof.Machine.execRemn d a b s
  | .and d a b => Sys2Proof.Machine.execAnd d a b s
  | .or d a b => Sys2Proof.Machine.execOr d a b s
  | .xor d a b => Sys2Proof.Machine.execXor d a b s
  | .shl d a b => Sys2Proof.Machine.execShl d a b s
  | .shr d a b => Sys2Proof.Machine.execShr d a b s
  | .sra d a b => Sys2Proof.Machine.execSra d a b s
  | .rot d a b => Sys2Proof.Machine.execRot d a b s
  | .slt d a b => Sys2Proof.Machine.execSlt d a b s
  | .sltn d a b => Sys2Proof.Machine.execSltn d a b s
  | .min d a b => Sys2Proof.Machine.execMin d a b s
  | .max d a b => Sys2Proof.Machine.execMax d a b s
  | .minn d a b => Sys2Proof.Machine.execMinn d a b s
  | .maxn d a b => Sys2Proof.Machine.execMaxn d a b s
  | .clmul d a b => Sys2Proof.Machine.execClmul d a b s
  | .clmulh d a b => Sys2Proof.Machine.execClmulh d a b s
  | .clz d a => Sys2Proof.Machine.execClz d a s
  | .ctz d a => Sys2Proof.Machine.execCtz d a s
  | .pop d a => Sys2Proof.Machine.execPop d a s
  | .sext d a w => Sys2Proof.Machine.execSext d a w s
  | .zext d a w => Sys2Proof.Machine.execZext d a w s
  | .addi d a imm => Sys2Proof.Machine.execAddi d a imm s
  | .andi d a imm => Sys2Proof.Machine.execAndi d a imm s
  | .ori d a imm => Sys2Proof.Machine.execOri d a imm s
  | .xori d a imm => Sys2Proof.Machine.execXori d a imm s
  | .shli d a imm => Sys2Proof.Machine.execShli d a imm s
  | .shri d a imm => Sys2Proof.Machine.execShri d a imm s
  | .srai d a imm => Sys2Proof.Machine.execSrai d a imm s
  | .slti d a imm => Sys2Proof.Machine.execSlti d a imm s
  | .limm d imm => Sys2Proof.Machine.execLimm d imm s
  | .addpc d imm => Sys2Proof.Machine.execAddpc d imm s
  | .sel d c a b => Sys2Proof.Machine.execSel d c a b s
  | .fadd o => Sys2Proof.Machine.execFadd o s
  | .fsub o => Sys2Proof.Machine.execFsub o s
  | .fmul o => Sys2Proof.Machine.execFmul o s
  | .ffma o => Sys2Proof.Machine.execFfma o s
  | .fcvt o => Sys2Proof.Machine.execFcvt o s
  | .fcmp o => Sys2Proof.Machine.execFcmp o s
  | .beq a b t => Sys2Proof.Machine.execBeq a b t s
  | .bne a b t => Sys2Proof.Machine.execBne a b t s
  | .blt a b t => Sys2Proof.Machine.execBlt a b t s
  | .bge a b t => Sys2Proof.Machine.execBge a b t s
  | .bltn a b t => Sys2Proof.Machine.execBltn a b t s
  | .bgen a b t => Sys2Proof.Machine.execBgen a b t s
  | .jmp t => Sys2Proof.Machine.execJmp t s
  | .call t => Sys2Proof.Machine.execCall t s
  | .jmpr d a => Sys2Proof.Machine.execJmpr d a s
  | .loop c a t => Sys2Proof.Machine.execLoop c a t s
  | .loopm c a t stages => Sys2Proof.Machine.execLoopm c a t stages s
  | .loopi c count t => Sys2Proof.Machine.execLoopi c count t s
  | .nop => Sys2Proof.Machine.execNop s
  | .next => Sys2Proof.Machine.execNext s
  | .halt => Sys2Proof.Machine.execHalt s
  | .eret => Sys2Proof.Machine.execEret s
  | .ill => Sys2Proof.Machine.execIll s
  | .yield => Sys2Proof.Machine.execYield s
  | .fence => Sys2Proof.Machine.execFence s
  | .fenceSv => Sys2Proof.Machine.execFenceSv s
  | .fenceVs => Sys2Proof.Machine.execFenceVs s
  | .vdrain => Sys2Proof.Machine.execVdrain s
  | .trap imm => Sys2Proof.Machine.execTrap imm s
  | .srr d n => Sys2Proof.Machine.execSrr d n s
  | .srw a n => Sys2Proof.Machine.execSrw a n s
  | .ld o => Sys2Proof.Machine.execLd o s
  | .st o => Sys2Proof.Machine.execSt o s
  | .pref o => Sys2Proof.Machine.execPref o s
  | .amoAdd d a v sz => Sys2Proof.Machine.execAmoAdd d a v sz s
  | .amoAnd d a v sz => Sys2Proof.Machine.execAmoAnd d a v sz s
  | .amoOr d a v sz => Sys2Proof.Machine.execAmoOr d a v sz s
  | .amoXor d a v sz => Sys2Proof.Machine.execAmoXor d a v sz s
  | .amoMin d a v sz => Sys2Proof.Machine.execAmoMin d a v sz s
  | .amoMax d a v sz => Sys2Proof.Machine.execAmoMax d a v sz s
  | .amoMinn d a v sz => Sys2Proof.Machine.execAmoMinn d a v sz s
  | .amoMaxn d a v sz => Sys2Proof.Machine.execAmoMaxn d a v sz s
  | .amoSwap d a v sz => Sys2Proof.Machine.execAmoSwap d a v sz s
  | .amoFadd d a v sz => Sys2Proof.Machine.execAmoFadd d a v sz s
  | .cas d a e n sz => Sys2Proof.Machine.execCas d a e n sz s
  | .waitw v a m cc sz code => Sys2Proof.Machine.execWaitw v a m cc sz code s
  | .waitSatisfied hart => Sys2Proof.Machine.execWaitSatisfied hart s
  | .watchPoll hart => Sys2Proof.Machine.execWatchPoll hart s
  | .waitBoundExpired hart => Sys2Proof.Machine.execWaitBoundExpired hart s
  | .pbinit c a => Sys2Proof.Machine.execPbinit c a s
  | .pbarr d a => Sys2Proof.Machine.execPbarr d a s
  | .pbexp b a => Sys2Proof.Machine.execPbexp b a s
  | .pbwait p a code => Sys2Proof.Machine.execPbwait p a code s
  | .pbwaitComplete hart => Sys2Proof.Machine.execPbwaitComplete hart s
  | .vcfg count shares ew => Sys2Proof.Machine.execVcfg count shares ew s
  | .shareGrant core => Sys2Proof.Machine.execShareGrant core s
  | .vsetl d a => Sys2Proof.Machine.execVsetl d a s
  | .vsetr d a => Sys2Proof.Machine.execVsetr d a s
  | .vrel => Sys2Proof.Machine.execVrel s
  | .gang d a => Sys2Proof.Machine.execGang d a s
  | .gangTimeout hart => Sys2Proof.Machine.execGangTimeout hart s
  | .mand d a b => Sys2Proof.Machine.execMand d a b s
  | .mor d a b => Sys2Proof.Machine.execMor d a b s
  | .mxor d a b => Sys2Proof.Machine.execMxor d a b s
  | .mnot d a => Sys2Proof.Machine.execMnot d a s
  | .mset d a => Sys2Proof.Machine.execMset d a s
  | .mpop d a => Sys2Proof.Machine.execMpop d a s
  | .mfirst d a => Sys2Proof.Machine.execMfirst d a s
  | .mmov d a => Sys2Proof.Machine.execMmov d a s
  | .vadd o => Sys2Proof.Machine.execVadd o s
  | .vsub o => Sys2Proof.Machine.execVsub o s
  | .vmul o => Sys2Proof.Machine.execVmul o s
  | .vfma o => Sys2Proof.Machine.execVfma o s
  | .vfms o => Sys2Proof.Machine.execVfms o s
  | .vdiv o => Sys2Proof.Machine.execVdiv o s
  | .vsqrt o => Sys2Proof.Machine.execVsqrt o s
  | .vrsq o => Sys2Proof.Machine.execVrsq o s
  | .vexp2 o => Sys2Proof.Machine.execVexp2 o s
  | .vmin o => Sys2Proof.Machine.execVmin o s
  | .vmax o => Sys2Proof.Machine.execVmax o s
  | .vabs o => Sys2Proof.Machine.execVabs o s
  | .vneg o => Sys2Proof.Machine.execVneg o s
  | .vand o => Sys2Proof.Machine.execVand o s
  | .vor o => Sys2Proof.Machine.execVor o s
  | .vxor o => Sys2Proof.Machine.execVxor o s
  | .vshl o => Sys2Proof.Machine.execVshl o s
  | .vshr o => Sys2Proof.Machine.execVshr o s
  | .vsra o => Sys2Proof.Machine.execVsra o s
  | .vclmul o => Sys2Proof.Machine.execVclmul o s
  | .vdot o => Sys2Proof.Machine.execVdot o s
  | .vhad o => Sys2Proof.Machine.execVhad o s
  | .vcvt o => Sys2Proof.Machine.execVcvt o s
  | .vaddVs o => Sys2Proof.Machine.execVaddVs o s
  | .vsubVs o => Sys2Proof.Machine.execVsubVs o s
  | .vmulVs o => Sys2Proof.Machine.execVmulVs o s
  | .vfmaVs o => Sys2Proof.Machine.execVfmaVs o s
  | .vfmsVs o => Sys2Proof.Machine.execVfmsVs o s
  | .vdivVs o => Sys2Proof.Machine.execVdivVs o s
  | .vminVs o => Sys2Proof.Machine.execVminVs o s
  | .vmaxVs o => Sys2Proof.Machine.execVmaxVs o s
  | .vandVs o => Sys2Proof.Machine.execVandVs o s
  | .vorVs o => Sys2Proof.Machine.execVorVs o s
  | .vxorVs o => Sys2Proof.Machine.execVxorVs o s
  | .vshlVs o => Sys2Proof.Machine.execVshlVs o s
  | .vshrVs o => Sys2Proof.Machine.execVshrVs o s
  | .vsraVs o => Sys2Proof.Machine.execVsraVs o s
  | .vclmulVs o => Sys2Proof.Machine.execVclmulVs o s
  | .vdotVs o => Sys2Proof.Machine.execVdotVs o s
  | .vsel o => Sys2Proof.Machine.execVsel o s
  | .vmv o => Sys2Proof.Machine.execVmv o s
  | .vbcast o => Sys2Proof.Machine.execVbcast o s
  | .vslide o => Sys2Proof.Machine.execVslide o s
  | .vperm o => Sys2Proof.Machine.execVperm o s
  | .viota o => Sys2Proof.Machine.execViota o s
  | .vcmp o => Sys2Proof.Machine.execVcmp o s
  | .vred o => Sys2Proof.Machine.execVred o s
  | .vld o => Sys2Proof.Machine.execVld o s
  | .vlds o => Sys2Proof.Machine.execVlds o s
  | .vldx o => Sys2Proof.Machine.execVldx o s
  | .vldff o => Sys2Proof.Machine.execVldff o s
  | .vldt o => Sys2Proof.Machine.execVldt o s
  | .vpref o => Sys2Proof.Machine.execVpref o s
  | .vst o => Sys2Proof.Machine.execVst o s
  | .vsts o => Sys2Proof.Machine.execVsts o s
  | .vstx o => Sys2Proof.Machine.execVstx o s
  | .vamo o => Sys2Proof.Machine.execVamo o s
  | .vlock o => Sys2Proof.Machine.execVlock o s
  | .vunlock o => Sys2Proof.Machine.execVunlock o s
  | .stmap o => Sys2Proof.Machine.execStmap o s
  | .stwb o => Sys2Proof.Machine.execStwb o s
  | .stunmap o => Sys2Proof.Machine.execStunmap o s
  | .oclaim o => Sys2Proof.Machine.execOclaim o s
  | .orel o => Sys2Proof.Machine.execOrel o s
  | .oldv o => Sys2Proof.Machine.execOldv o s
  | .opa o => Sys2Proof.Machine.execOpa o s
  | .aclaim o => Sys2Proof.Machine.execAclaim o s
  | .arel o => Sys2Proof.Machine.execArel o s
  | .aclr o => Sys2Proof.Machine.execAclr o s
  | .axt o => Sys2Proof.Machine.execAxt o s
  | .asave o => Sys2Proof.Machine.execAsave o s
  | .aload o => Sys2Proof.Machine.execAload o s
  | .vcopy o => Sys2Proof.Machine.execVcopy o s
  | .vcopyJob o => Sys2Proof.Machine.execVcopyJob o s
  | .vcopyx o => Sys2Proof.Machine.execVcopyx o s
  | .jobStart job n => Sys2Proof.Machine.execJobStart job n s
  | .jobComplete job => Sys2Proof.Machine.execJobComplete job s
  | .remoteAccessTimeout job => Sys2Proof.Machine.execRemoteAccessTimeout job s
  | .collectiveJoinTimeout job => Sys2Proof.Machine.execCollectiveJoinTimeout job s
  | .remoteAccessReceived r => Sys2Proof.Machine.execRemoteAccessReceived r s
  | .vstrm o => Sys2Proof.Machine.execVstrm o s
  | .vstrmx o => Sys2Proof.Machine.execVstrmx o s
  | .waitk set => Sys2Proof.Machine.execWaitk set s
  | .cwp d k => Sys2Proof.Machine.execCwp d k s
  | .topen d a t => Sys2Proof.Machine.execTopen d a t s
  | .trel t => Sys2Proof.Machine.execTrel t s
  | .tstat d t => Sys2Proof.Machine.execTstat d t s
  | .refreshCloseRow row => Sys2Proof.Machine.execRefreshCloseRow row s
  | .tetherReopened row => Sys2Proof.Machine.execTetherReopened row s
  | .qinit a t => Sys2Proof.Machine.execQinit a t s
  | .enq v a z code => Sys2Proof.Machine.execEnq v a z code s
  | .deq d a z code => Sys2Proof.Machine.execDeq d a z code s
  | .venq v a m code => Sys2Proof.Machine.execVenq v a m code s
  | .vdeq d a m code => Sys2Proof.Machine.execVdeq d a m code s
  | .spoolReservationGrant q => Sys2Proof.Machine.execSpoolReservationGrant q s
  | .spoolTakingGrant q => Sys2Proof.Machine.execSpoolTakingGrant q s
  | .enqt v a z p => Sys2Proof.Machine.execEnqt v a z p s
  | .deqt d a z p => Sys2Proof.Machine.execDeqt d a z p s
  | .qstat d a => Sys2Proof.Machine.execQstat d a s
  | .spoolNotifyDelay q => Sys2Proof.Machine.execSpoolNotifyDelay q s
  | .doorbellStore pa v => Sys2Proof.Machine.execDoorbellStore pa v s
  | .headLatchStore pa v => Sys2Proof.Machine.execHeadLatchStore pa v s
  | .spawn r => Sys2Proof.Machine.execSpawn r s
  | .joinw j => Sys2Proof.Machine.execJoinw j s
  | .launch d q p => Sys2Proof.Machine.execLaunch d q p s
  | .jstat d q n => Sys2Proof.Machine.execJstat d q n s
  | .cancel q n => Sys2Proof.Machine.execCancel q n s
  | .tlbinv a b => Sys2Proof.Machine.execTlbinv a b s
  | .stagePrefix p => Sys2Proof.Machine.execStagePrefix p s
  | .takePacket spool => Sys2Proof.Machine.execTakePacket spool s
  | .dispatchPacket spool => Sys2Proof.Machine.execDispatchPacket spool s
  | .placementMessage pkt cluster => Sys2Proof.Machine.execPlacementMessage pkt cluster s
  | .gondolaCopyMessage cluster => Sys2Proof.Machine.execGondolaCopyMessage cluster s
  | .startClusterGroup cluster cores => Sys2Proof.Machine.execStartClusterGroup cluster cores s
  | .startTask cluster hart => Sys2Proof.Machine.execStartTask cluster hart s
  | .packetComplete pkt => Sys2Proof.Machine.execPacketComplete pkt s
  | .wakeComplete u => Sys2Proof.Machine.execWakeComplete u s
  | .gateCluster cluster => Sys2Proof.Machine.execGateCluster cluster s
  | .gateDie die => Sys2Proof.Machine.execGateDie die s
  | .preemptStarvation cluster => Sys2Proof.Machine.execPreemptStarvation cluster s
  | .preemptRequest hart => Sys2Proof.Machine.execPreemptRequest hart s
  | .resumeHartGroup group => Sys2Proof.Machine.execResumeHartGroup group s
  | .faultRecordWrite => Sys2Proof.Machine.execFaultRecordWrite s
  | .faultreplyResume index => Sys2Proof.Machine.execFaultreplyResume index s
  | .faultreplyKill index => Sys2Proof.Machine.execFaultreplyKill index s
  | .invpage => Sys2Proof.Machine.execInvpage s
  | .invasid => Sys2Proof.Machine.execInvasid s
  | .invall => Sys2Proof.Machine.execInvall s
  | .ctxload => Sys2Proof.Machine.execCtxload s
  | .ctxdestroy => Sys2Proof.Machine.execCtxdestroy s
  | .watchElement => Sys2Proof.Machine.execWatchElement s
  | .watchEntryFired entry => Sys2Proof.Machine.execWatchEntryFired entry s
  | .lspoolRegister v => Sys2Proof.Machine.execLspoolRegister v s
  | .lspoolRemove v => Sys2Proof.Machine.execLspoolRemove v s
  | .resetOrderlyWarm => Sys2Proof.Machine.execResetOrderlyWarm s
  | .resetWarm => Sys2Proof.Machine.execResetWarm s
  | .keelRestart => Sys2Proof.Machine.execKeelRestart s
  | .keelHeartbeatTimeout => Sys2Proof.Machine.execKeelHeartbeatTimeout s
  | .keelRestartComplete => Sys2Proof.Machine.execKeelRestartComplete s
  | .devidsetWrite v => Sys2Proof.Machine.execDevidsetWrite v s
  | .gatectlWrite v => Sys2Proof.Machine.execGatectlWrite v s
  | .registerWrite pa v => Sys2Proof.Machine.execRegisterWrite pa v s
  | .quote => Sys2Proof.Machine.execQuote s
  | .extend => Sys2Proof.Machine.execExtend s
  | .identity => Sys2Proof.Machine.execIdentity s
  | .plateupd => Sys2Proof.Machine.execPlateupd s
  | .mailboxComplete => Sys2Proof.Machine.execMailboxComplete s
  | .thermalStepEval r => Sys2Proof.Machine.execThermalStepEval r s
  | .patrolScrub pa bad => Sys2Proof.Machine.execPatrolScrub pa bad s
  | .uncorrectableError pa => Sys2Proof.Machine.execUncorrectableError pa s
  | .linkDown l => Sys2Proof.Machine.execLinkDown l s
  | .pcieInboundRequest r => Sys2Proof.Machine.execPcieInboundRequest r s
  | .mgmtHalt u => Sys2Proof.Machine.execMgmtHalt u s
  | .mgmtResume hart => Sys2Proof.Machine.execMgmtResume hart s
  | .mgmtStep hart => Sys2Proof.Machine.execMgmtStep hart s
  | .mgmtWriteState hart off v => Sys2Proof.Machine.execMgmtWriteState hart off v s
  | .mgmtWarmReset orderly => Sys2Proof.Machine.execMgmtWarmReset orderly s
  | .coldReset => Sys2Proof.Machine.execColdReset s
  | .ucieLinkTrained n => Sys2Proof.Machine.execUcieLinkTrained n s
  | .stackTrainingComplete n pass => Sys2Proof.Machine.execStackTrainingComplete n pass s
  | .pciePortReady n => Sys2Proof.Machine.execPciePortReady n s
  | .fetchFault => Sys2Proof.Machine.execFetchFault s
  | .unallocatedEncoding => Sys2Proof.Machine.execUnallocatedEncoding s
  | .applicationCoreStore pa bytes => Sys2Proof.Machine.execApplicationCoreStore pa bytes s
  | .linkUp l => Sys2Proof.Machine.execLinkUp l s

end Sys2Proof.Machine
end

