-- ==== Sys2Proof/Machine/Spoil.lean ====
section
/-! DEFINITION. Soft errors in the registers, slots and banks of a hart (16 R418 to R420; log 14): what each instruction
reads as a source, the trap that a poisoned source takes, and the upsets. -/

namespace Sys2Proof.Machine

/-- What an instruction reads as a source of its hart, and what comes before that reading: scalar and FP registers;
elements of vector and mask registers, sectors of slots and rows of banks, each with its number; the register numbers that
04 R109 checks and whether it needs a configured hart; whether it is legal in its mode and rounding mode; whether it has
CI; the tokens it waits for. -/
structure Sources where
  s : List Reg := []
  f : List Reg := []
  v : List (Nat × List Nat) := []
  m : List (Nat × List Nat) := []
  slots : List (Nat × List Nat) := []
  banks : List (Nat × List Nat) := []
  regs : List Reg := []
  vec : Bool := false
  legal : Bool := true
  ci : Bool := false
  wait : BitVec 8 := 0
  deriving DecidableEq, Repr

/-! Sources of a form. -/

/-- Scalar sources alone (05 R117). -/
def scalarSrc (l : List Reg) : Sources := { s := l }

/-- FP sources of a form that rounds in the effective mode (05 R127). -/
def fpSrc (x : Hart) (o : VAOps) (l : List Reg) : Sources := { f := l, legal := (roundingMode x o.rm).isSome }

/-- `fcvt` (05 R128). -/
def fcvtSrc (x : Hart) (o : VAOps) : Sources :=
  let raw := (o.w = 7 && o.ty = 7) || (o.w = 3 && o.ty = 3)
  let legal := raw || (roundingMode x o.rm).isSome
  if 8 ≤ o.w.toNat ∨ (o.w = 3 ∧ o.ty = 3) then { f := [o.y], legal := legal } else { s := [o.y], legal := legal }

/-- Tile elements VSTART to T − 1, whose mask bits an instruction reads (06 R156). -/
def tileElems (x : Hart) : List Nat := (List.range (tiles x - x.vstart)).map (x.vstart + ·)

/-- An element-wise instruction (06 R156, R161, R162): `vs` for a scalar second source, `useZ` and `useW` for the fields
that name sources, `rounds` for a dynamic rounding mode. -/
def vaSrc (x : Hart) (o : VAOps) (vs useZ useW rounds : Bool) : Sources :=
  let l := active x o.mask.toNat
  { s := if vs then [o.z] else []
    v := (if o.ci then [] else [(o.y.toNat, l)]) ++ (if useZ && !vs then [(o.z.toNat, l)] else [])
      ++ (if useW then [(o.w.toNat, l)] else [])
    m := [(o.mask.toNat, tileElems x)]
    regs := vaRegs o true (useZ && !vs) useW
    vec := true
    legal := !rounds || decide (o.ty.toNat < 8) || (roundingMode x o.rm).isSome
    ci := o.ci }

/-- The element that holds value `i` of a view at `w` bits (06 R155). -/
def viewElem (x : Hart) (w i : Nat) : Nat := i * w / ewBits x

/-- `vcvt` (06 R164): the elements that hold the values read, and their scales. -/
def vcvtSrc (x : Hart) (o : VAOps) : Sources :=
  let l := active x o.mask.toNat
  let scale := o.w.getLsbD 4
  let src := o.w.toNat % 16
  { v := (if o.ci then [] else [(o.y.toNat, l.map (viewElem x (tyWidth src)))])
      ++ (if scale then [(o.z.toNat, l.map (viewElem x 32))] else [])
    m := [(o.mask.toNat, tileElems x)]
    regs := vaRegs o true scale false
    vec := true
    legal := !(decide (8 ≤ o.ty.toNat) || decide (8 ≤ src) && decide (src ≠ 12)) || (roundingMode x o.rm).isSome
    ci := o.ci }

/-- An instruction of major 0x22 (06 R167): its scalar source, the elements it reads and the masks it reads besides its
own. -/
def vcSrc (x : Hart) (o : VAOps) (s : List Reg) (v m : List (Nat × List Nat)) (regs : List Reg) : Sources :=
  { s := s, v := v, m := (o.mask.toNat, tileElems x) :: m, regs := regs, vec := true }

/-- `vslide` (06 R167): the elements of Y that active elements take. -/
def slideElems (x : Hart) (o : VAOps) : List Nat :=
  (active x o.mask.toNat).filterMap fun t =>
    let k : Int := ((t % x.vl : Nat) : Int) + (x.readS o.z).toInt
    if 0 ≤ k ∧ k < (x.vl : Int) then some (t / x.vl * x.vl + k.toNat) else none

/-- `vperm` (06 R167): the elements of Y that active elements take. -/
def permElems (x : Hart) (o : VAOps) : List Nat :=
  (active x o.mask.toNat).filterMap fun t =>
    let i := elem (x.vreg o.z.toNat) (ewBytes x) t
    if i < x.vl then some (t / x.vl * x.vl + i) else none

/-- A mask instruction with mask sources `l` (06 R171). -/
def maskSrc (x : Hart) (l : List Reg) : Sources := { m := l.map fun r => (r.toNat, tileElems x), vec := true }

/-- A vector memory form (07 R176 to R183): scalar registers `s`, and the vector registers `v` by active element. -/
def vmSrc (x : Hart) (o : VMOps) (s v regs : List Reg) : Sources :=
  { s := s
    v := v.map fun r => (r.toNat, active x o.mask.toNat)
    m := [(o.mask.toNat, tileElems x)]
    regs := regs
    vec := true
    wait := o.wait }

/-- A form of 07 R193 to R195 or of a copy: scalar registers and the tokens it waits for. -/
def waitSrc (o : VMOps) (s : List Reg) : Sources := { s := s, wait := o.wait }

/-- Row mask bits of a matrix form (08 R203, R205). -/
def rowElems (x : Hart) : List Nat := (List.range (x.vl - x.vstart)).map (x.vstart + ·)

/-- `opa` (08 R205): the active rows of the A slot and of the bank, and the quarter of every row of the B slot. -/
def opaSrc (x : Hart) (o : VMOps) : Sources :=
  let rows := activeRows x o.mask.toNat
  let q := o.sub.toNat / 2 % 4
  { m := [(o.mask.toNat, rowElems x)]
    slots := if rows.isEmpty then []
      else [(o.x.toNat, rows.flatMap fun r => (List.range 4).map (4 * r + ·)),
        (o.y.toNat, (List.range 128).map fun k => 2 * k + q / 2)]
    banks := [(o.sub.toNat % 2, rows)]
    vec := true
    wait := o.wait }

/-- `axt` (08 R210): the rows of the bank and the scales that active elements take. -/
def axtSrc (x : Hart) (o : VMOps) : Sources :=
  let l := active x o.mask.toNat
  { v := [(o.z.toNat, l.map fun t => viewElem x 32 (t % x.vl))]
    m := [(o.mask.toNat, tileElems x)]
    banks := [(o.sub.toNat % 2, l.map (· / x.vl))]
    regs := [o.x, o.z]
    vec := true
    legal := (roundingMode x 0).isSome
    wait := o.wait }

/-- The elements that a stream store takes from its register (09 R231). -/
def streamElems (s : State) (o : VMOps) : List Nat :=
  match stripOf s s.me with
  | none => []
  | some p => streamActive s.me p (s.me.readS o.y).toNat o.mask.toNat

/-- Whether the spool that `a` names has elements of at most 8 bytes, which a register holds (10 R255). -/
def smallElement (s : State) (a : Reg) : Option Bool :=
  match spoolBlock s (s.me.readS a).toNat with
  | .error _ => none
  | .ok q => some (decide (qEsize (qcbRead s q) ≤ 8))

/-- `enq` and `enqt` (10 R258): the address, and the register or the pointer that gives the element. -/
def enqSrc (s : State) (v a z : Reg) (legal : Bool) : Sources :=
  { s := a :: (match smallElement s a with | some true => [v] | some false => [z] | none => []), legal := legal }

/-- `deq` and `deqt` (10 R258): the address, and the pointer to which a larger element goes. -/
def deqSrc (s : State) (a z : Reg) (legal : Bool) : Sources :=
  { s := a :: (match smallElement s a with | some false => [z] | _ => []), legal := legal }

/-- `venq` and `vdeq` (10 R258): `v` names the source register of `venq`. -/
def vspoolSrc (x : Hart) (a : Reg) (m : BitVec 3) (v regs : List Reg) : Sources :=
  { s := [a], v := v.map fun r => (r.toNat, active x m.toNat), m := [(m.toNat, tileElems x)], regs := regs, vec := true }

/-! Sources of every instruction. -/

/-- What instruction `i` reads as a source (16 R420). A hint reads nothing that could trap (05 R147; 07 R188), and a step of
another agent reads no register. -/
def sources (s : State) (i : Instr) : Sources :=
  let x := s.me
  match i with
  | .add _ a b | .sub _ a b | .mul _ a b | .mulh _ a b | .mulhn _ a b | .div _ a b | .divn _ a b | .rem _ a b
  | .remn _ a b | .and _ a b | .or _ a b | .xor _ a b | .shl _ a b | .shr _ a b | .sra _ a b | .rot _ a b | .slt _ a b
  | .sltn _ a b | .min _ a b | .max _ a b | .minn _ a b | .maxn _ a b | .clmul _ a b | .clmulh _ a b => scalarSrc [a, b]
  | .clz _ a | .ctz _ a | .pop _ a | .sext _ a _ | .zext _ a _ | .addi _ a _ | .andi _ a _ | .ori _ a _ | .xori _ a _
  | .shli _ a _ | .shri _ a _ | .srai _ a _ | .slti _ a _ => scalarSrc [a]
  | .limm _ _ | .addpc _ _ => {}
  | .sel _ c a b => scalarSrc [c, a, b]
  | .fadd o | .fsub o | .fmul o => fpSrc x o [o.y, o.z]
  | .ffma o => fpSrc x o [o.y, o.z, o.w]
  | .fcvt o => fcvtSrc x o
  | .fcmp o => { f := [o.y, o.z] }
  | .beq a b _ | .bne a b _ | .blt a b _ | .bge a b _ | .bltn a b _ | .bgen a b _ => scalarSrc [a, b]
  | .jmp _ | .call _ => {}
  | .jmpr _ a => scalarSrc [a]
  | .loop _ a t | .loopm _ a t _ => { s := [a], legal := loopEncoded x t }
  | .loopi _ _ _ | .trap _ | .srr _ _ => {}
  | .srw a n =>
    { s := [a], legal := !(decide (n.toNat / 1024 % 2 = 1)) && sysReach x.mode n.toNat && (sysValue s s.cur n.toNat).isSome }
  | .ld o => scalarSrc [o.y]
  | .st o => if o.fr then { s := [o.y], f := [o.x] } else scalarSrc [o.y, o.x]
  | .pref _ => {}
  | .amoAdd _ a v _ | .amoAnd _ a v _ | .amoOr _ a v _ | .amoXor _ a v _ | .amoMin _ a v _ | .amoMax _ a v _
  | .amoMinn _ a v _ | .amoMaxn _ a v _ | .amoSwap _ a v _ | .amoFadd _ a v _ => scalarSrc [a, v]
  | .cas _ a e n _ => scalarSrc [a, e, n]
  | .waitw v a m _ _ _ => scalarSrc [v, a, m]
  | .pbinit c a => scalarSrc [c, a]
  | .pbarr _ a => scalarSrc [a]
  | .pbexp b a => scalarSrc [b, a]
  | .pbwait p a _ => scalarSrc [p, a]
  | .vcfg _ _ _ => {}
  | .vsetl _ a | .vsetr _ a => { s := [a], vec := true }
  | .gang _ a => scalarSrc [a]
  | .mand _ a b | .mor _ a b | .mxor _ a b => maskSrc x [a, b]
  | .mnot _ a | .mpop _ a | .mfirst _ a | .mmov _ a => maskSrc x [a]
  | .mset _ a => { s := [a], vec := true }
  | .vadd o | .vsub o | .vmul o | .vdiv o => vaSrc x o false true false true
  | .vfma o | .vfms o | .vdot o => vaSrc x o false true true true
  | .vsqrt o | .vrsq o | .vexp2 o => vaSrc x o false false false true
  | .vhad o => vaSrc x { o with mask := 0 } false false false true
  | .vmin o | .vmax o | .vand o | .vor o | .vxor o | .vshl o | .vshr o | .vsra o | .vclmul o => vaSrc x o false true false false
  | .vabs o | .vneg o => vaSrc x o false false false false
  | .vcvt o => vcvtSrc x o
  | .vaddVs o | .vsubVs o | .vmulVs o | .vdivVs o => vaSrc x o true true false true
  | .vfmaVs o | .vfmsVs o | .vdotVs o => vaSrc x o true true true true
  | .vminVs o | .vmaxVs o | .vandVs o | .vorVs o | .vxorVs o | .vshlVs o | .vshrVs o | .vsraVs o | .vclmulVs o =>
    vaSrc x o true true false false
  | .vsel o =>
    let l := active x o.mask.toNat
    let k := o.w.toNat % 8
    vcSrc x o [] [(o.y.toNat, l.filter (maskBit x k)), (o.z.toNat, l.filter fun t => !maskBit x k t)] [(k, l)] [o.x, o.y, o.z]
  | .vmv o => vcSrc x o [] [(o.y.toNat, active x o.mask.toNat)] [] [o.x, o.y]
  | .vbcast o => vcSrc x o [o.z] [] [] [o.x]
  | .vslide o => vcSrc x o [o.z] [(o.y.toNat, slideElems x o)] [] [o.x, o.y]
  | .vperm o => vcSrc x o [] [(o.z.toNat, active x o.mask.toNat), (o.y.toNat, permElems x o)] [] [o.x, o.y, o.z]
  | .viota o =>
    let before (t : Nat) : List Nat := (List.range (t % x.vl)).map (t / x.vl * x.vl + ·)
    vcSrc x o [] [] [(o.y.toNat % 8, (active x o.mask.toNat).flatMap before)] [o.x]
  | .vcmp o => vcSrc x o [] [(o.y.toNat, active x o.mask.toNat), (o.z.toNat, active x o.mask.toNat)] [] [o.y, o.z]
  | .vred o =>
    { vcSrc x o [] [(o.y.toNat, active x o.mask.toNat)] [] [o.x, o.y] with
      legal := decide (o.ty.toNat < 8) || decide (o.w ≠ 0) || (roundingMode x o.rm).isSome }
  | .vld o | .vldff o | .vldt o => vmSrc x o [o.y] [] [o.x]
  | .vlds o => vmSrc x o [o.y, o.z] [] [o.x]
  | .vldx o => vmSrc x o [o.y] [o.z] [o.x, o.z]
  | .vpref _ => {}
  | .vst o => vmSrc x o [o.y] [o.x] [o.x]
  | .vsts o => vmSrc x o [o.y, o.z] [o.x] [o.x]
  | .vstx o | .vamo o => vmSrc x o [o.y] [o.x, o.z] [o.x, o.z]
  | .vlock o | .vunlock o => vmSrc x o [] [o.z] [o.z]
  | .stmap o => waitSrc o [o.x, o.y, o.z]
  | .stwb o | .stunmap o => waitSrc o [o.x]
  | .oclaim _ | .orel _ | .aclaim _ | .arel _ | .aclr _ => {}
  | .oldv o => { waitSrc o [o.y, o.z] with m := [(o.mask.toNat, rowElems x)], vec := true }
  | .opa o => opaSrc x o
  | .axt o => axtSrc x o
  | .asave o => { waitSrc o [o.y] with banks := [(o.sub.toNat % 2, List.range 64)] }
  | .aload o => waitSrc o [o.y]
  | .vcopy o => waitSrc o [o.x, o.y, o.z]
  | .vcopyJob o => waitSrc o [o.y]
  | .vcopyx o => vmSrc x o [o.x, o.y] [o.z] [o.z]
  | .vstrm o => vmSrc x o [o.y] [] [o.x]
  | .vstrmx o => { vmSrc x o [o.y] [] [o.x] with v := [(o.x.toNat, streamElems s o)] }
  | .waitk _ | .cwp _ _ => {}
  | .topen _ a _ => scalarSrc [a]
  | .trel _ | .tstat _ _ => {}
  | .qinit a t => scalarSrc [a, t]
  | .enq v a z _ => enqSrc s v a z true
  | .deq _ a z _ => deqSrc s a z true
  | .venq v a m _ => vspoolSrc x a m [v] [v]
  | .vdeq d a m _ => vspoolSrc x a m [] [d]
  | .enqt v a z _ => enqSrc s v a z (tryAllowed s)
  | .deqt _ a z _ => deqSrc s a z (tryAllowed s)
  | .qstat _ a | .spawn a | .joinw a => scalarSrc [a]
  | .launch _ q p => scalarSrc [q, p]
  | .jstat _ q i | .cancel q i => scalarSrc (if q = 0 then [] else [q, i])
  | .tlbinv a b => { s := [a, b], legal := x.mode == .system }
  | .stagePrefix _ | .nop | .next | .halt | .eret | .ill | .yield | .fence | .fenceSv | .fenceVs | .vdrain | .vrel => {}
  | .waitSatisfied _ | .watchPoll _ | .waitBoundExpired _ | .pbwaitComplete _ | .shareGrant _ | .gangTimeout _ | .jobStart _ _
  | .jobComplete _ | .remoteAccessTimeout _ | .collectiveJoinTimeout _ | .remoteAccessReceived _ | .refreshCloseRow _
  | .tetherReopened _ | .spoolReservationGrant _ | .spoolTakingGrant _ | .spoolNotifyDelay _ | .doorbellStore _ _
  | .headLatchStore _ _ | .takePacket _ | .dispatchPacket _ | .placementMessage _ _ | .gondolaCopyMessage _
  | .startClusterGroup _ _ | .startTask _ _ | .packetComplete _ | .wakeComplete _ | .gateCluster _ | .gateDie _
  | .preemptStarvation _ | .preemptRequest _ | .resumeHartGroup _ | .faultreplyResume _ | .faultreplyKill _
  | .watchEntryFired _ | .lspoolRegister _ | .lspoolRemove _ | .devidsetWrite _ | .gatectlWrite _ | .registerWrite _ _
  | .thermalStepEval _ | .patrolScrub _ _ | .uncorrectableError _ | .linkDown _ | .pcieInboundRequest _ | .mgmtHalt _
  | .mgmtResume _ | .mgmtStep _ | .mgmtWriteState _ _ _ | .mgmtWarmReset _ | .ucieLinkTrained _ | .stackTrainingComplete _ _
  | .pciePortReady _ | .applicationCoreStore _ _ | .linkUp _ | .faultRecordWrite | .invpage | .invasid | .invall | .ctxload
  | .ctxdestroy | .watchElement | .resetOrderlyWarm | .resetWarm | .keelRestart | .keelHeartbeatTimeout
  | .keelRestartComplete | .quote | .extend | .identity | .plateupd | .mailboxComplete | .coldReset | .fetchFault
  | .unallocatedEncoding => {}

/-! The trap. -/

/-- Nothing of the hart is poisoned. -/
def Spoiled.clear (p : Spoiled) : Bool :=
  p.s == 0 && p.f == 0 && p.v.isEmpty && p.m.isEmpty && p.slots.isEmpty && p.banks.isEmpty

/-- A part named in `l` is poisoned. -/
def spoiltIn (m : SMap Bits) (l : List (Nat × List Nat)) : Bool := l.any fun e => e.2.any (Tab.get false (Tab.get [] m e.1))

/-- A source is poisoned; s0 and m0 are no storage (03 R69, R72). -/
def Sources.spoilt (u : Sources) (p : Spoiled) : Bool :=
  (u.s.any fun r => r != 0 && p.s.getLsbD r.toNat) || (u.f.any fun r => p.f.getLsbD r.toNat) || spoiltIn p.v u.v
    || spoiltIn p.m (u.m.filter fun e => e.1 != 0) || spoiltIn p.slots u.slots || spoiltIn p.banks u.banks

/-- The hart is about to read its sources: it is not waiting for anything but tokens that are ready (07 R198). -/
def readsNow (x : Hart) (w : BitVec 8) : Bool :=
  match x.run with
  | .running => (pendingTokens x w).isEmpty
  | .waiting .tokens _ => (pendingTokens x w).isEmpty
  | _ => false

/-- Instruction `i` is legal, follows an open chain group as it must, names registers that exist, and reads a poisoned
source (16 R420; 04 R104; 06 R166; log 14). -/
def readsSpoiled (s : State) (i : Instr) : Bool :=
  let x := s.me
  if x.spoiled.clear then false
  else
    let u := sources s i
    let fits := match x.chain with | none => !u.ci | some g => u.ci && !g.lost
    u.legal && fits && (!u.vec || vregsOk x u.regs) && readsNow x u.wait && u.spoilt x.spoiled

/-- A poisoned source takes trap 0x14 with EVAL 0 (16 R420); inside a chain group EVAL is the raising instruction (06
R166). The tokens waited for have been acquired (07 R198). -/
def spoiledTrap (s : State) (i : Instr) : State :=
  let w := (sources s i).wait
  let s := if w = 0 then s else s.setMe (acquireTokens s.me w)
  trap s 0x14 (if s.me.chain.isSome then trapPc s.me else 0)

/-- One instruction of the executing hart, its sources read first. -/
def execChecked (i : Instr) (s : State) : Res := if readsSpoiled s i then .next (spoiledTrap s i) else exec i s

/-! Upsets. -/

/-- Marks the parts `l` of register, slot or bank `r`. -/
def spoil (m : SMap Bits) (r : Nat) (l : List Nat) : SMap Bits :=
  Tab.set [] r (Tab.sets false (l.map fun t => (t, true)) (Tab.get [] m r)) m

/-- The element groups that hold elements `l` of a register of hart `h`, whole (16 R418): 64 elements, or LANES of them
(02 R62; 16 R424). -/
def elementGroups (s : State) (h : Nat) (l : List Nat) : List Nat :=
  let g := s.plate.lanes
  ((distinct (l.map (· / g))).flatMap fun k => (List.range g).map (g * k + ·)).filter fun t => decide (t < tileMax (s.hart h))

/-- The poison that an upset leaves in a hart's own parts, of a vector or mask register in whole element groups; s0 and m0 are
no storage. -/
def spoilPart (s : State) (h : Nat) (u : Upset) (p : Spoiled) : Spoiled :=
  match u with
  | .scalar _ r => if r = 0 then p else { p with s := p.s ||| 1#32 <<< r.toNat }
  | .fp _ r => { p with f := p.f ||| 1#16 <<< r.toNat }
  | .vector _ r l => if r < vCount (s.hart h) then { p with v := spoil p.v r (elementGroups s h l) } else p
  | .mask _ m l => if m = 0 ∨ 8 ≤ m ∨ (s.hart h).conf = none then p else { p with m := spoil p.m m (elementGroups s h l) }
  | .slot _ n l => if ownsSlot s h n then { p with slots := spoil p.slots n l } else p
  | .bank _ b l => if ownsBank s h b then { p with banks := spoil p.banks b l } else p
  | .sector _ => p

/-- The hart that an upset strikes. -/
def upsetHart (u : Upset) : Option Nat :=
  match u with
  | .scalar h _ => some h
  | .fp h _ => some h
  | .vector h _ _ => some h
  | .mask h _ _ => some h
  | .slot h _ _ => some h
  | .bank h _ _ => some h
  | .sector _ => none

/-- An uncorrectable soft error in a part of a core (16 R418): what it strikes is poisoned until it is written whole. A hart
that runs no work holds nothing. Memory is poisoned after the accesses that wait in queues, none of which meets the poison
(log 4). -/
def runUpset (s : State) (u : Upset) : State :=
  match u with
  | .sector loc =>
    if dramOk s loc then spoilCache (performAll s) (loc / 32 * 32) 32
    else if 0x1000000000000 ≤ loc ∧ coreEnabled s ((loc - 0x1000000000000) / 0x80000) then
      setTaint (performAll s) (loc / 32 * 32) 32 .error
    else s
  | u =>
    match upsetHart u with
    | none => s
    | some h =>
      let x := s.hart h
      if x.run = .free then s else s.setHart h { x with spoiled := spoilPart s h u x.spoiled }

end Sys2Proof.Machine
end

