-- ==== Sys2Proof/Machine/Ahead.lean ====
section
/-! DEFINITION. What a stream of a hart performs before its turn (13 R324, R325, R328, R333; log 4): leases on lines, stores and
the first reads of jobs. -/

namespace Sys2Proof.Machine

/-- Hart `x` waits in an instruction of its scalar stream, or of its vector stream. -/
def waitsIn (x : Hart) (vector : Bool) : Bool :=
  match x.run with
  | .waiting (.word ..) _ => !vector
  | .waiting (.join ..) _ => !vector
  | .waiting (.barrier ..) _ => !vector
  | .waiting (.arrival _) _ => !vector
  | .waiting .spawn _ => !vector
  | .waiting .channel _ => vector
  | .waiting (.spool _) _ =>
    (match waitingInstr x with
    | some (.venq ..) => vector
    | some (.vdeq ..) => vector
    | _ => !vector)
  | _ => false

/-- A stream of hart `h` may perform an access before its turn: nothing of the stream waits in its queue, and the hart runs
towards the access, or waits in an instruction of its other stream alone (13 R323, R324). -/
def mayRunAhead (s : State) (h : Nat) (vector : Bool) : Bool :=
  let x := s.hart h
  !x.halted && (x.queue vector).isEmpty && (x.run == .running || waitsIn x !vector)

/-- The memory behind the lines that hold some addresses of hart `h`, as it stands: those that the hart may read, none of them
device-class or poisoned (13 R327, R328; 15 R385 to R387). -/
def linesAt (s : State) (h : Nat) (vas : List Nat) : List Host.Cell :=
  let a := s.agent h
  vas.flatMap fun va =>
    let w := match resolve s a .load va with | .ok ⟨.derived p, _⟩ => if (decodedWindow s p).isSome then 128 else 4 | _ => 128
    match check s a .load (va / w * w) w with
    | .error _ => []
    | .ok r =>
      match memSpan s r.place w with
      | none => []
      | some (l, n) => if r.cls = .io then [] else (List.range n).map fun i => (l + i, Tab.get 0 s.mem (l + i))

/-- A stream of hart `h` is granted a lease on the lines of some addresses, for `uses` accesses, all at this point of the global
order: 16 ticks from now (13 R328). -/
def grantLease (s : State) (h : Nat) (vector : Bool) (vas : List Nat) (uses : Nat) : State :=
  let l := linesAt s h vas
  if l.isEmpty || uses == 0 || !mayRunAhead s h vector then s
  else setEarly s h vector (early s h vector ++ [.read uses ((s.hart h).streamTime vector + 16) l])

/-- A job that hart `h` is to start reads the lines of some addresses before the hart's earlier scalar accesses (13 R333). -/
def readForJob (s : State) (h : Nat) (vas : List Nat) : State :=
  let l := linesAt s h vas
  if l.isEmpty || !mayRunAhead s h true then s else setEarly s h true (early s h true ++ [.job l])

/-- A stream of hart `h` performs a store before earlier instructions of the hart: to memory of the hart's that holds no poison,
and not while stores of its wait behind a job (13 R324, R325; 09 R218). -/
def performAhead (s : State) (h : Nat) (vector : Bool) (va : Nat) (b : List Byte) : State :=
  let n := b.length
  if !mayRunAhead s h vector || !(n == 1 || n == 2 || n == 4 || n == 8) || (vector && storeQueueHeld s h) then s
  else
    match check s (s.agent h) .store va n with
    | .ok ⟨.ram l, c⟩ =>
      if c = .io ∨ taintPlace s (.ram (l / 32 * 32)) 32 ≠ .sound then s
      else setEarly (writeRam s l b) h vector (early s h vector ++ [.wrote l b (replaced s l n)])
    | _ => s

end Sys2Proof.Machine
end

