-- ==== Sys2Proof/Machine/Schedule.lean ====
section
/-! DEFINITION. Running a hart (04 R98 to R102), what moves next (log 3), and the placing of one instruction where the next
step fetches. -/

namespace Sys2Proof.Machine

/-! The streams of a hart. -/

/-- How an instruction meets the accesses that its hart has left to the queues of its streams (13 R323, R324; log 4). -/
inductive Meets where
  /-- A scalar load or store, which joins the scalar queue. -/
  | scalarMove
  /-- No access, and scalar registers alone. -/
  | scalarOnly
  /-- Another access of the scalar stream. -/
  | scalarStream
  /-- A vector access, which joins the vector queue, or has it performed where it cannot. -/
  | vectorMove
  /-- No access, and vector or mask registers. -/
  | vectorOnly
  /-- Another access of the vector stream, or a job. -/
  | vectorStream
  /-- No access, and registers of either kind. -/
  | noAccess
  /-- What its hart has left to both queues is performed before it. -/
  | all
  deriving DecidableEq, Repr

/-- How instruction `i` meets the queues. -/
def meetsQueues (i : Instr) : Meets :=
  match i with
  | .ld _ | .st _ => .scalarMove
  | .add .. | .sub .. | .mul .. | .mulh .. | .mulhn .. | .div .. | .divn .. | .rem .. | .remn .. | .and .. | .or .. | .xor ..
  | .shl .. | .shr .. | .sra .. | .rot .. | .slt .. | .sltn .. | .min .. | .max .. | .minn .. | .maxn .. | .clmul ..
  | .clmulh .. | .clz .. | .ctz .. | .pop .. | .sext .. | .zext .. | .addi .. | .andi .. | .ori .. | .xori .. | .shli ..
  | .shri .. | .srai .. | .slti .. | .limm .. | .addpc .. | .sel .. | .fadd _ | .fsub _ | .fmul _ | .ffma _ | .fcvt _
  | .fcmp _ | .beq .. | .bne .. | .blt .. | .bge .. | .bltn .. | .bgen .. | .jmp _ | .call _ | .jmpr .. | .loop ..
  | .loopm .. | .loopi .. | .stagePrefix _ | .nop | .pref _ => .scalarOnly
  | .amoAdd .. | .amoAnd .. | .amoOr .. | .amoXor .. | .amoMin .. | .amoMax .. | .amoMinn .. | .amoMaxn .. | .amoSwap ..
  | .amoFadd .. | .cas .. | .waitw .. | .pbinit .. | .pbarr .. | .pbexp .. | .pbwait .. | .qinit .. | .enq .. | .deq ..
  | .enqt .. | .deqt .. | .qstat .. | .spawn _ | .joinw _ | .launch .. | .fenceSv => .scalarStream
  | .vld _ | .vlds _ | .vldx _ | .vldff _ | .vst _ | .vsts _ | .vstx _ | .vamo _ | .vlock _ | .vunlock _ | .oldv _ | .asave _
  | .aload _ | .vldt _ | .vstrm _ | .vstrmx _ | .venq .. | .vdeq .. => .vectorMove
  | .vadd _ | .vsub _ | .vmul _ | .vdiv _ | .vfma _ | .vfms _ | .vdot _ | .vsqrt _ | .vrsq _ | .vexp2 _ | .vhad _ | .vmin _
  | .vmax _ | .vand _ | .vor _ | .vxor _ | .vshl _ | .vshr _ | .vsra _ | .vclmul _ | .vabs _ | .vneg _ | .vcvt _
  | .vaddVs _ | .vsubVs _ | .vmulVs _ | .vdivVs _ | .vfmaVs _ | .vfmsVs _ | .vdotVs _ | .vminVs _ | .vmaxVs _ | .vandVs _
  | .vorVs _ | .vxorVs _ | .vshlVs _ | .vshrVs _ | .vsraVs _ | .vclmulVs _ | .vsel _ | .vmv _ | .vbcast _ | .vslide _
  | .vperm _ | .viota _ | .vcmp _ | .vred _ | .mand .. | .mor .. | .mxor .. | .mnot .. | .mpop .. | .mfirst .. | .mmov ..
  | .mset .. | .opa _ | .axt _ => .vectorOnly
  | .stmap _ | .stwb _ | .stunmap _ | .vcopy _ | .vcopyJob _ | .vcopyx _ | .fenceVs | .vdrain => .vectorStream
  | .fence | .next | .tlbinv .. => .all
  | _ => .noAccess

/-- A queued access loads scalar register `r`. -/
def loadsScalar (x : Hart) (r : Reg) : Bool :=
  x.scalarQueue.flatten.any fun p => match p with | .toScalar _ d _ _ => d == r | _ => false

/-- A queued access loads FP register `r`. -/
def loadsFp (x : Hart) (r : Reg) : Bool :=
  x.scalarQueue.flatten.any fun p => match p with | .toFp _ d _ _ => d == r | _ => false

/-- A queued access loads an element of vector register `r`. -/
def loadsVector (x : Hart) (r : Nat) : Bool :=
  x.vectorQueue.flatten.any fun p =>
    match p with
    | .toElement _ d _ _ => d == r
    | .atomic _ _ _ _ (some e) => e.1 == r
    | _ => false

/-- A queued access loads part of an operand slot or of an accumulator bank. -/
def loadsMatrix (x : Hart) : Bool :=
  x.vectorQueue.flatten.any fun p =>
    match p with
    | .toSlot _ _ _ _ => true
    | .toBank _ _ _ => true
    | _ => false

/-- A queued `vlock` has mask registers to write. -/
def loadsMask (x : Hart) : Bool :=
  x.vectorQueue.flatten.any fun p => match p with | .lock _ _ _ _ _ => true | _ => false

/-- An instruction that reads, writes or gives back operand slots or accumulator banks. -/
def usesMatrix (i : Instr) : Bool :=
  match i with
  | .opa _ | .axt _ | .asave _ | .aload _ | .orel _ | .arel _ => true
  | _ => false

/-- An instruction that reads or writes FFLAGS or the overflow flags of the banks, or gives up the vector registers: it needs every
register result of the vector queue. -/
def needsResults (i : Instr) : Bool :=
  match i with
  | .vcfg .. | .vrel => true
  | .srr _ n => n == 0x004 || n == 0x008
  | .srw _ n => n == 0x004 || n == 0x008
  | _ => false

/-- A load waits in the scalar queue. -/
def loadWaits (x : Hart) : Bool := x.scalarQueue.flatten.any fun p => match p with | .store _ _ => false | _ => true

/-- Whether the accesses in the scalar queue, and how many of the vector queue, are performed before instruction `i`: those that
come before it in its own stream, and those that it needs the result of (13 R323, R324). -/
def drains (s : State) (i : Instr) : Bool × Nat :=
  let x := s.me
  let u := sources s i
  let needs := u.s.any (loadsScalar x) || u.f.any (loadsFp x)
  let results := u.v.any (fun e => loadsVector x e.1) || u.regs.any (fun r => loadsVector x r.toNat) || loadsMask x
    || (usesMatrix i && loadsMatrix x) || needsResults i
  let held := if results then resultLength x else 0
  match meetsQueues i with
  | .scalarMove =>
    (match i with
      | .ld o => needs || loadsScalar x o.x || loadsFp x o.x
      | _ => needs, 0)
  | .scalarOnly => (loadWaits x, 0)
  | .scalarStream => (true, 0)
  | .vectorMove => (needs, held)
  | .vectorOnly => (loadWaits x, held)
  | .vectorStream => (needs, x.vectorQueue.length)
  | .noAccess => (loadWaits x, held)
  | .all => (true, x.vectorQueue.length)

/-- Instruction `i` has to wait behind a queued store, which a job before it holds (09 R218). -/
def blocked (s : State) (i : Instr) : Bool := decide (freeLength s s.cur < (drains s i).2)

/-- The state once the queued accesses that come before instruction `i` have been performed: waits that are armed later see
later values alone (10 R247). -/
def drained (s : State) (i : Instr) : State :=
  if s.me.scalarQueue.isEmpty && s.me.vectorQueue.isEmpty then s
  else
    let d := drains s i
    let s := if d.1 then performQueue s s.cur false else s
    sweepArmed (performFirst s s.cur true d.2)

/-- A stream whose accesses instruction `i` makes in its own step, or orders, has no access before its turn from there on (13 R324,
R328, R330, R331). What `i` does with the loads and stores of either stream is theirs to say. -/
def freshened (s : State) (i : Instr) : State :=
  match meetsQueues i with
  | .scalarStream => freshAccess s (i == .fenceSv)
  | .vectorStream =>
    match i with
    | .vcopy _ | .vcopyJob _ | .vcopyx _ => s
    | _ => freshAccess s (i != .fenceVs)
  | .vectorMove =>
    match i with
    | .venq .. | .vdeq .. => freshAccess s true
    | _ => s
  | .noAccess =>
    match i with
    | .waitk _ => freshAccess (freshAccess s false) true
    | .cwp .. => freshAccess s false
    | _ => s
  | .all => freshAccess (freshAccess s false) true
  | _ => s

/-- The state in which instruction `i` is executed. -/
def prepared (s : State) (i : Instr) : State := freshened (drained s i) i

/-- The accesses of the vector stream that instruction `i` makes (13 R323, R326, R328): elements, rows, or bytes of an image. -/
def accessesOf (x : Hart) (i : Instr) : Nat :=
  match i with
  | .vld o | .vlds o | .vldx o | .vldff o | .vst o | .vsts o | .vstx o | .vamo o | .vlock o | .vunlock o | .vldt o | .vstrm o
  | .vstrmx o => (active x o.mask.toNat).length
  | .venq _ _ m _ | .vdeq _ _ m _ => (active x m.toNat).length
  | .oldv o => (activeRows x o.mask.toNat).length
  | .asave _ => 3072
  | .aload _ => 24576
  | .stmap _ | .stwb _ | .stunmap _ => 1
  | _ => 0

/-- The `k`-th element of the oldest access in a queue of hart `h` is performed, unless an earlier element of that access
meets its bytes (13 R324; 07 R184), or it stores behind a job that waits for a channel (09 R218). -/
def performElement (s : State) (h : Nat) (vector : Bool) (k : Nat) : State :=
  let x := s.hart h
  let q := if vector then x.vectorQueue else x.scalarQueue
  match q with
  | [] => s
  | l :: r =>
    match l[k]? with
    | none => s
    | some p =>
      let a := p.span
      if vector && decide (freeLength s h = 0) then s
      else if (l.take k).any fun e => decide (e.span.1 < a.1 + a.2) && decide (a.1 < e.span.1 + e.span.2) then s
      else
        let rest := l.eraseIdx k
        let q := if rest.isEmpty then r else rest :: r
        performOne (s.setHart h (if vector then { x with vectorQueue := q } else { x with scalarQueue := q })) h vector p

/-- Hart `h` begins to leave its loads and stores to the queues of its streams, or ceases to, what waits there being
performed (13 R324; log 4). -/
def setLag (s : State) (h : Nat) (on : Bool) : State :=
  if (s.hart h).run = .free ∨ (!on && vectorHeld s h) then s
  else
    let s := if on then s else performHart s h
    s.setHart h { s.hart h with lag := on }

/-! A hart's step. -/

/-- The hart waits. -/
def waitsNow (x : Hart) : Bool := match x.run with | .waiting _ _ => true | _ => false

/-- The instruction at the executing hart's PC in the line it has fetched (04 R107); a poisoned source traps (16 R420). One
that follows a queued vector store waits while a job before that store waits for a channel (09 R218). -/
def runSlot (s : State) : Res :=
  match waitingInstr s.me with
  | some i =>
    if blocked s i then .next (waitAt s .channel 0) else execChecked i (prepared s i)
  | none => exec .unallocatedEncoding s

/-- The executing hart with the line at its PC fetched, or none where the fetch meets a problem (04 R98 to R101). -/
def fetched (s : State) : Option State :=
  match fetchProblem s with
  | some _ => none
  | none =>
    match fetchLine s s.cur s.me.pc.toNat with
    | .ok l => some ((touch s (s.agent s.cur) .fetch s.me.pc.toNat).setMe { s.me with fetched := l })
    | .error _ => none

/-- One instruction of the executing hart, its line fetched. -/
def runFetched (s : State) : Res :=
  match fetched s with
  | some t => runSlot t
  | none => exec .fetchFault s

/-- One instruction of the executing hart; a waiting hart executes the one it waits at again. -/
def runOne (s : State) : Res :=
  match s.me.run with
  | .waiting .stack _ => runFetched (awake s)
  | .waiting .channel _ => runSlot (awake s)
  | .waiting _ _ => runSlot s
  | _ => runFetched s

/-- A qualified instruction runs in the step of its prefix (04 R102). -/
def runQualified (s : State) : Res := if s.me.qual && s.me.run == .running then runSlot s else .next s

/-- A loop of a hart has gone back to its body in the step from `before` to `after` (05 R136): its count has fallen, or it is
what it was because the instruction before END wrote it. -/
def wentBack (before after : Hart) (old new : Loop) : Bool :=
  old.busy && new.busy && old.stamp == new.stamp && new.body == after.pc
    && (old.count != new.count || old.fin == following { before with fetched := after.fetched })

/-- A loop end of hart `h` in the step from `before` to `after` whose target is an empty slot is not made: the instruction at
the loop's end is left unexecuted and takes trap 0x02 (04 R101). `whole` says that the step is that instruction's alone; else
only the hart goes back. While the target's stack is not ready the instruction waits (17 R440). -/
def loopEndOf (whole : Bool) (before after : State) (h : Nat) : State :=
  let x := before.hart h
  let y := after.hart h
  if y.run == .running && x.run != .free && (wentBack x y x.lc0 y.lc0 || wentBack x y x.lc1 y.lc1) then
    match checkTarget after h y.pc with
    | some (c, e, false) =>
      if c = stackHeld ∧ !whole then after
      else
        let t := withdraw (if whole then before else after.setHart h x) h
        { trap (awake { t with cur := h }) c e with cur := after.cur }
    | _ => after
  else after

/-- The loop ends of the harts that go on in the step of another agent (04 R101; 05 R136). -/
def loopEnds (whole : Bool) (before after : State) (l : List Nat) : State := l.foldl (loopEndOf whole before) after

/-- A hart that has entered a handler at the END of an active loop of system mode makes the test there (05 R136). -/
def enteredOf (before after : State) (h : Nat) : State :=
  let x := before.hart h
  let y := after.hart h
  if x.run != .free && x.mode == .user && y.mode == .system && y.run == .running && !y.halted then goOn after h y else after

/-- What follows a step of hart `h`, or of another agent, from `before` to `after`, for all harts (04 R101; 05 R136). -/
def afterStep (h : Option Nat) (whole : Bool) (before after : State) : State :=
  let l := after.harts.map (·.1)
  let t := match h with | some h => loopEndOf true before after h | none => after
  let t := loopEnds whole before t (l.filter fun k => h != some k)
  l.foldl (enteredOf before) t

/-- The instruction that a hart executed in the step from `before` to `after`, where it fetched it. -/
def executed (before after : Hart) : Option Instr := waitingInstr { before with fetched := after.fetched }

/-- The logical times of the streams rise (13 R328): those of the executing hart's vector stream with each access that it
made in its step and did not leave to its queue, and all by one with the time that passes. -/
def tickTimes (before after : State) : State :=
  let n : Nat :=
    match executed before.me after.me with
    | some i => if after.me.vectorQueue.isEmpty then accessesOf before.me i else 0
    | none => 0
  let all : State := { after with harts := after.harts.map fun e =>
    (e.1, if e.2.run == .free then e.2 else (e.2.tick false 1).tick true 1) }
  if n = 0 ∨ all.me.run = .free then all else all.setMe (all.me.tick true n)

/-- A hart that steps halts again after one instruction or one chain group, the instructions before it complete (16 R416, R417). -/
def haltAgain (before after : State) : State :=
  let x := after.me
  if before.me.stepping && x.stepping && x.run == .running && x.chain.isNone then haltNow after after.cur else after

/-- A hart that steps, and whose instruction another agent has completed, halts again (16 R417). -/
def haltOther (before after : State) (h : Nat) : State :=
  let x := before.hart h
  let y := after.hart h
  if x.stepping && waitsNow x && y.stepping && y.run == .running && y.chain.isNone && !y.halted then haltNow after h else after

/-- What follows the instruction of the executing hart. -/
def afterHart (before after : State) : State := haltAgain before (tickTimes before after)

/-- One instruction of the executing hart, with the one that its prefix qualifies (04 R102). -/
def runBoth (s : State) : Res :=
  match runOne s with
  | .next t =>
    let t := afterStep (some s.cur) false s t
    (match runQualified t with
    | .next u => .next (afterHart s (if t.me.qual && t.me.run == .running then afterStep (some s.cur) false t u else u))
    | r => r)
  | r => r

/-- A step of hart `h`: a suspension that was kept for the end of its chain group comes first (06 R166; 16 R410); a free or a
halted hart does nothing. -/
def runHart (s : State) (h : Nat) : Res :=
  let x := s.hart h
  if x.run = .free ∨ x.halted then .next s
  else
    match s.keel.requests.find? fun e => decide (e.1 = h) && e.2.isSome && requestDue s e with
    | some e => .next (serveRequest s e)
    | none => runBoth { s with cur := h }

/-! Suspension inside a vector access. -/

/-- A vector memory instruction of hart `h` that may be stopped between two of its elements (16 R410; 08 R215): a `vstrm` whose data
the leader of a gang hands over has none of its own. -/
def stoppable (x : Hart) (h : Nat) (i : Instr) : Bool :=
  match i with
  | .vld _ | .vlds _ | .vldx _ | .vldff _ | .vst _ | .vsts _ | .vstx _ | .vamo _ | .vldt _ | .oldv _ | .vstrmx _ => true
  | .vstrm _ => x.gangFeed.isEmpty && (x.gang.isNone || x.gangLead == h)
  | _ => false

/-- The elements that the instruction has: rows for `oldv` (08 R203). -/
def elementCount (x : Hart) (i : Instr) : Nat :=
  match i with
  | .oldv _ => x.vl
  | _ => tiles x

/-- The instruction of hart `h` has completed in the step from `t` to `u`. -/
def completedAt (t u : State) (h : Nat) : Bool :=
  let y := u.hart h
  y.run == .running && y.vstart == 0 && y.work == t.me.work && y.pc == (arrive t.me (following t.me)).pc

/-- VSTART of the trap that hart `h` has taken in a step to `u`: in its handler, or as it was saved. -/
def trapVstart (u : State) (h : Nat) : Nat :=
  match (u.hart h).run with
  | .free => ((u.keel.saved.reverse.find? fun r => r.hartid == h).map (·.hart.vstart)).getD 0
  | .running => (u.hart h).vstart
  | .waiting _ _ => 0

/-- Instruction `i` of the executing hart of `t` performs its elements below `n`, whether or not it meets a problem after them. -/
def reaches (t : State) (i : Instr) (n : Nat) : Bool :=
  match execChecked i (prepared t i) with
  | .next w => completedAt t w t.cur || decide (n ≤ trapVstart w t.cur)
  | _ => false

/-- Hart `h` stopped inside a vector memory instruction (16 R410 step 3): exactly the elements below `n` are performed, and
VSTART is `n`. None where the hart is not inside such an instruction, or its elements below `n` meet a problem. -/
def stopped (s : State) (h n : Nat) : Option State :=
  let x := s.hart h
  if x.run ≠ .running ∨ x.halted ∨ x.chain.isSome ∨ x.qual then none
  else
    (fetched { s with cur := h }).bind fun t => (waitingInstr t.me).bind fun i =>
      if !stoppable t.me h i || decide (n ≤ t.me.vstart) || decide (elementCount t.me i ≤ n) || blocked t i || !reaches t i n then
        none
      else
        let v := t.setMe { t.me with vl := n, vrows := 1, gang := none }
        match execChecked i (prepared v i) with
        | .next u =>
          let y := u.hart h
          if completedAt v u h && decide (y.vl = n) && decide (y.vrows = 1) then
            some { u.setHart h { t.me with
              v := y.v
              m := y.m
              fflags := y.fflags
              spoiled := y.spoiled
              tokens := y.tokens
              pass := y.pass
              vectorTime := y.vectorTime
              scalarQueue := y.scalarQueue
              vectorQueue := y.vectorQueue
              vstart := n } with cur := s.cur }
          else none
        | _ => none

/-- A vector memory instruction of hart `h` performs its elements below `n` in a step of their own (13 R323); its time rises with
each (R328). -/
def performElements (s : State) (h n : Nat) : State :=
  match stopped s h n with
  | some t => if (t.hart h).vectorQueue.isEmpty then t.setHart h ((t.hart h).tick true (n - (s.hart h).vstart)) else t
  | none => s

/-- A pre-emption request reaches hart `h` inside a vector memory instruction (16 R410 step 3): it is the next message that the
Gondola copies, and names the hart. -/
def stopInside (s : State) (h n : Nat) : State :=
  let cl := clusterOf h
  match (s.cluster cl).link with
  | .suspend _ l :: _ =>
    if l.contains (h, (s.hart h).placed) then
      match stopped s h n with
      | some t => copyCommand t cl
      | none => s
    else s
  | _ => s

/-- A debug halt by the management interface reaches hart `h` inside such an instruction (16 R410 step 3, R416). -/
def haltInside (s : State) (h n : Nat) : State :=
  match stopped s h n with
  | some t => haltHart t h
  | none => s

/-! What moves next. -/

/-- A step of another agent of the device: no instruction of a hart, and not what only a fetch finds. -/
def isDeviceStep (i : Instr) : Bool := !i.encodable && i != .fetchFault && i != .unallocatedEncoding

/-- A move that a device whose boot has failed still makes: a reset (15 R395). -/
def isReset (m : Move) : Bool :=
  match m with
  | .event .coldReset => true
  | .event (.mgmtWarmReset _) => true
  | _ => false

/-- An event that completes one waiting instruction and does nothing else. -/
def completesOne (i : Instr) : Bool :=
  match i with
  | .waitSatisfied _ | .watchPoll _ | .pbwaitComplete _ | .shareGrant _ | .spoolReservationGrant _ | .spoolTakingGrant _ => true
  | _ => false

/-- What a move does, the store of a promise being taken as it stands. -/
def moveOf (s : State) (m : Move) : Res :=
  match m with
  | .hart h => runHart s h
  | .event i =>
    if isDeviceStep i then
      match exec i s with
      | .next t => .next (afterStep none (completesOne i) s t)
      | r => r
    else .next s
  | .upset u => .next (runUpset s u)
  | .corrected k => .next (countCorrected s k)
  | .lineError a => .next (lineError s a)
  | .lag h on => .next (setLag s h on)
  | .perform h v k => .next (performElement s h v k)
  | .lease h v l n => .next (grantLease s h v l n)
  | .promise h v va b => .next (performAhead s h v va b)
  | .jobRead h l => .next (readForJob s h l)
  | .element h n => .next (performElements s h n)
  | .keepLine h va => .next (keepLine s h va)
  | .pickLine h k => .next (pickLine s h k)
  | .dropLine h => .next (dropLine s h)
  | .msiLag on => .next { s with hub := { s.hub with msiLag := on } }
  | .msi k => .next (performMsi s k)
  | .remote k => retryRemote s k
  | .post r => .next (if r.write then postWrite s r else s)
  | .posted k => .next (performPosted s k)
  | .wired m n => .next (sendWired s m n)
  | .iommu => .next (stepIommu s)
  | .bifurcate j n => .next (bifurcate s j n)
  | .readAhead id n =>
    match jobAt s id with
    | some j => if j.started && j.result == 0 && !jobWaits s j then .next (readAhead s j n) else .next s
    | none => .next s
  | .report cl => .next (copyReport s cl)
  | .preemptInside h n => .next (stopInside s h n)
  | .haltInside h n => .next (haltInside s h n)
  | .request => .next (runRequest s)
  | .park cl => .next (parkWaiter s cl)

/-- A move of a device whose boot is over: before boot has verified its components, and after a failed boot, no core and no
link runs, and only a reset moves the device (15 R395). -/
def gated (s : State) (m : Move) : Res :=
  if (s.hub.bootCode ≠ 0 ∨ !s.hub.ready.getLsbD 53) ∧ !isReset m then .next s else moveOf s m

/-- What follows every step from `before` to `after` (log 3): every armed wait is evaluated, a hart whose wait a poisoned block has
ended makes the test of its handler's address (05 R136), one that steps halts again, and the free values' counter advances. -/
def settle (before after : State) : State :=
  let l := after.harts.map (·.1)
  let t := sweep after
  let t := if after.requests.isEmpty then t else l.foldl (enteredOf after) t
  let t := if before.harts.any (fun e => e.2.stepping) then l.foldl (haltOther before) t else t
  { t with n := after.n + 1 }

/-- Every store that was performed ahead has been reached by its instruction (13 R324 item 1). -/
def State.kept (s : State) : Bool :=
  s.ahead.all fun e => match e.item with | .wrote .. => false | _ => true

/-- The state that a list of moves leads to; a store performed ahead stands only where its instruction comes to make it. -/
def follow : List Move → State → State
  | [], s => s
  | m :: l, s =>
    match m, gated s m with
    | .promise .., .next t =>
      let u := follow l (settle s t)
      if u.kept then u else follow l (settle s s)
    | _, .next t => follow l (settle s t)
    | _, _ => s

/-- A move of the agenda: a hart's step, a step of another agent, or what the log lists beside them (log 3). A store performed
ahead stands only where the rest of the agenda has its instruction make it (13 R324 item 1; log 4). -/
def runMove (s : State) (m : Move) : Res :=
  match m, gated s m with
  | .promise .., .next t => if (follow s.agenda (settle s t)).kept then .next t else .next s
  | _, r => r

/-- The step changes the state. -/
def changes (s : State) (r : Res) : Bool :=
  match r with
  | .next t => t != s
  | _ => true

/-- The steps of bring-up that are still to come (17 R448). -/
def bringUp (s : State) : List Instr :=
  if s.hub.bootCode ≠ 0 then []
  else if !s.hub.ready.getLsbD 53 then [.coldReset]
  else (List.range 10).map (fun n => Instr.ucieLinkTrained n) ++ (List.range 12).map (fun n => .stackTrainingComplete n true)
    ++ (List.range 8).map fun n => .pciePortReady n

/-- The device's own steps that the state may call for, in the order in which the model tries them (log 3). -/
def deviceSteps (s : State) : List Instr :=
  let clusters := s.plate.clusters.map fun c => 16 * c.1 + c.2.1
  [.mailboxComplete, .keelRestartComplete, .faultRecordWrite, .invpage, .invasid, .invall, .ctxload, .ctxdestroy,
      .watchElement]
    ++ (s.watches.map fun w => .watchEntryFired w.id)
    ++ (s.hub.wakingDies.map fun d => .wakeComplete (.die d))
    ++ ((s.clusters.filter fun c => c.2.waking).map fun c => .wakeComplete (.cluster c.1))
    ++ (s.jobs.map fun j => .jobStart j.id 4096) ++ (s.jobs.map fun j => .jobComplete j.id)
    ++ (s.keel.spools.map fun l => .takePacket l.num) ++ (s.keel.spools.map fun l => .dispatchPacket l.num)
    ++ ((s.keel.packets.filter fun p => p.phase == .dispatched).flatMap fun p => clusters.map fun c => .placementMessage p.id c)
    ++ (s.clusters.flatMap fun c => [.gondolaCopyMessage c.1, .startTask c.1 0, .startClusterGroup c.1 []])
    ++ ((distinct (s.keel.saved.map (·.group))).map fun g => .resumeHartGroup g)
    ++ ((s.keel.packets.filter fun p => p.phase != .done).map fun p => .packetComplete p.id)
    ++ (s.cores.flatMap fun c => (c.2.tethers.filterMap fun t => t.2.map fun t => t.row).map fun r => .tetherReopened r)

/-- Accesses that wait in queues, messages to the Keel, kept requests, interrupts and requests from outside that wait (log 3). -/
def deviceMoves (s : State) : List Move :=
  s.harts.flatMap (fun e => [.perform e.1 false 0, .perform e.1 true 0]) ++ s.clusters.map (fun c => .report c.1) ++ [.request]
    ++ (List.range s.hub.msis.length).map .msi ++ [.iommu] ++ (List.range s.hub.remotes.length).map .remote
    ++ (List.range s.hub.posted.length).map .posted ++ s.hub.aplicM.pending.map (.wired true) ++ s.hub.aplicS.pending.map (.wired false)

/-- The suspensions for a task record that waits, and the pre-emptions of groups that block a head for long (14 R359, R361). -/
def starvations (s : State) : List Move :=
  s.clusters.map (fun c => .park c.1) ++ s.clusters.map fun c => .event (.preemptStarvation c.1)

/-- The harts after the executing one, then those up to it. -/
def hartOrder (s : State) : List Nat :=
  let l := s.harts.map (·.1)
  (l.filter fun h => decide (s.cur < h)) ++ l.filter fun h => decide (h ≤ s.cur)

/-- The hart runs and waits for nothing. -/
def readyHart (x : Hart) : Bool := x.run == .running && !x.halted

/-- A waiting hart that is not halted. -/
def waitingHart (x : Hart) : Bool :=
  match x.run with
  | .waiting _ _ => !x.halted
  | _ => false

/-- The move that the model chooses when nothing is named (log 3): bring-up, then the device's own steps, then the harts in
turn, then a wait that can end, then a suspension for what is kept waiting, then a bound that passes. -/
def chooseMove (s : State) : Option Move :=
  match (deviceMoves s ++ (bringUp s ++ deviceSteps s).map Move.event).find? fun m => changes s (runMove s m) with
  | some m => some m
  | none =>
    match (hartOrder s).find? fun h => readyHart (s.hart h) with
    | some h => some (.hart h)
    | none =>
      let waits := (hartOrder s).filter fun h => waitingHart (s.hart h)
      match waits.find? fun h => changes { s with cur := h } (runHart s h) with
      | some h => some (.hart h)
      | none => (starvations s ++ waits.map fun h => Move.event (.waitBoundExpired h)).find? fun m => changes s (runMove s m)

/-- The move of this step and the state it starts from. -/
def nextMove (s : State) : Option Move × State :=
  match s.agenda with
  | m :: r => (some m, { s with agenda := r })
  | [] => (chooseMove s, s)

/-! Placing one instruction. -/

/-- The 64 bytes of a line with one head and its tail (04 R94 to R97). -/
def wordLine (nbits w : Nat) : List Byte :=
  let head := w >>> (nbits - 16) % 65536
  let k := 2 * Decode.tailClass (Decode.major (BitVec.ofNat 16 head))
  [1, 0] ++ leBytes 2 head ++ List.replicate (60 - k) 0 ++ leBytes k (w % 2 ^ (nbits - 16))

/-- The first gigabyte of virtual memory, mapped onto the first of DRAM through a root table at 0x1000 and a leaf in the
table at 0x2000, readable, writable and executable in user mode (15 R381), with a line at 0x400000. -/
def placedMem (m : List Host.Cell) (line : List Byte) : List Host.Cell :=
  putMem (putMem (putMem m 0x1000 (leBytes 8 0x801)) 0x2000 (leBytes 8 0xDF)) 0x400000 line

/-- The context that the placed instruction runs in: no handler, its windows far above the mapped gigabyte. -/
def placedContext : Context :=
  { valid := true, root := 1, swbase := 0x400000000000, cwbase := 0x410000000000 }

/-- The hart at the placed instruction, its other registers as they stand. -/
def placedHart (x : Hart) : Hart :=
  { x with
    pc := 0x400002
    mode := .user
    asid := 1
    qual := false
    chain := none
    run := .running
    halted := false
    stepping := false
    lines := []
    lag := false
    scalarQueue := []
    vectorQueue := [] }

end Sys2Proof.Machine
end

