-- ==== Sys2Proof/Machine/Step.lean ====
section
/-! DEFINITION. One step of the machine, and a state whose next step runs a given instruction. -/

namespace Sys2Proof.Machine

/-- One step: the move that is named or chosen, then the evaluation of every armed wait. Nothing moves when no move is
left. -/
def step (s : State) : Host.Outcome State Fault Refusal :=
  match nextMove s with
  | (none, t) => .next (settle t t)
  | (some m, t) =>
    match runMove t m with
    | .next u => .next (settle t u)
    | .fault f => .fault f
    | .refused r => .refused r

/-- The state with one instruction placed where hart 0 fetches next, in a context of its own, the device booted, its DRAM stacks
and die-to-die links ready (log 12). -/
def State.withFetchWord (s : State) (nbits w : Nat) : State :=
  { s with
    mem := placedMem s.mem (wordLine nbits w)
    contexts := Tab.set {} 1 placedContext s.contexts
    harts := Tab.set {} 0 (placedHart (s.hart 0)) s.harts
    cores := Tab.set {} 0 { s.core 0 with tlb := [], holder := some 1 } s.cores
    clusters := Tab.set {} 0 { s.cluster 0 with tlb := [] } s.clusters
    hub := { s.hub with ready := s.hub.ready ||| 0x200000007FEFFF, bootCode := 0, checking := [] }
    ahead := []
    keel := { s.keel with requests := s.keel.requests.filter fun e => e.1 != 0 }
    agenda := [.hart 0] }

end Sys2Proof.Machine
end

