-- ==== Sys2Proof/Safety.lean ====
section
/-! DEFINITION. The terms in which claims are stated: what a safe run is, the invariant of the state, what a step of one
hart leaves unchanged, and the values that the rules of spec/ give, written in integers where the rule does. -/

namespace Sys2Proof.Machine

/-! Runs. -/

/-- A run of `k` steps is safe when no step of it stops. -/
def safeRun (s : State) (k : Nat) : Prop := ∃ t, Sys2Proof.core.run k s = .next t

/-- The invariant of the state: memory keeps its one canonical form, so that equal memories are equal data. -/
def State.canonical (s : State) : Prop := Memory.wf s.mem = true

/-- Byte `a` of the device's memory as the state holds it. -/
def State.byte (s : State) (a : Nat) : Byte := Tab.get 0 s.mem a

/-! Frames. -/

/-- Only the executing hart's registers differ: every byte of memory, every other hart and all else stand. -/
def onlyMe (s t : State) : Prop :=
  t = { s with harts := t.harts } ∧ (∀ h, h ≠ s.cur → t.hart h = s.hart h) ∧ ∀ a, t.byte a = s.byte a

/-- No active loop of the hart's mode has its END at `pc` (05 R136). -/
def plainAt (x : Hart) (pc : Word) : Prop :=
  (x.lc0.busy = true → x.lc0.mode = x.mode → x.lc0.fin ≠ pc)
    ∧ (x.lc1.busy = true → x.lc1.mode = x.mode → x.lc1.fin ≠ pc)

/-- What the completion of an instruction may change of the hart `x` that its own effect leaves: the PC, and at the END of
an active loop the counters, the predicates and the rotating names s24 to s31, with what is poisoned of them (05 R136 to
R140). -/
def completes (x y : Hart) : Prop :=
  y = { x with
      s := y.s
      spoiled := { x.spoiled with s := y.spoiled.s }
      pc := y.pc
      qual := false
      lc0 := y.lc0
      lc1 := y.lc1
      pred := y.pred }
    ∧ (∀ r : Reg, r.toNat < 24 → y.readS r = x.readS r ∧ y.spoiled.s.getLsbD r.toNat = x.spoiled.s.getLsbD r.toNat)

/-- The executing hart performs its accesses in its own step, at their turn: it leaves none to its queues, neither by its own nor
behind a job that waits for a channel, and no stream has performed anything before its turn (13 R323 to R325, R328; 09 R218;
log 4). -/
def atTurn (s : State) : Prop :=
  s.me.lag = false ∧ s.me.scalarQueue = [] ∧ s.me.vectorQueue = [] ∧ storeQueueHeld s s.cur = false
    ∧ s.ahead = []

/-- No message of the executing hart is on its way: it is not among the spawns that wait for a slot, and no MSI waits to be
performed (14 R347; 20 R451). -/
def nothingSent (s : State) : Prop :=
  (s.cluster (clusterOf s.cur)).spawners.contains s.cur = false ∧ s.hub.msiLag = false ∧ s.hub.msis = []

/-- The executing hart is out of a chain group, so that no instruction breaks one (06 R166), performs its accesses at their turn
and has sent nothing that waits. -/
def free (s : State) : Prop := s.me.chain = none ∧ atTurn s ∧ nothingSent s

/-- No hart has left an access to a queue of its streams (log 4). -/
def quiet (s : State) : Prop := ∀ e ∈ s.harts, e.2.scalarQueue = [] ∧ e.2.vectorQueue = []

/-- The executing hart leaves its loads and stores to the queues of its streams (13 R323, R324; log 4), outside a chain
group and outside any loop; none waits there yet, and no stream has performed anything before its turn. -/
def lags (s : State) : Prop :=
  s.me.chain = none ∧ s.me.lag = true ∧ s.me.scalarQueue = [] ∧ s.me.vectorQueue = [] ∧ s.me.lc0.busy = false
    ∧ s.me.lc1.busy = false ∧ s.taint = [] ∧ storeQueueHeld s s.cur = false ∧ s.ahead = []

/-! Values of scalar instructions (05 R120 to R125). -/

/-- A truth value in a register. -/
def truth (p : Prop) [Decidable p] : Word := if p then 1 else 0

/-- The carry-less product (05 R120): the XOR, over each set bit i of b, of a shifted left by i. -/
def carryless (a b : Nat) : Nat := ((List.range 64).filter b.testBit).foldl (fun p i => p ^^^ a <<< i) 0

/-- The register that a function of two registers writes, its sources, and its value in integers (05 R120, R121): `A`
and `B` are the signed readings, `a` and `b` the natural ones. -/
def binaryValue (i : Instr) (x : Hart) : Option (Reg × Word) :=
  let rd (r : Reg) : Int × Nat := ((x.readS r).toInt, (x.readS r).toNat)
  let signedOp (d a b : Reg) (f : Int → Int → Int) := some (d, BitVec.ofInt 64 (f (rd a).1 (rd b).1))
  let naturalOp (d a b : Reg) (f : Nat → Nat → Nat) := some (d, BitVec.ofNat 64 (f (rd a).2 (rd b).2))
  match i with
  | .add d a b => signedOp d a b (· + ·)
  | .sub d a b => signedOp d a b (· - ·)
  | .mul d a b => signedOp d a b (· * ·)
  | .mulh d a b => signedOp d a b fun a b => a * b / 2 ^ 64
  | .mulhn d a b => naturalOp d a b fun a b => a * b / 2 ^ 64
  | .div d a b => signedOp d a b fun a b => if b = 0 then -1 else a.tdiv b
  | .rem d a b => signedOp d a b fun a b => if b = 0 then a else a - b * a.tdiv b
  | .divn d a b => naturalOp d a b fun a b => if b = 0 then 2 ^ 64 - 1 else a / b
  | .remn d a b => naturalOp d a b fun a b => if b = 0 then a else a % b
  | .and d a b => naturalOp d a b fun a b => a &&& b
  | .or d a b => naturalOp d a b fun a b => a ||| b
  | .xor d a b => naturalOp d a b fun a b => a ^^^ b
  | .shl d a b => naturalOp d a b fun a b => a * 2 ^ (b % 64)
  | .shr d a b => naturalOp d a b fun a b => a / 2 ^ (b % 64)
  | .sra d a b => some (d, BitVec.ofInt 64 ((rd a).1 / 2 ^ ((rd b).2 % 64)))
  | .rot d a b => naturalOp d a b fun a b => a / 2 ^ (b % 64) + a % 2 ^ (b % 64) * 2 ^ (64 - b % 64)
  | .slt d a b => some (d, truth ((rd a).1 < (rd b).1))
  | .sltn d a b => some (d, truth ((rd a).2 < (rd b).2))
  | .min d a b => signedOp d a b fun a b => if a ≤ b then a else b
  | .max d a b => signedOp d a b fun a b => if a ≤ b then b else a
  | .minn d a b => naturalOp d a b fun a b => if a ≤ b then a else b
  | .maxn d a b => naturalOp d a b fun a b => if a ≤ b then b else a
  | .clmul d a b => naturalOp d a b fun a b => carryless a b
  | .clmulh d a b => naturalOp d a b fun a b => carryless a b / 2 ^ 64
  | _ => none

/-- The register that a function of one register writes, and its value (05 R119, R120). -/
def unaryValue (i : Instr) (x : Hart) : Option (Reg × Word) :=
  let nat (a : Reg) : Nat := (x.readS a).toNat
  match i with
  | .clz d a => some (d, BitVec.ofNat 64 (if nat a = 0 then 64 else 63 - (nat a).log2))
  | .ctz d a => some (d, BitVec.ofNat 64 (((List.range 64).find? fun k => (nat a).testBit k).getD 64))
  | .pop d a => some (d, BitVec.ofNat 64 ((List.range 64).countP fun k => (nat a).testBit k))
  | .sext d a w => some (d,
      if w = 0 then ((x.readS a).truncate 8).signExtend 64
      else if w = 1 then ((x.readS a).truncate 16).signExtend 64 else ((x.readS a).truncate 32).signExtend 64)
  | .zext d a w => some (d,
      if w = 0 then ((x.readS a).truncate 8).zeroExtend 64
      else if w = 1 then ((x.readS a).truncate 16).zeroExtend 64 else ((x.readS a).truncate 32).zeroExtend 64)
  | _ => none

/-- The register that an immediate form, a constant or a selection writes, and its value (05 R122 to R125). -/
def constantValue (i : Instr) (x : Hart) : Option (Reg × Word) :=
  let nat (a : Reg) : Nat := (x.readS a).toNat
  match i with
  | .addi d a i => some (d, BitVec.ofInt 64 ((x.readS a).toInt + i.toInt))
  | .andi d a i => some (d, BitVec.ofNat 64 (nat a &&& i.toNat))
  | .ori d a i => some (d, BitVec.ofNat 64 (nat a ||| i.toNat))
  | .xori d a i => some (d, BitVec.ofNat 64 (nat a ^^^ i.toNat))
  | .shli d a i => some (d, BitVec.ofNat 64 (nat a * 2 ^ (i.toNat % 64)))
  | .shri d a i => some (d, BitVec.ofNat 64 (nat a / 2 ^ (i.toNat % 64)))
  | .srai d a i => some (d, BitVec.ofInt 64 ((x.readS a).toInt / 2 ^ (i.toNat % 64)))
  | .slti d a i => some (d, truth ((x.readS a).toInt < i.toInt))
  | .limm d i => some (d, BitVec.ofInt 64 i.toInt)
  | .addpc d i => some (d, BitVec.ofInt 64 (x.pc.toNat + i.toInt))
  | .sel d c a b => some (d, if x.readS c = 0 then x.readS b else x.readS a)
  | _ => none

/-- What a scalar integer instruction writes (05 R120 to R125). -/
def integerValue (i : Instr) (x : Hart) : Option (Reg × Word) :=
  (binaryValue i x).or ((unaryValue i x).or (constantValue i x))

/-! Values of scalar floating point (05 R126 to R129), under the effective rounding mode `rm`. -/

/-- The value of an f register read as a format (03 R70). -/
def fpOf (x : Hart) (m : Fmt) (r : Reg) : FP := unbox m (x.readF r).toNat

/-- The f register that fadd, fsub, fmul or ffma writes, its box and the flags raised (05 R127). -/
def fpArithValue (i : Instr) (rm : Nat) (x : Hart) : Option (Reg × Word × Flags) :=
  let out (o : VAOps) (f : Fmt → Nat × Flags) :=
    let r := f (fmtOf o.ty.toNat)
    some (o.x, box (fmtOf o.ty.toNat) r.1, r.2)
  match i with
  | .fadd o => out o fun m => fpAdd m rm (fpOf x m o.y) (fpOf x m o.z)
  | .fsub o => out o fun m => fpAdd m rm (fpOf x m o.y) (fpNeg (fpOf x m o.z))
  | .fmul o => out o fun m => fpProd m rm (fpOf x m o.y) (fpOf x m o.z)
  | .ffma o => out o fun m => fpDot m rm [(fpOf x m o.y, fpOf x m o.z)] (fpOf x m o.w)
  | _ => none

/-- The truth that fcmp writes for condition `cc`, and its flags (05 R129). -/
def fpCompare (cc : Nat) (a b : FP) : Bool × Flags :=
  let un := isNan a || isNan b
  let sg := sigFlag a ||| sigFlag b
  let any := if un then fNV else 0
  if cc = 0 then (!un && fpEq a b, sg)
  else if cc = 1 then (!un && fpLt a b, any)
  else if cc = 2 then (!un && (fpLt a b || fpEq a b), any)
  else (un, sg)

/-! Control (05 R130 to R137). -/

/-- Whether a branch or jump is taken, and its target operand (05 R130, R131). -/
def branchOf (i : Instr) (x : Hart) : Option (Bool × Target) :=
  match i with
  | .beq a b t => some (decide (x.readS a = x.readS b), t)
  | .bne a b t => some (decide (x.readS a ≠ x.readS b), t)
  | .blt a b t => some (decide ((x.readS a).toInt < (x.readS b).toInt), t)
  | .bge a b t => some (decide ((x.readS b).toInt ≤ (x.readS a).toInt), t)
  | .bltn a b t => some (decide ((x.readS a).toNat < (x.readS b).toNat), t)
  | .bgen a b t => some (decide ((x.readS b).toNat ≤ (x.readS a).toNat), t)
  | .jmp t => some (true, t)
  | _ => none

/-- The hart after the loops that a transfer from its own instruction to `dst` leaves have ended (05 R137). -/
def leaveLoops (x : Hart) (dst : Word) : Hart :=
  { x with lc0 := leaveLoop x (trapPc x) dst x.lc0, lc1 := leaveLoop x (trapPc x) dst x.lc1 }

/-- The link register of a call or jmpr, its target, and whether the transfer may end loops (05 R131, R132, R137). -/
def linkOf (i : Instr) (x : Hart) : Option (Reg × Word × Bool) :=
  match i with
  | .call t => some (31, branchTarget x.pc t, false)
  | .jmpr d a => some (d, x.readS a, d == 0)
  | _ => none

/-- The counter field, count, end and stages of a loop-starting instruction (05 R134). -/
def loopOf (i : Instr) (x : Hart) : Option (Reg × Nat × Target × Option Nat) :=
  match i with
  | .loop c a t => some (c, (x.readS a).toNat % 2 ^ 32, t, none)
  | .loopm c a t g => some (c, (x.readS a).toNat % 2 ^ 32, t, some (g.toNat % 8 + 1))
  | .loopi c n t => some (c, n.toNat, t, none)
  | _ => none

/-- The loop record and counter that a loop started with count `n` holds (05 R133, R135). -/
def loopRecord (x : Hart) (n : Nat) (fin : Word) (stages : Option Nat) : Loop where
  busy := true
  count := BitVec.ofNat 32 (match stages with | none => n | some g => n + g - 1)
  body := following x
  fin := fin
  mode := x.mode
  modulo := stages.isSome
  stages := stages.getD 0
  total := if stages.isSome then n else 0
  index := 0
  stamp := x.loops + 1

/-- The hart with a loop running on counter `c` (05 R135). -/
def withLoop (x : Hart) (c : Reg) (l : Loop) : Hart :=
  let y := setCounter x c l
  { y with loops := x.loops + 1, pred := if l.modulo then 1 else x.pred }

/-! Memory instructions. -/

/-- What ld writes: the register file, the register and the value (05 R142). -/
def loadValue (o : SMOps) (b : List Byte) : Bool × Word :=
  let w := 8 * 2 ^ (o.width.toNat % 4)
  if o.fr then
    (true, if o.width = 5 then box (fmtOf 8) (leNat b) else if o.width = 6 then box (fmtOf 10) (leNat b) else leWord b)
  else (false, if o.width.toNat < 4 then BitVec.ofInt 64 (signed w (leNat b)) else leWord b)

/-- The op code, operands and size of an amo (10 R240, R241). -/
def amoParts (i : Instr) : Option (Nat × Reg × Reg × Reg × Bool) :=
  match i with
  | .amoAdd d a v z => some (0, d, a, v, z)
  | .amoAnd d a v z => some (1, d, a, v, z)
  | .amoOr d a v z => some (2, d, a, v, z)
  | .amoXor d a v z => some (3, d, a, v, z)
  | .amoMin d a v z => some (4, d, a, v, z)
  | .amoMax d a v z => some (5, d, a, v, z)
  | .amoMinn d a v z => some (6, d, a, v, z)
  | .amoMaxn d a v z => some (7, d, a, v, z)
  | .amoSwap d a v z => some (8, d, a, v, z)
  | .amoFadd d a v z => some (9, d, a, v, z)
  | _ => none

/-! Vector instructions. -/

/-- The element-wise functions of majors 0x20 and 0x21 (06 R158, R161): operands, whether the second source is scalar,
whether FP types round dynamically, and the value of one sub-value from its three sources. -/
def elementFn (i : Instr) : Option (VAOps × Bool × Bool × (Nat → Nat → Nat → Nat → Nat × Flags)) :=
  match i with
  | .vadd o => some (o, false, true, vaddFn o)
  | .vsub o => some (o, false, true, vsubFn o)
  | .vmul o => some (o, false, true, vmulFn o)
  | .vfma o => some (o, false, true, vfmaFn o)
  | .vfms o => some (o, false, true, vfmsFn o)
  | .vdiv o => some (o, false, true, vdivFn o)
  | .vsqrt o => some (o, false, true, vsqrtFn o)
  | .vrsq o => some (o, false, true, vrsqFn o)
  | .vexp2 o => some (o, false, true, vexp2Fn o)
  | .vmin o => some (o, false, false, vminFn o)
  | .vmax o => some (o, false, false, vmaxFn o)
  | .vabs o => some (o, false, false, vabsFn o)
  | .vneg o => some (o, false, false, vnegFn o)
  | .vand o => some (o, false, false, vandFn o)
  | .vor o => some (o, false, false, vorFn o)
  | .vxor o => some (o, false, false, vxorFn o)
  | .vshl o => some (o, false, false, vshlFn o)
  | .vshr o => some (o, false, false, vshrFn o)
  | .vsra o => some (o, false, false, vsraFn o)
  | .vclmul o => some (o, false, false, vclmulFn o)
  | .vaddVs o => some (o, true, true, vaddFn o)
  | .vsubVs o => some (o, true, true, vsubFn o)
  | .vmulVs o => some (o, true, true, vmulFn o)
  | .vfmaVs o => some (o, true, true, vfmaFn o)
  | .vfmsVs o => some (o, true, true, vfmsFn o)
  | .vdivVs o => some (o, true, true, vdivFn o)
  | .vminVs o => some (o, true, false, vminFn o)
  | .vmaxVs o => some (o, true, false, vmaxFn o)
  | .vandVs o => some (o, true, false, vandFn o)
  | .vorVs o => some (o, true, false, vorFn o)
  | .vxorVs o => some (o, true, false, vxorFn o)
  | .vshlVs o => some (o, true, false, vshlFn o)
  | .vshrVs o => some (o, true, false, vshrFn o)
  | .vsraVs o => some (o, true, false, vsraFn o)
  | .vclmulVs o => some (o, true, false, vclmulFn o)
  | _ => none

/-- The rounding mode under which a vector function of `ty` works: the effective one for an FP type that rounds. -/
def vectorMode (x : Hart) (o : VAOps) (rounds : Bool) : Option Nat :=
  if rounds && decide (8 ≤ o.ty.toNat) then roundingMode x o.rm else some 0

/-- A whole element put together from its sub-values of `w` bits, lowest first (06 R154). -/
def packed (n w : Nat) (f : Nat → Nat) : Nat := ((List.range n).map fun j => f j * 2 ^ (w * j)).foldl (· + ·) 0

/-- What a vector instruction that gives a register of elements leaves: for register `d`, each active element `e` reads
`f e` in EW bits, every other element and register stands, VSTART is 0 and the flags are gained. -/
def vectorResult (s t : State) (d : Reg) (mask : BitVec 3) (f : Nat → Nat) (g : Flags) : Prop :=
  let x := s.me
  let n := ewBytes x
  onlyMe s t
    ∧ (∀ e ∈ active x mask.toNat, elem (t.me.vreg d.toNat) n e = f e % 2 ^ ewBits x)
    ∧ (∀ e, e ∉ active x mask.toNat → elem (t.me.vreg d.toNat) n e = elem (x.vreg d.toNat) n e)
    ∧ (∀ r, r ≠ d.toNat → t.me.vreg r = x.vreg r)
    ∧ t.me.vstart = 0 ∧ t.me.vl = x.vl ∧ t.me.vrows = x.vrows ∧ t.me.conf = x.conf
    ∧ t.me.fflags = x.fflags ||| g ∧ t.me.f = x.f ∧ t.me.chain = none

/-- The exception-mask register of a vector instruction afterwards (06 R170): the active elements that raised a flag of
the exception group, in register `m`; m0 stands for none. -/
def exceptionMask (s t : State) (m mask : BitVec 3) (g : Nat → Flags) : Prop :=
  ∀ k e, maskBit t.me k e
    = if k = m.toNat ∧ k ≠ 0 ∧ e ∈ active s.me mask.toNat then marksFlag (g e) else maskBit s.me k e

/-- The vector registers that an element-wise form names: with CO its result goes to the latch, and with CI its first source is
the latch; the second source may be a scalar register (06 R156, R161, R166). -/
def namedRegs (o : VAOps) (vs : Bool) : List Reg :=
  (if o.co then [] else [o.x]) ++ (if o.ci then [] else [o.y]) ++ (if vs then [] else [o.z]) ++ [o.w]

/-- Bit `e` of mask register `m` as the hart's open chain group holds it back (06 R166, R170). -/
def heldBit (x : Hart) (c : Chain) (m e : Nat) : Bool :=
  if m = 0 then true
  else match c.masks.find? fun b => decide (b.1 = m) with
    | some b => Tab.get false b.2 e
    | none => maskBit x m e

/-- The union of the flags of a list of elements. -/
def unionFlags (l : List Nat) (g : Nat → Flags) : Flags := l.foldl (fun a e => a ||| g e) 0

/-- The cross-element and selection functions of major 0x22 (06 R167): operands, the register sources, whether VSTART
must be 0, and the value of element `e`. -/
def selectFn (i : Instr) (x : Hart) : Option (VAOps × List Reg × Bool × (Nat → Nat)) :=
  let el (r : Reg) (e : Nat) : Nat := elem (x.vreg r.toNat) (ewBytes x) e
  match i with
  | .vsel o => some (o, [o.y, o.z], false, fun e => if maskBit x o.w.toNat e then el o.y e else el o.z e)
  | .vmv o => some (o, [o.y], false, fun e => el o.y e)
  | .vbcast o => some (o, [], false, fun _ => (x.readS o.z).toNat)
  | .vslide o => some (o, [o.y], true, fun e =>
      let k : Int := ((e % x.vl : Nat) : Int) + (x.readS o.z).toInt
      if 0 ≤ k ∧ k < (x.vl : Int) then el o.y (e / x.vl * x.vl + k.toNat) else 0)
  | .vperm o => some (o, [o.y, o.z], true, fun e =>
      if el o.z e < x.vl then el o.y (e / x.vl * x.vl + el o.z e) else 0)
  | .viota o => some (o, [], true, fun e =>
      (List.range (e % x.vl)).countP fun j => maskBit x o.y.toNat (e / x.vl * x.vl + j))
  | _ => none

/-- The mask instructions that write a mask register: the register and its bit `t` below T (06 R171). -/
def maskFn (i : Instr) (x : Hart) : Option (Reg × (Nat → Bool)) :=
  match i with
  | .mand d a b => some (d, fun t => maskBit x a.toNat t && maskBit x b.toNat t)
  | .mor d a b => some (d, fun t => maskBit x a.toNat t || maskBit x b.toNat t)
  | .mxor d a b => some (d, fun t => xor (maskBit x a.toNat t) (maskBit x b.toNat t))
  | .mnot d a => some (d, fun t => !maskBit x a.toNat t)
  | .mset d a => some (d, fun t => decide (t % x.vl < (x.readS a).toNat))
  | .mmov d a => some (d, fun t => maskBit x a.toNat t)
  | _ => none

/-- The vector arithmetic, selection, comparison, reduction and mask instructions (06 R156 to R171). -/
def vectorArithmetic (i : Instr) : Bool :=
  (elementFn i).isSome || (selectFn i {}).isSome || (maskFn i {}).isSome ||
    match i with
    | .vdot _ | .vdotVs _ | .vhad _ | .vcvt _ | .vcmp _ | .vred _ | .mpop _ _ | .mfirst _ _ => true
    | _ => false

/-- Element `e` of vector register `r` is poisoned (16 R418). -/
def spoiledElem (x : Hart) (r e : Nat) : Bool := Tab.get false (Tab.get [] x.spoiled.v r) e

/-! Vector memory. -/

/-- No token of a wait mask is pending (07 R198). -/
def tokensReady (x : Hart) (w : BitVec 8) : Prop := ∀ k, k < 8 → w.getLsbD k = true → ∀ j, x.token k ≠ .pending j

/-- Base plus byte offset (07 R177). -/
def vectorBase (x : Hart) (o : VMOps) : Word := x.readS o.y + o.imm.signExtend 64
/-- Unit-stride, strided and indexed addresses of element `e`, modulo 2^64 (07 R177). -/
def unitAt (x : Hart) (o : VMOps) (e : Nat) : Nat := (vectorBase x o + BitVec.ofNat 64 (e * ewBytes x)).toNat
def stridedAt (x : Hart) (o : VMOps) (e : Nat) : Nat := (vectorBase x o + BitVec.ofNat 64 e * x.readS o.z).toNat
def indexedAt (x : Hart) (o : VMOps) (e : Nat) : Nat :=
  (vectorBase x o + BitVec.ofInt 64 (signed (ewBits x) (elem (x.vreg o.z.toNat) (ewBytes x) e))).toNat

/-- The vector loads: operands, registers, the address of an element, and which problems trim (07 R177, R179). -/
def loadOf (i : Instr) (x : Hart) : Option (VMOps × List Reg × (Nat → Nat) × (Nat → Bool)) :=
  match i with
  | .vld o => some (o, [o.x], unitAt x o, fun c => c == 0x09)
  | .vlds o => some (o, [o.x], stridedAt x o, fun c => c == 0x09)
  | .vldx o => some (o, [o.x, o.z], indexedAt x o, fun c => c == 0x09)
  | .vldff o => some (o, [o.x], unitAt x o, fun c => c != 0x14 && c != stackHeld)
  | _ => none

/-- The vector stores: operands, registers and the address of an element (07 R177). -/
def storeOf (i : Instr) (x : Hart) : Option (VMOps × List Reg × (Nat → Nat)) :=
  match i with
  | .vst o => some (o, [o.x], unitAt x o)
  | .vsts o => some (o, [o.x], stridedAt x o)
  | .vstx o => some (o, [o.x, o.z], indexedAt x o)
  | _ => none

/-- A vector memory form of `rs` may begin: configured, registers below the count, tokens ready. -/
def vmReady (s : State) (o : VMOps) (rs : List Reg) : Prop :=
  free s ∧ s.me.conf ≠ none ∧ (∀ r ∈ rs, r.toNat < vCount s.me) ∧ tokensReady s.me o.wait
    ∧ plainAt s.me (following s.me)

/-- What a vector access leaves of the hart: its scalar registers, its shape but VSTART, its flags and its masks. -/
def accessKeeps (x y : Hart) : Prop :=
  y.s = x.s ∧ y.f = x.f ∧ y.conf = x.conf ∧ y.vl = x.vl ∧ y.vrows = x.vrows ∧ y.vstart = 0 ∧ y.m = x.m

/-- Element `e` of register `d` holds the bytes at place `p`; the register's other bytes are judged apart. -/
def elementHolds (s t : State) (d : Reg) (e : Nat) (p : Place) : Prop :=
  let n := ewBytes s.me
  ∀ k, k < n → Tab.get 0 (t.me.vreg d.toNat) (n * e + k) = placeByte s p k

/-- The bytes of register `d` outside the elements of `l`, and every other vector register, stand. -/
def elementsStand (s t : State) (d : Reg) (l : List Nat) : Prop :=
  let n := ewBytes s.me
  (∀ k, (∀ e ∈ l, k < n * e ∨ n * e + n ≤ k) → Tab.get 0 (t.me.vreg d.toNat) k = Tab.get 0 (s.me.vreg d.toNat) k)
    ∧ ∀ r, r ≠ d.toNat → t.me.vreg r = s.me.vreg r

/-- No byte of memory and no other hart changes. -/
def memoryStands (s t : State) : Prop := (∀ a, t.byte a = s.byte a) ∧ ∀ h, h ≠ s.cur → t.hart h = s.hart h

/-- The runs of `n` bytes at `pl e` for the elements of `l` do not meet. -/
def apart (l : List Nat) (pl : Nat → Nat) (n : Nat) : Prop :=
  ∀ e ∈ l, ∀ f ∈ l, e ≠ f → pl e + n ≤ pl f ∨ pl f + n ≤ pl e

/-- The word of `n` bytes at location `l`. -/
def State.word (s : State) (l n : Nat) : Nat := leNat (readPlace s (.ram l) n)

end Sys2Proof.Machine
end

