-- ==== Sys2Proof/Certificates/Slice0/Obligations.lean ====
section
/-! DEFINITION. The statements for the provers: what the rules of spec/ say the Poquel does, as propositions about the
model. -/

open Sys2Proof Sys2Proof.Machine

/-! Scalar instructions. -/

/-- 05 R120, R121: every register function writes its value, reduced modulo 2^64, and falls through; none traps on any
value, and no flag changes but through the loop test of the fall-through. -/
def Obligations.RegisterFunctions : Prop :=
  ∀ (s : State) (i : Instr) (d : Reg) (v : Word), free s →
    (binaryValue i s.me = some (d, v) ∨ i.wellFormed = true ∧ unaryValue i s.me = some (d, v)) →
    exec i s = .next (finishWith s fun x => x.writeS d v)

/-- 05 R122 to R125: the immediate forms, limm, addpc and sel write their values and fall through. -/
def Obligations.ImmediateForms : Prop :=
  ∀ (s : State) (i : Instr) (d : Reg) (v : Word), free s → constantValue i s.me = some (d, v) →
    exec i s = .next (finishWith s fun x => x.writeS d v)

/-- 05 R125: the encoding of sel, and its effect: sa when sc is not zero, sb otherwise. -/
def Obligations.SelEncodingAndEffect : Prop :=
  ∀ (s : State) (d c a b : Reg), free s →
    Decode.major (encode (.sel d c a b)).head = 0x0C ∧ Decode.fieldX (encode (.sel d c a b)).head = d
      ∧ Decode.fieldY (encode (.sel d c a b)).head = c ∧ Decode.srZ (encode (.sel d c a b)).tail = a
      ∧ Decode.srW (encode (.sel d c a b)).tail = b ∧ Decode.srF (encode (.sel d c a b)).tail = 0
      ∧ (s.me.readS c ≠ 0 → exec (.sel d c a b) s = .next (finishWith s fun x => x.writeS d (s.me.readS a)))
      ∧ (s.me.readS c = 0 → exec (.sel d c a b) s = .next (finishWith s fun x => x.writeS d (s.me.readS b)))

/-- 03 R69: s0 reads zero and discards writes; every other register reads what was written to it, and no other register
changes. -/
def Claims.ScalarRegisters : Prop :=
  ∀ (x : Hart) (d r : Reg) (v : Word),
    x.readS 0 = 0 ∧ x.writeS 0 v = x ∧ (d ≠ 0 → (x.writeS d v).readS d = v)
      ∧ (r ≠ d → (x.writeS d v).readS r = x.readS r)

/-- The frame of every instruction that completes by falling through after it has changed its hart by `f`: the scalar,
mask and register forms whose next state is stated as finishWith s f change nothing else. -/
def Claims.FallThroughFrame : Prop :=
  ∀ (s : State) (f : Hart → Hart),
    onlyMe s (finishWith s f) ∧ completes (f s.me) (finishWith s f).me
      ∧ (plainAt (f s.me) (following (f s.me)) →
          (finishWith s f).me = { f s.me with pc := following (f s.me), qual := false })

/-- Scalar registers, and what falling through changes (03 R69; 04 R100; 05 R136). -/
def Obligations.RegistersAndFrame : Prop := Claims.ScalarRegisters ∧ Claims.FallThroughFrame

/-- 05 R127: fadd, fsub, fmul and ffma write the boxed result of one rounding and gain the flags it raises, wherever the
effective rounding mode exists; with FRM at 5 to 7 and RM 0 they take trap 0x01 (03 R84). -/
def Claims.ScalarFpArithmetic : Prop :=
  ∀ (s : State) (i : Instr) (o : VAOps), free s → i ∈ [.fadd o, .fsub o, .fmul o, .ffma o] →
    (∀ rm d v g, roundingMode s.me o.rm = some rm → fpArithValue i rm s.me = some (d, v, g) →
      exec i s = .next (finishWith s fun x => { x.writeF d v with fflags := x.fflags ||| g }))
    ∧ (roundingMode s.me o.rm = none → exec i s = .next (illegal s))

/-- 05 R128: fcvt's raw moves, and its conversions under the effective rounding mode. W[3:0] is the source type. -/
def Claims.ScalarFpConversion : Prop :=
  ∀ (s : State) (o : VAOps), free s → o.fcvtOk = true →
    (o.w = 7 → o.ty = 7 → exec (.fcvt o) s = .next (finishWith s fun x => x.writeF o.x (s.me.readS o.y)))
    ∧ (o.w = 3 → o.ty = 3 → exec (.fcvt o) s = .next (finishWith s fun x => x.writeS o.x (s.me.readF o.y)))
    ∧ ∀ rm, roundingMode s.me o.rm = some rm →
      (8 ≤ o.w.toNat → 8 ≤ o.ty.toNat →
        let r := fpConvert (fmtOf o.ty.toNat) rm (fpOf s.me (fmtOf o.w.toNat) o.y)
        exec (.fcvt o) s = .next (finishWith s fun x => (x.writeF o.x (box (fmtOf o.ty.toNat) r.1)).raise r.2))
      ∧ (8 ≤ o.w.toNat → o.ty.toNat < 8 →
        let r := fpToInt o.ty.toNat rm false (fpOf s.me (fmtOf o.w.toNat) o.y)
        exec (.fcvt o) s = .next (finishWith s fun x => (x.writeS o.x (BitVec.ofInt 64 r.1)).raise r.2))
      ∧ (o.w.toNat < 8 → 8 ≤ o.ty.toNat →
        let r := fpDeliver (fmtOf o.ty.toNat) rm (fpOfInt (intOf o.w.toNat (s.me.readS o.y).toNat))
        exec (.fcvt o) s = .next (finishWith s fun x => (x.writeF o.x (box (fmtOf o.ty.toNat) r.1)).raise r.2))

/-- 05 R129: fcmp writes 1 exactly when its condition holds, and raises NV as the condition says. -/
def Claims.ScalarFpComparison : Prop :=
  ∀ (s : State) (o : VAOps), free s → (Instr.fcmp o).wellFormed = true →
    let r := fpCompare o.w.toNat (fpOf s.me (fmtOf o.ty.toNat) o.y) (fpOf s.me (fmtOf o.ty.toNat) o.z)
    exec (.fcmp o) s = .next (finishWith s fun x => (x.writeS o.x (if r.1 then 1 else 0)).raise r.2)

/-- Scalar floating point (05 R127 to R129; 03 R84). -/
def Obligations.ScalarFloatingPoint : Prop :=
  Claims.ScalarFpArithmetic ∧ Claims.ScalarFpConversion ∧ Claims.ScalarFpComparison

/-- 05 R130, R131, R137; 04 R101: a branch is taken exactly when its condition holds, and a jmp always. Not taken, it checks nothing
and falls through; taken to a sound target it leaves the loops that the target lies outside of and arrives there. A trap of the
target (0x05, 0x08, 0x03) finds it completed, with EPC at the target; an empty slot there, 0x02, leaves it unexecuted. (That it
has completed also where the target's line is poisoned is the model's choice: log 87.) -/
def Claims.Branches : Prop :=
  ∀ (s : State) (i : Instr) (k : Bool) (t : Target), free s → branchOf i s.me = some (k, t) →
    (k = false → exec i s = .next (finish s))
    ∧ (k = true → checkTarget s s.cur (branchTarget s.me.pc t) = none →
        exec i s = .next (s.setMe (arrive (leaveLoops s.me (branchTarget s.me.pc t)) (branchTarget s.me.pc t))))
    ∧ (k = true → ∀ c v, checkTarget s s.cur (branchTarget s.me.pc t) = some (c, v, false) →
        exec i s = .next (Machine.trap s c v))
    ∧ (k = true → ∀ c v, checkTarget s s.cur (branchTarget s.me.pc t) = some (c, v, true) →
        let u := branchTarget s.me.pc t
        let s' := s.setMe { leaveLoops s.me u with pc := u &&& ~~~1, qual := false }
        exec i s = .next (takeTrap s' u c v (estatOf s' s'.me false) false false))

/-- 05 R131, R132, R137; 04 R101: call and jmpr write the following head to their link register and transfer, a jmpr without a link
out of the loops that its target lies outside of. A trap of the target (0x05, 0x08, 0x03) finds the link written and EPC at the
target; an empty slot or a misaligned target leaves the instruction unexecuted. -/
def Claims.Links : Prop :=
  ∀ (s : State) (i : Instr) (d : Reg) (u : Word) (e : Bool), free s → linkOf i s.me = some (d, u, e) →
    let y := s.me.writeS d (following s.me)
    (checkTarget s s.cur u = none →
      exec i s = .next (s.setMe (arrive
        (if e then { y with lc0 := leaveLoop y (trapPc s.me) u y.lc0, lc1 := leaveLoop y (trapPc s.me) u y.lc1 } else y) u)))
    ∧ (∀ c v, checkTarget s s.cur u = some (c, v, false) → exec i s = .next (Machine.trap s c v))
    ∧ (∀ c v, checkTarget s s.cur u = some (c, v, true) →
        let z := if e then { y with lc0 := leaveLoop y (trapPc s.me) u y.lc0, lc1 := leaveLoop y (trapPc s.me) u y.lc1 } else y
        let s' := s.setMe { z with pc := u &&& ~~~1, qual := false }
        exec i s = .next (takeTrap s' u c v (estatOf s' s'.me false) false false))

/-- Branches, jumps, calls and links (05 R130 to R132, R137; 04 R101). -/
def Obligations.BranchesAndLinks : Prop :=
  Claims.Branches ∧ Claims.Links

/-- 05 R133 to R135: a loop-starting instruction on either counter. A busy counter takes trap 0x10; what the check of END meets is
taken at the loop instruction, and nothing of the loop is written; a loopm whose count with its stages passes 2^32 - 1 takes
0x01, and so does an END that is not above BODY. With a count of 0 the body never runs; else the counter and its record are set,
loopm sets p0 alone, and the next PC is BODY. -/
def Obligations.LoopStart : Prop :=
  ∀ (s : State) (i : Instr) (c : Reg) (n : Nat) (t : Target) (g : Option Nat), free s → loopOf i s.me = some (c, n, t, g) →
    let fin := branchTarget s.me.pc t
    (¬(following s.me).toNat < fin.toNat → exec i s = .next (Machine.trap s 0x01 (trapPc s.me)))
    ∧ ((following s.me).toNat < fin.toNat →
    ((counterOf s.me c).busy = true → exec i s = .next (Machine.trap s 0x10 (BitVec.ofNat 64 c.toNat)))
    ∧ ((counterOf s.me c).busy = false → checkTarget s s.cur fin = none → n = 0 →
        exec i s = .next (s.setMe (arrive (setCounter s.me c { counterOf s.me c with count := 0 }) fin)))
    ∧ ((counterOf s.me c).busy = false → checkTarget s s.cur fin = none → n ≠ 0 →
        n + g.getD 1 - 1 ≤ 4294967295 →
        exec i s = .next (s.setMe (arrive (withLoop s.me c (loopRecord s.me n fin g)) (following s.me))))
    ∧ ((counterOf s.me c).busy = false → ∀ e v k, checkTarget s s.cur fin = some (e, v, k) →
        exec i s = .next (Machine.trap s e v))
    ∧ ((counterOf s.me c).busy = false → checkTarget s s.cur fin = none → n ≠ 0 → 4294967295 < n + g.getD 1 - 1 →
        exec i s = .next (Machine.trap s 0x01 (trapPc s.me))))

/-- 05 R136: the test of a plain loop on lc1 at its END, and of two plain loops at one END, where the one that started later is
tested first and the other only when that one ends. -/
def Claims.LoopTestOfTwo : Prop :=
  ∀ (x : Hart) (pc : Word), x.lc1.busy = true → x.lc1.mode = x.mode → x.lc1.fin = pc → x.lc1.body ≠ pc → x.lc1.modulo = false →
    x.lc0.body ≠ pc →
    (x.lc0.busy = false →
      (x.lc1.count.toNat ≤ 1 →
        arrive x pc = { x with pc := pc, qual := false, lc1 := { x.lc1 with count := 0, busy := false } })
      ∧ (1 < x.lc1.count.toNat →
        arrive x pc = { x with pc := x.lc1.body, qual := false, lc1 := { x.lc1 with count := x.lc1.count - 1 } }))
    ∧ (x.lc0.busy = true → x.lc0.mode = x.mode → x.lc0.fin = pc → x.lc0.modulo = false → x.lc0.stamp < x.lc1.stamp →
      (x.lc0.fin ≠ x.lc1.body → 1 < x.lc1.count.toNat →
        arrive x pc = { x with pc := x.lc1.body, qual := false, lc1 := { x.lc1 with count := x.lc1.count - 1 } })
      ∧ (x.lc1.count.toNat ≤ 1 → x.lc0.count.toNat ≤ 1 →
        arrive x pc = { x with
          pc := pc
          qual := false
          lc0 := { x.lc0 with count := 0, busy := false }
          lc1 := { x.lc1 with count := 0, busy := false } })
      ∧ (x.lc1.count.toNat ≤ 1 → 1 < x.lc0.count.toNat →
        arrive x pc = { x with
          pc := x.lc0.body
          qual := false
          lc0 := { x.lc0 with count := x.lc0.count - 1 }
          lc1 := { x.lc1 with count := 0, busy := false } }))

/-- 05 R136, R139: the end-of-body test of a loop on lc0 alone. A COUNT of at most 1 ends the loop there; else COUNT
falls by one and the PC is BODY, and a loopm rotates s24 to s31 and sets the predicates of the next iteration. -/
def Claims.LoopTestOfOne : Prop :=
  ∀ (x : Hart) (pc : Word), x.lc0.busy = true → x.lc0.mode = x.mode → x.lc0.fin = pc → x.lc0.body ≠ pc →
    x.lc1.busy = false →
    (x.lc0.count.toNat ≤ 1 →
      arrive x pc = { x with pc := pc, qual := false, lc0 := { x.lc0 with count := 0, busy := false },
                             pred := if x.lc0.modulo then 0 else x.pred })
    ∧ (1 < x.lc0.count.toNat → x.lc0.modulo = false →
      arrive x pc = { x with pc := x.lc0.body, qual := false, lc0 := { x.lc0 with count := x.lc0.count - 1 } })
    ∧ (1 < x.lc0.count.toNat → x.lc0.modulo = true →
      let y := arrive x pc
      y.pc = x.lc0.body ∧ y.lc0.count = x.lc0.count - 1 ∧ y.lc0.index = x.lc0.index + 1
        ∧ (∀ k, k < 8 → Tab.get 0 y.s (24 + (k + 1) % 8) = Tab.get 0 x.s (24 + k))
        ∧ ∀ j, j < 8 → y.pred.getLsbD j
            = decide (j < x.lc0.stages ∧ j ≤ x.lc0.index + 1 ∧ x.lc0.index + 1 - j < x.lc0.total))

/-- 05 R136, R139: the end-of-body test, of a loop on either counter and of two that end together. -/
def Obligations.LoopTest : Prop :=
  Claims.LoopTestOfOne ∧ Claims.LoopTestOfTwo

/-- 10 R243, R274: nop completes and changes nothing else; fence.sv completes with what its hart has left to the scalar
queue performed, fence.vs and vdrain with what it has left to the vector queue; fence with both, once its hart has no copy
job, for which it waits, and from then on the hart fetches every line as it stands (04 R103). (The queues and the lines that a hart
keeps are the model's: log 4, 11.) -/
def Claims.PlainCompletion : Prop :=
  ∀ (s : State), s.me.chain = none →
    exec .nop s = .next (finish s)
    ∧ (∃ t, exec .fenceSv s = .next t ∧ t = finish (performQueue s s.cur false) ∧ t.me.scalarQueue = [])
    ∧ (∀ i ∈ [Instr.fenceVs, .vdrain], ∃ t, exec i s = .next t ∧ t = finish (performQueue s s.cur true)
      ∧ t.me.vectorQueue = [])
    ∧ (jobsOf s s.cur = [] → exec .fence s = .next (finishWith (performHart s s.cur) fun x => { x with run := .running, lines := [] }))
    ∧ (jobsOf s s.cur ≠ [] → exec .fence s = .next (waitAt (performHart s s.cur) .drain 0))
    ∧ (s.me.scalarQueue = [] → s.me.vectorQueue = [] → performQueue s s.cur false = s ∧ performQueue s s.cur true = s)

/-- 04 R102; 03 R73: a stage prefix whose predicate is 0 completes both heads without effect; with the predicate 1 the
qualified head is next, and the same step runs it. -/
def Claims.StagePrefix : Prop :=
  ∀ (s : State) (p : BitVec 3), free s → s.me.pc.toNat / 2 % 32 < lineCount s.me.fetched →
    Decode.major (lineHead s.me.fetched (s.me.pc.toNat / 2 % 32 + 1)) ≠ 0x31 →
    (s.me.pred.getLsbD p.toNat = false →
      exec (.stagePrefix p) s = .next (finishWith s fun x => { x with pc := x.pc + 2 }))
    ∧ (s.me.pred.getLsbD p.toNat = true →
      exec (.stagePrefix p) s = .next (s.setMe { s.me with pc := s.me.pc + 2, qual := true }))

/-- Instructions without an effect of their own, and stage prefixes (10 R243, R274; 04 R102; 03 R73). -/
def Obligations.PlainAndQualified : Prop :=
  Claims.PlainCompletion ∧ Claims.StagePrefix

/-! Traps and system instructions. -/

/-- 16 R401: a trap in user mode with a handler installed writes EPC, ECAUSE, EVAL and ESTAT, enters system mode at
HANDLER, and changes no other register, no memory and no other part of the device. -/
def Claims.TrapEntersHandler : Prop :=
  ∀ (s : State) (c : Nat) (v : Word), free s → c < 256 → s.me.mode = .user → (s.context s.me.asid).handler ≠ 0 →
    let t := Machine.trap s c v
    onlyMe s t ∧ t.me = { s.me with
      epc := trapPc s.me &&& ~~~1
      ecause := BitVec.ofNat 10 (c % 256)
      eval := v
      estat := estatOf s s.me false
      mode := .system
      pc := (s.context s.me.asid).handler
      qual := false
      run := .running }

/-- 16 R404, R405: a trap in user mode without a handler, or in system mode, writes none of the trap registers. Its
values go to a fault record, which the Gondola sends to the Keel behind its earlier messages (01 R29), and the hart is
saved, fault-held, at the trapping instruction; its hart number is free (a hart in no gang). -/
def Claims.TrapForwards : Prop :=
  ∀ (s : State) (c : Nat) (v : Word), free s → c < 256 → s.me.gang = none → s.me.scalarQueue = [] → s.me.vectorQueue = [] →
    (s.me.mode = .system ∨ (s.context s.me.asid).handler = 0) →
    let t := Machine.trap s c v
    let told (s : State) : List Report := (s.cluster (clusterOf s.cur)).reports ++ (s.cluster (clusterOf s.cur)).outbox
    t.hart s.cur = {}
    ∧ (∃ r, told t = told s ++ [.fault r] ∧ r.kind = (if s.me.mode = .user then 0 else 1) ∧ r.cause = c
        ∧ r.asid = s.me.asid ∧ r.hartid = s.cur ∧ r.pc = trapPc s.me &&& ~~~1 ∧ r.eval = v
        ∧ r.estat = estatOf s s.me false
        ∧ r.ucause = (if s.me.mode = .user then 0 else s.me.ecause.toNat % 256) ∧ r.time = s.time
        ∧ r.vstart = s.me.vstart)
    ∧ ∃ w, t.keel.saved = s.keel.saved ++ [w] ∧ w.hartid = s.cur ∧ w.held = true
        ∧ w.hart = { s.me with pc := trapPc s.me &&& ~~~1, qual := false, run := .running, lines := [] }

/-- Taking a trap: the handler, and forwarding (16 R401, R404, R405). -/
def Obligations.TrapEntry : Prop :=
  Claims.TrapEntersHandler ∧ Claims.TrapForwards

/-- 10 R274; 16 R402: eret in system mode returns to EPC in the mode that PMODE gives, and changes nothing else but what
the loop test at EPC changes. -/
def Claims.EretReturns : Prop :=
  ∀ (s : State), free s → s.me.mode = .system →
    let y : Hart := { s.me with mode := if s.me.ecause.getLsbD 9 then .system else .user }
    checkTarget (s.setMe y) s.cur s.me.epc = none →
    exec .eret s = .next ((s.setMe y).setMe (arrive y s.me.epc))

/-- 10 R274; 04 R101, R107: ill and every head that decodes to nothing take trap 0x01 with EVAL their PC, one of the copies'
major leaving VSTART 0 (09 R218); `trap imm` takes 0x12, or 0x13 where imm is not 0, with EPC the following head and EVAL
imm; the fetch takes its own traps. -/
def Obligations.TrappingInstructions : Prop :=
  ∀ (s : State) (imm : BitVec 16), free s →
    exec .ill s = .next (Machine.trap s 0x01 (trapPc s.me))
    ∧ (let copies := Decode.major (lineHead s.me.fetched (s.me.pc.toNat / 2 % 32)) = 0x2A
      (¬copies → exec .unallocatedEncoding s = .next (Machine.trap s 0x01 (trapPc s.me)))
      ∧ (copies → exec .unallocatedEncoding s
        = .next (Machine.trap (s.setMe { s.me with vstart := 0 }) 0x01 (trapPc s.me))))
    ∧ exec (.trap imm) s = .next (takeTrap s (following s.me) (if imm = 0 then 0x12 else 0x13) (imm.zeroExtend 64)
        (estatOf s s.me false) false false)
    ∧ ∀ c e, fetchProblem s = some (c, e) → exec .fetchFault s = .next (Machine.trap s c e)

/-- 15 R384: what user mode cannot do. A read or write of a system register of class 0b10 or 0b11, tlbinv, halt and eret
take trap 0x01, and so do enqt and deqt in a context without TRYQ; system mode writes device-scope registers. -/
def Obligations.UserMode : Prop :=
  ∀ (s : State) (d a b : Reg) (p : BitVec 3) (n : BitVec 12), free s →
    (s.me.mode = .user → n.toNat / 2048 = 1 →
      exec (.srr d n) s = .next (Machine.trap s 0x01 (trapPc s.me))
        ∧ exec (.srw d n) s = .next (Machine.trap s 0x01 (trapPc s.me)))
    ∧ (s.me.mode = .user → ∀ i ∈ [Instr.tlbinv a b, .halt, .eret],
        exec i s = .next (Machine.trap s 0x01 (trapPc s.me)))
    ∧ (s.me.mode = .user → (s.context s.me.asid).tryq = false → ∀ i ∈ [Instr.enqt d a b p, .deqt d a b p],
        exec i s = .next (Machine.trap s 0x01 (trapPc s.me)))
    ∧ (s.me.mode = .system → n.toNat = 0x900 → (Tab.get {} s.windows 0).format = 0 → ∃ t, exec (.srw a n) s = .next t
        ∧ (Tab.get {} t.windows 0).dec = s.me.readS a &&& 0xFFFFFFFFFFC0)

/-- 03 R79 to R93: srr writes the value of an assigned register that the mode may reach, and falls through; an
unassigned number takes trap 0x01. A reading of TIME first lets time pass by an amount nothing constrains, and stands at
its greatest value once it has reached it (log 6). -/
def Obligations.SystemRegisterRead : Prop :=
  ∀ (s : State) (d : Reg) (n : BitVec 12), free s →
    (∀ v, n ≠ 0x401 → sysReach s.me.mode n.toNat = true → sysValue s s.cur n.toNat = some v →
      exec (.srr d n) s = .next (finishWith s fun x => x.writeS d v))
    ∧ (n ≠ 0x401 → sysValue s s.cur n.toNat = none → exec (.srr d n) s = .next (Machine.trap s 0x01 (trapPc s.me)))
    ∧ exec (.srr d 0x401) s = .next (finishWith (passTime s) fun x =>
        x.writeS d (BitVec.ofNat 64 (min (s.time + Config.timeGap s.n) (2 ^ 64 - 1))))

/-- 03 R84, R85; 16 R402: what srw leaves in FRM, FFLAGS and PRED, which a hart in either mode may write, and in the trap
registers, which system mode may: a read after it gives the bits the register has, at a PC where no loop ends, and the rest of
the device stands. -/
def Claims.SystemRegisterWrite : Prop :=
  ∀ (s : State) (a : Reg) (n : BitVec 12) (mask : Word), free s → sysReach s.me.mode n.toNat = true →
    plainAt s.me (following s.me) →
    (n, mask) ∈ [((0x003 : BitVec 12), (0x7 : Word)), (0x004, 0x1F), (0x007, 0xFF), (0x840, 0xFFFFFFFFFFFFFFFE),
      (0x841, 0x3FF), (0x842, 0xFFFFFFFFFFFFFFFF), (0x845, 0xFFFFFFFFFFFFFFFF)] →
    ∃ t, exec (.srw a n) s = .next t ∧ sysValue t s.cur n.toNat = some (s.me.readS a &&& mask) ∧ onlyMe s t
      ∧ t.me.pc = following s.me ∧ t.me.s = s.me.s ∧ t.me.f = s.me.f ∧ t.me.lc0 = s.me.lc0 ∧ t.me.lc1 = s.me.lc1

/-- 03 R82, R87: srw to VL writes a shape that the configuration holds; with no configuration, in a gang, or past
TILEMAX it takes trap 0x18. -/
def Claims.VectorLengthWrite : Prop :=
  ∀ (s : State) (a : Reg), free s →
    let v := (s.me.readS a).toNat % 2 ^ 17
    ((s.me.conf = none ∨ s.me.gang ≠ none ∨ tileMax s.me < v * s.me.vrows) →
      exec (.srw a 0x000) s = .next (Machine.trap s 0x18 (trapPc s.me)))
    ∧ (s.me.conf ≠ none → s.me.gang = none → v * s.me.vrows ≤ tileMax s.me →
      exec (.srw a 0x000) s = .next (finish (s.setMe { s.me with vl := v })))

/-- 03 R82, R83: srw to VROWS writes 1 to 64 rows that the configuration holds, and srw to VSTART any tile index; with no
configuration both take trap 0x18, and so does srw to VROWS in a gang, outside 1 to 64 or past TILEMAX. -/
def Claims.VectorRowsAndStartWrite : Prop :=
  ∀ (s : State) (a : Reg), free s →
    let r := (s.me.readS a).toNat % 2 ^ 7
    ((s.me.conf = none ∨ s.me.gang ≠ none ∨ r = 0 ∨ 64 < r ∨ tileMax s.me < s.me.vl * r) →
      exec (.srw a 0x001) s = .next (Machine.trap s 0x18 (trapPc s.me)))
    ∧ (s.me.conf ≠ none → s.me.gang = none → 1 ≤ r → r ≤ 64 → s.me.vl * r ≤ tileMax s.me →
      exec (.srw a 0x001) s = .next (finish (s.setMe { s.me with vrows := r })))
    ∧ (s.me.conf = none → exec (.srw a 0x002) s = .next (Machine.trap s 0x18 (trapPc s.me)))
    ∧ (s.me.conf ≠ none →
      exec (.srw a 0x002) s = .next (finish (s.setMe { s.me with vstart := (s.me.readS a).toNat % 2 ^ 17 })))

/-- 03 R85, R92, R93; 16 R402, R403: srw to LC0 and LC1 writes COUNT alone; to ACCST it clears the overflow flags of the
hart's own banks whose bit is set; to QPMIN and QPCAP it writes values that R93 permits, and takes trap 0x01 for any other; to
ESTAT it writes the bits of the layout that QLAYOUT names, and to EVEC, which is read-only, nothing. -/
def Claims.CountAndStatusWrite : Prop :=
  ∀ (s : State) (a : Reg), free s →
    let x := s.me
    let v := x.readS a
    let ovf (u : State) (b : Nat) : Bool := Tab.get false (u.core (coreOf s.cur)).bankOvf b
    exec (.srw a 0x005) s = .next (finish (s.setMe { x with lc0 := { x.lc0 with count := v.truncate 32 } }))
    ∧ exec (.srw a 0x006) s = .next (finish (s.setMe { x with lc1 := { x.lc1 with count := v.truncate 32 } }))
    ∧ (∃ t, exec (.srw a 0x008) s = .next t ∧ t.me = arrive x (following x) ∧ memoryStands s t
      ∧ ∀ b, b < 2 → ovf t b = (ovf s b && !(ownsBank s s.cur b && v.getLsbD b)))
    ∧ (x.mode = .system →
      exec (.srw a 0x800) s = .next (if poolOk s s.cur (v.truncate 24) x.qpcap then
        finish (s.setMe { x with qpmin := v.truncate 24 }) else Machine.trap s 0x01 (trapPc x))
      ∧ exec (.srw a 0x801) s = .next (if poolOk s s.cur x.qpmin (v.truncate 24) then
        finish (s.setMe { x with qpcap := v.truncate 24 }) else Machine.trap s 0x01 (trapPc x))
      ∧ exec (.srw a 0x843) s = .next (finish (s.setMe { x with
          estat := if x.ecause.getLsbD 8 then v else v &&& 0xFFFFFFFFFFF000F0 }))
      ∧ exec (.srw a 0x844) s = .next (finish s))

/-- Writes of system registers, in the modes that reach them (03 R79, R82 to R85, R87, R92, R93; 16 R402, R403). -/
def Obligations.SystemWrites : Prop :=
  Claims.SystemRegisterWrite ∧ Claims.VectorLengthWrite ∧ Claims.VectorRowsAndStartWrite ∧ Claims.CountAndStatusWrite

/-- 10 R274, R275: halt marks the hart halted at its following head; tlbinv, with its reserved bits zero, leaves no
translation that it names in the caches of the hart's core and cluster. -/
def Claims.SystemModeInstructions : Prop :=
  ∀ (s : State) (a b : Reg), free s → s.me.mode = .system →
    exec .halt s = .next (finishWith s fun x => { x with halted := true })
    ∧ ((s.me.readS a).toNat < 2 ^ 17 → (s.me.readS b).toNat / 2 % 2 ^ 11 = 0 →
      ∃ t, exec (.tlbinv a b) s = .next t ∧ completes s.me t.me ∧ (∀ h, h ≠ s.cur → t.hart h = s.hart h)
        ∧ (∀ k, t.byte k = s.byte k)
        ∧ ∀ e, (e ∈ (t.core (coreOf s.cur)).tlb ∨ e ∈ (t.cluster (clusterOf s.cur)).tlb) →
          ((s.me.readS a).getLsbD 16 = true ∨ e.asid = (s.me.readS a).toNat % 2 ^ 16 ∧ e.glob = false) →
          ¬((s.me.readS b).getLsbD 0 = true ∨ e.page = (s.me.readS b).toNat / 4096))

/-- eret, halt and tlbinv in system mode (10 R274, R275; 16 R402). -/
def Obligations.SystemReturns : Prop :=
  Claims.EretReturns ∧ Claims.SystemModeInstructions

/-- 03 R78; 06 R166: an instruction without CI in an open chain group, a scalar one or a plain one, has no effect of its
own: it takes trap 0x0F at its own PC with EVAL the group's first instruction, and the group's effects are dropped. -/
def Obligations.ChainBroken : Prop :=
  ∀ (s : State) (g : Chain) (i : Instr), s.me.chain = some g →
    (integerValue i s.me ≠ none ∨ i ∈ [Instr.nop, .fence, .fenceSv, .fenceVs, .vdrain, .halt, .eret, .ill]) →
    exec i s = .next (takeTrap (s.setMe { s.me with chain := none, vstart := g.vstart }) (trapPc s.me) 0x0F g.first
      (estatOf s s.me true) false true)

/-! Scalar memory. -/

/-- 05 R141, R142: a load at sa + sext(OFF) that meets no problem writes its register, and changes no memory and no other
hart. -/
def Claims.Loads : Prop :=
  ∀ (s : State) (o : SMOps) (r : Resolved), free s → (Instr.ld o).wellFormed = true →
    let va := s.me.readS o.y + o.off.signExtend 64
    let n := 2 ^ (o.width.toNat % 4)
    check s (s.agent s.cur) .load va.toNat n = .ok r →
    ∃ t, exec (.ld o) s = .next t
      ∧ completes (if (loadValue o (readPlace s r.place n)).1 then s.me.writeF o.x (loadValue o (readPlace s r.place n)).2
          else s.me.writeS o.x (loadValue o (readPlace s r.place n)).2) t.me
      ∧ (∀ h, h ≠ s.cur → t.hart h = s.hart h) ∧ ∀ a, t.byte a = s.byte a

/-- 05 R141, R143: a store that meets no problem at an address resolved to memory puts the low bytes of its register
there, and changes no other byte, no register but the PC and no other hart. -/
def Obligations.ScalarStores : Prop :=
  ∀ (s : State) (o : SMOps) (l : Nat) (c : PageClass), free s → (Instr.st o).wellFormed = true →
    let va := s.me.readS o.y + o.off.signExtend 64
    let n := 2 ^ o.width.toNat
    let v := if o.fr then s.me.readF o.x else s.me.readS o.x
    check s (s.agent s.cur) .store va.toNat n = .ok ⟨.ram l, c⟩ →
    ∃ t, exec (.st o) s = .next t
      ∧ (∀ k, k < n → t.byte (l + k) = BitVec.ofNat 8 (v.toNat / 256 ^ k))
      ∧ (∀ a, a < l ∨ l + n ≤ a → t.byte a = s.byte a)
      ∧ (∀ h, h ≠ s.cur → t.hart h = s.hart h) ∧ completes s.me t.me

/-- 05 R144; 10 R242: a scalar load, store or atomic that meets a problem takes its trap with EVAL the address, and no
byte of memory changes. A misaligned address has the problem 0x04 first of all. -/
def Obligations.ScalarAccessTraps : Prop :=
  ∀ (s : State) (o : SMOps) (d a v e : Reg) (z : Bool) (c : Nat), free s → quiet s →
    let va := s.me.readS o.y + o.off.signExtend 64
    let w := if z then 8 else 4
    (∀ k n, va.toNat % n ≠ 0 → check s (s.agent s.cur) k va.toNat n = .error 0x04)
    ∧ (check s (s.agent s.cur) .load va.toNat (widthBytes o.width) = .error c →
      let t := Machine.trap (noteRead s (resolve s (s.agent s.cur) .load va.toNat)) c va
      exec (.ld o) s = .next t ∧ ∀ k, t.byte k = s.byte k)
    ∧ (check s (s.agent s.cur) .store va.toNat (widthBytes o.width) = .error c →
      exec (.st o) s = .next (Machine.trap s c va) ∧ ∀ k, (Machine.trap s c va).byte k = s.byte k)
    ∧ (check s (s.agent s.cur) .atomic (s.me.readS a).toNat w = .error c → ∀ i,
      (i = .cas d a e v z ∨ ∃ op, amoParts i = some (op, d, a, v, z)) →
      exec i s = .next (Machine.trap s c (s.me.readS a)) ∧ ∀ k, (Machine.trap s c (s.me.readS a)).byte k = s.byte k)

/-- 10 R241: an amo that meets no problem at an address resolved to memory puts op(old, sv) there, writes the widened old
value to sd, and gains the flags of fadd; no other byte and no other hart changes. -/
def Claims.Atomics : Prop :=
  ∀ (s : State) (i : Instr) (op : Nat) (d a v : Reg) (z : Bool) (l : Nat) (c : PageClass), free s →
    amoParts i = some (op, d, a, v, z) →
    let n := if z then 8 else 4
    let old := leNat (readPlace s (.ram l) n)
    let r := atomicOp op n old (s.me.readS v).toNat
    check s (s.agent s.cur) .atomic (s.me.readS a).toNat n = .ok ⟨.ram l, c⟩ →
    ∃ t, exec i s = .next t
      ∧ (∀ k, k < n → t.byte (l + k) = BitVec.ofNat 8 (r.1 / 256 ^ k))
      ∧ (∀ b, b < l ∨ l + n ≤ b → t.byte b = s.byte b)
      ∧ (∀ h, h ≠ s.cur → t.hart h = s.hart h)
      ∧ completes ((s.me.writeS d (if n = 4 ∧ op ∉ [6, 7, 9] then (BitVec.ofNat 32 old).signExtend 64
          else BitVec.ofNat 64 old)).raise r.2) t.me

/-- 10 R241: cas compares the old value with the low bytes of se; equal, it puts the low bytes of sn there; unequal, it
writes no byte. Either way sd receives the old value. -/
def Claims.CompareAndSwap : Prop :=
  ∀ (s : State) (d a e n : Reg) (z : Bool) (l : Nat) (c : PageClass), free s →
    let w := if z then 8 else 4
    let old := leNat (readPlace s (.ram l) w)
    check s (s.agent s.cur) .atomic (s.me.readS a).toNat w = .ok ⟨.ram l, c⟩ →
    ∃ t, exec (.cas d a e n z) s = .next t
      ∧ (old = (s.me.readS e).toNat % 2 ^ (8 * w) →
        ∀ k, k < w → t.byte (l + k) = BitVec.ofNat 8 ((s.me.readS n).toNat / 256 ^ k))
      ∧ (old ≠ (s.me.readS e).toNat % 2 ^ (8 * w) → ∀ b, t.byte b = s.byte b)
      ∧ (∀ b, b < l ∨ l + w ≤ b → t.byte b = s.byte b)
      ∧ (∀ h, h ≠ s.cur → t.hart h = s.hart h)
      ∧ completes (s.me.writeS d (if z then BitVec.ofNat 64 old else (BitVec.ofNat 32 old).signExtend 64)) t.me

/-- Atomics and compare-and-swap (10 R241). -/
def Obligations.ScalarAtomics : Prop :=
  Claims.Atomics ∧ Claims.CompareAndSwap

/-- 05 R147: pref completes, never traps, writes no register and no memory. -/
def Claims.Prefetch : Prop :=
  ∀ (s : State) (o : SMOps), free s →
    ∃ t, exec (.pref o) s = .next t ∧ t.me = arrive s.me (following s.me) ∧ (∀ h, h ≠ s.cur → t.hart h = s.hart h)
      ∧ (∀ a, t.byte a = s.byte a) ∧ t.keel = s.keel ∧ t.cores = s.cores ∧ t.windows = s.windows

/-- Scalar loads and prefetch (05 R141, R142, R147). -/
def Obligations.ScalarLoads : Prop :=
  Claims.Loads ∧ Claims.Prefetch

/-- 13 R323, R324: a scalar load or store of a hart that leaves its accesses to its scalar queue completes, with its access
in the queue and no byte of memory changed. Performed, the load has given its register the bytes at its address, and the
store has put its bytes there. (When an access waits there is the model's choice: log 4.) -/
def Claims.QueuedScalar : Prop :=
  ∀ (s : State) (o : SMOps) (l : Nat) (c : PageClass), lags s → c ≠ .io →
    let va := s.me.readS o.y + o.off.signExtend 64
    ((Instr.ld o).wellFormed = true → check s (s.agent s.cur) .load va.toNat (2 ^ (o.width.toNat % 4)) = .ok ⟨.ram l, c⟩ →
      let v := loadValue o (readPlace s (.ram l) (2 ^ (o.width.toNat % 4)))
      ∃ t, exec (.ld o) s = .next t ∧ memoryStands s t ∧ t.me.s = s.me.s ∧ t.me.f = s.me.f ∧ t.me.pc = following s.me
        ∧ t.me.scalarQueue.length = 1
        ∧ (v.1 = true → (performQueue t s.cur false).me.readF o.x = v.2)
        ∧ (v.1 = false → o.x ≠ 0 → (performQueue t s.cur false).me.readS o.x = v.2))
    ∧ ((Instr.st o).wellFormed = true → check s (s.agent s.cur) .store va.toNat (2 ^ o.width.toNat) = .ok ⟨.ram l, c⟩ →
      let v := if o.fr then s.me.readF o.x else s.me.readS o.x
      ∃ t, exec (.st o) s = .next t ∧ memoryStands s t ∧ t.me.s = s.me.s ∧ t.me.pc = following s.me
        ∧ t.me.scalarQueue.length = 1
        ∧ (∀ k, k < 2 ^ o.width.toNat → (performQueue t s.cur false).byte (l + k) = BitVec.ofNat 8 (v.toNat / 256 ^ k))
        ∧ ∀ a, a < l ∨ l + 2 ^ o.width.toNat ≤ a → (performQueue t s.cur false).byte a = s.byte a)

/-- 13 R323, R324; 07 R184: a vector load or store of a hart that leaves its accesses to its vector queue completes, with an
access for each active element in the queue and no byte of memory changed. Performed in program order they give what the
instruction would have given in its own step. (When they are performed is the model's choice: log 4.) -/
def Claims.QueuedVector : Prop :=
  ∀ (s : State) (i : Instr) (o : VMOps) (rs : List Reg) (addr pl : Nat → Nat) (cl : Nat → PageClass), lags s →
    i.wellFormed = true → s.me.conf ≠ none → (∀ r ∈ rs, r.toNat < vCount s.me) → tokensReady s.me o.wait →
    tyWidth o.ty.toNat ≤ ewBits s.me →
    let l := active s.me o.mask.toNat
    let n := ewBytes s.me
    (∀ e ∈ l, cl e ≠ .io) →
    (∀ trims, loadOf i s.me = some (o, rs, addr, trims) →
      (∀ e ∈ l, check s (s.agent s.cur) .load (addr e) n = .ok ⟨.ram (pl e), cl e⟩) →
      ∃ t, exec i s = .next t ∧ memoryStands s t ∧ t.me.v = s.me.v ∧ t.me.vectorQueue.flatten.length = l.length
        ∧ (∀ e ∈ l, elementHolds s (performQueue t s.cur true) o.x e (.ram (pl e)))
        ∧ elementsStand s (performQueue t s.cur true) o.x l)
    ∧ (storeOf i s.me = some (o, rs, addr) →
      (∀ e ∈ l, check s (s.agent s.cur) .store (addr e) n = .ok ⟨.ram (pl e), cl e⟩) →
      ∃ t, exec i s = .next t ∧ memoryStands s t ∧ t.me.v = s.me.v ∧ t.me.vectorQueue.flatten.length = l.length
        ∧ (∀ e ∈ l, ∀ k, k < n → (∀ f ∈ l, e < f → pl e + k < pl f ∨ pl f + n ≤ pl e + k) →
            (performQueue t s.cur true).byte (pl e + k) = Tab.get 0 (s.me.vreg o.x.toNat) (n * e + k))
        ∧ ∀ a, (∀ e ∈ l, a < pl e ∨ pl e + n ≤ a) → (performQueue t s.cur true).byte a = s.byte a)

/-- The queues of a hart's two streams (13 R323, R324). -/
def Obligations.StreamQueues : Prop := Claims.QueuedScalar ∧ Claims.QueuedVector

/-! Waits, phase barriers and vector configuration. -/

/-- 10 R245, R247: waitw on a word in memory completes at once when (M[sa] AND sm) cc (sv AND sm) holds; else the hart
waits at it, armed on that word, and nothing else changes. -/
def Claims.WaitOnWord : Prop :=
  ∀ (s : State) (v a m : Reg) (cc : BitVec 2) (z : Bool) (code : BitVec 4) (l : Nat) (pc : PageClass), free s →
    s.me.run = .running →
    let n := if z then 8 else 4
    waitCheck s (s.agent s.cur) (s.me.readS a).toNat n = .ok ⟨.ram l, pc⟩ →
    ¬(0x40000000000 ≤ l ∧ l < 0x50000000000) →
    let mask := (s.me.readS m).toNat % 2 ^ (8 * n)
    let same : Bool := leNat (readPlace s (.ram l) n) &&& mask = (s.me.readS v).toNat % 2 ^ (8 * n) &&& mask
    ∃ t, exec (.waitw v a m cc z code) s = .next t ∧ (∀ k, t.byte k = s.byte k) ∧ (∀ h, h ≠ s.cur → t.hart h = s.hart h)
      ∧ (same ≠ (cc == 1) → t.me = arrive s.me (following s.me))
      ∧ (same = (cc == 1) → t.me = { s.me with
          run := .waiting (.word l (s.me.readS m) (s.me.readS v) (cc == 1) z false) (s.me.readS a) })

/-- 10 R246, R247, R253: the ends of a wait. A satisfied waitw, joinw or pbwait completes its hart past the instruction
it waits at, whatever another hart does; the bound of a waitw or pbwait that has not been satisfied takes trap 0x0C with EVAL
the address; a waitw whose word has become poisoned takes the trap of a load that reads it (16 R420). -/
def Claims.WaitsEnd : Prop :=
  ∀ (s : State) (h loc : Nat) (mask value e : Word) (ne z b : Bool) (ph : BitVec 6),
    let x := s.hart h
    let done : Hart := arrive { x with run := .running } (following x)
    (x.run = .waiting (.word loc mask value ne z true) e ∨ x.run = .waiting (.join loc true) e →
      ∃ t, exec (.waitSatisfied h) s = .next t ∧ t.hart h = done ∧ t.cur = s.cur ∧ ∀ k, k ≠ h → t.hart k = s.hart k)
    ∧ (x.run = .waiting (.word loc mask value ne z b) e → armedPoison s loc (if z then 8 else 4) = none →
      wordMeets s loc mask value ne z = true → ∃ t, exec (.watchPoll h) s = .next t ∧ t.hart h = done ∧ t.cur = s.cur ∧ ∀ k, k ≠ h → t.hart k = s.hart k)
    ∧ (∀ c, x.run = .waiting (.word loc mask value ne z false) e → armedPoison s loc (if z then 8 else 4) = some c →
      ∀ i ∈ [Instr.waitSatisfied h, .watchPoll h], exec i s
        = .next { Machine.trap ({ s with cur := h }.setMe { x with run := .running }) c e with cur := s.cur })
    ∧ (x.run = .waiting (.barrier loc ph true) e →
      ∃ t, exec (.pbwaitComplete h) s = .next t ∧ t.hart h = done ∧ t.cur = s.cur ∧ ∀ k, k ≠ h → t.hart k = s.hart k)
    ∧ (x.run = .waiting (.word loc mask value ne z true) e ∨ x.run = .waiting (.barrier loc ph true) e →
      exec (.waitBoundExpired h) s = .next s)
    ∧ ((x.run = .waiting (.word loc mask value ne z false) e ∨ x.run = .waiting (.barrier loc ph false) e) →
      x.chain = none → x.mode = .user → (s.context x.asid).handler ≠ 0 →
      ∃ t, exec (.waitBoundExpired h) s = .next t ∧ (t.hart h).epc = trapPc x &&& ~~~1 ∧ (t.hart h).eval = e
        ∧ (t.hart h).ecause = 0x0C ∧ (t.hart h).mode = .system ∧ (t.hart h).pc = (s.context x.asid).handler
        ∧ (t.hart h).run = .running)

/-- Waits and their ends (10 R245 to R248, R253). -/
def Obligations.WaitsCompleteOrWait : Prop :=
  Claims.WaitOnWord ∧ Claims.WaitsEnd

/-- 10 R249, R250: pbinit writes PHASE 0, COUNT and PEND sc, BYTES 0 into the barrier of a scratchpad window; a count
outside 1 to 4095 takes trap 0x01. -/
def Claims.BarrierInit : Prop :=
  ∀ (s : State) (c a : Reg) (l : Nat), free s → pbPlace s (s.agent s.cur) (s.me.readS a).toNat = .ok l →
    let n := (s.me.readS c).toNat
    (1 ≤ n → n ≤ 4095 → ∃ t, exec (.pbinit c a) s = .next t ∧ pbRead t l = ⟨0, n, n, 0⟩
      ∧ (∀ k, k < l ∨ l + 8 ≤ k → t.byte k = s.byte k) ∧ (∀ h, h ≠ s.cur → t.hart h = s.hart h)
      ∧ t.me = arrive s.me (following s.me))
    ∧ (n = 0 ∨ 4095 < n → exec (.pbinit c a) s
      = .next (Machine.trap (touch s (s.agent s.cur) .atomic (s.me.readS a).toNat) 0x01 (trapPc s.me)))

/-- 10 R250 to R253: pbarr writes the phase it arrives in and lowers PEND, or is held and waits at PEND 0; pbexp raises
BYTES, or takes trap 0x01 past its limits; pbwait completes when PHASE is not sp[5:0] and waits otherwise. What follows a
change of the fields is the statement PhaseCompletes. A barrier with a problem takes its trap with EVAL the address. -/
def Claims.BarrierOperations : Prop :=
  ∀ (s : State) (d a : Reg) (code : BitVec 4) (l : Nat), free s → s.me.run = .running →
    pbPlace s (s.agent s.cur) (s.me.readS a).toNat = .ok l →
    let s' := touch s (s.agent s.cur) .atomic (s.me.readS a).toNat
    let b := pbRead s' l
    let raised := b.bytes + ((s.me.readS d).toNat : Int)
    (b.pend ≠ 0 → exec (.pbarr d a) s
      = .next (pbOperate (finishWith s' fun x => x.writeS d (BitVec.ofNat 64 b.phase)) l { b with pend := b.pend - 1 }))
    ∧ (b.pend = 0 → ∃ t, exec (.pbarr d a) s = .next t ∧ t.me = { s.me with run := .waiting (.arrival l) 0 }
        ∧ t.requests = s.requests ++ [⟨l, s.cur, true, 0⟩])
    ∧ ((s.me.readS d).toNat ≤ 16777216 → raised ≤ 8589934591 → exec (.pbexp d a) s
      = .next (pbOperate (finish s') l { b with bytes := raised }))
    ∧ (16777216 < (s.me.readS d).toNat ∨ 8589934591 < raised → exec (.pbexp d a) s
      = .next (Machine.trap s' 0x01 (trapPc s.me)))
    ∧ (b.phase ≠ (s.me.readS d).toNat % 64 → exec (.pbwait d a code) s = .next (finish s'))
    ∧ (b.phase = (s.me.readS d).toNat % 64 → ∃ t, exec (.pbwait d a code) s = .next t
        ∧ t.me = { s.me with run := .waiting (.barrier l ((s.me.readS d).truncate 6) false) (s.me.readS a) })

/-- 10 R250: an address outside the scratchpad windows, misaligned or with a problem of an atomic takes its trap with EVAL
the address, for each operation on a phase barrier. (That it does so before an illegal count of pbinit and an illegal number of
bytes of pbexp is the model's reading: log 33.) -/
def Claims.BarrierProblems : Prop :=
  ∀ (s : State) (d a : Reg) (code : BitVec 4) (c : Nat), free s → s.me.run = .running →
    pbPlace s (s.agent s.cur) (s.me.readS a).toNat = .error c →
    ∀ i ∈ [Instr.pbinit d a, .pbarr d a, .pbexp d a, .pbwait d a code], exec i s = .next (Machine.trap s c (s.me.readS a))

/-- Phase barriers (10 R249 to R253). (An address's problem comes before an illegal count or number of bytes: log 33.) -/
def Obligations.BarrierInstructions : Prop :=
  Claims.BarrierInit ∧ Claims.BarrierOperations ∧ Claims.BarrierProblems

/-- 10 R249, R251: an operation on a barrier at which no arrival is held. With PEND and BYTES 0 the phase completes: PHASE
rises by one modulo 64 and PEND returns to COUNT; else the fields are those written. No other byte changes. -/
def Obligations.PhaseCompletes : Prop :=
  ∀ (s : State) (l : Nat) (b : Barrier), heldArrival s l = none →
    b.phase < 64 → b.count < 4096 → b.pend < 4096 → -8589934592 ≤ b.bytes → b.bytes ≤ 8589934591 →
    let t := pbOperate s l b
    pbRead t l = (if b.pend = 0 ∧ b.bytes = 0 then { b with phase := (b.phase + 1) % 64, pend := b.count } else b)
      ∧ (∀ k, k < l ∨ l + 8 ≤ k → t.byte k = s.byte k) ∧ t.harts = s.harts

/-- 06 R148, R149: vcfg with enough free shares and no earlier request configures the hart: its registers and masks are
zero, VL is TILEMAX, VROWS 1 and VSTART 0. With too few it waits, its request queued. -/
def Claims.VectorConfigure : Prop :=
  ∀ (s : State) (c : BitVec 2) (n : BitVec 3) (w : BitVec 2), free s → coreGanged s s.cur = false → s.me.conf = none →
    (s.core (coreOf s.cur)).shareQueue = [] →
    (sharesUsed s (coreOf s.cur) + (n.toNat + 1) ≤ 8 →
      ∃ t, exec (.vcfg c n w) s = .next t ∧ completes { s.me with
          conf := some ⟨4 * 2 ^ c.toNat, n.toNat + 1, w⟩
          v := []
          m := []
          spoiled := { s.me.spoiled with v := [], m := [] }
          vl := (n.toNat + 1) * 32768 / (4 * 2 ^ c.toNat * 2 ^ w.toNat)
          vrows := 1
          vstart := 0
          run := .running } t.me
        ∧ (∀ h, h ≠ s.cur → t.hart h = s.hart h) ∧ ∀ k, t.byte k = s.byte k)
    ∧ (8 < sharesUsed s (coreOf s.cur) + (n.toNat + 1) →
      ∃ t, exec (.vcfg c n w) s = .next t ∧ t.me = { s.me with run := .waiting .shares 0 }
        ∧ (t.core (coreOf s.cur)).shareQueue = [(s.cur, n.toNat + 1)])

/-- 06 R149, R151: vcfg on a configured hart first performs vrel: its slots are released and its shares are free, before it asks
for those of the new configuration. -/
def Claims.VectorReconfigure : Prop :=
  ∀ (s : State) (c : BitVec 2) (n : BitVec 3) (w : BitVec 2), free s → coreGanged s s.cur = false → s.me.conf ≠ none →
    s.me.run = .running → (s.core (coreOf s.cur)).shareQueue = [] →
    let u := unconfigure s s.cur
    (∃ r, exec .vrel s = .next r ∧ completes u.me r.me ∧ u.me.conf = none ∧ ∀ k, ownsSlot u s.cur k = false)
    ∧ (sharesUsed u (coreOf s.cur) + (n.toNat + 1) ≤ 8 →
      ∃ t, exec (.vcfg c n w) s = .next t ∧ completes { s.me with
          conf := some ⟨4 * 2 ^ c.toNat, n.toNat + 1, w⟩
          v := []
          m := []
          spoiled := { s.me.spoiled with v := [], m := [], slots := [] }
          vl := (n.toNat + 1) * 32768 / (4 * 2 ^ c.toNat * 2 ^ w.toNat)
          vrows := 1
          vstart := 0
          run := .running } t.me
        ∧ (∀ k, ownsSlot t s.cur k = false) ∧ (∀ h, h ≠ s.cur → t.hart h = s.hart h) ∧ ∀ k, t.byte k = s.byte k)
    ∧ (8 < sharesUsed u (coreOf s.cur) + (n.toNat + 1) →
      ∃ t, exec (.vcfg c n w) s = .next t ∧ t.me = { u.me with run := .waiting .shares 0 }
        ∧ (∀ k, ownsSlot t s.cur k = false) ∧ (t.core (coreOf s.cur)).shareQueue = [(s.cur, n.toNat + 1)])

/-- 06 R149: the share arbiter grants the first request of a core once its shares are free: the waiting hart is
configured and its request leaves the queue. -/
def Claims.ShareGranted : Prop :=
  ∀ (s : State) (h : Nat) (c : BitVec 2) (n : BitVec 3) (w : BitVec 2) (r : List (Nat × Nat)),
    (s.core (coreOf h)).shareQueue = (h, n.toNat + 1) :: r → sharesUsed s (coreOf h) + (n.toNat + 1) ≤ 8 →
    waitingInstr (s.hart h) = some (.vcfg c n w) → (s.hart h).chain = none → (s.hart h).conf = none →
    coreGanged s h = false →
    ∃ t, exec (.shareGrant (coreOf h)) s = .next t ∧ (t.hart h).conf = some ⟨4 * 2 ^ c.toNat, n.toNat + 1, w⟩
      ∧ (t.hart h).run = .running ∧ (t.core (coreOf h)).shareQueue = r ∧ t.cur = s.cur
      ∧ ∀ k, k ≠ h → t.hart k = s.hart k

/-- Configuration, of a hart that is configured too, and the share arbiter (06 R148, R149). -/
def Obligations.VectorConfiguration : Prop :=
  Claims.VectorConfigure ∧ Claims.VectorReconfigure ∧ Claims.ShareGranted

/-- 06 R150, R151: vsetl gives VL the lesser of sa and TILEMAX / VROWS, vsetr gives VROWS at least 1 and at most 64 and
TILEMAX / max(VL, 1), each writing it to sd with VSTART 0; vrel leaves the hart unconfigured. -/
def Obligations.VectorShape : Prop :=
  ∀ (s : State) (d a : Reg), free s → s.me.conf ≠ none → coreGanged s s.cur = false → s.me.gang = none →
    let l := min (s.me.readS a).toNat (tileMax s.me / s.me.vrows)
    let r := max 1 (min (s.me.readS a).toNat (min 64 (tileMax s.me / max s.me.vl 1)))
    exec (.vsetl d a) s = .next (finishWith s fun x => { x with vl := l, vstart := 0 }.writeS d (BitVec.ofNat 64 l))
    ∧ exec (.vsetr d a) s = .next (finishWith s fun x => { x with vrows := r, vstart := 0 }.writeS d (BitVec.ofNat 64 r))
    ∧ ∃ t, exec .vrel s = .next t
        ∧ completes { s.me with
          conf := none
          v := []
          m := []
          spoiled := { s.me.spoiled with v := [], m := [], slots := [] }
          vl := 0
          vrows := 1
          vstart := 0 } t.me
        ∧ ∀ k, ownsSlot t s.cur k = false

/-- 06 R153: while a hart is ganged, vcfg, vrel, vsetl, vsetr and srw to VL or VROWS take trap 0x18; every other
instruction of the chapter acts on the member's own registers only. -/
def Claims.GangedConfiguration : Prop :=
  ∀ (s : State) (c : BitVec 2) (n : BitVec 3) (w : BitVec 2) (d a : Reg) (g : BitVec 32), free s →
    (s.cur, s.me) ∈ s.harts → s.me.gang = some g → s.me.run = .running →
    (∀ i ∈ [Instr.vcfg c n w, .vrel, .vsetl d a, .vsetr d a, .srw a 0x000, .srw a 0x001],
      exec i s = .next (Machine.trap s 0x18 (trapPc s.me)))
    ∧ ∀ i t, vectorArithmetic i = true → s.me.mode = .user → (s.context s.me.asid).handler ≠ 0 → exec i s = .next t →
      onlyMe s t

/-- 06 R152: gang of 0 leaves the gang, if the hart is in one, with status 1; a mask that is refused gives 2; an arrival that
is not the last waits, its mask noted; and the last arrival of harts of one shape gangs them all with status 0, of harts that
differ gives every one status 3. An unconfigured hart takes trap 0x18. (Which of two harts of one core joins is the model's choice:
log 88.) -/
def Claims.GangFormation : Prop :=
  ∀ (s : State) (d a : Reg), free s → s.me.run = .running →
    let v := (s.me.readS a).toNat
    (v = 0 → s.me.gang = none → exec (.gang d a) s = .next (finishWith s fun x => x.writeS d 1))
    ∧ (v = 0 → s.me.gang ≠ none → ∃ t, exec (.gang d a) s = .next t
        ∧ completes ({ s.me with gang := none, gangLead := 0, gangFeed := [] }.writeS d 1) t.me)
    ∧ (v ≠ 0 → s.me.conf = none → exec (.gang d a) s = .next (Machine.trap s 0x18 (trapPc s.me)))
    ∧ (v ≠ 0 → s.me.conf ≠ none → gangRefused s v = true → exec (.gang d a) s = .next (finishWith s fun x => x.writeS d 2))
    ∧ (v ≠ 0 → s.me.conf ≠ none → gangRefused s v = false →
      let w := waitAt { s with gangs := Tab.set 0 s.cur v s.gangs } .gang 0
      let at_ (i : Nat) := w.gangs.find? fun e => coreOf e.1 == clusterOf s.cur * 32 + i && decide (e.2 = v)
      let cores := (List.range 32).filter fun i => v.testBit i
      ((∃ i ∈ cores, at_ i = none) → exec (.gang d a) s = .next w)
      ∧ ((∀ i ∈ cores, ∃ e, at_ i = some e ∧ (e.1 = s.cur ∨ gangProblem w e.1 = none)) →
        let ends (t : State) (h : Nat) (x : Hart) (status : Word) : Prop := ∀ b c, waitingInstr (w.hart h) = some (.gang b c) →
          t.hart h = arrive (x.writeS b status) (following x)
        let formed := ∀ i ∈ cores, ∀ e, at_ i = some e → sameShape (w.hart e.1) w.me = true
        (formed → ∃ t lead, exec (.gang d a) s = .next t ∧ ∀ i ∈ cores, ∀ e, at_ i = some e →
          (t.hart e.1).gang = some (BitVec.ofNat 32 v) ∧ ends t e.1 { w.hart e.1 with
            run := .running, gang := some (BitVec.ofNat 32 v), gangLead := lead, gangFeed := [] } 0)
        ∧ (¬formed → ∃ t, exec (.gang d a) s = .next t ∧ ∀ i ∈ cores, ∀ e, at_ i = some e →
          ends t e.1 { w.hart e.1 with run := .running } 3)))

/-- 06 R152: a hart whose gang has not formed within its bound withdraws its arrival and goes on with status 4 in sd. -/
def Claims.GangTimeout : Prop :=
  ∀ (s : State) (d a : Reg) (h : Nat) (e : Word), (s.hart h).run = .waiting .gang e → Tab.get 0 s.gangs h ≠ 0 →
    waitingInstr (s.hart h) = some (.gang d a) →
    ∃ t, exec (.gangTimeout h) s = .next t ∧ Tab.get 0 t.gangs h = 0
      ∧ t.hart h = (let y := { s.hart h with run := .running }; arrive (y.writeS d 4) (following y))

/-- Gangs: forming and leaving them, and what a member may not do (06 R152, R153). -/
def Obligations.GangsFormAndDissolve : Prop :=
  Claims.GangFormation ∧ Claims.GangTimeout ∧ Claims.GangedConfiguration

/-! Vector arithmetic and masks. -/

/-- 06 R156, R158 to R161, R170: an element-wise function outside a chain, with a configured hart, register numbers below
the count, TYPE no wider than EW and an effective rounding mode, gives each active element the function of its own
sub-values; everything else stands. -/
def Obligations.ElementWise : Prop :=
  ∀ (s : State) (i : Instr) (o : VAOps) (vs rounds : Bool) (f : Nat → Nat → Nat → Nat → Nat × Flags) (rm : Nat),
    free s → i.wellFormed = true → elementFn i = some (o, vs, rounds, f) → o.ci = false → o.co = false →
    s.me.conf ≠ none → (∀ r ∈ [o.x, o.y, o.w], r.toNat < vCount s.me) → (vs = false → o.z.toNat < vCount s.me) →
    tyWidth o.ty.toNat ≤ ewBits s.me → vectorMode s.me o rounds = some rm →
    plainAt s.me (following s.me) →
    let x := s.me
    let n := ewBytes x
    let w := tyWidth o.ty.toNat
    let a (r : Reg) (e j : Nat) : Nat := sub w j (elem (x.vreg r.toNat) n e)
    let b (e j : Nat) : Nat := if vs then (x.readS o.z).toNat % 2 ^ w else a o.z e j
    let v (e j : Nat) : Nat × Flags := f rm (a o.y e j) (b e j) (a o.w e j)
    let g (e : Nat) : Flags := unionFlags (List.range (ewBits x / w)) fun j => (v e j).2
    ∃ t, exec i s = .next t
      ∧ vectorResult s t o.x o.mask (fun e => packed (ewBits x / w) w fun j => (v e j).1)
          (unionFlags (active x o.mask.toNat) g)
      ∧ exceptionMask s t o.xm o.mask g ∧ t.me.s = x.s ∧ t.me.pc = following x

/-- 06 R159; 12 R312: without `.s` the integer sums, differences, products and fused forms are those of the sub-values
reduced modulo 2^w, whichever sign the type has; with it a result beyond the type's bounds is the nearest bound. -/
def Obligations.VectorIntegers : Prop :=
  ∀ (o : VAOps) (rm a b c : Nat), o.ty.toNat < 8 →
    let w := tyWidth o.ty.toNat
    let A := intOf o.ty.toNat a
    let B := intOf o.ty.toNat b
    let C := intOf o.ty.toNat c
    let lo := intLo o.ty.toNat
    let hi := intHi o.ty.toNat
    (o.sat = false → (vaddFn o rm a b c).1 = (a + b) % 2 ^ w ∧ (vmulFn o rm a b c).1 = a * b % 2 ^ w
      ∧ (vfmaFn o rm a b c).1 = (a * b + c) % 2 ^ w ∧ ((vsubFn o rm a b c).1 + b) % 2 ^ w = a % 2 ^ w
      ∧ ((vfmsFn o rm a b c).1 + c) % 2 ^ w = a * b % 2 ^ w)
    ∧ (o.sat = true → intOf o.ty.toNat (vaddFn o rm a b c).1 = max lo (min hi (A + B))
      ∧ intOf o.ty.toNat (vsubFn o rm a b c).1 = max lo (min hi (A - B))
      ∧ intOf o.ty.toNat (vmulFn o rm a b c).1 = max lo (min hi (A * B))
      ∧ intOf o.ty.toNat (vfmaFn o rm a b c).1 = max lo (min hi (A * B + C))
      ∧ intOf o.ty.toNat (vfmsFn o rm a b c).1 = max lo (min hi (A * B - C)))

/-- 06 R162, R165, R170: vdot and vhad outside a chain. vdot gives each active 32-bit element its dot product;
vhad gives element i of a row the sum with, or the difference from, its partner at distance 2^W. An exception mask takes the
elements that raised NV, DZ or OF. (That an element of vhad without a partner is passed on as it stands, a NaN too, is the model's
reading: log 96.) -/
def Claims.VectorWide : Prop :=
  ∀ (s : State) (o : VAOps) (rm : Nat), free s → o.ci = false → o.co = false → s.me.conf ≠ none →
    (∀ r ∈ [o.x, o.y], r.toNat < vCount s.me) → vectorMode s.me o true = some rm → plainAt s.me (following s.me) →
    let x := s.me
    let n := ewBytes x
    let w := tyWidth o.ty.toNat
    let el (r : Reg) (e : Nat) : Nat := elem (x.vreg r.toNat) n e
    let dot (vs : Bool) (e : Nat) : Nat × Flags :=
      dotElem o rm (el o.y e) (el o.z e) (el o.w e) (if vs then some (x.readS o.z).toNat else none)
    let had (e j : Nat) : Nat × Flags :=
      let v (i : Nat) : Nat := sub w j (el o.y (e / x.vl * x.vl + i))
      let i := e % x.vl
      if i.testBit o.w.toNat then vsubFn o rm (v (i - 2 ^ o.w.toNat)) (v i) 0
      else if i + 2 ^ o.w.toNat < x.vl then vaddFn o rm (v i) (v (i + 2 ^ o.w.toNat)) 0 else (v i, 0)
    (ewBits x = 32 → o.w.toNat < vCount x → o.z.toNat < vCount x → (Instr.vdot o).wellFormed = true →
      ∃ t, exec (.vdot o) s = .next t
        ∧ vectorResult s t o.x o.mask (fun e => (dot false e).1)
            (unionFlags (active x o.mask.toNat) fun e => (dot false e).2)
        ∧ exceptionMask s t o.xm o.mask fun e => (dot false e).2)
    ∧ (ewBits x = 32 → o.w.toNat < vCount x → (Instr.vdotVs o).wellFormed = true →
      ∃ t, exec (.vdotVs o) s = .next t
        ∧ vectorResult s t o.x o.mask (fun e => (dot true e).1)
            (unionFlags (active x o.mask.toNat) fun e => (dot true e).2)
        ∧ exceptionMask s t o.xm o.mask fun e => (dot true e).2)
    ∧ (w ≤ ewBits x → x.vstart = 0 → (Instr.vhad o).wellFormed = true →
      ∃ t, exec (.vhad o) s = .next t
        ∧ vectorResult s t o.x 0 (fun e => packed (ewBits x / w) w fun j => (had e j).1)
            (unionFlags (active x 0) fun e => unionFlags (List.range (ewBits x / w)) fun j => (had e j).2)
        ∧ exceptionMask s t o.xm 0 fun e => unionFlags (List.range (ewBits x / w)) fun j => (had e j).2)

/-- 06 R164; 12 R313, R314: vcvt outside a chain, by value index. Each active index of the destination view reads the
converted value of the same index of the source view, scaled where W[4] is set; other indexes stand. An exception mask takes the
indexes that raised NV, DZ or OF (06 R170). -/
def Claims.VectorConvert : Prop :=
  ∀ (s : State) (o : VAOps) (rm : Nat), free s → o.ci = false → o.co = false → s.me.conf ≠ none → o.vcvtOk = true →
    (∀ r ∈ [o.x, o.y, o.z], r.toNat < vCount s.me) → roundingMode s.me o.rm = some rm →
    let x := s.me
    let src := o.w.toNat % 16
    let wd := tyWidth o.ty.toNat
    wd ≤ ewBits x → tyWidth src ≤ ewBits x → (o.w.getLsbD 4 = true → 32 ≤ ewBits x) → plainAt s.me (following s.me) →
    let rm' := if 8 ≤ o.ty.toNat ∨ 8 ≤ src ∧ src ≠ 12 then rm else 0
    let v (e : Nat) : Nat × Flags := convertValue o rm' src (viewAt (x.vreg o.y.toNat) (tyWidth src) e)
      (if o.w.getLsbD 4 then some (fpRead (fmtOf 10) (viewAt (x.vreg o.z.toNat) 32 e)) else none)
    ∃ t, exec (.vcvt o) s = .next t ∧ onlyMe s t
      ∧ (∀ e ∈ active x o.mask.toNat, viewAt (t.me.vreg o.x.toNat) wd e = (v e).1 % 2 ^ wd)
      ∧ (∀ e, e ∉ active x o.mask.toNat → viewAt (t.me.vreg o.x.toNat) wd e = viewAt (x.vreg o.x.toNat) wd e)
      ∧ (∀ r, r ≠ o.x.toNat → t.me.vreg r = x.vreg r) ∧ t.me.vstart = 0
      ∧ t.me.fflags = (x.fflags ||| unionFlags (active x o.mask.toNat) fun e => (v e).2)
      ∧ exceptionMask s t o.xm o.mask fun e => (v e).2

/-- Dot products, butterflies and conversions, with their exception masks (06 R162, R164, R165, R170; 12 R313, R314). (An
unpaired element of vhad: log 96.) -/
def Obligations.DotsAndConversions : Prop :=
  Claims.VectorWide ∧ Claims.VectorConvert

/-- 06 R157, R167: the selection and permutation functions, TYPE as wide as EW and, for the cross-element ones, VSTART 0.
Every source is read before any destination is written. -/
def Obligations.VectorSelect : Prop :=
  ∀ (s : State) (i : Instr) (o : VAOps) (rs : List Reg) (cross : Bool) (f : Nat → Nat), free s → i.wellFormed = true →
    selectFn i s.me = some (o, rs, cross, f) → s.me.conf ≠ none → (∀ r ∈ o.x :: rs, r.toNat < vCount s.me) →
    tyWidth o.ty.toNat = ewBits s.me → plainAt s.me (following s.me) →
    ((cross = true → s.me.vstart = 0) →
      ∃ t, exec i s = .next t ∧ vectorResult s t o.x o.mask f 0 ∧ t.me.s = s.me.s ∧ t.me.m = s.me.m)
    ∧ (cross = true → s.me.vstart ≠ 0 → exec i s = .next (Machine.trap s 0x18 (trapPc s.me)))

/-- 06 R168, R170: vcmp writes the comparison of each active element to bit t of mask X, and with XM the elements that
raised an exception flag; other bits and all vector registers stand. -/
def Claims.VectorCompare : Prop :=
  ∀ (s : State) (o : VAOps), free s → (Instr.vcmp o).wellFormed = true → s.me.conf ≠ none →
    (∀ r ∈ [o.y, o.z], r.toNat < vCount s.me) → tyWidth o.ty.toNat = ewBits s.me → plainAt s.me (following s.me) →
    let x := s.me
    let v (e : Nat) : Bool × Flags := compareFn o.ty.toNat o.w.toNat (elem (x.vreg o.y.toNat) (ewBytes x) e)
      (elem (x.vreg o.z.toNat) (ewBytes x) e)
    ∃ t, exec (.vcmp o) s = .next t ∧ onlyMe s t ∧ t.me.v = x.v ∧ t.me.vstart = 0
      ∧ (∀ e, o.x ≠ 0 → maskBit t.me o.x.toNat e
          = if e ∈ active x o.mask.toNat then (v e).1 else maskBit x o.x.toNat e)
      ∧ (∀ e, o.xm ≠ 0 → maskBit t.me o.xm.toNat e
          = if e ∈ active x o.mask.toNat then marksFlag (v e).2 else maskBit x o.xm.toNat e)
      ∧ (∀ k e, k ≠ o.x.toNat → k ≠ o.xm.toNat → maskBit t.me k e = maskBit x k e)
      ∧ t.me.fflags = x.fflags ||| unionFlags (active x o.mask.toNat) fun e => (v e).2

/-- 06 R169: vred writes the reduction of the active elements of each row to element 0 of that row, and no other
element. -/
def Claims.VectorReduce : Prop :=
  ∀ (s : State) (o : VAOps) (rm : Nat), free s → (Instr.vred o).wellFormed = true → s.me.conf ≠ none →
    (∀ r ∈ [o.x, o.y], r.toNat < vCount s.me) → tyWidth o.ty.toNat = ewBits s.me → s.me.vstart = 0 → s.me.vl ≠ 0 →
    vectorMode s.me o (o.w == 0) = some rm → plainAt s.me (following s.me) →
    let x := s.me
    let n := ewBytes x
    let row (r : Nat) : Nat × Flags := redRow o o.w.toNat rm
      (((List.range x.vl).filter fun e => maskBit x o.mask.toNat (r * x.vl + e)).map fun e =>
        elem (x.vreg o.y.toNat) n (r * x.vl + e))
    ∃ t, exec (.vred o) s = .next t ∧ onlyMe s t
      ∧ (∀ r, r < x.vrows → elem (t.me.vreg o.x.toNat) n (r * x.vl) = (row r).1 % 2 ^ ewBits x)
      ∧ (∀ e, ¬(e % x.vl = 0 ∧ e / x.vl < x.vrows) → elem (t.me.vreg o.x.toNat) n e = elem (x.vreg o.x.toNat) n e)
      ∧ (∀ r, r ≠ o.x.toNat → t.me.vreg r = x.vreg r) ∧ t.me.vstart = 0 ∧ (∀ k e, maskBit t.me k e = maskBit x k e)
      ∧ t.me.fflags = x.fflags ||| unionFlags (List.range x.vrows) fun r => (row r).2

/-- Vector comparisons and reductions (06 R168 to R170). -/
def Obligations.ComparisonsAndReductions : Prop :=
  Claims.VectorCompare ∧ Claims.VectorReduce

/-- 03 R72; 06 R171: the mask instructions write the bits below T of their destination and nothing else; a write to m0
is discarded, and mpop and mfirst write a scalar register: the count of set bits below T, and the first one or all
ones. They begin at VSTART and leave it 0, as 03 R83 has every vector instruction do (the model's reading of R171: log 19). -/
def Obligations.MaskInstructions : Prop :=
  ∀ (s : State) (i : Instr) (d : Reg) (f : Nat → Bool) (a : Reg), free s → s.me.conf ≠ none →
    (maskFn i s.me = some (d, f) → ∃ t, exec i s = .next t ∧ onlyMe s t ∧ t.me.v = s.me.v ∧ t.me.vstart = 0
      ∧ ∀ m k, maskBit t.me m k
        = if m = d.toNat ∧ m ≠ 0 ∧ s.me.vstart ≤ k ∧ k < tiles s.me then f k else maskBit s.me m k)
    ∧ exec (.mpop d a) s = .next (finishWith s fun x =>
        { x.writeS d (BitVec.ofNat 64 ((List.range (tiles s.me)).countP fun t =>
            decide (s.me.vstart ≤ t) && maskBit s.me a.toNat t)) with vstart := 0 })
    ∧ exec (.mfirst d a) s = .next (finishWith s fun x =>
        { x.writeS d (((List.range (tiles s.me)).find? fun t => decide (s.me.vstart ≤ t) && maskBit s.me a.toNat t).elim
          (BitVec.allOnes 64) fun t => BitVec.ofNat 64 t) with vstart := 0 })

/-- 04 R109; 06 R166, R170: what a vector arithmetic instruction checks first. An unconfigured hart or a register number at or above
the count takes trap 0x18; CI with no open group breaks the chain with 0x0F; with CO the result and its flags go to the latch, whose
inactive elements read zero, and the hart's registers, masks and flags stand until the last member. (EVAL and ESTAT.CHAIN of 0x0F
where no group is open are the model's reading: log 66.) -/
def Claims.ChainEntry : Prop :=
  ∀ (s : State) (i : Instr) (o : VAOps) (vs rounds : Bool) (f : Nat → Nat → Nat → Nat → Nat × Flags), free s →
    i.wellFormed = true → elementFn i = some (o, vs, rounds, f) →
    (s.me.conf = none → exec i s = .next (Machine.trap s 0x18 (trapPc s.me)))
    ∧ (s.me.conf ≠ none → 4 ≤ vCount s.me → (∃ r ∈ namedRegs o vs, vCount s.me ≤ r.toNat) →
      exec i s = .next (Machine.trap s 0x18 (trapPc s.me)))
    ∧ (vregsOk s.me (namedRegs o vs) = true → o.ci = true → exec i s = .next (chainTrap s))
    ∧ ∀ rm, vregsOk s.me (namedRegs o vs) = true → o.ci = false → o.co = true →
      tyWidth o.ty.toNat ≤ ewBits s.me → vectorMode s.me o rounds = some rm → plainAt s.me (following s.me) →
      let x := s.me
      let n := ewBytes x
      let w := tyWidth o.ty.toNat
      let l := active x o.mask.toNat
      let a (r : Reg) (e j : Nat) : Nat := sub w j (elem (x.vreg r.toNat) n e)
      let b (e j : Nat) : Nat := if vs then (x.readS o.z).toNat % 2 ^ w else a o.z e j
      let v (e j : Nat) : Nat × Flags := f rm (a o.y e j) (b e j) (a o.w e j)
      let flags (e : Nat) : Flags := unionFlags (List.range (ewBits x / w)) fun j => (v e j).2
      ∃ t g, exec i s = .next t ∧ onlyMe s t ∧ t.me.chain = some g ∧ g.first = trapPc s.me ∧ g.members = 1
        ∧ g.vstart = s.me.vstart ∧ g.flags = unionFlags l flags
        ∧ (∀ e ∈ l, elem g.latch n e = (packed (ewBits x / w) w fun j => (v e j).1) % 2 ^ ewBits x)
        ∧ (∀ e, e ∉ l → elem g.latch n e = 0)
        ∧ (∀ k e, heldBit x g k e
          = if k = o.xm.toNat ∧ k ≠ 0 ∧ e ∈ l then marksFlag (flags e) else maskBit x k e)
        ∧ t.me.v = s.me.v ∧ t.me.m = s.me.m ∧ t.me.fflags = s.me.fflags ∧ t.me.s = s.me.s

/-- 06 R166, R170: a later member of an open chain group reads the latch as its first source. With CO the latch takes its result,
its inactive elements zero, and the hart's registers, masks and flags stand; an eighth member with CO takes trap 0x0F. Without CO the
group ends, and the active elements of its result, the exception masks and the flags of all members take effect together. A
register number at or above the count takes trap 0x18. -/
def Claims.ChainMembers : Prop :=
  ∀ (s : State) (c : Chain) (i : Instr) (o : VAOps) (vs rounds : Bool) (f : Nat → Nat → Nat → Nat → Nat × Flags) (rm : Nat),
    s.me.chain = some c → c.lost = false → i.wellFormed = true → elementFn i = some (o, vs, rounds, f) → o.ci = true →
    tyWidth o.ty.toNat ≤ ewBits s.me → vectorMode s.me o rounds = some rm →
    plainAt s.me (following s.me) → Tab.rising c.masks = true →
    let x := s.me
    let n := ewBytes x
    let w := tyWidth o.ty.toNat
    let l := active x o.mask.toNat
    let z (e j : Nat) : Nat := if vs then (x.readS o.z).toNat % 2 ^ w else sub w j (elem (x.vreg o.z.toNat) n e)
    let v (e j : Nat) : Nat × Flags := f rm (sub w j (elem c.latch n e)) (z e j) (sub w j (elem (x.vreg o.w.toNat) n e))
    let value (e : Nat) : Nat := (packed (ewBits x / w) w fun j => (v e j).1) % 2 ^ ewBits x
    let own (e : Nat) : Flags := unionFlags (List.range (ewBits x / w)) fun j => (v e j).2
    let flags : Flags := c.flags ||| unionFlags l own
    let held (k e : Nat) : Bool := if k = o.xm.toNat ∧ k ≠ 0 ∧ e ∈ l then marksFlag (own e) else heldBit x c k e
    (x.conf ≠ none → 4 ≤ vCount x → (∃ r ∈ namedRegs o vs, vCount x ≤ r.toNat) →
      exec i s = .next (Machine.trap s 0x18 (trapPc x)))
    ∧ (vregsOk x (namedRegs o vs) = true →
      (o.co = true → c.members < 7 → ∃ t g, exec i s = .next t ∧ onlyMe s t ∧ t.me.chain = some g ∧ g.first = c.first
        ∧ g.members = c.members + 1 ∧ g.vstart = c.vstart ∧ g.flags = flags ∧ (∀ e ∈ l, elem g.latch n e = value e)
        ∧ (∀ e, e ∉ l → elem g.latch n e = 0) ∧ (∀ k e, heldBit x g k e = held k e)
        ∧ t.me.v = x.v ∧ t.me.m = x.m ∧ t.me.fflags = x.fflags ∧ t.me.s = x.s)
      ∧ (o.co = true → 7 ≤ c.members → exec i s = .next (chainTrap s))
      ∧ (o.co = false → ∃ t, exec i s = .next t ∧ onlyMe s t ∧ t.me.chain = none ∧ t.me.vstart = 0
        ∧ (∀ e ∈ l, elem (t.me.vreg o.x.toNat) n e = value e)
        ∧ (∀ e, e ∉ l → elem (t.me.vreg o.x.toNat) n e = elem (x.vreg o.x.toNat) n e)
        ∧ (∀ r, r ≠ o.x.toNat → t.me.vreg r = x.vreg r) ∧ (∀ k e, maskBit t.me k e = held k e)
        ∧ t.me.fflags = x.fflags ||| flags ∧ t.me.s = x.s))

/-- Chain groups: their first member, and later ones (04 R109; 06 R166). (0x0F where no group is open: log 66.) -/
def Obligations.VectorChain : Prop := Claims.ChainEntry ∧ Claims.ChainMembers

/-! Vector memory. -/

/-- 07 R177, R179, R182: a vector load. With no problem each active element receives the bytes at its address, read
before any change, and nothing else changes. At the first problem, at element f, it trims the shape or traps with VSTART
f and EVAL the address, as the cause and the form say. -/
def Claims.VectorLoads : Prop :=
  ∀ (s : State) (i : Instr) (o : VMOps) (rs : List Reg) (addr : Nat → Nat) (trims : Nat → Bool), i.wellFormed = true →
    loadOf i s.me = some (o, rs, addr, trims) → vmReady s o rs → tyWidth o.ty.toNat ≤ ewBits s.me →
    let l := active s.me o.mask.toNat
    let chk (e : Nat) := check s (s.agent s.cur) .load (addr e) (ewBytes s.me)
    (∀ pl : Nat → Resolved, (∀ e ∈ l, chk e = .ok (pl e)) →
      ∃ t, exec i s = .next t ∧ (∀ e ∈ l, elementHolds s t o.x e (pl e).place) ∧ elementsStand s t o.x l
        ∧ accessKeeps s.me t.me ∧ memoryStands s t)
    ∧ (∀ f c, f ∈ l → chk f = .error c → (∀ e ∈ l, e < f → ∃ r, chk e = .ok r) →
      (trims c = true ∧ s.me.gang = none ∧ (∃ e ∈ l, e < f) →
        ∃ t, exec i s = .next t ∧ t.me.vstart = 0 ∧ memoryStands s t
          ∧ (t.me.vl, t.me.vrows) = if f / s.me.vl = 0 then (f % s.me.vl, s.me.vrows) else (s.me.vl, f / s.me.vl))
      ∧ (¬(trims c = true ∧ s.me.gang = none ∧ ∃ e ∈ l, e < f) → c < 256 → s.me.mode = .user →
        (s.context s.me.asid).handler ≠ 0 →
        ∃ t, exec i s = .next t ∧ t.me.vstart = f ∧ t.me.ecause = BitVec.ofNat 10 (c % 256)
          ∧ t.me.eval = BitVec.ofNat 64 (addr f) ∧ memoryStands s t
          ∧ ∀ e ∈ l, e < f → ∀ r, chk e = .ok r → elementHolds s t o.x e r.place))

/-- 07 R188: vpref completes and changes nothing that an agent can read. -/
def Claims.VectorPrefetch : Prop :=
  ∀ (s : State) (o : VMOps), vmReady s o [] → tyWidth o.ty.toNat ≤ ewBits s.me →
    ∃ t, exec (.vpref o) s = .next t ∧ memoryStands s t ∧ t.me.v = s.me.v ∧ t.me.s = s.me.s ∧ t.me.vstart = s.me.vstart
      ∧ t.me.vl = s.me.vl ∧ t.me.pc = following s.me

/-- Vector loads and prefetch (07 R177 to R182, R188). -/
def Obligations.VectorLoads : Prop := Claims.VectorLoads ∧ Claims.VectorPrefetch

/-- 07 R177, R179, R183: a vector store whose elements all resolve to memory. Where no later active element covers a byte
of an element, memory ends with that element's byte; every byte outside the elements stands, and no register changes. -/
def Obligations.VectorStores : Prop :=
  ∀ (s : State) (i : Instr) (o : VMOps) (rs : List Reg) (addr pl : Nat → Nat) (cl : Nat → PageClass),
    i.wellFormed = true → storeOf i s.me = some (o, rs, addr) → vmReady s o rs → tyWidth o.ty.toNat ≤ ewBits s.me →
    let l := active s.me o.mask.toNat
    let n := ewBytes s.me
    (∀ e ∈ l, check s (s.agent s.cur) .store (addr e) n = .ok ⟨.ram (pl e), cl e⟩) →
    ∃ t, exec i s = .next t
      ∧ (∀ e ∈ l, ∀ k, k < n → (∀ f ∈ l, e < f → pl e + k < pl f ∨ pl f + n ≤ pl e + k) →
          t.byte (pl e + k) = Tab.get 0 (s.me.vreg o.x.toNat) (n * e + k))
      ∧ (∀ a, (∀ e ∈ l, a < pl e ∨ pl e + n ≤ a) → t.byte a = s.byte a)
      ∧ (∀ h, h ≠ s.cur → t.hart h = s.hart h) ∧ accessKeeps s.me t.me ∧ t.me.v = s.me.v

/-- 07 R189: vamo on words that lie apart: each active element's word becomes op(old, source), and with SUB[4] the element
receives the old value. -/
def Claims.VectorAmo : Prop :=
  ∀ (s : State) (o : VMOps) (pl : Nat → Nat) (cl : Nat → PageClass), (Instr.vamo o).wellFormed = true →
    vmReady s o [o.x, o.z] → tyWidth o.ty.toNat = ewBits s.me →
    let l := active s.me o.mask.toNat
    let n := ewBytes s.me
    let op := o.sub.toNat % 16
    let src (e : Nat) : Nat := elem (s.me.vreg o.x.toNat) n e
    (∀ e ∈ l, check s (s.agent s.cur) .atomic (indexedAt s.me o e) n = .ok ⟨.ram (pl e), cl e⟩) → apart l pl n →
    ∃ t, exec (.vamo o) s = .next t
      ∧ (∀ e ∈ l, t.word (pl e) n = (atomicOp op n (s.word (pl e) n) (src e)).1 % 2 ^ (8 * n)
          ∧ elem (t.me.vreg o.x.toNat) n e = if o.sub.getLsbD 4 then s.word (pl e) n else src e)
      ∧ (∀ a, (∀ e ∈ l, a < pl e ∨ pl e + n ≤ a) → t.byte a = s.byte a) ∧ t.me.vstart = 0

/-- 07 R190 to R192: vlock on lock words that lie apart takes each word whose HELD is clear, and md says which this hart
holds, ms which others' owners are suspended; vunlock frees each word that this hart holds, and no other. -/
def Claims.Locks : Prop :=
  ∀ (s : State) (o : VMOps) (pl : Nat → Nat) (cl : Nat → PageClass), vmReady s o [o.z] → ewBits s.me = 64 →
    let l := active s.me o.mask.toNat
    let addr (e : Nat) := elem (s.me.vreg o.z.toNat) 8 e
    let w (e : Nat) : Nat := s.word (pl e) 8
    (∀ e ∈ l, check s (s.agent s.cur) .atomic (addr e) 8 = .ok ⟨.ram (pl e), cl e⟩) → apart l pl 8 →
    ((Instr.vlock o).wellFormed = true → ∃ t, exec (.vlock o) s = .next t
      ∧ (∀ e ∈ l, t.word (pl e) 8 = if bitOf (w e) 63 then w e else lockTaken s (w e) % 2 ^ 64)
      ∧ (∀ e ∈ l, o.x ≠ 0 → maskBit t.me o.x.toNat e = (!bitOf (w e) 63 || lockMine s (w e)))
      ∧ (∀ e ∈ l, o.sub ≠ 0 → maskBit t.me o.sub.toNat e
          = (bitOf (w e) 63 && !lockMine s (w e) && ownerSuspended s (w e)))
      ∧ (∀ a, (∀ e ∈ l, a < pl e ∨ pl e + 8 ≤ a) → t.byte a = s.byte a))
    ∧ ((Instr.vunlock o).wellFormed = true → ∃ t, exec (.vunlock o) s = .next t
      ∧ (∀ e ∈ l, t.word (pl e) 8 = if bitOf (w e) 63 && lockMine s (w e) then lockFreed (w e) else w e)
      ∧ (∀ a, (∀ e ∈ l, a < pl e ∨ pl e + 8 ≤ a) → t.byte a = s.byte a) ∧ t.me.m = s.me.m)

/-- Vector atomics and locks (07 R189 to R192). -/
def Obligations.VectorAtomics : Prop := Claims.VectorAmo ∧ Claims.Locks

/-- 07 R193, R195: stmap of a sound range adds one entry with no filled line; stwb cleans the dirty lines of the entry
named, and stunmap puts its filled lines into the scratchpad and removes it; both do nothing where none is named. -/
def Claims.Stashes : Prop :=
  ∀ (s : State) (o : VMOps), free s → quiet s → tokensReady s.me o.wait →
    let c := coreOf s.cur
    let sw := (s.context s.me.asid).swbase.toNat
    let x := (s.me.readS o.x).toNat
    let g := (s.me.readS o.y).toNat
    let n := (s.me.readS o.z).toNat
    (∀ pages, x % 128 = 0 → g % 128 = 0 → n % 128 = 0 → n ≠ 0 → n ≤ 524288 → sw ≤ x → x + n ≤ sw + 0x80000 →
      (s.core c).stash.length < 16 →
      (∀ e ∈ (s.core c).stash, rangesMeet (e.off, e.off + e.len) (x - sw, x - sw + n) = false
        ∧ rangesMeet (e.va.toNat, e.va.toNat + e.len) (g, g + n) = false) →
      stashProblem s (s.agent s.cur) g n = none → pagesOf s (s.agent s.cur) g n = .ok pages →
      ∃ t, exec (.stmap o) s = .next t ∧ memoryStands s t ∧ (t.core c).stash = (s.core c).stash
        ++ [⟨x - sw, BitVec.ofNat 64 g, n, !stashWritable s (s.agent s.cur) g n, pages.map some, []⟩])
    ∧ (∀ e, stashNamed s o = some e →
      (∃ t, exec (.stwb o) s = .next t ∧ memoryStands s t
        ∧ (t.core c).stash = (s.core c).stash.map fun f => if f.off = e.off then stashClean f else f)
      ∧ ∃ t, exec (.stunmap o) s = .next t ∧ t.mem = (stashSpill s c e).mem
        ∧ (t.core c).stash = (s.core c).stash.filter fun f => f.off != e.off)
    ∧ (stashNamed s o = none → ∀ i ∈ [Instr.stwb o, .stunmap o],
      ∃ t, exec i s = .next t ∧ memoryStands s t ∧ (t.core c).stash = (s.core c).stash)

/-- 07 R193: the traps of stmap, in the order of its checks, each with its EVAL; none changes the table. -/
def Claims.StashTraps : Prop :=
  ∀ (s : State) (o : VMOps) (c : Nat) (v : Word), free s → quiet s → o.wait = 0 → s.jobs = [] →
    let sw := (s.context s.me.asid).swbase.toNat
    let x := (s.me.readS o.x).toNat
    let g := (s.me.readS o.y).toNat
    let n := (s.me.readS o.z).toNat
    let table := (s.core (coreOf s.cur)).stash
    let aligned := x % 128 = 0 ∧ g % 128 = 0 ∧ n % 128 = 0 ∧ n ≠ 0 ∧ n ≤ 524288
    let inside := sw ≤ x ∧ x + n ≤ sw + 0x80000
    let room := table.length < 16 ∧ ∀ e ∈ table, rangesMeet (e.off, e.off + e.len) (x - sw, x - sw + n) = false
      ∧ rangesMeet (e.va.toNat, e.va.toNat + e.len) (g, g + n) = false
    (¬aligned ∧ c = 0x04 ∧ v = s.me.readS o.x
      ∨ aligned ∧ ¬(inside ∧ room) ∧ c = 0x09 ∧ v = s.me.readS o.x
      ∨ aligned ∧ inside ∧ room ∧ ∃ va, stashProblem s (s.agent s.cur) g n = some (c, va) ∧ v = BitVec.ofNat 64 va) →
    exec (.stmap o) s = .next (Machine.trap (s.setMe (acquireTokens s.me 0)) c v)

/-- 09 R236, R237: vldt through a tether of the hart gives each active element the bytes at its offset of the row; a
handle that the hart does not own takes trap 0x16, and a reopening one makes it wait. -/
def Claims.TetherLoads : Prop :=
  ∀ (s : State) (o : VMOps) (e : Tether) (pl : Nat → Resolved), (Instr.vldt o).wellFormed = true → vmReady s o [o.x] →
    tyWidth o.ty.toNat ≤ ewBits s.me → tetherAt s s.cur o.sub.toNat = some e →
    let l := active s.me o.mask.toNat
    let chk (k : Nat) := tetherCheck s e (ewBytes s.me) (unitAt s.me o k)
    (e.owner = s.cur → e.st ≠ .reopening → (∀ k ∈ l, chk k = .ok (pl k)) →
      ∃ t, exec (.vldt o) s = .next t ∧ (∀ k ∈ l, elementHolds s t o.x k (pl k).place) ∧ elementsStand s t o.x l
        ∧ accessKeeps s.me t.me ∧ memoryStands s t)
    ∧ (e.owner = s.cur → e.st = .reopening → ∃ t, exec (.vldt o) s = .next t ∧ t.me.run = .waiting .tether 0)
    ∧ (e.owner ≠ s.cur → s.me.mode = .user → (s.context s.me.asid).handler ≠ 0 →
      ∃ t, exec (.vldt o) s = .next t ∧ t.me.ecause = 0x16 ∧ t.me.eval = BitVec.ofNat 64 o.sub.toNat)

/-- 09 R236: vldt through a free handle takes trap 0x16. -/
def Claims.FreeTether : Prop :=
  ∀ (s : State) (o : VMOps), (Instr.vldt o).wellFormed = true → vmReady s o [o.x] → o.wait = 0 →
    tyWidth o.ty.toNat ≤ ewBits s.me → tetherAt s s.cur o.sub.toNat = none →
    exec (.vldt o) s = .next (Machine.trap (s.setMe (acquireTokens s.me 0)) 0x16 (BitVec.ofNat 64 o.sub.toNat))

/-- Stashes and loads through tethers (07 R193 to R196; 09 R236, R237). -/
def Obligations.StashesAndTetherLoads : Prop :=
  Claims.Stashes ∧ Claims.StashTraps ∧ Claims.TetherLoads ∧ Claims.FreeTether

/-! The tile array. -/

/-- 08 R199, R201, R202, R207, R208: claims report 0 for a free item, which becomes the hart's and all zero, 1 for its own
and 2 for another's, both left alone; releases free the hart's own item only, and aclr zeroes an owned bank. -/
def Claims.MatrixClaims : Prop :=
  ∀ (s : State) (o : VMOps), free s → s.me.conf ≠ none → o.x.toNat < 16 → o.sub.toNat < 2 →
    let c := coreOf s.cur
    let n := o.x.toNat
    let b := o.sub.toNat
    let slot := claimStatus s.cur (Tab.get none (s.core c).slotOwner n)
    let bank := claimStatus s.cur (Tab.get none (s.core c).bankOwner b)
    (∃ t, exec (.oclaim o) s = .next t ∧ (slot = 0 → ownsSlot t s.cur n = true ∧ Tab.get [] (t.core c).slots n = [])
      ∧ (slot ≠ 0 → t.core c = s.core c) ∧ memoryStands s t
      ∧ completes ((acquireTokens s.me 0).writeS o.y (BitVec.ofNat 64 slot)) t.me)
    ∧ (∃ t, exec (.aclaim o) s = .next t ∧ (bank = 0 → ownsBank t s.cur b = true ∧ Tab.get [] (t.core c).banks b = []
        ∧ Tab.get false (t.core c).bankOvf b = false)
      ∧ (bank ≠ 0 → t.core c = s.core c) ∧ memoryStands s t
      ∧ completes ((acquireTokens s.me 0).writeS o.y (BitVec.ofNat 64 bank)) t.me)
    ∧ (∃ t, exec (.orel o) s = .next t ∧ ownsSlot t s.cur n = false ∧ memoryStands s t
      ∧ (ownsSlot s s.cur n = false → t.core c = s.core c))
    ∧ (∃ t, exec (.arel o) s = .next t ∧ ownsBank t s.cur b = false ∧ memoryStands s t
      ∧ (ownsBank s s.cur b = false → t.core c = s.core c))
    ∧ (ownsBank s s.cur b = true → ∃ t, exec (.aclr o) s = .next t ∧ Tab.get [] (t.core c).banks b = []
      ∧ Tab.get false (t.core c).bankOvf b = false ∧ memoryStands s t)

/-- 08 R203, R204: oldv fills the rows of an owned slot from memory, the active rows alone. -/
def Claims.SlotLoads : Prop :=
  ∀ (s : State) (o : VMOps) (pl : Nat → Resolved), (Instr.oldv o).wellFormed = true → vmReady s o [] →
    s.me.vl ≤ (slotShape o.ty).1 → ownsSlot s s.cur o.x.toNat = true →
    let l := activeRows s.me o.mask.toNat
    let n := (slotShape o.ty).2
    (∀ r ∈ l, check s (s.agent s.cur) .load (vectorBase s.me o + BitVec.ofNat 64 r * s.me.readS o.z).toNat n = .ok (pl r)) →
    ∃ t, exec (.oldv o) s = .next t
      ∧ (∀ r ∈ l, ∀ k, k < n → Tab.get 0 (Tab.get [] (t.core (coreOf s.cur)).slots o.x.toNat) (n * r + k)
          = placeByte s (pl r).place k)
      ∧ (∀ k, (∀ r ∈ l, k < n * r ∨ n * r + n ≤ k) → Tab.get 0 (Tab.get [] (t.core (coreOf s.cur)).slots o.x.toNat) k
          = Tab.get 0 (Tab.get [] (s.core (coreOf s.cur)).slots o.x.toNat) k)
      ∧ t.me.vstart = 0 ∧ memoryStands s t

/-- Claims, releases and loads of slots and banks (08 R199 to R204, R207, R208). -/
def Obligations.MatrixStorage : Prop := Claims.MatrixClaims ∧ Claims.SlotLoads

/-- 08 R205; 12 R318: opa adds to each element of the active rows of a bank 3^p times the product of its row and column,
clamped to 48 bits less one value, OVF set by a clamp; every other element stands. -/
def Claims.TileProduct : Prop :=
  ∀ (s : State) (o : VMOps), (Instr.opa o).wellFormed = true → vmReady s o [] → s.me.vl ≤ 64 →
    ownsSlot s s.cur o.x.toNat = true → ownsSlot s s.cur o.y.toNat = true → ownsBank s s.cur (o.sub.toNat % 2) = true →
    let c := s.core (coreOf s.cur)
    let b := o.sub.toNat % 2
    let q := o.sub.toNat / 2
    let l := activeRows s.me o.mask.toNat
    let acc (r n : Nat) : Int := (Tab.get 0 (Tab.get [] c.banks b) (64 * r + n)).toInt
    let v (r n : Nat) : Int := acc r n + 3 ^ o.imm.toNat * tileSum (slotRow (Tab.get [] c.slots o.x.toNat) r)
      (tritColumn (Tab.get [] c.slots o.y.toNat) (64 * q + n))
    ∃ t, exec (.opa o) s = .next t
      ∧ (∀ r ∈ l, ∀ n, n < 64 → (Tab.get 0 (Tab.get [] (t.core (coreOf s.cur)).banks b) (64 * r + n)).toInt
          = max (-140737488355327) (min 140737488355327 (v r n)))
      ∧ (∀ k, k / 64 ∉ l → Tab.get 0 (Tab.get [] (t.core (coreOf s.cur)).banks b) k = Tab.get 0 (Tab.get [] c.banks b) k)
      ∧ (Tab.get false (t.core (coreOf s.cur)).bankOvf b = true ↔ Tab.get false c.bankOvf b = true
          ∨ ∃ r ∈ l, ∃ n, n < 64 ∧ (v r n < -140737488355327 ∨ 140737488355327 < v r n))
      ∧ t.me.vstart = 0 ∧ memoryStands s t

/-- 08 R209 to R211: axt writes the extracted value of each active index; asave writes the 24 KiB image of a bank to its
768 sectors, and aload reads one, −2^47 becoming −(2^47 − 1) with OVF set. -/
def Claims.BankMoves : Prop :=
  ∀ (s : State) (o : VMOps) (rm : Nat) (l : List Place),
    let b := o.sub.toNat % 2
    let bank := Tab.get [] (s.core (coreOf s.cur)).banks b
    ownsBank s s.cur b = true →
    ((Instr.axt o).wellFormed = true → vmReady s o [o.x, o.z] → 32 ≤ ewBits s.me → s.me.vl ≤ 64 →
      roundingMode s.me 0 = some rm →
      let x := s.me
      let w := tyWidth o.ty.toNat
      let v (e : Nat) := extractValue o.ty.toNat rm (Tab.get 0 bank (64 * (e / x.vl) + e % x.vl))
        (viewAt (x.vreg o.z.toNat) 32 (e % x.vl))
      ∃ t, exec (.axt o) s = .next t ∧ memoryStands s t ∧ t.me.vstart = 0
        ∧ (∀ e ∈ active x o.mask.toNat, viewAt (t.me.vreg o.x.toNat) w e = (v e).1 % 2 ^ w)
        ∧ (∀ e, e ∉ active x o.mask.toNat → viewAt (t.me.vreg o.x.toNat) w e = viewAt (x.vreg o.x.toNat) w e)
        ∧ t.me.fflags = x.fflags ||| unionFlags (active x o.mask.toNat) fun e => (v e).2)
    ∧ (free s → tokensReady s.me o.wait → imagePlaces s (s.agent s.cur) .store (s.me.readS o.y) = .ok l →
      let s' := touchImage (s.setMe (acquireTokens s.me o.wait)) .store (s.me.readS o.y)
      exec (.asave o) s = .next (finishWith ((List.zip l (List.range 768)).foldl (fun s e =>
        storePlace s e.1 (slice (bankImage bank) (32 * e.2) 32)) s') fun x => { x with vstart := 0 }))
    ∧ (free s → tokensReady s.me o.wait → imagePlaces s (s.agent s.cur) .load (s.me.readS o.y) = .ok l →
      let r := bankOfImage (l.flatMap fun p => readPlace s p 32)
      ∃ t, exec (.aload o) s = .next t ∧ Tab.get [] (t.core (coreOf s.cur)).banks b = r.1
        ∧ (Tab.get false (t.core (coreOf s.cur)).bankOvf b = true
          ↔ Tab.get false (s.core (coreOf s.cur)).bankOvf b = true ∨ r.2 = true) ∧ memoryStands s t)

/-- Products and moves of accumulator banks (08 R205 to R212; 12 R318). -/
def Obligations.MatrixBanks : Prop := Claims.TileProduct ∧ Claims.BankMoves

/-! Copies, streams, tokens and tethers. -/

/-- 09 R218 to R220, R225 to R227: a copy instruction whose token is not pending and whose ranges meet no problem
becomes a job behind the earlier ones, its token pending and nothing moved yet; a vcopy of no bytes is done at once, and a
pending token takes trap 0x15. vcopy.job takes its kind, ranges, status word and barrier from its descriptor, a bad one or
one of a context without remote access being refused with its status, to move nothing. -/
def Obligations.CopyIssue : Prop :=
  ∀ (s : State) (o : VMOps) (src dst : List (Place × Nat)) (ps : List Piece), free s → tokensReady s.me o.wait →
    let k := o.sub.toNat % 8
    let a := s.agent s.cur
    let d := (s.me.readS o.x).toNat
    let f := (s.me.readS o.y).toNat
    let n := (s.me.readS o.z).toNat
    let issued (t : State) (kind : JobKind) : Prop := t.me.token k = .pending (s.keel.accepted + 1)
      ∧ t.keel.accepted = s.keel.accepted + 1 ∧ memoryStands s t ∧ ∃ j, t.jobs = s.jobs ++ [j]
      ∧ j.id = s.keel.accepted + 1 ∧ j.hart = s.cur ∧ j.asid = s.me.asid ∧ j.token = k ∧ j.kind = kind ∧ j.moved = 0
      ∧ j.started = false
    ((∀ id, s.me.token k ≠ .pending id) →
      (n = 0 → ∃ t, exec (.vcopy o) s = .next t ∧ t.me.token k = .done 0 ∧ t.jobs = s.jobs ∧ memoryStands s t)
      ∧ (1 ≤ n → n ≤ 16777216 → rangeOf s a .load f n = .ok src → rangeOf s a .store d n = .ok dst →
        (spanOf f n).meets (spanOf d n) = false →
        ∃ t, exec (.vcopy o) s = .next t ∧ issued t .copy ∧ (t.jobs.getLast?.map fun j => (j.pieces, j.total))
          = some (copyPieces src dst, n))
      ∧ (vregsOk s.me [o.z] = true → 32 ≤ ewBits s.me →
        let c := o.imm.toNat
        let ix (i : Nat) : Int := signed (ewBits s.me) (elem (s.me.vreg o.z.toNat) (ewBytes s.me) i)
        let from_ (i : Nat) : Int := if o.sub.getLsbD 3 then f + (i : Int) * c else f + ix i
        let to_ (i : Nat) : Int := if o.sub.getLsbD 3 then d + ix i else d + (i : Int) * c
        let l := active s.me o.mask.toNat
        l ≠ [] → chunkPieces s a c from_ to_ l = .ok ps →
        (chunkSpan c (l.map from_)).meets (chunkSpan c (l.map to_)) = false →
        ∃ t, exec (.vcopyx o) s = .next t ∧ issued t .copy ∧ t.me.vstart = 0
          ∧ (t.jobs.getLast?.map fun j => (j.pieces, j.total)) = some (ps, l.length * c))
      ∧ ∀ (l : Nat) (c e : PageClass) (st : Place) (g : List (Place × Nat)) (pb : Option Nat),
        check s a .load f 64 = .ok ⟨.ram l, c⟩ →
        let b := readPlace s (.ram l) 64
        let s' := touch s a .load f
        let result := jdStatus s s.me b (!isCollective b || rankIsOwn s b g)
        check s' a .store (field b 48 8) 4 = .ok ⟨st, e⟩ →
        tablePlaces s' a (groupTable b).1 (groupTable b).2 = .ok g →
        rangesOf s' a .load (jdRanges s b).1 = .ok src → rangesOf s' a .store (jdRanges s b).2 = .ok dst →
        jdBarrier s' b = .ok pb →
        (localJob s b && (spanOf (jdSrc b) (jdLen b)).meets (spanOf (jdDst b) (jdLen b))) = false →
        ∃ t, exec (.vcopyJob o) s = .next t ∧ issued t (jdKind s b)
          ∧ (t.jobs.getLast?.map fun j => (j.pieces, j.total, j.status, j.pbar, j.result, j.desc))
            = some (if result = 0 then jdPieces s b src dst else [], jdTotal s b, some st, pb, result, b))
    ∧ ((∃ id, (acquireTokens s.me o.wait).token k = .pending id) → s.me.mode = .user →
      (s.context s.me.asid).handler ≠ 0 → ∀ i,
        (i = .vcopy o ∨ i = .vcopyJob o ∨ i = .vcopyx o ∧ vregsOk s.me [o.z] = true ∧ 32 ≤ ewBits s.me) →
        ∃ t, exec i s = .next t ∧ t.me.ecause = 0x15 ∧ t.me.eval = BitVec.ofNat 64 k ∧ t.me.vstart = 0 ∧ t.jobs = s.jobs)

/-- 09 R221, R222, R227; 14 R369: a started job that waits for nothing moves its bytes and ends. A local copy of one run
leaves the destination with the bytes the source held, its token done with the length and the job gone; a remote job that
waits for nothing and has no answer ends with UNREACHABLE, a collective too, and a collective without its members with TIMEOUT,
in the status word, once the stacks that it needs are ready (17 R440). -/
def Obligations.CopyProgress : Prop :=
  ∀ (s : State) (j : Job) (src dst n : Nat), jobAt s j.id = some j → (∀ e ∈ s.jobs, e.id = j.id → e = j) →
    j.pbar = none → j.ahead = [] → j.early = [] → j.behind = [] → s.taint = [] → (s.hart j.hart).token j.token = .pending j.id →
    (j.kind = .copy → j.result = 0 → j.pieces = [⟨some (.ram src), .ram dst, j.total⟩] → j.status = none →
      src + j.total ≤ dst ∨ dst + j.total ≤ src →
      (∀ m, m ≤ j.total → placeReady s j.core (.ram src) m = true ∧ placeReady s j.core (.ram dst) m = true) →
      (j.started = false → channelFree s j = true →
        jobWaits (setJob s { j with started := true }) { j with started := true } = false → j.moved = 0 → n ≤ j.total →
        ∃ t, exec (.jobStart j.id n) s = .next t ∧ jobAt t j.id = some { j with started := true, moved := n }
          ∧ (∀ k, k < n → t.byte (dst + k) = s.byte (src + k))
          ∧ ∀ a, a < dst ∨ dst + n ≤ a → t.byte a = s.byte a)
      ∧ (j.started = true → jobWaits s j = false → j.moved = 0 →
        ∃ t, exec (.jobComplete j.id) s = .next t ∧ (t.hart j.hart).token j.token = .done j.total ∧ jobAt t j.id = none
          ∧ (∀ k, k < j.total → t.byte (dst + k) = s.byte (src + k))
          ∧ ∀ a, a < dst ∨ dst + j.total ≤ a → t.byte a = s.byte a))
    ∧ (∀ l, j.status = some (.ram l) → placeReady s j.core (.ram l) 4 = true → j.started = true → j.result = 0 →
      jobWaits s j = false → jdLen j.desc ≠ 0 →
      (j.kind ≠ .copy → ∃ t, exec (.remoteAccessTimeout j.id) s = .next t
        ∧ t.word l 4 = 0x30000 ∧ (t.hart j.hart).token j.token = .done j.total ∧ jobAt t j.id = none)
      ∧ (j.kind = .allreduce ∨ j.kind = .allgather → ∃ t, exec (.collectiveJoinTimeout j.id) s = .next t
        ∧ t.word l 4 = 0x50000 ∧ (t.hart j.hart).token j.token = .done j.total ∧ jobAt t j.id = none))

/-- 15 R392, R393: a remote write that a binding permits lands in the local context's memory; one without a binding, or
with a problem, changes nothing here; while a stack that it needs is not ready it is kept and changes nothing yet (17 R440). -/
def Claims.RemoteAccess : Prop :=
  ∀ (s : State) (r : RemoteRequest),
    (bindingFor s r.devid r.srcAsid = none → exec (.remoteAccessReceived r) s = .next s)
    ∧ (∀ c, remoteAnswer s r = .error c → c ≠ stackHeld → exec (.remoteAccessReceived r) s = .next s)
    ∧ (remoteAnswer s r = .error stackHeld → exec (.remoteAccessReceived r) s
      = .next { s with hub := { s.hub with remotes := s.hub.remotes ++ [r] } })
    ∧ (r.write = false → ∃ t, exec (.remoteAccessReceived r) s = .next t ∧ t.mem = s.mem ∧ t.harts = s.harts)
    ∧ ∀ w l, r.write = true → bindingFor s r.devid r.srcAsid = some w →
      w.getLsbD 62 = true → (s.context (w.toNat / 2 ^ 38 % 2 ^ 16)).dying = false →
      rangeOf s ⟨w.toNat / 2 ^ 38 % 2 ^ 16, .user, none⟩ .store r.va.toNat r.bytes.length
        = .ok [(.ram l, r.bytes.length)] → placeReady s none (.ram l) r.bytes.length = true →
      ∃ t, exec (.remoteAccessReceived r) s = .next t ∧ (∀ i, i < r.bytes.length → t.byte (l + i) = r.bytes.getD i 0)
        ∧ (∀ a, a < l ∨ l + r.bytes.length ≤ a → t.byte a = s.byte a) ∧ t.harts = s.harts

/-- 09 R231; 11 R281: a stream access through a handle of the running packet, with no deleted intermediate, moves the
active elements of the strip at their stencil addresses and advances the cursor by T. -/
def Claims.Streams : Prop :=
  ∀ (s : State) (o : VMOps) (p : Strip) (j : Nat), vmReady s o [o.x] →
    let h := (s.me.readS o.y).toNat
    let c := Tab.get 0 s.me.cursors h
    let n := ewBytes s.me
    let l := streamActive s.me p h o.mask.toNat
    deletedOf p h = none →
    (streamSlot s (s.me.readS o.y) 0 = .ok (p, j) → s.me.gang = none → s.me.gangFeed = [] →
      ∀ pl : Nat → Resolved, (∀ e ∈ l, check s (s.agent s.cur) .load (streamAddr p j (c + e)) n = .ok (pl e)) →
      ∃ t, exec (.vstrm o) s = .next t ∧ (∀ e ∈ l, elementHolds s t o.x e (pl e).place) ∧ elementsStand s t o.x l
        ∧ Tab.get 0 t.me.cursors h = c + tiles s.me ∧ accessKeeps s.me t.me ∧ memoryStands s t)
    ∧ (streamSlot s (s.me.readS o.y) 1 = .ok (p, j) → ∀ (pl : Nat → Nat) (cl : Nat → PageClass),
      (∀ e ∈ l, check s (s.agent s.cur) .store (streamAddr p j (c + e)) n = .ok ⟨.ram (pl e), cl e⟩) → apart l pl n →
      ∃ t, exec (.vstrmx o) s = .next t
        ∧ (∀ e ∈ l, ∀ k, k < n → t.byte (pl e + k) = Tab.get 0 (s.me.vreg o.x.toNat) (n * e + k))
        ∧ (∀ a, (∀ e ∈ l, a < pl e ∨ pl e + n ≤ a) → t.byte a = s.byte a)
        ∧ Tab.get 0 t.me.cursors h = c + tiles s.me ∧ accessKeeps s.me t.me)

/-- Streams, and accesses from other devices (09 R231; 11 R281; 15 R392, R393). -/
def Obligations.StreamsAndRemoteAccess : Prop := Claims.Streams ∧ Claims.RemoteAccess

/-- 03 R75, R76; 09 R222, R223, R233 to R238: waitk waits for its tokens and makes them idle; cwp reads how far a job has
come; topen, trel and tstat act on the core's handles as their owner may; a refresh makes the held tethers of a row
reopening, and its reopening holds them again. -/
def Obligations.TokensAndTethers : Prop :=
  ∀ (s : State) (set : BitVec 8) (d a : Reg) (k : BitVec 3) (row : Nat), free s →
    let e := tetherAt s s.cur k.toNat
    (tokensReady s.me set → ∃ t, exec (.waitk set) s = .next t ∧ memoryStands s t
      ∧ ∀ i, t.me.token i = if set.getLsbD i then .idle else s.me.token i)
    ∧ (¬tokensReady s.me set → exec (.waitk set) s = .next (waitAt s .tokens 0))
    ∧ exec (.cwp d k) s = .next (finishWith s fun x => x.writeS d (BitVec.ofNat 64 (writePointer s (s.me.token k.toNat))))
    ∧ (∀ r, tetherRow s (s.agent s.cur) (s.me.readS a).toNat = .ok r →
      let s' := touch s (s.agent s.cur) .load (s.me.readS a).toNat
      let st := rowStatus s.plate (heldRows (setTether s' s.cur k.toNat none)) r
      ((∃ w, e = some w ∧ w.owner ≠ s.cur) →
        exec (.topen d a k) s = .next (finishWith s' fun x => x.writeS d 2))
      ∧ ((∀ w, e = some w → w.owner = s.cur) → ∃ t, exec (.topen d a k) s = .next t
        ∧ tetherAt t s.cur k.toNat
          = (if st = 0 then some ⟨s.cur, (s.me.readS a >>> 10) <<< 10, r, .held⟩ else tetherAt s s.cur k.toNat)
        ∧ completes (s.me.writeS d (BitVec.ofNat 64 st)) t.me ∧ memoryStands s t))
    ∧ (∃ t, exec (.trel k) s = .next t ∧ ownsTether t s.cur k.toNat = false ∧ memoryStands s t
      ∧ ∀ i, i ≠ k.toNat ∨ ownsTether s s.cur k.toNat = false → tetherAt t s.cur i = tetherAt s s.cur i)
    ∧ exec (.tstat d k) s = .next (finishWith s fun x => x.writeS d (match e with
      | some w => if w.owner = s.cur then (w.va >>> 10) <<< 10 ||| tetherCode w.st else 0
      | none => 0))
    ∧ (∃ t, exec (.refreshCloseRow row) s = .next t ∧ ∀ h i, tetherAt t h i = (tetherAt s h i).map fun w =>
        if w.row = row ∧ w.st = .held then { w with st := .reopening } else w)
    ∧ ∃ t, exec (.tetherReopened row) s = .next t ∧ ∀ h i, tetherAt t h i = (tetherAt s h i).map fun w =>
        if w.row = row ∧ w.st = .reopening then { w with st := .held } else w

/-! Spools. -/

/-- 10 R254, R259: one element reserved, written and committed in a block that passes its checks, its slot in memory
apart from the block and no threshold set: TAIL and UNNOT rise by one, FREE falls by one, RESVD stands, the slot holds
the element and no other byte changes. A taking reads the slot at HEAD, and HEAD and FREE rise by one. -/
def Claims.SpoolQueue : Prop :=
  ∀ (s : State) (q : Nat) (e : List Byte) (pl : Nat → Nat),
    let b := qcbRead s q
    let n := qEsize b
    let l := (List.range (n / 4)).map fun k => Place.ram (pl k)
    qcbOk b = true → qcbSpoiled s q = false → e.length = n → apart (List.range (n / 4)) pl 4 → (∀ k, k < n / 4 → pl k + 4 ≤ q ∨ q + 64 ≤ pl k) →
    (1 ≤ qFree b → qResvd b < 2 ^ 32 - 1 → qUnnot b < 2 ^ 32 - 1 → field b 38 2 = 0 →
      slotPlaces (qcbWrite s q (setField (setField (setField b 8 8 (qTail b + 1)) 24 4 (qFree b - 1)) 28 4 (qResvd b + 1)))
        b .store (qTail b) = .ok l →
      ∃ t, enqueue s q [e] = (t, .ok (qTail b))
        ∧ qTail (qcbRead t q) = (qTail b + 1) % 2 ^ 64 ∧ qHead (qcbRead t q) = qHead b
        ∧ qFree (qcbRead t q) = qFree b - 1 ∧ qResvd (qcbRead t q) = qResvd b ∧ qUnnot (qcbRead t q) = qUnnot b + 1
        ∧ field (qcbRead t q) 62 2 = qcbCheck (qcbRead t q)
        ∧ (∀ k, k < n → t.byte (pl (k / 4) + k % 4) = e.getD k 0)
        ∧ ∀ a, (a < q ∨ q + 64 ≤ a) → (∀ k, k < n / 4 → a < pl k ∨ pl k + 4 ≤ a) → t.byte a = s.byte a)
    ∧ (slotPlaces (qcbWrite s q (setField b 0 8 (qHead b + 1))) b .load (qHead b) = .ok l → qFree b < 2 ^ 32 - 1 →
      ∃ t, dequeue s q 1 = (t, .ok [(List.range n).map fun k => s.byte (pl (k / 4) + k % 4)])
        ∧ qHead (qcbRead t q) = (qHead b + 1) % 2 ^ 64 ∧ qTail (qcbRead t q) = qTail b
        ∧ qFree (qcbRead t q) = qFree b + 1 ∧ ∀ a, a < q ∨ q + 64 ≤ a → t.byte a = s.byte a)

/-- 10 R258 to R263: the spool instructions on a block that passes its checks. When the spool can serve it, enq and deq
complete with the queue operation done, enqt and deqt also set pj; when it cannot, enq and deq wait at the spool, and the
try forms clear pj at once. The vector forms move the active elements in order. -/
def Claims.SpoolInstructions : Prop :=
  ∀ (s : State) (v d a z : Reg) (p m : BitVec 3) (code : BitVec 4) (q : Nat), free s →
    spoolBlock s (s.me.readS a).toNat = .ok q →
    let s' := touch s (s.agent s.cur) .store (s.me.readS a).toNat
    let waits (i : Instr) : Prop := ∃ t, exec i s = .next t ∧ memoryStands s t
      ∧ t.me = { s.me with run := .waiting (.spool q) (s.me.readS a) }
    (∀ e, enqElement s' q v z = .ok e →
      (canReserve s' q 1 = true → slotsHeld s' q .store (qTail (qcbRead s' q)) 1 = false →
        ∀ t i, enqueue (elementUsed s' .load q z) q [e] = (t, .ok i) →
        exec (.enq v a z code) s = .next (finishWith (served t) id)
          ∧ (tryAllowed s = true → exec (.enqt v a z p) s = .next (finishWith (served t) fun x => setPred x p true)))
      ∧ (canReserve s' q 1 = false → waits (.enq v a z code)
          ∧ (tryAllowed s = true → exec (.enqt v a z p) s = .next (finishWith s' fun x => setPred x p false))))
    ∧ (∀ l, deqPlaces s' q z = .ok l →
      (canTake s' q 1 = true → slotsHeld s' q .load (qHead (qcbRead s' q)) 1 = false →
        ∀ t e, dequeue (elementUsed s' .store q z) q 1 = (t, .ok e) →
        (qEsize (qcbRead s' q) ≤ 8 →
          exec (.deq d a z code) s = .next (finishWith (served t) fun x => x.writeS d (leWord (e.headD [])))
            ∧ (tryAllowed s = true → exec (.deqt d a z p) s
              = .next (finishWith (served t) fun x => setPred (x.writeS d (leWord (e.headD []))) p true)))
        ∧ (8 < qEsize (qcbRead s' q) →
          exec (.deq d a z code) s = .next (finishWith (served (writeWords t l 4 (e.headD []))) id)
            ∧ (tryAllowed s = true → exec (.deqt d a z p) s
              = .next (finishWith (served (writeWords t l 4 (e.headD []))) fun x => setPred x p true))))
      ∧ (canTake s' q 1 = false → waits (.deq d a z code)
          ∧ (tryAllowed s = true → exec (.deqt d a z p) s = .next (finishWith s' fun x => setPred x p false))))
    ∧ (s.me.conf ≠ none → v.toNat < vCount s.me → qEsize (qcbRead s' q) = ewBytes s.me →
      let l := active s.me m.toNat
      l ≠ [] → l.length ≤ qCap (qcbRead s' q) →
      (canReserve s' q l.length = true → slotsHeld s' q .store (qTail (qcbRead s' q)) l.length = false → ∀ t i,
        enqueue s' q (l.map fun e => Tab.bytes (s.me.vreg v.toNat) (ewBytes s.me * e) (ewBytes s.me)) = (t, .ok i) →
        exec (.venq v a m code) s = .next (finishWith (served t) fun x => { x with vstart := 0 }))
      ∧ (canTake s' q l.length = true → slotsHeld s' q .load (qHead (qcbRead s' q)) l.length = false →
        ∀ t e, dequeue s' q l.length = (t, .ok e) →
        exec (.vdeq v a m code) s = .next (finishWith (served t) fun x =>
          { (x.setVreg v.toNat ((List.zip l e).foldl (fun y f => Tab.putBytes y (ewBytes s.me * f.1) f.2)
            (s.me.vreg v.toNat))).cleanV v.toNat l with vstart := 0 }))
      ∧ (canReserve s' q l.length = false → waits (.venq v a m code))
      ∧ (canTake s' q l.length = false → waits (.vdeq v a m code)))

/-- 10 R257, R263: qinit writes the block that its template gives, with CHECK current and its latches 0, and nothing else
in memory; a template that is not valid takes trap 0x0D. qstat writes POISON, FREE and FILL of a sound block. -/
def Claims.SpoolBlocks : Prop :=
  ∀ (s : State) (d a t : Reg) (q : Nat), free s → spoolAddress s (s.me.readS a).toNat = .ok q →
    (∀ l, wordPlaces s (s.agent s.cur) .load 8 (s.me.readS t).toNat 8 = .ok l →
      (templateOk (readWords s l 8) = true → ∃ u, exec (.qinit a t) s = .next u
        ∧ qcbRead u q = qcbSeal (freshBlock (readWords s l 8) s.me.asid)
        ∧ (∀ k, k < q ∨ q + 64 ≤ k → u.byte k = s.byte k)
        ∧ Tab.get 0 u.hub.latches (latchKey q) = 0 ∧ Tab.get 0 u.hub.latches (latchKey q + 1) = 0
        ∧ (∀ e ∈ u.keel.spools, e.qcb = q → e.next = 0 ∧ e.stopped = false)
        ∧ u.me = arrive s.me (following s.me))
      ∧ (templateOk (readWords s l 8) = false → exec (.qinit a t) s = .next (Machine.trap s 0x0D (s.me.readS a))))
    ∧ (qcbSpoiled s q = false → qOwner (qcbRead s q) = s.me.asid → qcbOk (qcbRead s q) = true → ∃ u, exec (.qstat d a) s = .next u
        ∧ memoryStands s u ∧ completes (s.me.writeS d (BitVec.ofNat 64
            (qFree (qcbRead s q) % 2 ^ 25 * 2 ^ 32 + qFill (qcbRead s q) % 2 ^ 25))) u.me)

/-- 10 R259, R264, R265; 01 R35; 17 R426: steps of a spool's home. A reservation or taking that waits alone is granted
once it can be; a tail latch store that nothing holds raises TAIL to the greatest value stored and moves FREE and UNNOT with
it, a head latch store raises HEAD to its value, no further than TAIL; the delayed MSI is stored at its address and clears
UNNOT. -/
def Claims.SpoolHome : Prop :=
  ∀ (s : State) (q h : Nat) (pa : Nat) (w : Word),
    let b := qcbRead s q
    let s0 := { s with cur := h }
    let new := max (Tab.get 0 s.hub.latches (pa / 8)).toNat w.toNat
    (∀ v a z code r e t i, s.requests.filter (fun r => decide (r.loc = q) && r.taking == false && r.count != 0) = [r] →
      r.hart = h → waitingInstr (s.hart h) = some (.enq v a z code) → (s.hart h).chain = none →
      spoolBlock s0 (s0.me.readS a).toNat = .ok q →
      enqElement (touch s0 (s0.agent h) .store (s0.me.readS a).toNat) q v z = .ok e →
      canReserve (touch s0 (s0.agent h) .store (s0.me.readS a).toNat) q 1 = true →
      slotsHeld (touch s0 (s0.agent h) .store (s0.me.readS a).toNat) q .store (qTail b) 1 = false →
      enqueue (elementUsed (touch s0 (s0.agent h) .store (s0.me.readS a).toNat) .load q z) q [e] = (t, .ok i) →
      exec (.spoolReservationGrant q) s = .next { finishWith (served t) id with cur := s.cur })
    ∧ (∀ d a z code r e t, s.requests.filter (fun r => decide (r.loc = q) && r.taking == true && r.count != 0) = [r] →
      r.hart = h → waitingInstr (s.hart h) = some (.deq d a z code) → (s.hart h).chain = none →
      spoolBlock s0 (s0.me.readS a).toNat = .ok q →
      qEsize (qcbRead (touch s0 (s0.agent h) .store (s0.me.readS a).toNat) q) ≤ 8 →
      canTake (touch s0 (s0.agent h) .store (s0.me.readS a).toNat) q 1 = true →
      slotsHeld (touch s0 (s0.agent h) .store (s0.me.readS a).toNat) q .load (qHead b) 1 = false →
      dequeue (elementUsed (touch s0 (s0.agent h) .store (s0.me.readS a).toNat) .store q z) q 1 = (t, .ok e) →
      exec (.spoolTakingGrant q) s
        = .next { finishWith (served t) (fun x => x.writeS d (leWord (e.headD []))) with cur := s.cur })
    ∧ (0x20000000000 ≤ pa → pa < 0x23000000000 → q = (pa - 0x20000000000) / 16 * 64 → qcbOk b = true →
      qcbSpoiled s q = false → doorbellHeld s q = false →
      (pa % 16 = 0 → bitOf (qStat b) 1 = true ∨ (lspoolAt s q).isSome = true → qTail b < new →
        new ≤ qCap b + qHead b → new - qTail b ≤ qFree b → qUnnot b + (new - qTail b) < 2 ^ 32 → field b 38 2 = 0 →
        ∃ t, exec (.doorbellStore pa w) s = .next t ∧ qTail (qcbRead t q) = new
          ∧ qFree (qcbRead t q) = qFree b - (new - qTail b) ∧ qUnnot (qcbRead t q) = qUnnot b + (new - qTail b)
          ∧ Tab.get 0 t.hub.latches (pa / 8) = BitVec.ofNat 64 new ∧ ∀ k, k < q ∨ q + 64 ≤ k → t.byte k = s.byte k)
      ∧ (pa % 16 = 8 → bitOf (qStat b) 1 = true →
        ∃ t, exec (.headLatchStore pa w) s = .next t ∧ qHead (qcbRead t q) = max (qHead b) (min w.toNat (qTail b))
          ∧ qTail (qcbRead t q) = qTail b ∧ Tab.get 0 t.hub.latches (pa / 8) = BitVec.ofNat 64 new
          ∧ ∀ k, k < q ∨ q + 64 ≤ k → t.byte k = s.byte k))
    ∧ ∀ l, field b 62 2 = qcbCheck b → qcbSpoiled s q = false → field b 40 2 ≠ 0 → qUnnot b ≠ 0 → field b 48 8 % 4 = 0 →
      s.hub.msiLag = false → (∀ m ∈ s.hub.msis, m.1 ≠ q) →
      placeOf s (field b 48 8) = some (.ram l) → stackReady s l = true → l + 4 ≤ q ∨ q + 64 ≤ l →
      ∃ t, exec (.spoolNotifyDelay q) s = .next t ∧ qUnnot (qcbRead t q) = 0 ∧ t.word l 4 = field b 44 4

/-- Spools (10 R254 to R265). -/
def Obligations.SpoolElementsInAndOut : Prop :=
  Claims.SpoolQueue ∧ Claims.SpoolInstructions ∧ Claims.SpoolBlocks ∧ Claims.SpoolHome

/-! Tasks, jobs and bodies. -/

/-- 10 R267 to R269; 14 R362: spawn enters the record at sr in its cluster's task spool and raises the join counter by one,
or waits while the spool is full or another spawn has waited longer; joinw completes when the counter reads 0 and waits otherwise. -/
def Claims.Tasks : Prop :=
  ∀ (s : State) (r : Reg) (p : Resolved), free s → s.me.run = .running →
    let a := s.agent s.cur
    let va := (s.me.readS r).toNat
    (spliced s s.me = false → waitCheck s a va 32 = .ok p → ∀ j c,
      let k := taskOf s (readPlace s p.place 32)
      let s' := tagAt (touch (noteRead s (.ok p)) a .load va) s.me p.place
      check s' a .atomic k.join.toNat 8 = .ok ⟨.ram j, c⟩ → s.word j 8 < 2 ^ 32 - 1 → k.gen ≤ s.me.gen →
      (spawnBlocked s = false → ∃ t, exec (.spawn r) s = .next t
        ∧ (t.cluster (clusterOf s.cur)).tasks = (s.cluster (clusterOf s.cur)).tasks ++ [k]
        ∧ t.word j 8 = s.word j 8 + 1 ∧ (∀ b, b < j ∨ j + 8 ≤ b → t.byte b = s.byte b)
        ∧ t.me = arrive s.me (following s.me) ∧ ∀ h, h ≠ s.cur → t.hart h = s.hart h)
      ∧ (spawnBlocked s = true → ∃ t, exec (.spawn r) s = .next t
        ∧ t.me = { s.me with run := .waiting .spawn 0 } ∧ memoryStands s t ∧ s.cur ∈ (t.cluster (clusterOf s.cur)).spawners))
    ∧ (spawnBlocked s = true ↔ 4096 ≤ (s.cluster (clusterOf s.cur)).tasks.length
      ∨ ∃ h, (s.cluster (clusterOf s.cur)).spawners.head? = some h ∧ h ≠ s.cur)
    ∧ ∀ l c, waitCheck s a va 8 = .ok ⟨.ram l, c⟩ → ¬(0x40000000000 ≤ l ∧ l < 0x50000000000) →
      ∃ t, exec (.joinw r) s = .next t ∧ memoryStands s t
        ∧ t.me = if s.word l 8 = 0 then arrive s.me (following s.me)
            else { s.me with run := .waiting (.join l false) (s.me.readS r) }

/-- 10 R270 to R272; 14 R372: launch writes the packet at sp into a slot of a spool and gives its index, or all ones on a
full spool; jstat reads the state of a job; cancel ends a job that has not been dispatched with CANCELLED, and leaves a
completed one alone. -/
def Claims.Jobs : Prop :=
  ∀ (s : State) (d q p : Reg), free s →
    let a := s.agent s.cur
    (∀ l k, spliced s s.me = false → wordPlaces s a .load 64 (s.me.readS p).toNat 2 = .ok l →
      let s1 := useWords s .load 64 (s.me.readS p).toNat l
      spoolBlock s1 (s.me.readS q).toNat = .ok k →
      let s2 := touch s1 a .store (s.me.readS q).toNat
      (canReserve s2 k 1 = false → exec (.launch d q p) s = .next (finishWith s2 fun x => x.writeS d (BitVec.allOnes 64)))
      ∧ ∀ t i, canReserve s2 k 1 = true → slotsHeld s2 k .store (qTail (qcbRead s2 k)) 1 = false →
        enqueue s2 k [slice (readWords s l 64) 0 (qEsize (qcbRead s2 k))] = (t, .ok i) →
        exec (.launch d q p) s = .next (finishWith t fun x => x.writeS d (BitVec.ofNat 64 i)))
    ∧ (∀ j, jobNamed s q p = .ok j →
      exec (.jstat d q p) s = .next (finishWith (touchJob s q) fun x => x.writeS d (jstatWord s j))
      ∧ (j = none → jstatWord s j = 3 ∧ exec (.cancel q p) s = .next (finish (touchJob s q)))
      ∧ ∀ k, j = some k →
        (k.phase = .window → k.gen = 0 → jstatWord s j = 0) ∧ (k.phase = .dispatched → k.gen = 0 → jstatWord s j = 1)
        ∧ (k.phase = .done → packetOpen s k = false → k.gen = 0 → k.status = some 0 → jstatWord s j = 2)
        ∧ (k.phase = .completing ∨ k.phase = .done → s.packet k.id = some k →
          exec (.cancel q p) s = .next (finish (touchJob s q)))
        ∧ (k.phase = .window → k.partner = none → k.status = none → s.packet k.id = some k →
          ∃ t, exec (.cancel q p) s = .next t ∧ (∀ h, h ≠ s.cur → t.hart h = s.hart h)
            ∧ (t.packet k.id).map (fun k => (k.phase, k.gen, k.status))
              = some (if k.hasWords then .completing else .done, k.gen + 1, some 0x30000)))

/-- 02 R41, R45; 10 R273, R274: next enters the following strip of its hart group with s1, s2 and WID changed and every
loop ended, or retires the hart, of which the Keel is told; yield does nothing while no other work waits. -/
def Claims.Bodies : Prop :=
  ∀ (s : State) (p : Packet) (id g2 g3 g4 g5 k : Nat), free s →
    (s.me.work = .group id g2 g3 g4 g5 k → s.packet id = some p → p.partner = none →
      (stoppedAt s (clusterOf s.cur) id = false → k + 1 < p.ext 1 →
        let w := p.wid [0, k + 1, g2, g3, g4, g5]
        ∃ t, exec .next s = .next t ∧ onlyMe s t ∧ t.me.pc = p.desc.entry ∧ t.me.wid = w ∧ t.me.readS 1 = w
          ∧ t.me.readS 2 = BitVec.ofNat 64 (p.stripCount (k + 1)) ∧ (∀ r : Reg, r ≠ 1 → r ≠ 2 → t.me.readS r = s.me.readS r)
          ∧ t.me.f = s.me.f ∧ t.me.v = s.me.v ∧ t.me.lc0.busy = false ∧ t.me.lc1.busy = false
          ∧ t.me.work = .group id g2 g3 g4 g5 (k + 1))
      ∧ (p.ext 1 ≤ k + 1 → gridStarted p g5 = true → jobsOf s s.cur = [] → s.me.scalarQueue = [] → s.me.vectorQueue = [] →
        let told (s : State) : List Report := (s.cluster (clusterOf s.cur)).reports ++ (s.cluster (clusterOf s.cur)).outbox
        ∃ t, exec .next s = .next t ∧ t.hart s.cur = {} ∧ told t = told s ++ [.retired id]
          ∧ (∀ i, ownsSlot t s.cur i = false ∧ (∀ w, tetherAt t s.cur i = some w → w.owner ≠ s.cur))
          ∧ ∀ a, t.byte a = s.byte a)
      ∧ (p.ext 1 ≤ k + 1 → jobsOf s s.cur ≠ [] →
        ∃ t, exec .next s = .next t ∧ t.me = { s.me with run := .waiting .drain 0 } ∧ memoryStands s t))
    ∧ ((s.cluster (clusterOf s.cur)).queue = [] → (s.cluster (clusterOf s.cur)).tasks = [] →
      exec .yield s = .next (finish s))

/-- Tasks, jobs and the ends of bodies (10 R267 to R274; 02 R45). -/
def Obligations.TasksAndJobs : Prop := Claims.Tasks ∧ Claims.Jobs ∧ Claims.Bodies

/-! The Keel and the Gondolas. -/

/-- 02 R46 to R51; 11 R280, R294: the Keel takes the element at a launch spool's next index as a packet; one that breaks the
header's rules completes with BADHDR and never runs, one that passes them joins the window, where one that named an elided
handle when it was taken waits to be refused. -/
def Claims.Taking : Prop :=
  ∀ (s : State) (l : LaunchSpool) (bytes : List Byte),
    let b := qcbRead s l.qcb
    (keelReady s = true → nextSpool s = some l → qcbOk b = true → qcbSpoiled s l.qcb = false → l.unread = false →
      (∀ p ∈ s.keel.packets, p.id ≤ s.keel.accepted ∧ ¬(p.lspool = l.num ∧ p.index = l.next ∧ p.old = false)) →
      ownerRead s (qOwner b) (qEsize b) (wrap ((qBase b + l.next % qCap b * qEsize b : Nat) : Int)) (qEsize b) = .ok bytes →
      stackReady s l.qcb = true → packetHeld s (newPacket s l b bytes) = false →
      ∃ t p, exec (.takePacket l.num) s = .next t ∧ t.packet (s.keel.accepted + 1) = some p ∧ p.qcb = l.qcb
        ∧ p.index = l.next ∧ p.asid = qOwner b ∧ p.bytes = (if qEsize b = 128 then bytes else bytes.take 127)
        ∧ t.keel.accepted = s.keel.accepted + 1 ∧ ∀ h, t.hart h = s.hart h)
    ∧ ∀ (id : Nat) (p : Packet) (d t : List Byte), s.packet id = some p → p.id = id → wordProblem s p = none →
      (p.bytes.length ≠ 128 → (vetPacket s id).packet id = some { p with
        status := some 0x40000, phase := if p.hasWords then .completing else .done })
      ∧ (p.bytes.length = 128 → ownerRead s p.asid 1088 p.descVa 1088 = .ok d →
        ownerRead s p.asid 64 p.args.toNat 64 = .ok t → ∀ k, readDescriptor d = some k →
        let bases := (List.range 8).map fun j => BitVec.ofNat 64 (field t (8 * j) 8)
        let q := { p with desc := k, bases := bases }
        ((List.range 8).any fun j => field d (64 + 128 * j) 1 != 0) = true →
        (headerOk s q = false → ((vetPacket s id).packet id).map (·.status) = some (some 0x40000))
        ∧ (headerOk s q = true → (vetPacket s id).packet id
          = some { q with phase := .window, status := if q.late then some 0x10011 else none }))

/-- 02 R49, R52 to R56; 18 R449: the packet at the front of a spool's window is dispatched once no edge, missing page, quota,
unit that sleeps, line to be warmed or packet of its own tail store holds it back; a dispatched packet that is over writes its status word, then its signal word, and completes. -/
def Claims.Dispatching : Prop :=
  ∀ (s : State) (p : Packet) (num : Nat),
    (∀ r m, keelReady s = true →
      let s' := evaluateWindow s num
      windowPackets s' num = p :: r → s'.packet p.id = some p → p.partner = none → p.producer = false →
      p.phase = .window → p.reported = false → p.status = none → bitOf p.flags 0 = false → edgesWait s' p p.id = false →
      batchHolds s' p = false → doorbellHeld s' p.qcb = false → p.cold = false → spaceMissing s' p = none → grantChains s' [p] = some m →
      ∃ t, exec (.dispatchPacket num) s = .next t ∧ t.packet p.id = some { p with phase := .dispatched, ran := true }
        ∧ t.keel.chains = m)
    ∧ (s.packet p.id = some p → p.phase = .dispatched → p.partner = none → p.pendingStatus = false →
      packetOver s p = true → wordProblem s p = none →
      ∃ t, exec (.packetComplete p.id) s = .next t
        ∧ (t.packet p.id).map (fun q => (q.phase, q.status)) = some (.done, some (p.status.getD 0))
        ∧ ∀ l g, statusPlace s p = .ok (some (.ram l)) →
          signalPlace (writeStatus s p (p.status.getD 0)) p = .ok (some (.ram g)) →
          l + 4 ≤ g ∨ g + p.signalSize ≤ l →
          t.word l 4 = p.status.getD 0 % 2 ^ 32
            ∧ t.word g p.signalSize
              = (s.word g p.signalSize &&& (2 ^ (8 * p.signalSize) - 1 - field p.bytes 96 8 % 2 ^ (8 * p.signalSize)))
                ||| (field p.bytes 104 8 &&& field p.bytes 96 8 % 2 ^ (8 * p.signalSize)))

/-- 01 R29; 02 R41, R43, R57 to R59; 14 R358: the Keel sends the next cluster group of a dispatched packet to a cluster
that holds none of its grid group, spending a permit; the Gondola's copy returns it; a cluster group starts all its harts
at their entry state, and a task starts on a free hart. (That the cluster groups go out by ascending w5, and by ascending w4 within each, which
no rule gives, is the model's choice: log 78.) -/
def Claims.Placement : Prop :=
  ∀ (s : State) (p : Packet) (cl : Nat),
    let c := s.cluster cl
    (keelReady s = true → s.packet p.id = some p → p.phase = .dispatched → p.partner = none → p.ended = false →
      p.sent < p.ext 4 * p.ext 5 → p.ext 3 ≤ coresIn s cl → coresIn s cl ≠ 0 →
      cl ∉ gridClusters s p.id (p.sent / p.ext 4) → c.permits ≠ 0 → c.backlog = [] → clusterAwake s cl = true →
      ∃ t, exec (.placementMessage p.id cl) s = .next t ∧ (t.cluster cl).permits = c.permits - 1
        ∧ (t.cluster cl).link = c.link ++ [.place ⟨p.id, p.sent % p.ext 4, p.sent / p.ext 4⟩]
        ∧ (t.packet p.id).map (·.sent) = some (p.sent + 1))
    ∧ (∀ e r, c.link = .place e :: r → ∃ t, exec (.gondolaCopyMessage cl) s = .next t
      ∧ t.cluster cl = { c with
          link := r ++ c.backlog.take 1
          backlog := c.backlog.drop 1
          queue := if placementEnded s cl e then c.queue else c.queue ++ [e]
          permits := if c.backlog = [] then c.permits + 1 else c.permits })
    ∧ (∀ e l cores, headPlacement s cl = some e → e.packet = p.id → s.packet p.id = some p → clusterAwake s cl = true →
      headTask s cl = none → suspendedBefore s cl (placementPrio s e) p.id = false → chooseCores s p cl cores = some l →
      ∃ t, exec (.startClusterGroup cl cores) s = .next t
        ∧ ∀ g3 g2 h, g3 < l.length → g2 < p.ext 2 → (freeHarts s (l.getD g3 0))[g2]? = some h →
          t.hart h = entryHart p.asid (p.wid [0, 0, g2, g3, e.g4, e.g5]) (p.stripCount 0) p.args p.args p.desc.entry
            (.group p.id g2 g3 e.g4 e.g5 0) (stopGen s (l.getD g3 0 / 32) p.id) s.keel.ids)
    ∧ ∀ k h, (∀ t ∈ c.tasks, taskStale s cl t = false) → headTask (discardTasks s cl) cl = some k →
      headPlacement (discardTasks s cl) cl = none → clusterAwake (discardTasks s cl) cl = true →
      suspendedGroups (discardTasks s cl) cl = [] →
      chooseHart (discardTasks s cl) cl k.asid (some h) = some h →
      ∃ t, exec (.startTask cl h) s = .next t ∧ t.hart h = entryHart k.asid k.wid 1 k.arg k.table k.entry (.task k)
        (stopGen s cl k.packet) s.keel.ids

/-- Packets, from a launch spool to their completion (02 R41 to R59). (The order in which cluster groups go out is the model's
choice: log 78.) -/
def Obligations.PacketLifecycle : Prop := Claims.Taking ∧ Claims.Dispatching ∧ Claims.Placement

/-- 01 R29; 16 R410 to R413; 14 R359, R376, R377; 10 R273: a pre-emption request sends each Gondola concerned one message that
names its harts among those held resident with the hart, and one that comes while the Keel restarts is kept; a Gondola that
copies such a message saves and frees each hart of it that runs, outside a chain group, in the group that the message names;
a group that can resume, and that nothing stands before, returns to its harts with its registers; a group kept waiting has
requests sent that make room. (That QPMIN and QPCAP come back with a resumed hart is the model's reading: log 70.) -/
def Claims.Preemption : Prop :=
  ∀ (s : State) (h : Nat) (g : Nat),
    let l := residentWith s h
    let sent (cl : Nat) : List (Nat × Nat) := (toSuspend s l).filter fun e => decide (clusterOf e.1 = cl)
    ((s.hart h).run ≠ .free → s.keel.up = false → ∃ t, exec (.preemptRequest h) s = .next t ∧ t.harts = s.harts
      ∧ (h, none) ∈ t.keel.requests)
    ∧ ((s.hart h).run ≠ .free → s.keel.up = true → saveRoom s l.length = true →
      ∃ t, exec (.preemptRequest h) s = .next t ∧ t.harts = s.harts ∧ ∀ cl, (t.cluster cl).underway
        = (s.cluster cl).underway ++ (if sent cl = [] then [] else [.suspend s.keel.ids (sent cl)]))
    ∧ (∀ cl m r, (s.cluster cl).link = .suspend g m :: r →
      ∃ t, exec (.gondolaCopyMessage cl) s = .next t ∧ ∀ e ∈ m, clusterOf e.1 = cl → (s.hart e.1).run ≠ .free →
        (s.hart e.1).placed = e.2 → midGroup (s.hart e.1) = false → t.hart e.1 = {}
          ∧ ∃ w ∈ t.keel.saved, w.hartid = e.1 ∧ w.held = false ∧ w.group = g)
    ∧ (groupResumable s g = true →
      let mine := s.keel.saved.filter fun r => decide (r.group = g)
      (mine.map (·.hartid)).Nodup → (∀ r ∈ mine, plainAt r.hart r.hart.pc) →
      (∀ r ∈ mine, resumeBehind s (clusterOf r.hartid) g (waitingPrio s (.resume g))
        ((mine.head?.bind fun r => jobPacket r.hart).getD 0) = false) →
      ∃ t, exec (.resumeHartGroup g) s = .next t ∧ (∀ r ∈ t.keel.saved, r.group ≠ g)
        ∧ ∀ r ∈ s.keel.saved, r.group = g → ∃ k m n,
          t.hart r.hartid = arrive { r.hart with tokens := k, raised := m, placed := n } r.hart.pc)
    ∧ ∀ e room, headPlacement s g = some e → suspendedGroups s g = [] → canStart s g (.group e) = false → s.keel.up = true →
      makeRoom s g (.group e) (victims s [g] (placementPrio s e)) = some room →
      ∃ t, exec (.preemptStarvation g) s = .next t ∧ t = room.foldl suspendAll s
        ∧ canStart (room.foldl freedBy s) g (.group e) = true

/-- 14 R373, R374; 02 R66; 17 R446, R447: a restart stops the Keel, and its end takes undispatched packets again; gated
units wake when told to, a GATECTL bit that is cleared wakes every unit that it governs, and idle ones are gated; the power
controller lowers the clock step by step while hot. (Which packets a restart keeps is the model's reading: log 53.) -/
def Claims.KeelAndPower : Prop :=
  ∀ (s : State) (c d : Nat),
    exec .keelRestart s = .next { s with keel := { s.keel with up := false } }
    ∧ exec .keelHeartbeatTimeout s = .next { s with keel := { s.keel with up := false } }
    ∧ (s.keel.up = false → ∃ t, exec .keelRestartComplete s = .next t ∧ t.keel.up = true ∧ t.keel.saved = s.keel.saved
      ∧ ∀ p, p ∈ t.keel.packets ↔ p ∈ s.keel.packets
        ∧ (p.old = true ∨ p.phase = .dispatched ∨ p.phase = .completing ∨ p.phase = .done))
    ∧ ((s.cluster c).waking = true → ∃ t, exec (.wakeComplete (.cluster c)) s = .next t ∧ (t.cluster c).waking = false)
    ∧ (d ∈ s.hub.wakingDies → (∀ k ∈ s.hub.checking, k / 3 ≠ d) → ∃ t, exec (.wakeComplete (.die d)) s = .next t
      ∧ t.hub.wakingDies = s.hub.wakingDies.filter fun e => e != d)
    ∧ (keelReady s = true → s.hub.gateClusters = true → coresIn s c ≠ 0 → (s.cluster c).waking = false →
      clusterIdle s c = true → exec (.gateCluster c) s = .next (s.setCluster c { s.cluster c with gated := true }))
    ∧ (keelReady s = true → s.hub.gateDies = true → (∃ e ∈ s.plate.clusters, e.1 = d) →
      (∀ e ∈ s.plate.clusters, e.1 = d → (s.cluster (16 * d + e.2.1)).gated = true) → d ∉ s.hub.gatedDies →
      d ∉ s.hub.wakingDies → ∃ t, exec (.gateDie d) s = .next t ∧ d ∈ t.hub.gatedDies)
    ∧ (∀ v, ∃ t, exec (.gatectlWrite v) s = .next t ∧ t.hub.gateClusters = v.getLsbD 0 ∧ t.hub.gateDies = v.getLsbD 1
      ∧ (v.getLsbD 0 = false → (s.cluster c).gated = true → (t.cluster c).gated = false ∧ (t.cluster c).waking = true)
      ∧ (v.getLsbD 1 = false → t.hub.gatedDies = []))
    ∧ ∀ r : ThermalReading, ∃ t, exec (.thermalStepEval r) s = .next t ∧ t.hub.power = r.power
      ∧ ((∃ w ∈ r.temps.take 52, (s.hub.tlimit : Int) * 16 ≤ sensorTemp (w &&& 0x0000FFFFFFFFFFFF)) →
        t.hub.thermal = min 8 (s.hub.thermal + 1) ∧ (s.hub.thermal = 8 → t.hub.hot = true))

/-- Pre-emption, the Keel's restart and power (14 R359, R373, R374; 16 R410 to R413; 17 R444 to R447). -/
def Obligations.PreemptionAndPower : Prop := Claims.Preemption ∧ Claims.KeelAndPower

/-! Fault records, contexts and the hub. -/

/-- 16 R405 to R408: the oldest record is written into a slot of the fault spool and then waits for its reply; RESUME
lets the fault-held hart resume, KILL discards it and gives its packet the status 0x10000 with the cause. -/
def Claims.FaultReplies : Prop :=
  ∀ (s : State) (r : FaultRecord) (index : Nat),
    let q := s.hub.faultqcb.toNat
    let b := qcbRead s q
    let slot := qBase b + qTail b % qCap b * 64
    (∀ l, s.keel.held = r :: l → s.keel.up = true → hubSpoolTakes s q 64 = true → dramOk s slot = true →
      ramReady s none slot 64 = true → slot + 64 ≤ q ∨ q + 64 ≤ slot → field b 38 2 = 0 → ∃ t, exec .faultRecordWrite s = .next t
        ∧ readPlace t (.ram slot) 64 = recordBytes r ∧ qTail (qcbRead t q) = (qTail b + 1) % 2 ^ 64
        ∧ qFree (qcbRead t q) = qFree b - 1 ∧ t.keel.held = l
        ∧ t.keel.awaiting = if needsReply r then s.keel.awaiting ++ [(qTail b, r)] else s.keel.awaiting)
    ∧ ∀ i id w, s.keel.awaiting.find? (fun e => decide (e.1 % 2 ^ 56 = index)) = some (i, r) → r.subject = .hart id →
      savedAt s id = some w → s.keel.replies = [] →
      (replyHeld s index false = false → ∃ t, exec (.faultreplyResume index) s = .next t
        ∧ savedAt t id = some { w with held := false } ∧ ∀ e ∈ t.keel.awaiting, e.1 ≠ i)
      ∧ (replyHeld s index true = false → ∃ t, exec (.faultreplyKill index) s = .next t
        ∧ savedAt t id = none ∧ (∀ e ∈ t.keel.awaiting, e.1 ≠ i)
        ∧ ∀ p, chargedPacket s w.hart = some p → p.status = none → p.partner = none →
          (t.packet p.id).map (·.status) = some (some (0x10000 + r.cause % 256)))

/-- 15 R378 to R391: an element of the translation invalidation spool. INVPAGE, INVASID and INVALL leave no translation
that they name in any cache; CTXLOAD loads the descriptor of its context; CTXDESTROY leaves the context invalid; each then
writes its completion word with STATUS 0, CTXDESTROY once every Gondola has discarded what the context has there, which a message
tells it, and no job, word or join counter of the context is outstanding. -/
def Claims.Contexts : Prop :=
  ∀ (s : State) (i : Nat) (b : List Byte), keelReady s = true → hubElement s s.hub.tivqcb.toNat 32 = some (i, b) →
    taintPlace s (.ram (hubSlot s s.hub.tivqcb.toNat 32)) 32 = .sound → tivBad b = false → field b 24 8 % 8 = 0 → dramOk s (field b 24 8) = true → stackReady s (field b 24 8) = true →
    let asid := tivAsid b
    let pa := s.hub.ctxbase.toNat + 64 * asid
    let done (t : State) : Prop := t.word (field b 24 8) 8 = (i + 1) * 256 % 2 ^ 64
    let removed (t : State) (r : Removal) : Prop := ∀ c e, (e ∈ (t.core c).tlb ∨ e ∈ (t.cluster c).tlb) → r.hits e = false
    let page : Removal := ⟨if bitOf (field b 1 1) 0 then none else some asid, some (tivVa b / 4096, tivCount b),
      bitOf (field b 1 1) 0⟩
    (tivOp b = 0 → removalWaits s page = false → ∃ t, exec .invpage s = .next t ∧ removed t page ∧ done t)
    ∧ (tivOp b = 1 → removalWaits s (asidRemoval asid) = false →
      ∃ t, exec .invasid s = .next t ∧ removed t (asidRemoval asid) ∧ done t)
    ∧ (tivOp b = 2 → removalWaits s ⟨none, none, true⟩ = false →
      ∃ t, exec .invall s = .next t ∧ (∀ c, (t.core c).tlb = [] ∧ (t.cluster c).tlb = []) ∧ done t)
    ∧ (∀ c, tivOp b = 3 → dramOk s pa = true → stackReady s pa = true → taintPlace s (.ram pa) 64 = .sound →
      readContext (readPlace s (.ram pa) 64) = some c → contextBusy s asid = false →
      s.jobs.any (asidRemoval asid).holdsJob = false →
      ∃ t, exec .ctxload s = .next t ∧ removed t (asidRemoval asid) ∧ done t ∧ t.context asid
        = { c with nosplice := (s.context asid).nosplice, collectives := (s.context asid).collectives })
    ∧ (tivOp b = 4 → (s.context asid).valid = true →
      let u := discardSuspended (if (s.context asid).dying then s else
        askDiscard (cancelContext (s.setContext asid { s.context asid with dying := true }) asid) asid) asid
      (contextRuns u asid = true → exec .ctxdestroy s = .next u)
      ∧ (contextRuns u asid = false → contextOpen (completeContext u asid) asid = false →
        ∃ t, exec .ctxdestroy s = .next t ∧ t.context asid = {} ∧ removed t (asidRemoval asid) ∧ done t)
      ∧ (contextRuns u asid = false → contextOpen (completeContext u asid) asid = true →
        exec .ctxdestroy s = .next (completeContext u asid)))
    ∧ ∀ cl r, (s.cluster cl).link = .discard asid :: r → (∀ e ∈ s.harts, e.2.scalarQueue = [] ∧ e.2.vectorQueue = []) →
      ∃ t, exec (.gondolaCopyMessage cl) s = .next t ∧ ∀ h, clusterOf h = cl → (s.hart h).run ≠ .free →
        (s.hart h).asid = asid → t.hart h = {}

/-- 17 R430, R433: LSPOOLCTL adds a launch spool, served from its HEAD, or marks it for removal; with ADD set on a spool that is
being removed, it makes `removing` false, so that the removal is called off (the model's reading: log 52); an element of the watch
spool arms an entry, sends its MSI at once when its word satisfies it, or is discarded and counted when malformed; an entry
that has seen its value sends its MSI once and is freed. -/
def Claims.HubSpools : Prop :=
  ∀ (s : State) (v : Word) (i : Nat) (b : List Byte),
    let q := lspoolQcb v
    (dramOk s q = true → lspoolAt s q = none → s.keel.spools.length < 4096 → ∀ n, lspoolNumber s q = some n →
      ∃ t, exec (.lspoolRegister v) s = .next t
        ∧ t.keel.spools = s.keel.spools ++ [⟨n, q, false, if stackReady s q then qHead (qcbRead s q) else 0, false, [], !stackReady s q⟩])
    ∧ (dramOk s q = true → (lspoolAt s q).isSome = true → ∃ t, exec (.lspoolRegister v) s = .next t
      ∧ (∀ e ∈ t.keel.spools, e.qcb = q → e.removing = false) ∧ t.keel.spools.map (·.num) = s.keel.spools.map (·.num))
    ∧ (dramOk s q = true → lspoolAt s q = none → 4096 ≤ s.keel.spools.length → ∃ t, exec (.lspoolRegister v) s = .next t
      ∧ t.keel.spools = s.keel.spools ∧ (t.keel.held.getLast?.map fun r => (r.kind, r.spool)) = some (7, q))
    ∧ (∀ l, lspoolAt s q = some l → ∃ t, exec (.lspoolRemove v) s = .next t
      ∧ ∀ e ∈ t.keel.spools, e.num = l.num → e.removing = true)
    ∧ (hubElement s s.hub.watchqcb.toNat 64 = some (i, b) →
      taintPlace s (.ram (hubSlot s s.hub.watchqcb.toNat 64)) 64 = .sound → s.hub.msiLag = false → s.hub.msis = [] →
      ramReady s none (field b 0 8) (if bitOf (field b 24 1) 0 then 8 else 4) = true →
      armedPoison s (field b 0 8) (if bitOf (field b 24 1) 0 then 8 else 4) = none → ∃ t, exec .watchElement s = .next t
      ∧ (watchBad s b = true → t.hub.watchbad = s.hub.watchbad + 1 ∧ t.watches = s.watches)
      ∧ (watchBad s b = false → ∃ w : Watch, w.id = s.keel.ids ∧ w.pa = field b 0 8
        ∧ w.mask = BitVec.ofNat 64 (field b 8 8) ∧ w.value = BitVec.ofNat 64 (field b 16 8)
        ∧ w.eight = bitOf (field b 24 1) 0 ∧ w.ne = bitOf (field b 24 1) 1 ∧ w.msiData = BitVec.ofNat 32 (field b 28 4)
        ∧ w.msiAddr = field b 32 8 ∧ w.hit = false
        ∧ (watchMeets (hubConsume s s.hub.watchqcb.toNat) w = false → t.watches = s.watches ++ [w])
        ∧ (watchMeets (hubConsume s s.hub.watchqcb.toNat) w = true → t.watches = s.watches
          ∧ ∀ l, w.msiAddr % 4 = 0 → placeOf s w.msiAddr = some (.ram l) → stackReady s l = true →
            t.word l 4 = w.msiData.toNat)))
    ∧ ∀ w l, s.watches.find? (fun e => decide (e.id = i)) = some w → w.hit = true → w.msiAddr % 4 = 0 →
      s.hub.msiLag = false → s.hub.msis = [] → placeOf s w.msiAddr = some (.ram l) → stackReady s l = true → ∃ t, exec (.watchEntryFired i) s = .next t
        ∧ t.watches = s.watches.filter (fun e => e.id != i) ∧ t.word l 4 = w.msiData.toNat
        ∧ ∀ a, a < l ∨ l + 4 ≤ a → t.byte a = s.byte a

/-- Fault records, contexts and the hub's spools (15 R378 to R391; 16 R405 to R408; 17 R430, R433). -/
def Obligations.FaultsAndContexts : Prop := Claims.FaultReplies ∧ Claims.Contexts ∧ Claims.HubSpools

/-- 15 R394 to R399; 17 R427 to R429: registers of the hub and the mailbox. DEVID is set once; a base is written while no
context is loaded; a mailbox command makes BUSY 1 with its result, and its completion puts the response at MBRSPADDR,
clears BUSY and raises APLIC source 5. EXTEND's new measurement is the SHA-512 digest of the old one and its operand. A
command whose operand lies in a stack that is not ready waits for it (17 R448). (That the response of EXTEND is 4 bytes is the
model's reading: log 54.) -/
def Claims.HubRegisters : Prop :=
  ∀ (s : State) (v : Word),
    let operand := readPlace s (.ram s.sec.opAddr.toNat) s.sec.opLen.toNat
    let idle := s.sec.busy = false ∧ s.hub.ready.getLsbD 53 = true ∧ operandOk s = true
      ∧ (s.sec.opLen = 0 ∨ ramReady s none s.sec.opAddr.toNat s.sec.opLen.toNat = true)
      ∧ taintPlace s (.ram s.sec.opAddr.toNat) s.sec.opLen.toNat = .sound
    (v.toNat < 2 ^ 22 → s.hub.devidSet = false → ∃ t, exec (.devidsetWrite v) s = .next t
      ∧ t.hub.devid = v.truncate 22 ∧ t.hub.devidSet = true)
    ∧ (s.hub.devidSet = true → exec (.devidsetWrite v) s = .next s)
    ∧ (let free : Bool := basesFree s && decide (v.toNat % 2 ^ 22 = 0)
      exec (.registerWrite 0x10000000000 v) s
        = .next { s with hub := if free then { s.hub with ctxbase := v } else s.hub })
    ∧ exec (.registerWrite 0x10000000018 v) s = .next { s with hub := { s.hub with tivqcb := v } }
    ∧ exec (.registerWrite 0x10000000020 v) s = .next { s with hub := { s.hub with faultqcb := v } }
    ∧ (idle → s.sec.opLen = 32 → 304 ≤ s.sec.rspLen.toNat → ∃ t, exec .quote s = .next t ∧ t.sec.busy = true
      ∧ t.sec.result = 0 ∧ t.sec.response.length = 304 ∧ t.sec.measure = s.sec.measure ∧ memoryStands s t)
    ∧ (idle → s.sec.opLen = 64 → 4 ≤ s.sec.rspLen.toNat → ∃ t, exec .extend s = .next t ∧ t.sec.busy = true
      ∧ t.sec.result = 0 ∧ t.sec.response = leBytes 4 t.sec.extcount.toNat ∧ t.sec.extcount = s.sec.extcount + 1
      ∧ t.sec.measure = digest (leBytes 64 s.sec.measure.toNat ++ operand))
    ∧ (idle → s.sec.opLen = 0 → ∃ t, exec .identity s = .next t ∧ t.sec.busy = true ∧ memoryStands s t)
    ∧ (idle → ∃ t, exec .plateupd s = .next t ∧ t.sec.busy = true ∧
      (ed25519Verify Config.plateKey operand (Config.packageSignature operand) = true →
        s.plate.sequence < Config.packageSequence operand →
        t.sec.result = 0 ∧ t.plate.pending = some ⟨Config.packageSequence operand, operand⟩)
      ∧ (Config.packageSequence operand ≤ s.plate.sequence → t.sec.result = 1 ∧ t.plate = s.plate))
    ∧ (s.sec.busy = false → s.hub.ready.getLsbD 53 = true → s.sec.opLen ≠ 0 → operandOk s = true →
      ramReady s none s.sec.opAddr.toNat s.sec.opLen.toNat = false → ∃ t, exec .plateupd s = .next t ∧ t.sec.busy = true
        ∧ t.sec.command = some 4 ∧ t.plate = s.plate ∧ exec .mailboxComplete t = .next t)
    ∧ ∀ n, s.sec.busy = true → s.sec.command = none → s.sec.response.length = n → n ≠ 0 →
      dramOk s s.sec.rspAddr.toNat = true → ramReady s none s.sec.rspAddr.toNat n = true →
      dramOk s (s.sec.rspAddr.toNat + n - 1) = true → ∃ t, exec .mailboxComplete s = .next t ∧ t.sec.busy = false
        ∧ 5 ∈ t.hub.aplic ∧ readPlace t (.ram s.sec.rspAddr.toNat) n = s.sec.response

/-- 16 R418 to R420; 17 R425, R428, R435, R443, R448: links, stores from outside, and errors. A link comes up or goes
down in FABSTAT; the bytes of an application core or an inbound request land in memory, the latter where the IOMMU translates it to,
behind its requester's earlier posted writes unless its ordering is relaxed; an uncorrectable error poisons its 32-byte sector and
makes a KIND 6 record; training posts its ready bits. (The tables and registers of the IOMMU are those of the RISC-V
specification, log 61; that an error first has every queue performed is the model's choice, log 4.) -/
def Claims.Surroundings : Prop :=
  ∀ (s : State) (n pa : Nat) (b : List Byte),
    (n < 16 → s.hub.ready.getLsbD (31 + n) = true →
      (∃ t, exec (.linkUp (.fabric n)) s = .next t ∧ t.hub.fabstat.getLsbD n = true ∧ 3 ∈ t.hub.aplic))
    ∧ (n < 16 → s.jobs = [] → ∃ t, exec (.linkDown (.fabric n)) s = .next t ∧ t.hub.fabstat.getLsbD n = false
      ∧ 3 ∈ t.hub.aplic)
    ∧ (b ≠ [] → placeOf s pa = some (.ram pa) → placeOf s (pa + b.length - 1) = some (.ram (pa + b.length - 1)) →
      placeReady s none (.ram pa) b.length = true →
      (∀ (r : InboundRequest) (c : Option (List Byte)), inboundAt s r = .ok (pa, c) → r.pa % 4096 + b.length ≤ 4096 →
        r.write = true → r.bytes = b → (r.relaxed = true ∨ ∀ q ∈ s.hub.posted, q.requester ≠ r.requester) →
        ∃ t, exec (.pcieInboundRequest r) s = .next t ∧ (∀ i, i < b.length → t.byte (pa + i) = b.getD i 0)
          ∧ (∀ a, a < pa ∨ pa + b.length ≤ a → t.byte a = s.byte a) ∧ t.harts = s.harts)
      ∧ exec (.applicationCoreStore pa b) s = .next (writeRam (recallSpan s none (.ram pa) b.length) pa b))
    ∧ (∀ (r : InboundRequest) (f : IoFault), s.hub.posted = [] → r.pa % 4096 + r.bytes.length ≤ 4096 →
      inboundAt s r = .error f → f.cause ≠ stackHeld → recordWaits s f = false →
      exec (.pcieInboundRequest r) s = .next (ioFail s r.requester r.pa r.write f))
    ∧ (dramOk s pa = true → ∃ t, exec (.uncorrectableError pa) s = .next t
      ∧ (∀ k, k < 32 → Tab.get .sound t.taint (pa / 32 * 32 + k) = .error)
      ∧ (t.keel.held.getLast?.map fun r => (r.kind, r.eval)) = some (6, BitVec.ofNat 64 pa)
      ∧ (∀ a, t.byte a = (performAll s).byte a) ∧ (quiet s → ∀ a, t.byte a = s.byte a))
    ∧ (pa < 4 * dieSpan → pa % dieSpan < dieBytes s.plate (pa / dieSpan) → ∃ t, exec (.patrolScrub pa true) s = .next t
      ∧ (∀ k, k < 32 → Tab.get .sound t.taint (pa / 32 * 32 + k) = .error)
      ∧ (∀ a, t.byte a = (performAll s).byte a) ∧ (quiet s → ∀ a, t.byte a = s.byte a))
    ∧ (s.hub.ready.getLsbD 53 = true →
      (linkEnabled s.plate n = true → ∃ t, exec (.ucieLinkTrained n) s = .next t ∧ t.hub.ready.getLsbD (13 + n) = true)
      ∧ (n < 12 → n ∈ s.plate.hbm → ∃ t, exec (.stackTrainingComplete n true) s = .next t
        ∧ t.hub.ready.getLsbD n = true)
      ∧ (n < 8 → ∃ t, exec (.pciePortReady n) s = .next t ∧ t.hub.ready.getLsbD (23 + n) = true))

/-- The hub and the device's surroundings (15 R394 to R399; 16 R418 to R420; 17 R425 to R448). (The IOMMU's tables: log 61; that an
error has every queue performed first: log 4.) -/
def Obligations.HubRegistersAndSurroundings : Prop := Claims.HubRegisters ∧ Claims.Surroundings

/-- 16 R420: a running hart outside a chain group takes trap 0x14 with EVAL 0 at an instruction that reads a poisoned scalar
register, an active element of a poisoned vector register, an active row of a poisoned slot or bank; with nothing poisoned
every instruction has its own effect. (Where the trap ranks among others is the model's reading: log 14.) -/
def Claims.PoisonedSources : Prop :=
  ∀ (s : State) (d a b : Reg) (o : VAOps) (m : VMOps) (t : Target) (e k : Nat),
    (s.me.spoiled = {} → ∀ i, execChecked i s = exec i s)
    ∧ (free s → s.me.run = .running →
      (a ≠ 0 → s.me.spoiled.s.getLsbD a.toNat = true →
        ∀ i ∈ [Instr.add d a b, .mul d b a, .sel d a b b, .addi d a 0, .pop d a, .beq a b t, .jmpr d a, .loop d a t,
            .ld ⟨d, a, false, 3, 0⟩, .st ⟨a, b, false, 3, 0⟩, .amoSwap d b a true, .cas d b b a true, .waitw b b a 0 true 0,
            .pbarr d a, .gang d a, .topen d a 0, .deq d a b 0, .enq b a b 0, .spawn a, .launch d a b],
          execChecked i s = .next (Machine.trap s 0x14 0))
      ∧ (s.me.spoiled.f.getLsbD a.toNat = true → roundingMode s.me o.rm ≠ none → o.y = a →
        ∀ i ∈ [Instr.fadd o, .fsub o, .fmul o, .ffma o, .fcmp o], execChecked i s = .next (Machine.trap s 0x14 0))
      ∧ (o.ci = false → s.me.conf ≠ none → (∀ r ∈ [o.x, o.y, o.z, o.w], r.toNat < vCount s.me) →
        vectorMode s.me o true ≠ none → e ∈ active s.me o.mask.toNat → spoiledElem s.me o.y.toNat e = true →
        ∀ i ∈ [Instr.vadd o, .vfma o, .vmin o, .vabs o, .vdot o, .vaddVs o, .vmv o, .vcmp o],
          execChecked i s = .next (Machine.trap s 0x14 0))
      ∧ (m.wait = 0 → s.me.conf ≠ none →
        (m.x.toNat < vCount s.me → e ∈ active s.me m.mask.toNat → spoiledElem s.me m.x.toNat e = true →
          ∀ i ∈ [Instr.vst m, .vsts m], execChecked i s = .next (Machine.trap s 0x14 0))
        ∧ (e ∈ activeRows s.me m.mask.toNat → k < 4 →
          Tab.get false (Tab.get [] s.me.spoiled.slots m.x.toNat) (4 * e + k) = true
            ∨ Tab.get false (Tab.get [] s.me.spoiled.banks (m.sub.toNat % 2)) e = true →
          execChecked (.opa m) s = .next (Machine.trap s 0x14 0))))

/-- 16 R419: an upset poisons what it names; a register written whole loses its poison, and a vector instruction clears
the elements that it writes, and no other. -/
def Claims.PoisonCleared : Prop :=
  (∀ (s : State) (h : Nat) (r : Reg) (x : Hart) (v : Word), (s.hart h).run ≠ .free → r ≠ 0 →
    ((runUpset s (.scalar h r)).hart h).spoiled.s.getLsbD r.toNat = true
    ∧ (x.writeS r v).spoiled.s.getLsbD r.toNat = false ∧ (r.toNat < 16 → (x.writeF r v).spoiled.f.getLsbD r.toNat = false)
    ∧ ∀ k, k ≠ r.toNat → (x.writeS r v).spoiled.s.getLsbD k = x.spoiled.s.getLsbD k
      ∧ (x.writeF r v).spoiled.f.getLsbD k = x.spoiled.f.getLsbD k)
  ∧ (∀ (s : State) (i : Instr) (o : VAOps) (vs rounds : Bool) (f : Nat → Nat → Nat → Nat → Nat × Flags) (t : State),
    elementFn i = some (o, vs, rounds, f) → free s → o.ci = false → o.co = false → vregsOk s.me [o.x, o.y, o.z, o.w] = true →
    tyWidth o.ty.toNat ≤ ewBits s.me → vectorMode s.me o rounds ≠ none → exec i s = .next t →
    ∀ r e, spoiledElem t.me r e = (spoiledElem s.me r e && !(decide (r = o.x.toNat) && (active s.me o.mask.toNat).contains e)))
  ∧ ∀ (s : State) (i : Instr) (o : VMOps) (rs : List Reg) (addr : Nat → Nat) (trims : Nat → Bool) (t : State),
    loadOf i s.me = some (o, rs, addr, trims) → vmReady s o rs → tyWidth o.ty.toNat ≤ ewBits s.me →
    (∀ e ∈ active s.me o.mask.toNat, ∃ p, check s (s.agent s.cur) .load (addr e) (ewBytes s.me) = .ok p) →
    exec i s = .next t →
    ∀ r e, spoiledElem t.me r e = (spoiledElem s.me r e && !(decide (r = o.x.toNat) && (active s.me o.mask.toNat).contains e))

/-- Soft errors in the registers, slots and banks of a hart (16 R418 to R420). -/
def Obligations.SoftErrors : Prop := Claims.PoisonedSources ∧ Claims.PoisonCleared

/-- 16 R421, R422: a cold reset leaves the reset state but for what boot posts, the Plate and the time base at 0; a warm
reset keeps DRAM, the Plate and TIME, and stops every hart. An orderly one keeps every byte of DRAM but those that a dirty
line of a stash held, another one those whose latest store had been written back; the poison of a sector that only a cache held
poisoned is lost with it. (That DRAM reads zero after a cold reset is
the model's choice: log 2. The agenda and the counter of free values are the model's own: log 3.) -/
def Claims.Resets : Prop :=
  ∀ (s : State),
    (∃ t, exec .coldReset s = .next t ∧ t.mem = [] ∧ t.harts = [] ∧ t.contexts = [] ∧ t.jobs = [] ∧ t.time = 0
      ∧ t.keel = {} ∧ t.windows = [] ∧ ((∀ i ∈ bootStages, stageVerifies t i = true) → t.hub.ready = bootReady))
    ∧ (∀ i ∈ [Instr.resetOrderlyWarm, .mgmtWarmReset true], ∃ t, exec i s = .next t ∧ t.time = s.time ∧ t.plate = s.plate
      ∧ t.harts = [] ∧ t.contexts = [] ∧ t.keel = {} ∧ t.hub.ctxbase = s.hub.ctxbase
      ∧ (stashDirty s = [] → t.taint = keptTaint s
        ∧ t.mem = s.mem.filter fun e => decide (e.1 < 0x1000000000000))
      ∧ (∀ a, (∀ x ∈ lostBytes s true, x / 32 ≠ a / 32) → Tab.get .sound t.taint a = Tab.get .sound (keptTaint s) a)
      ∧ ∀ a, a < 0x1000000000000 → (∀ r ∈ stashDirty s, a < r.1 ∨ r.1 + r.2 ≤ a) → t.byte a
        = Tab.get 0 (s.mem.filter fun e => decide (e.1 < 0x1000000000000)) a)
    ∧ ∀ i ∈ [Instr.resetWarm, .mgmtWarmReset false], ∃ t, exec i s = .next t ∧ t.time = s.time ∧ t.plate = s.plate
      ∧ t.harts = [] ∧ t.keel = {}
      ∧ ∀ a, a < 0x1000000000000 → (∀ e ∈ s.dirty, e.1 ≠ a) → t.byte a
        = Tab.get 0 (s.mem.filter fun e => decide (e.1 < 0x1000000000000)) a

/-- 16 R414: the words of a hart record, each with the hart after the management interface has written `v` to it (16 R417). A
misaligned PC loses bit 0, and a field narrower than its word takes the word's low bits (the model's choice: log 30). -/
def recordWrites (x : Hart) (v : Word) : List (Nat × Hart) :=
  [(0x180, { x with pc := v &&& ~~~1 }), (0x188, { x with vl := v.toNat % 2 ^ 17 }), (0x190, { x with vrows := v.toNat % 2 ^ 7 }),
    (0x198, { x with vstart := v.toNat % 2 ^ 17 }), (0x1A0, { x with frm := v.truncate 3 }),
    (0x1A8, { x with fflags := v.truncate 5 }), (0x1B0, { x with pred := v.truncate 8 }), (0x1D8, { x with wid := v }),
    (0x1E0, { x with mode := if v.getLsbD 0 then .system else .user }), (0x1F0, { x with scalarTime := v.toNat }),
    (0x1F8, { x with vectorTime := v.toNat }), (0x200, { x with epc := v &&& ~~~1 }),
    (0x208, { x with ecause := v.truncate 10 }), (0x210, { x with eval := v }), (0x220, x), (0x228, { x with escratch := v }),
    (0x230, { x with lc0 := { x.lc0 with busy := v.getLsbD 63, count := v.truncate 32 } }),
    (0x238, { x with lc0 := { x.lc0 with body := v } }), (0x240, { x with lc0 := { x.lc0 with fin := v } }),
    (0x250, { x with lc0 := { x.lc0 with index := v.toNat % 2 ^ 32 } }),
    (0x258, { x with lc1 := { x.lc1 with busy := v.getLsbD 63, count := v.truncate 32 } }),
    (0x260, { x with lc1 := { x.lc1 with body := v } }), (0x268, { x with lc1 := { x.lc1 with fin := v } }),
    (0x278, { x with lc1 := { x.lc1 with index := v.toNat % 2 ^ 32 } }), (0x280, { x with seg := v.getLsbD 0 })]

/-- 16 R414: what the management interface reads of a halted hart, word by word in the layout of a hart record; the registers of
a configured hart follow at 0x1000. -/
def Claims.HartRecord : Prop :=
  ∀ (s : State) (h : Nat),
    let x := s.hart h
    let word (o : Nat) : Nat := field (hartRecord s h) o 8
    (∀ r : Reg, word (8 * r.toNat) = (x.readS r).toNat ∧ (r.toNat < 16 → word (0x100 + 8 * r.toNat) = (x.readF r).toNat))
    ∧ (∀ e ∈ [(0x180, x.pc), (0x188, BitVec.ofNat 64 x.vl), (0x190, BitVec.ofNat 64 x.vrows), (0x198, BitVec.ofNat 64 x.vstart),
        (0x1A0, x.frm.zeroExtend 64), (0x1A8, x.fflags.zeroExtend 64), (0x1B0, x.pred.zeroExtend 64), (0x1B8, accst s h),
        (0x1C0, vconfWord x), (0x1C8, tokstWord x), (0x1D0, oslotsWord s h), (0x1D8, x.wid), (0x1E0, hstatWord s h),
        (0x1E8, (x.gang.getD 0).zeroExtend 64), (0x1F0, BitVec.ofNat 64 x.scalarTime), (0x1F8, BitVec.ofNat 64 x.vectorTime),
        (0x200, x.epc), (0x208, x.ecause.zeroExtend 64), (0x210, x.eval), (0x218, x.estat),
        (0x220, (s.context x.asid).handler), (0x228, x.escratch), (0x230, lcWord x.lc0), (0x238, x.lc0.body), (0x240, x.lc0.fin),
        (0x250, BitVec.ofNat 64 x.lc0.index), (0x258, lcWord x.lc1), (0x260, x.lc1.body), (0x268, x.lc1.fin),
        (0x278, BitVec.ofNat 64 x.lc1.index), (0x280, if x.seg then 1 else 0)], word e.1 = e.2.toNat)
    ∧ (∀ k, k < 8 → word (0x288 + 8 * k) = (tstatWord s h k).toNat
      ∧ word (0x2C8 + 8 * k) = (match x.token k with | .pending j => j % 2 ^ 64 | _ => 0))
    ∧ (∀ k, k < 64 → field (hartRecord s h) (0x308 + 4 * k) 4 = Tab.get 0 x.cursors k % 2 ^ 32)
    ∧ (∀ k, 0x408 ≤ k → k < 0x1000 → (hartRecord s h).getD k 1 = 0)
    ∧ ∀ f r k, x.conf = some f → r < f.count → k < f.shares * 32768 / f.count →
      (hartRecord s h).getD (0x1000 + r * (f.shares * 32768 / f.count) + k) 0 = Tab.get 0 (x.vreg r) k

/-- 16 R416, R417: the management interface halts a hart, every hart of a core or of a cluster at its suspension point, in an open
chain group after the group; it resumes a hart, steps it by one instruction, and writes a word of a halted hart's state in the
layout of 16 R414. -/
def Claims.Management : Prop :=
  ∀ (s : State) (h : Nat) (r : Reg) (v : Word),
    let x := s.hart h
    (∀ u : UnitName, (∀ k, unitHolds u k = true → (s.hart k).scalarQueue = [] ∧ (s.hart k).vectorQueue = []) →
      ∃ t, exec (.mgmtHalt u) s = .next t ∧ ∀ k,
        (unitHolds u k = true → (s.hart k).run ≠ .free → midGroup (s.hart k) = false →
          t.hart k = { rollback (s.hart k) with halted := true, stepping := false })
        ∧ (unitHolds u k = true → (s.hart k).run ≠ .free → midGroup (s.hart k) = true →
          t.hart k = { s.hart k with stepping := true })
        ∧ (unitHolds u k = false → t.hart k = s.hart k))
    ∧ (midGroup x = false → x.qual = false → rollback x = { x with run := .running, lines := [] })
    ∧ (x.halted = true →
      (x.run = .running → ∀ steps, ∃ t, exec (if steps then .mgmtStep h else .mgmtResume h) s = .next t
        ∧ t.agenda = (if steps then .hart h :: s.agenda else s.agenda)
        ∧ (let y := { x with halted := false, stepping := steps }
          endProblem s h y (arrive y y.pc) = none → t.hart h = arrive y y.pc))
      ∧ (∃ t, exec (.mgmtWriteState h (8 * r.toNat) v) s = .next t ∧ t.hart h = x.writeS r v)
      ∧ ∀ e ∈ recordWrites x v, ∃ t, exec (.mgmtWriteState h e.1 v) s = .next t ∧ t.hart h = e.2)

/-- Resets and the management interface (16 R416, R417, R421, R422). -/
def Obligations.ResetsAndManagement : Prop := Claims.Resets ∧ Claims.HartRecord ∧ Claims.Management

/-! The whole machine. -/

/-- 03 Reset columns, 17 R428: what the registers read after reset. Registers whose reset value the spec does not give
are not named here. -/
def Obligations.ResetState : Prop :=
  (∀ h, h < 16384 → ∀ e ∈ [(0x000, 0), (0x001, 1), (0x002, 0), (0x003, 0), (0x004, 0), (0x005, 0), (0x006, 0), (0x007, 0),
      (0x008, 0), (0x402, h), (0x403, 0), (0x404, 0), (0x405, 0), (0x406, 0), (0x407, 0),
      (0x480, 1536 * 2 ^ 48 + 1152 * 2 ^ 32 + 48 * 2 ^ 16 + 64 * 2 ^ 8 + 4), (0x481, 320 * 2 ^ 16 + 12 * 2 ^ 8 + 32),
      (0x482, 768 * 2 ^ 16 + 512), (0x800, 0x080808), (0x801, 0x808080), (0x840, 0), (0x841, 0), (0x842, 0), (0x843, 0),
      (0x844, 0), (0x845, 0), (0x900, 0), (0x903, 0), (0x93F, 0)],
      sysValue State.reset h e.1 = some (BitVec.ofNat 64 e.2))
    ∧ hubWord State.reset 0x0000 = 0 ∧ hubWord State.reset 0x0038 = 0 ∧ hubWord State.reset 0x0058 = 0x640140
    ∧ hubWord State.reset 0x0070 = 3 ∧ hubWord State.reset 0x0078 = 24 ∧ hubWord State.reset 0x0118 = 0
    ∧ State.reset.jobs = [] ∧ State.reset.keel.packets = []

/-- The invariant holds at reset: memory is in its canonical form. -/
def Obligations.ResetCanonical : Prop := State.reset.canonical

/-- The invariant: every step keeps memory in its one canonical form, whatever moves. -/
def Obligations.StepKeepsCanonical : Prop := ∀ s t : State, s.canonical → step s = .next t → t.canonical

/-- The laws of memory: what was written is read, nothing else changes, the canonical form is kept, and two memories in
that form that read alike are the same data. -/
def Obligations.MemoryLaws : Prop :=
  ∀ (s t : State) (l : Nat) (b : List Byte),
    (∀ i, i < b.length → (writeRam s l b).byte (l + i) = b.getD i 0)
    ∧ (∀ a, a < l ∨ l + b.length ≤ a → (writeRam s l b).byte a = s.byte a)
    ∧ (s.canonical → (writeRam s l b).canonical)
    ∧ (s.canonical → t.canonical → (∀ a, t.byte a = s.byte a) → t.mem = s.mem)

/-- Every step has a next state: nothing of the spec stops the machine. -/
def Obligations.NeverStops : Prop := ∀ s : State, ∃ t, step s = .next t

/-- 04 R98 to R102: the step of a running hart on a device that has booted, with no suspension of it due, runs the instruction
that the line holds at its PC; a qualified instruction runs with its prefix, and after each a loop's end checks its target (R101).
Then the streams' times rise, a stepping hart halts again, and every armed wait is evaluated. An instruction that reads a
poisoned source takes its trap instead, and a line or PC with a problem takes the trap of the fetch. (The model's choices: the
line is the one that memory holds, or an older copy that the hart has kept since its last fence, log 11; what the hart has left to
its queues is performed where the instruction needs it, or the instruction waits for it, log 4; where a poisoned source ranks, log
14.) -/
def Obligations.StepRunsDecoded : Prop :=
  ∀ (s : State) (h : Nat) (r : List Move), s.agenda = .hart h :: r → (s.hart h).run = .running → (s.hart h).halted = false →
    s.hub.bootCode = 0 → s.hub.ready.getLsbD 53 = true →
    (∀ e ∈ s.keel.requests, e.1 = h → e.2.isSome = true → requestDue s e = false) →
    let s0 := { s with agenda := r, cur := h }
    let qualified (t : State) : Bool := t.me.qual && t.me.run == .running
    let runs (u : State) : Prop :=
      let t := afterStep (some h) false s0 u
      ∀ v, (if qualified t then runSlot t else .next t) = .next v →
        step s = .next (settle { s with agenda := r }
          (afterHart s0 (if qualified t then afterStep (some h) false t v else v)))
    let pc := (s.hart h).pc
    (∀ l i, fetchLine s0 h pc.toNat = .ok l → lineFormatOk l = true → pc.toNat / 2 % 32 ≠ 0 →
      pc.toNat / 2 % 32 ≤ lineCount l → decodeSlot l (pc.toNat / 2 % 32) = .ok i → i.wellFormed = true →
      let f := (touch s0 (s.agent h) .fetch pc.toNat).setMe { s.hart h with fetched := l }
      (blocked f i = true → runs (waitAt f .channel 0))
      ∧ (blocked f i = false →
        (readsSpoiled (prepared f i) i = true → runs (spoiledTrap (prepared f i) i))
        ∧ (readsSpoiled (prepared f i) i = false → ∀ u, exec i (prepared f i) = .next u → runs u)))
    ∧ ∀ c e, fetchProblem s0 = some (c, e) → runs (Machine.trap s0 c e)

/-- 04 R96, R105, R110: encodings written out field by field from the opcode map decode to what they stand for. -/
def Obligations.DecodeWords : Prop :=
  decode ⟨0x04E8, 0x1409⟩ = .ok (.div 7 8 9) ∧ decode ⟨0x0464, 0x6C20⟩ = .ok (.sext 3 4 1)
    ∧ decode ⟨0x2523, 0xFFFB⟩ = .ok (.slti 9 3 (-5)) ∧ decode ⟨0x4C00, 0⟩ = .ok .nop
    ∧ decode ⟨0x5B0A, 0x03000000⟩ = .ok (.ld ⟨24, 10, false, 3, 0⟩) ∧ decode ⟨0x78C2, 0⟩ = .ok (.vsetl 6 2)
    ∧ decode ⟨0xC400, 0⟩ = .ok (.stagePrefix 0) ∧ decode ⟨0x0000, 0⟩ = .error .unallocatedMajor
    ∧ decode ⟨0x04E8, 0x7809⟩ = .error .unallocatedFunction

/-- The encoder and the decoder agree: every well-formed instruction that has an encoding is read back from it, with
every operand as it was. -/
def Obligations.EncodeDecode : Prop :=
  ∀ i : Instr, i.wellFormed = true → i.encodable = true → decode (encode i) = .ok i
end

