-- ==== Sys2Proof/Laws/Tables.lean ====
section
/-! SUPPORT. Sparse tables: a read after a write, and that every operation keeps the canonical form; memory operations on
top of them. -/

namespace Sys2Proof.Machine

variable {α : Type}

/-! Reading. -/

theorem Tab.get_put_same (d : α) (k : Nat) (v : α) (m : SMap α) : Tab.get d (Tab.put k v m) k = v := by
  induction m with
  | nil => simp [Tab.put, Tab.get]
  | cons e r ih =>
    obtain ⟨j, w⟩ := e
    simp only [Tab.put]
    split
    · simp [Tab.get]
    · split
      · simp [Tab.get]
      · simp [Tab.get, Ne.symm ‹_›, ih]

theorem Tab.get_put_other (d : α) (k i : Nat) (v : α) (m : SMap α) (h : i ≠ k) :
    Tab.get d (Tab.put k v m) i = Tab.get d m i := by
  induction m with
  | nil => simp [Tab.put, Tab.get, h.symm]
  | cons e r ih =>
    obtain ⟨j, w⟩ := e
    simp only [Tab.put]
    split
    · simp [Tab.get, h.symm]
    · split
      · subst_vars; simp [Tab.get, h.symm]
      · simp [Tab.get, ih]

theorem Tab.get_del_same (d : α) (k : Nat) (m : SMap α) : Tab.get d (Tab.del k m) k = d := by
  induction m with
  | nil => rfl
  | cons e r ih =>
    obtain ⟨j, w⟩ := e
    simp only [Tab.del]
    split
    · exact ih
    · simp [Tab.get, ‹_›, ih]

theorem Tab.get_del_other (d : α) (k i : Nat) (m : SMap α) (h : i ≠ k) : Tab.get d (Tab.del k m) i = Tab.get d m i := by
  induction m with
  | nil => rfl
  | cons e r ih =>
    obtain ⟨j, w⟩ := e
    simp only [Tab.del]
    split
    · subst_vars; simp [Tab.get, h.symm, ih]
    · simp [Tab.get, ih]

@[simp] theorem Tab.get_set_same [DecidableEq α] (d : α) (k : Nat) (v : α) (m : SMap α) :
    Tab.get d (Tab.set d k v m) k = v := by
  unfold Tab.set
  split
  · simp [Tab.get_del_same, *]
  · exact Tab.get_put_same d k v m

theorem Tab.get_set_other [DecidableEq α] (d : α) (k : Nat) (v : α) (m : SMap α) (i : Nat) (h : i ≠ k) :
    Tab.get d (Tab.set d k v m) i = Tab.get d m i := by
  unfold Tab.set
  split
  · exact Tab.get_del_other d k i m h
  · exact Tab.get_put_other d k i v m h

/-! The canonical form. -/

/-- The keys of a table. -/
theorem Tab.rising_iff (m : SMap α) : Tab.rising m = true ↔ (m.map (·.1)).Pairwise (· < ·) := by
  induction m with
  | nil => simp [Tab.rising]
  | cons e r ih =>
    cases r with
    | nil => simp [Tab.rising]
    | cons f r =>
      obtain ⟨j, v⟩ := e
      obtain ⟨k, w⟩ := f
      simp only [Tab.rising, Bool.and_eq_true, decide_eq_true_eq, ih, List.map_cons, List.pairwise_cons, List.mem_cons]
      constructor
      · rintro ⟨h, hp⟩
        exact ⟨fun a ha => ha.elim (fun e => e ▸ h) fun ha => Nat.lt_trans h (hp.1 a ha), hp⟩
      · rintro ⟨h, hp⟩
        exact ⟨h k (.inl rfl), hp⟩

theorem Tab.rising_filter (m : SMap α) (p : Nat × α → Bool) (h : Tab.rising m = true) :
    Tab.rising (m.filter p) = true := by
  rw [Tab.rising_iff] at *
  exact h.sublist (List.filter_sublist.map _)

theorem Tab.del_eq_filter (k : Nat) (m : SMap α) : Tab.del k m = m.filter fun e => e.1 ≠ k := by
  induction m with
  | nil => rfl
  | cons e r ih =>
    obtain ⟨j, w⟩ := e
    simp only [Tab.del, List.filter_cons]
    split <;> simp_all

theorem Tab.mem_put_key (k : Nat) (v : α) (m : SMap α) (i : Nat) (h : i ∈ (Tab.put k v m).map (·.1)) :
    i = k ∨ i ∈ m.map (·.1) := by
  induction m with
  | nil => simpa [Tab.put] using h
  | cons e r ih =>
    obtain ⟨j, w⟩ := e
    simp only [Tab.put] at h
    split at h
    · simpa using h
    · split at h
      · simp only [List.map_cons, List.mem_cons] at *
        exact h.elim .inl fun h => .inr (.inr h)
      · simp only [List.map_cons, List.mem_cons] at *
        exact h.elim (fun h => .inr (.inl h)) fun h => (ih h).elim .inl fun h => .inr (.inr h)

theorem Tab.rising_put (k : Nat) (v : α) (m : SMap α) (h : Tab.rising m = true) : Tab.rising (Tab.put k v m) = true := by
  rw [Tab.rising_iff] at *
  induction m with
  | nil => simp [Tab.put]
  | cons e r ih =>
    obtain ⟨j, w⟩ := e
    simp only [List.map_cons, List.pairwise_cons] at h
    simp only [Tab.put]
    split
    · simp only [List.map_cons, List.pairwise_cons, List.mem_cons]
      exact ⟨fun a ha => ha.elim (fun e => e ▸ ‹_›) fun ha => Nat.lt_trans ‹_› (h.1 a ha), h⟩
    · split
      · subst_vars
        simpa using h
      · simp only [List.map_cons, List.pairwise_cons]
        refine ⟨fun a ha => ?_, ih h.2⟩
        rcases Tab.mem_put_key k v r a ha with rfl | ha
        · omega
        · exact h.1 a ha

theorem Tab.all_put (p : Nat × α → Bool) (k : Nat) (v : α) (m : SMap α) (hv : p (k, v) = true) (h : m.all p = true) :
    (Tab.put k v m).all p = true := by
  induction m with
  | nil => simpa [Tab.put] using hv
  | cons e r ih =>
    obtain ⟨j, w⟩ := e
    simp only [List.all_cons, Bool.and_eq_true] at h
    simp only [Tab.put]
    split
    · simp only [List.all_cons, Bool.and_eq_true]; exact ⟨hv, h⟩
    · split
      · simp only [List.all_cons, Bool.and_eq_true]; exact ⟨hv, h.2⟩
      · simp only [List.all_cons, Bool.and_eq_true]; exact ⟨h.1, ih h.2⟩

theorem Tab.wf_filter [DecidableEq α] (d : α) (m : SMap α) (p : Nat × α → Bool) (h : Tab.wf d m = true) :
    Tab.wf d (m.filter p) = true := by
  simp only [Tab.wf, Bool.and_eq_true] at *
  refine ⟨Tab.rising_filter m p h.1, ?_⟩
  simp only [List.all_eq_true] at *
  exact fun e he => h.2 e (List.mem_filter.mp he).1

theorem Tab.wf_set [DecidableEq α] (d : α) (k : Nat) (v : α) (m : SMap α) (h : Tab.wf d m = true) :
    Tab.wf d (Tab.set d k v m) = true := by
  unfold Tab.set
  split
  · rw [Tab.del_eq_filter]; exact Tab.wf_filter d m _ h
  · simp only [Tab.wf, Bool.and_eq_true] at *
    exact ⟨Tab.rising_put k v m h.1, Tab.all_put _ k v m (by simpa using ‹_›) h.2⟩

theorem Tab.wf_sets [DecidableEq α] (d : α) (l : List (Nat × α)) (m : SMap α) (h : Tab.wf d m = true) :
    Tab.wf d (Tab.sets d l m) = true := by
  unfold Tab.sets
  induction l generalizing m with
  | nil => exact h
  | cons e r ih => exact ih _ (Tab.wf_set d e.1 e.2 m h)

/-! Memory. -/

theorem putMem_wf (m : List Host.Cell) (l : Nat) (b : List Byte) (h : Memory.wf m = true) :
    Memory.wf (putMem m l b) = true := by
  induction b generalizing m l with
  | nil => exact h
  | cons a r ih => exact ih _ _ (Tab.wf_set 0 l a m h)

theorem Memory.wf_filter (m : List Host.Cell) (p : Host.Cell → Bool) (h : Memory.wf m = true) :
    Memory.wf (m.filter p) = true := Tab.wf_filter 0 m p h

theorem Memory.wf_sets (l m : List Host.Cell) (h : Memory.wf m = true) : Memory.wf (Tab.sets 0 l m) = true :=
  Tab.wf_sets 0 l m h

theorem writeRam_wf (s : State) (l : Nat) (b : List Byte) (h : Memory.wf s.mem = true) :
    Memory.wf (writeRam s l b).mem = true := putMem_wf s.mem l b h

/-- A store leaves every byte outside it alone. -/
theorem putMem_other (m : List Host.Cell) (l : Nat) (b : List Byte) (a : Nat) (h : a < l ∨ l + b.length ≤ a) :
    Tab.get 0 (putMem m l b) a = Tab.get 0 m a := by
  induction b generalizing m l with
  | nil => rfl
  | cons v r ih =>
    simp only [List.length_cons] at h
    rw [putMem, ih _ _ (by omega), Tab.get_set_other _ _ _ _ _ (by omega)]

/-- A store's own bytes read back. -/
theorem putMem_same (m : List Host.Cell) (l : Nat) (b : List Byte) (i : Nat) (h : i < b.length) :
    Tab.get 0 (putMem m l b) (l + i) = b[i] := by
  induction b generalizing m l i with
  | nil => simp at h
  | cons v r ih =>
    cases i with
    | zero => rw [putMem, putMem_other _ _ _ _ (by omega)]; simp
    | succ i =>
      have := ih (Tab.set 0 l v m) (l + 1) i (by simpa using h)
      rw [putMem, show l + (i + 1) = l + 1 + i by omega, this]
      simp

/-- The byte of a place in DRAM or a scratchpad. -/
@[simp] theorem placeByte_ram (s : State) (l i : Nat) : placeByte s (.ram l) i = Tab.get 0 s.mem (l + i) := rfl

/-- The state after reset has no byte listed. -/
theorem reset_wf : Memory.wf State.reset.mem = true := by decide

end Sys2Proof.Machine
end

