-- ==== Sys2Proof/Laws/State.lean ====
section
/-! SUPPORT. What each update of the state, of a hart and of memory leaves alone: one lemma for each field, and what each
accessor reads after each update. -/

namespace Sys2Proof.Machine

@[simp] theorem State.setHart_cores (s : State) (h : Nat) (x : Hart) : (s.setHart h x).cores = s.cores := rfl
@[simp] theorem State.setHart_clusters (s : State) (h : Nat) (x : Hart) : (s.setHart h x).clusters = s.clusters := rfl
@[simp] theorem State.setHart_contexts (s : State) (h : Nat) (x : Hart) : (s.setHart h x).contexts = s.contexts := rfl
@[simp] theorem State.setHart_mem (s : State) (h : Nat) (x : Hart) : (s.setHart h x).mem = s.mem := rfl
@[simp] theorem State.setHart_taint (s : State) (h : Nat) (x : Hart) : (s.setHart h x).taint = s.taint := rfl
@[simp] theorem State.setHart_dirty (s : State) (h : Nat) (x : Hart) : (s.setHart h x).dirty = s.dirty := rfl
@[simp] theorem State.setHart_cached (s : State) (h : Nat) (x : Hart) : (s.setHart h x).cached = s.cached := rfl
@[simp] theorem State.setHart_chainTags (s : State) (h : Nat) (x : Hart) : (s.setHart h x).chainTags = s.chainTags := rfl
@[simp] theorem State.setHart_windows (s : State) (h : Nat) (x : Hart) : (s.setHart h x).windows = s.windows := rfl
@[simp] theorem State.setHart_jobs (s : State) (h : Nat) (x : Hart) : (s.setHart h x).jobs = s.jobs := rfl
@[simp] theorem State.setHart_journal (s : State) (h : Nat) (x : Hart) : (s.setHart h x).journal = s.journal := rfl
@[simp] theorem State.setHart_ahead (s : State) (h : Nat) (x : Hart) : (s.setHart h x).ahead = s.ahead := rfl
@[simp] theorem State.setHart_requests (s : State) (h : Nat) (x : Hart) : (s.setHart h x).requests = s.requests := rfl
@[simp] theorem State.setHart_watches (s : State) (h : Nat) (x : Hart) : (s.setHart h x).watches = s.watches := rfl
@[simp] theorem State.setHart_gangs (s : State) (h : Nat) (x : Hart) : (s.setHart h x).gangs = s.gangs := rfl
@[simp] theorem State.setHart_keel (s : State) (h : Nat) (x : Hart) : (s.setHart h x).keel = s.keel := rfl
@[simp] theorem State.setHart_hub (s : State) (h : Nat) (x : Hart) : (s.setHart h x).hub = s.hub := rfl
@[simp] theorem State.setHart_sec (s : State) (h : Nat) (x : Hart) : (s.setHart h x).sec = s.sec := rfl
@[simp] theorem State.setHart_plate (s : State) (h : Nat) (x : Hart) : (s.setHart h x).plate = s.plate := rfl
@[simp] theorem State.setHart_time (s : State) (h : Nat) (x : Hart) : (s.setHart h x).time = s.time := rfl
@[simp] theorem State.setHart_agenda (s : State) (h : Nat) (x : Hart) : (s.setHart h x).agenda = s.agenda := rfl
@[simp] theorem State.setHart_cur (s : State) (h : Nat) (x : Hart) : (s.setHart h x).cur = s.cur := rfl
@[simp] theorem State.setHart_n (s : State) (h : Nat) (x : Hart) : (s.setHart h x).n = s.n := rfl

@[simp] theorem State.setMe_cores (s : State) (x : Hart) : (s.setMe x).cores = s.cores := rfl
@[simp] theorem State.setMe_clusters (s : State) (x : Hart) : (s.setMe x).clusters = s.clusters := rfl
@[simp] theorem State.setMe_contexts (s : State) (x : Hart) : (s.setMe x).contexts = s.contexts := rfl
@[simp] theorem State.setMe_mem (s : State) (x : Hart) : (s.setMe x).mem = s.mem := rfl
@[simp] theorem State.setMe_taint (s : State) (x : Hart) : (s.setMe x).taint = s.taint := rfl
@[simp] theorem State.setMe_dirty (s : State) (x : Hart) : (s.setMe x).dirty = s.dirty := rfl
@[simp] theorem State.setMe_cached (s : State) (x : Hart) : (s.setMe x).cached = s.cached := rfl
@[simp] theorem State.setMe_chainTags (s : State) (x : Hart) : (s.setMe x).chainTags = s.chainTags := rfl
@[simp] theorem State.setMe_windows (s : State) (x : Hart) : (s.setMe x).windows = s.windows := rfl
@[simp] theorem State.setMe_jobs (s : State) (x : Hart) : (s.setMe x).jobs = s.jobs := rfl
@[simp] theorem State.setMe_journal (s : State) (x : Hart) : (s.setMe x).journal = s.journal := rfl
@[simp] theorem State.setMe_ahead (s : State) (x : Hart) : (s.setMe x).ahead = s.ahead := rfl
@[simp] theorem State.setMe_requests (s : State) (x : Hart) : (s.setMe x).requests = s.requests := rfl
@[simp] theorem State.setMe_watches (s : State) (x : Hart) : (s.setMe x).watches = s.watches := rfl
@[simp] theorem State.setMe_gangs (s : State) (x : Hart) : (s.setMe x).gangs = s.gangs := rfl
@[simp] theorem State.setMe_keel (s : State) (x : Hart) : (s.setMe x).keel = s.keel := rfl
@[simp] theorem State.setMe_hub (s : State) (x : Hart) : (s.setMe x).hub = s.hub := rfl
@[simp] theorem State.setMe_sec (s : State) (x : Hart) : (s.setMe x).sec = s.sec := rfl
@[simp] theorem State.setMe_plate (s : State) (x : Hart) : (s.setMe x).plate = s.plate := rfl
@[simp] theorem State.setMe_time (s : State) (x : Hart) : (s.setMe x).time = s.time := rfl
@[simp] theorem State.setMe_agenda (s : State) (x : Hart) : (s.setMe x).agenda = s.agenda := rfl
@[simp] theorem State.setMe_cur (s : State) (x : Hart) : (s.setMe x).cur = s.cur := rfl
@[simp] theorem State.setMe_n (s : State) (x : Hart) : (s.setMe x).n = s.n := rfl

@[simp] theorem State.setCore_harts (s : State) (c : Nat) (x : CoreState) : (s.setCore c x).harts = s.harts := rfl
@[simp] theorem State.setCore_clusters (s : State) (c : Nat) (x : CoreState) : (s.setCore c x).clusters = s.clusters := rfl
@[simp] theorem State.setCore_contexts (s : State) (c : Nat) (x : CoreState) : (s.setCore c x).contexts = s.contexts := rfl
@[simp] theorem State.setCore_mem (s : State) (c : Nat) (x : CoreState) : (s.setCore c x).mem = s.mem := rfl
@[simp] theorem State.setCore_taint (s : State) (c : Nat) (x : CoreState) : (s.setCore c x).taint = s.taint := rfl
@[simp] theorem State.setCore_dirty (s : State) (c : Nat) (x : CoreState) : (s.setCore c x).dirty = s.dirty := rfl
@[simp] theorem State.setCore_cached (s : State) (c : Nat) (x : CoreState) : (s.setCore c x).cached = s.cached := rfl
@[simp] theorem State.setCore_chainTags (s : State) (c : Nat) (x : CoreState) : (s.setCore c x).chainTags = s.chainTags := rfl
@[simp] theorem State.setCore_windows (s : State) (c : Nat) (x : CoreState) : (s.setCore c x).windows = s.windows := rfl
@[simp] theorem State.setCore_jobs (s : State) (c : Nat) (x : CoreState) : (s.setCore c x).jobs = s.jobs := rfl
@[simp] theorem State.setCore_journal (s : State) (c : Nat) (x : CoreState) : (s.setCore c x).journal = s.journal := rfl
@[simp] theorem State.setCore_ahead (s : State) (c : Nat) (x : CoreState) : (s.setCore c x).ahead = s.ahead := rfl
@[simp] theorem State.setCore_requests (s : State) (c : Nat) (x : CoreState) : (s.setCore c x).requests = s.requests := rfl
@[simp] theorem State.setCore_watches (s : State) (c : Nat) (x : CoreState) : (s.setCore c x).watches = s.watches := rfl
@[simp] theorem State.setCore_gangs (s : State) (c : Nat) (x : CoreState) : (s.setCore c x).gangs = s.gangs := rfl
@[simp] theorem State.setCore_keel (s : State) (c : Nat) (x : CoreState) : (s.setCore c x).keel = s.keel := rfl
@[simp] theorem State.setCore_hub (s : State) (c : Nat) (x : CoreState) : (s.setCore c x).hub = s.hub := rfl
@[simp] theorem State.setCore_sec (s : State) (c : Nat) (x : CoreState) : (s.setCore c x).sec = s.sec := rfl
@[simp] theorem State.setCore_plate (s : State) (c : Nat) (x : CoreState) : (s.setCore c x).plate = s.plate := rfl
@[simp] theorem State.setCore_time (s : State) (c : Nat) (x : CoreState) : (s.setCore c x).time = s.time := rfl
@[simp] theorem State.setCore_agenda (s : State) (c : Nat) (x : CoreState) : (s.setCore c x).agenda = s.agenda := rfl
@[simp] theorem State.setCore_cur (s : State) (c : Nat) (x : CoreState) : (s.setCore c x).cur = s.cur := rfl
@[simp] theorem State.setCore_n (s : State) (c : Nat) (x : CoreState) : (s.setCore c x).n = s.n := rfl

@[simp] theorem State.setCluster_harts (s : State) (c : Nat) (x : Cluster) : (s.setCluster c x).harts = s.harts := rfl
@[simp] theorem State.setCluster_cores (s : State) (c : Nat) (x : Cluster) : (s.setCluster c x).cores = s.cores := rfl
@[simp] theorem State.setCluster_contexts (s : State) (c : Nat) (x : Cluster) : (s.setCluster c x).contexts = s.contexts := rfl
@[simp] theorem State.setCluster_mem (s : State) (c : Nat) (x : Cluster) : (s.setCluster c x).mem = s.mem := rfl
@[simp] theorem State.setCluster_taint (s : State) (c : Nat) (x : Cluster) : (s.setCluster c x).taint = s.taint := rfl
@[simp] theorem State.setCluster_dirty (s : State) (c : Nat) (x : Cluster) : (s.setCluster c x).dirty = s.dirty := rfl
@[simp] theorem State.setCluster_cached (s : State) (c : Nat) (x : Cluster) : (s.setCluster c x).cached = s.cached := rfl
@[simp] theorem State.setCluster_chainTags (s : State) (c : Nat) (x : Cluster) : (s.setCluster c x).chainTags = s.chainTags := rfl
@[simp] theorem State.setCluster_windows (s : State) (c : Nat) (x : Cluster) : (s.setCluster c x).windows = s.windows := rfl
@[simp] theorem State.setCluster_jobs (s : State) (c : Nat) (x : Cluster) : (s.setCluster c x).jobs = s.jobs := rfl
@[simp] theorem State.setCluster_journal (s : State) (c : Nat) (x : Cluster) : (s.setCluster c x).journal = s.journal := rfl
@[simp] theorem State.setCluster_ahead (s : State) (c : Nat) (x : Cluster) : (s.setCluster c x).ahead = s.ahead := rfl
@[simp] theorem State.setCluster_requests (s : State) (c : Nat) (x : Cluster) : (s.setCluster c x).requests = s.requests := rfl
@[simp] theorem State.setCluster_watches (s : State) (c : Nat) (x : Cluster) : (s.setCluster c x).watches = s.watches := rfl
@[simp] theorem State.setCluster_gangs (s : State) (c : Nat) (x : Cluster) : (s.setCluster c x).gangs = s.gangs := rfl
@[simp] theorem State.setCluster_keel (s : State) (c : Nat) (x : Cluster) : (s.setCluster c x).keel = s.keel := rfl
@[simp] theorem State.setCluster_hub (s : State) (c : Nat) (x : Cluster) : (s.setCluster c x).hub = s.hub := rfl
@[simp] theorem State.setCluster_sec (s : State) (c : Nat) (x : Cluster) : (s.setCluster c x).sec = s.sec := rfl
@[simp] theorem State.setCluster_plate (s : State) (c : Nat) (x : Cluster) : (s.setCluster c x).plate = s.plate := rfl
@[simp] theorem State.setCluster_time (s : State) (c : Nat) (x : Cluster) : (s.setCluster c x).time = s.time := rfl
@[simp] theorem State.setCluster_agenda (s : State) (c : Nat) (x : Cluster) : (s.setCluster c x).agenda = s.agenda := rfl
@[simp] theorem State.setCluster_cur (s : State) (c : Nat) (x : Cluster) : (s.setCluster c x).cur = s.cur := rfl
@[simp] theorem State.setCluster_n (s : State) (c : Nat) (x : Cluster) : (s.setCluster c x).n = s.n := rfl

@[simp] theorem State.setContext_harts (s : State) (a : Nat) (x : Context) : (s.setContext a x).harts = s.harts := rfl
@[simp] theorem State.setContext_cores (s : State) (a : Nat) (x : Context) : (s.setContext a x).cores = s.cores := rfl
@[simp] theorem State.setContext_clusters (s : State) (a : Nat) (x : Context) : (s.setContext a x).clusters = s.clusters := rfl
@[simp] theorem State.setContext_mem (s : State) (a : Nat) (x : Context) : (s.setContext a x).mem = s.mem := rfl
@[simp] theorem State.setContext_taint (s : State) (a : Nat) (x : Context) : (s.setContext a x).taint = s.taint := rfl
@[simp] theorem State.setContext_dirty (s : State) (a : Nat) (x : Context) : (s.setContext a x).dirty = s.dirty := rfl
@[simp] theorem State.setContext_cached (s : State) (a : Nat) (x : Context) : (s.setContext a x).cached = s.cached := rfl
@[simp] theorem State.setContext_chainTags (s : State) (a : Nat) (x : Context) : (s.setContext a x).chainTags = s.chainTags := rfl
@[simp] theorem State.setContext_windows (s : State) (a : Nat) (x : Context) : (s.setContext a x).windows = s.windows := rfl
@[simp] theorem State.setContext_jobs (s : State) (a : Nat) (x : Context) : (s.setContext a x).jobs = s.jobs := rfl
@[simp] theorem State.setContext_journal (s : State) (a : Nat) (x : Context) : (s.setContext a x).journal = s.journal := rfl
@[simp] theorem State.setContext_ahead (s : State) (a : Nat) (x : Context) : (s.setContext a x).ahead = s.ahead := rfl
@[simp] theorem State.setContext_requests (s : State) (a : Nat) (x : Context) : (s.setContext a x).requests = s.requests := rfl
@[simp] theorem State.setContext_watches (s : State) (a : Nat) (x : Context) : (s.setContext a x).watches = s.watches := rfl
@[simp] theorem State.setContext_gangs (s : State) (a : Nat) (x : Context) : (s.setContext a x).gangs = s.gangs := rfl
@[simp] theorem State.setContext_keel (s : State) (a : Nat) (x : Context) : (s.setContext a x).keel = s.keel := rfl
@[simp] theorem State.setContext_hub (s : State) (a : Nat) (x : Context) : (s.setContext a x).hub = s.hub := rfl
@[simp] theorem State.setContext_sec (s : State) (a : Nat) (x : Context) : (s.setContext a x).sec = s.sec := rfl
@[simp] theorem State.setContext_plate (s : State) (a : Nat) (x : Context) : (s.setContext a x).plate = s.plate := rfl
@[simp] theorem State.setContext_time (s : State) (a : Nat) (x : Context) : (s.setContext a x).time = s.time := rfl
@[simp] theorem State.setContext_agenda (s : State) (a : Nat) (x : Context) : (s.setContext a x).agenda = s.agenda := rfl
@[simp] theorem State.setContext_cur (s : State) (a : Nat) (x : Context) : (s.setContext a x).cur = s.cur := rfl
@[simp] theorem State.setContext_n (s : State) (a : Nat) (x : Context) : (s.setContext a x).n = s.n := rfl

@[simp] theorem writeRam_harts (s : State) (l : Nat) (b : List Byte) : (writeRam s l b).harts = s.harts := rfl
@[simp] theorem writeRam_cores (s : State) (l : Nat) (b : List Byte) : (writeRam s l b).cores = s.cores := rfl
@[simp] theorem writeRam_clusters (s : State) (l : Nat) (b : List Byte) : (writeRam s l b).clusters = s.clusters := rfl
@[simp] theorem writeRam_contexts (s : State) (l : Nat) (b : List Byte) : (writeRam s l b).contexts = s.contexts := rfl
@[simp] theorem writeRam_cached (s : State) (l : Nat) (b : List Byte) : (writeRam s l b).cached = s.cached := rfl
@[simp] theorem writeRam_chainTags (s : State) (l : Nat) (b : List Byte) : (writeRam s l b).chainTags = s.chainTags := rfl
@[simp] theorem writeRam_windows (s : State) (l : Nat) (b : List Byte) : (writeRam s l b).windows = s.windows := rfl
@[simp] theorem writeRam_jobs (s : State) (l : Nat) (b : List Byte) : (writeRam s l b).jobs = s.jobs := rfl
@[simp] theorem writeRam_ahead (s : State) (l : Nat) (b : List Byte) : (writeRam s l b).ahead = s.ahead := rfl
@[simp] theorem writeRam_requests (s : State) (l : Nat) (b : List Byte) : (writeRam s l b).requests = s.requests := rfl
@[simp] theorem writeRam_watches (s : State) (l : Nat) (b : List Byte) : (writeRam s l b).watches = s.watches := rfl
@[simp] theorem writeRam_gangs (s : State) (l : Nat) (b : List Byte) : (writeRam s l b).gangs = s.gangs := rfl
@[simp] theorem writeRam_keel (s : State) (l : Nat) (b : List Byte) : (writeRam s l b).keel = s.keel := rfl
@[simp] theorem writeRam_hub (s : State) (l : Nat) (b : List Byte) : (writeRam s l b).hub = s.hub := rfl
@[simp] theorem writeRam_sec (s : State) (l : Nat) (b : List Byte) : (writeRam s l b).sec = s.sec := rfl
@[simp] theorem writeRam_plate (s : State) (l : Nat) (b : List Byte) : (writeRam s l b).plate = s.plate := rfl
@[simp] theorem writeRam_time (s : State) (l : Nat) (b : List Byte) : (writeRam s l b).time = s.time := rfl
@[simp] theorem writeRam_agenda (s : State) (l : Nat) (b : List Byte) : (writeRam s l b).agenda = s.agenda := rfl
@[simp] theorem writeRam_cur (s : State) (l : Nat) (b : List Byte) : (writeRam s l b).cur = s.cur := rfl
@[simp] theorem writeRam_n (s : State) (l : Nat) (b : List Byte) : (writeRam s l b).n = s.n := rfl

@[simp] theorem setTaint_harts (s : State) (l n : Nat) (t : Taint) : (setTaint s l n t).harts = s.harts := rfl
@[simp] theorem setTaint_cores (s : State) (l n : Nat) (t : Taint) : (setTaint s l n t).cores = s.cores := rfl
@[simp] theorem setTaint_clusters (s : State) (l n : Nat) (t : Taint) : (setTaint s l n t).clusters = s.clusters := rfl
@[simp] theorem setTaint_contexts (s : State) (l n : Nat) (t : Taint) : (setTaint s l n t).contexts = s.contexts := rfl
@[simp] theorem setTaint_mem (s : State) (l n : Nat) (t : Taint) : (setTaint s l n t).mem = s.mem := rfl
@[simp] theorem setTaint_dirty (s : State) (l n : Nat) (t : Taint) : (setTaint s l n t).dirty = s.dirty := rfl
@[simp] theorem setTaint_cached (s : State) (l n : Nat) (t : Taint) : (setTaint s l n t).cached = s.cached := rfl
@[simp] theorem setTaint_chainTags (s : State) (l n : Nat) (t : Taint) : (setTaint s l n t).chainTags = s.chainTags := rfl
@[simp] theorem setTaint_windows (s : State) (l n : Nat) (t : Taint) : (setTaint s l n t).windows = s.windows := rfl
@[simp] theorem setTaint_journal (s : State) (l n : Nat) (t : Taint) : (setTaint s l n t).journal = s.journal := rfl
@[simp] theorem setTaint_ahead (s : State) (l n : Nat) (t : Taint) : (setTaint s l n t).ahead = s.ahead := rfl
@[simp] theorem setTaint_requests (s : State) (l n : Nat) (t : Taint) : (setTaint s l n t).requests = s.requests := rfl
@[simp] theorem setTaint_watches (s : State) (l n : Nat) (t : Taint) : (setTaint s l n t).watches = s.watches := rfl
@[simp] theorem setTaint_gangs (s : State) (l n : Nat) (t : Taint) : (setTaint s l n t).gangs = s.gangs := rfl
@[simp] theorem setTaint_keel (s : State) (l n : Nat) (t : Taint) : (setTaint s l n t).keel = s.keel := rfl
@[simp] theorem setTaint_hub (s : State) (l n : Nat) (t : Taint) : (setTaint s l n t).hub = s.hub := rfl
@[simp] theorem setTaint_sec (s : State) (l n : Nat) (t : Taint) : (setTaint s l n t).sec = s.sec := rfl
@[simp] theorem setTaint_plate (s : State) (l n : Nat) (t : Taint) : (setTaint s l n t).plate = s.plate := rfl
@[simp] theorem setTaint_time (s : State) (l n : Nat) (t : Taint) : (setTaint s l n t).time = s.time := rfl
@[simp] theorem setTaint_agenda (s : State) (l n : Nat) (t : Taint) : (setTaint s l n t).agenda = s.agenda := rfl
@[simp] theorem setTaint_cur (s : State) (l n : Nat) (t : Taint) : (setTaint s l n t).cur = s.cur := rfl
@[simp] theorem setTaint_n (s : State) (l n : Nat) (t : Taint) : (setTaint s l n t).n = s.n := rfl

@[simp] theorem pushRecord_harts (s : State) (r : FaultRecord) : (pushRecord s r).harts = s.harts := rfl
@[simp] theorem pushRecord_cores (s : State) (r : FaultRecord) : (pushRecord s r).cores = s.cores := rfl
@[simp] theorem pushRecord_clusters (s : State) (r : FaultRecord) : (pushRecord s r).clusters = s.clusters := rfl
@[simp] theorem pushRecord_contexts (s : State) (r : FaultRecord) : (pushRecord s r).contexts = s.contexts := rfl
@[simp] theorem pushRecord_mem (s : State) (r : FaultRecord) : (pushRecord s r).mem = s.mem := rfl
@[simp] theorem pushRecord_taint (s : State) (r : FaultRecord) : (pushRecord s r).taint = s.taint := rfl
@[simp] theorem pushRecord_dirty (s : State) (r : FaultRecord) : (pushRecord s r).dirty = s.dirty := rfl
@[simp] theorem pushRecord_cached (s : State) (r : FaultRecord) : (pushRecord s r).cached = s.cached := rfl
@[simp] theorem pushRecord_chainTags (s : State) (r : FaultRecord) : (pushRecord s r).chainTags = s.chainTags := rfl
@[simp] theorem pushRecord_windows (s : State) (r : FaultRecord) : (pushRecord s r).windows = s.windows := rfl
@[simp] theorem pushRecord_jobs (s : State) (r : FaultRecord) : (pushRecord s r).jobs = s.jobs := rfl
@[simp] theorem pushRecord_journal (s : State) (r : FaultRecord) : (pushRecord s r).journal = s.journal := rfl
@[simp] theorem pushRecord_ahead (s : State) (r : FaultRecord) : (pushRecord s r).ahead = s.ahead := rfl
@[simp] theorem pushRecord_requests (s : State) (r : FaultRecord) : (pushRecord s r).requests = s.requests := rfl
@[simp] theorem pushRecord_watches (s : State) (r : FaultRecord) : (pushRecord s r).watches = s.watches := rfl
@[simp] theorem pushRecord_gangs (s : State) (r : FaultRecord) : (pushRecord s r).gangs = s.gangs := rfl
@[simp] theorem pushRecord_hub (s : State) (r : FaultRecord) : (pushRecord s r).hub = s.hub := rfl
@[simp] theorem pushRecord_sec (s : State) (r : FaultRecord) : (pushRecord s r).sec = s.sec := rfl
@[simp] theorem pushRecord_plate (s : State) (r : FaultRecord) : (pushRecord s r).plate = s.plate := rfl
@[simp] theorem pushRecord_time (s : State) (r : FaultRecord) : (pushRecord s r).time = s.time := rfl
@[simp] theorem pushRecord_agenda (s : State) (r : FaultRecord) : (pushRecord s r).agenda = s.agenda := rfl
@[simp] theorem pushRecord_cur (s : State) (r : FaultRecord) : (pushRecord s r).cur = s.cur := rfl
@[simp] theorem pushRecord_n (s : State) (r : FaultRecord) : (pushRecord s r).n = s.n := rfl

@[simp] theorem Hart.writeS_f (x : Hart) (r : Reg) (v : Word) : (x.writeS r v).f = x.f := by unfold Hart.writeS; split <;> rfl
@[simp] theorem Hart.writeS_pc (x : Hart) (r : Reg) (v : Word) : (x.writeS r v).pc = x.pc := by unfold Hart.writeS; split <;> rfl
@[simp] theorem Hart.writeS_fetched (x : Hart) (r : Reg) (v : Word) : (x.writeS r v).fetched = x.fetched := by unfold Hart.writeS; split <;> rfl
@[simp] theorem Hart.writeS_qual (x : Hart) (r : Reg) (v : Word) : (x.writeS r v).qual = x.qual := by unfold Hart.writeS; split <;> rfl
@[simp] theorem Hart.writeS_mode (x : Hart) (r : Reg) (v : Word) : (x.writeS r v).mode = x.mode := by unfold Hart.writeS; split <;> rfl
@[simp] theorem Hart.writeS_asid (x : Hart) (r : Reg) (v : Word) : (x.writeS r v).asid = x.asid := by unfold Hart.writeS; split <;> rfl
@[simp] theorem Hart.writeS_frm (x : Hart) (r : Reg) (v : Word) : (x.writeS r v).frm = x.frm := by unfold Hart.writeS; split <;> rfl
@[simp] theorem Hart.writeS_fflags (x : Hart) (r : Reg) (v : Word) : (x.writeS r v).fflags = x.fflags := by unfold Hart.writeS; split <;> rfl
@[simp] theorem Hart.writeS_lc0 (x : Hart) (r : Reg) (v : Word) : (x.writeS r v).lc0 = x.lc0 := by unfold Hart.writeS; split <;> rfl
@[simp] theorem Hart.writeS_lc1 (x : Hart) (r : Reg) (v : Word) : (x.writeS r v).lc1 = x.lc1 := by unfold Hart.writeS; split <;> rfl
@[simp] theorem Hart.writeS_pred (x : Hart) (r : Reg) (v : Word) : (x.writeS r v).pred = x.pred := by unfold Hart.writeS; split <;> rfl
@[simp] theorem Hart.writeS_wid (x : Hart) (r : Reg) (v : Word) : (x.writeS r v).wid = x.wid := by unfold Hart.writeS; split <;> rfl
@[simp] theorem Hart.writeS_qpmin (x : Hart) (r : Reg) (v : Word) : (x.writeS r v).qpmin = x.qpmin := by unfold Hart.writeS; split <;> rfl
@[simp] theorem Hart.writeS_qpcap (x : Hart) (r : Reg) (v : Word) : (x.writeS r v).qpcap = x.qpcap := by unfold Hart.writeS; split <;> rfl
@[simp] theorem Hart.writeS_epc (x : Hart) (r : Reg) (v : Word) : (x.writeS r v).epc = x.epc := by unfold Hart.writeS; split <;> rfl
@[simp] theorem Hart.writeS_ecause (x : Hart) (r : Reg) (v : Word) : (x.writeS r v).ecause = x.ecause := by unfold Hart.writeS; split <;> rfl
@[simp] theorem Hart.writeS_eval (x : Hart) (r : Reg) (v : Word) : (x.writeS r v).eval = x.eval := by unfold Hart.writeS; split <;> rfl
@[simp] theorem Hart.writeS_estat (x : Hart) (r : Reg) (v : Word) : (x.writeS r v).estat = x.estat := by unfold Hart.writeS; split <;> rfl
@[simp] theorem Hart.writeS_escratch (x : Hart) (r : Reg) (v : Word) : (x.writeS r v).escratch = x.escratch := by unfold Hart.writeS; split <;> rfl
@[simp] theorem Hart.writeS_conf (x : Hart) (r : Reg) (v : Word) : (x.writeS r v).conf = x.conf := by unfold Hart.writeS; split <;> rfl
@[simp] theorem Hart.writeS_vl (x : Hart) (r : Reg) (v : Word) : (x.writeS r v).vl = x.vl := by unfold Hart.writeS; split <;> rfl
@[simp] theorem Hart.writeS_vrows (x : Hart) (r : Reg) (v : Word) : (x.writeS r v).vrows = x.vrows := by unfold Hart.writeS; split <;> rfl
@[simp] theorem Hart.writeS_vstart (x : Hart) (r : Reg) (v : Word) : (x.writeS r v).vstart = x.vstart := by unfold Hart.writeS; split <;> rfl
@[simp] theorem Hart.writeS_v (x : Hart) (r : Reg) (v : Word) : (x.writeS r v).v = x.v := by unfold Hart.writeS; split <;> rfl
@[simp] theorem Hart.writeS_m (x : Hart) (r : Reg) (v : Word) : (x.writeS r v).m = x.m := by unfold Hart.writeS; split <;> rfl
@[simp] theorem Hart.writeS_gang (x : Hart) (r : Reg) (v : Word) : (x.writeS r v).gang = x.gang := by unfold Hart.writeS; split <;> rfl
@[simp] theorem Hart.writeS_gangLead (x : Hart) (r : Reg) (v : Word) : (x.writeS r v).gangLead = x.gangLead := by unfold Hart.writeS; split <;> rfl
@[simp] theorem Hart.writeS_gangFeed (x : Hart) (r : Reg) (v : Word) : (x.writeS r v).gangFeed = x.gangFeed := by unfold Hart.writeS; split <;> rfl
@[simp] theorem Hart.writeS_tokens (x : Hart) (r : Reg) (v : Word) : (x.writeS r v).tokens = x.tokens := by unfold Hart.writeS; split <;> rfl
@[simp] theorem Hart.writeS_chain (x : Hart) (r : Reg) (v : Word) : (x.writeS r v).chain = x.chain := by unfold Hart.writeS; split <;> rfl
@[simp] theorem Hart.writeS_cursors (x : Hart) (r : Reg) (v : Word) : (x.writeS r v).cursors = x.cursors := by unfold Hart.writeS; split <;> rfl
@[simp] theorem Hart.writeS_pass (x : Hart) (r : Reg) (v : Word) : (x.writeS r v).pass = x.pass := by unfold Hart.writeS; split <;> rfl
@[simp] theorem Hart.writeS_seg (x : Hart) (r : Reg) (v : Word) : (x.writeS r v).seg = x.seg := by unfold Hart.writeS; split <;> rfl
@[simp] theorem Hart.writeS_scalarTime (x : Hart) (r : Reg) (v : Word) : (x.writeS r v).scalarTime = x.scalarTime := by unfold Hart.writeS; split <;> rfl
@[simp] theorem Hart.writeS_vectorTime (x : Hart) (r : Reg) (v : Word) : (x.writeS r v).vectorTime = x.vectorTime := by unfold Hart.writeS; split <;> rfl
@[simp] theorem Hart.writeS_lines (x : Hart) (r : Reg) (v : Word) : (x.writeS r v).lines = x.lines := by unfold Hart.writeS; split <;> rfl
@[simp] theorem Hart.writeS_image (x : Hart) (r : Reg) (v : Word) : (x.writeS r v).image = x.image := by unfold Hart.writeS; split <;> rfl
@[simp] theorem Hart.writeS_loops (x : Hart) (r : Reg) (v : Word) : (x.writeS r v).loops = x.loops := by unfold Hart.writeS; split <;> rfl
@[simp] theorem Hart.writeS_work (x : Hart) (r : Reg) (v : Word) : (x.writeS r v).work = x.work := by unfold Hart.writeS; split <;> rfl
@[simp] theorem Hart.writeS_gen (x : Hart) (r : Reg) (v : Word) : (x.writeS r v).gen = x.gen := by unfold Hart.writeS; split <;> rfl
@[simp] theorem Hart.writeS_placed (x : Hart) (r : Reg) (v : Word) : (x.writeS r v).placed = x.placed := by unfold Hart.writeS; split <;> rfl
@[simp] theorem Hart.writeS_raised (x : Hart) (r : Reg) (v : Word) : (x.writeS r v).raised = x.raised := by unfold Hart.writeS; split <;> rfl
@[simp] theorem Hart.writeS_lag (x : Hart) (r : Reg) (v : Word) : (x.writeS r v).lag = x.lag := by unfold Hart.writeS; split <;> rfl
@[simp] theorem Hart.writeS_scalarQueue (x : Hart) (r : Reg) (v : Word) : (x.writeS r v).scalarQueue = x.scalarQueue := by unfold Hart.writeS; split <;> rfl
@[simp] theorem Hart.writeS_vectorQueue (x : Hart) (r : Reg) (v : Word) : (x.writeS r v).vectorQueue = x.vectorQueue := by unfold Hart.writeS; split <;> rfl
@[simp] theorem Hart.writeS_run (x : Hart) (r : Reg) (v : Word) : (x.writeS r v).run = x.run := by unfold Hart.writeS; split <;> rfl
@[simp] theorem Hart.writeS_halted (x : Hart) (r : Reg) (v : Word) : (x.writeS r v).halted = x.halted := by unfold Hart.writeS; split <;> rfl
@[simp] theorem Hart.writeS_stepping (x : Hart) (r : Reg) (v : Word) : (x.writeS r v).stepping = x.stepping := by unfold Hart.writeS; split <;> rfl

@[simp] theorem Hart.writeF_s (x : Hart) (r : Reg) (v : Word) : (x.writeF r v).s = x.s := rfl
@[simp] theorem Hart.writeF_pc (x : Hart) (r : Reg) (v : Word) : (x.writeF r v).pc = x.pc := rfl
@[simp] theorem Hart.writeF_fetched (x : Hart) (r : Reg) (v : Word) : (x.writeF r v).fetched = x.fetched := rfl
@[simp] theorem Hart.writeF_qual (x : Hart) (r : Reg) (v : Word) : (x.writeF r v).qual = x.qual := rfl
@[simp] theorem Hart.writeF_mode (x : Hart) (r : Reg) (v : Word) : (x.writeF r v).mode = x.mode := rfl
@[simp] theorem Hart.writeF_asid (x : Hart) (r : Reg) (v : Word) : (x.writeF r v).asid = x.asid := rfl
@[simp] theorem Hart.writeF_frm (x : Hart) (r : Reg) (v : Word) : (x.writeF r v).frm = x.frm := rfl
@[simp] theorem Hart.writeF_fflags (x : Hart) (r : Reg) (v : Word) : (x.writeF r v).fflags = x.fflags := rfl
@[simp] theorem Hart.writeF_lc0 (x : Hart) (r : Reg) (v : Word) : (x.writeF r v).lc0 = x.lc0 := rfl
@[simp] theorem Hart.writeF_lc1 (x : Hart) (r : Reg) (v : Word) : (x.writeF r v).lc1 = x.lc1 := rfl
@[simp] theorem Hart.writeF_pred (x : Hart) (r : Reg) (v : Word) : (x.writeF r v).pred = x.pred := rfl
@[simp] theorem Hart.writeF_wid (x : Hart) (r : Reg) (v : Word) : (x.writeF r v).wid = x.wid := rfl
@[simp] theorem Hart.writeF_qpmin (x : Hart) (r : Reg) (v : Word) : (x.writeF r v).qpmin = x.qpmin := rfl
@[simp] theorem Hart.writeF_qpcap (x : Hart) (r : Reg) (v : Word) : (x.writeF r v).qpcap = x.qpcap := rfl
@[simp] theorem Hart.writeF_epc (x : Hart) (r : Reg) (v : Word) : (x.writeF r v).epc = x.epc := rfl
@[simp] theorem Hart.writeF_ecause (x : Hart) (r : Reg) (v : Word) : (x.writeF r v).ecause = x.ecause := rfl
@[simp] theorem Hart.writeF_eval (x : Hart) (r : Reg) (v : Word) : (x.writeF r v).eval = x.eval := rfl
@[simp] theorem Hart.writeF_estat (x : Hart) (r : Reg) (v : Word) : (x.writeF r v).estat = x.estat := rfl
@[simp] theorem Hart.writeF_escratch (x : Hart) (r : Reg) (v : Word) : (x.writeF r v).escratch = x.escratch := rfl
@[simp] theorem Hart.writeF_conf (x : Hart) (r : Reg) (v : Word) : (x.writeF r v).conf = x.conf := rfl
@[simp] theorem Hart.writeF_vl (x : Hart) (r : Reg) (v : Word) : (x.writeF r v).vl = x.vl := rfl
@[simp] theorem Hart.writeF_vrows (x : Hart) (r : Reg) (v : Word) : (x.writeF r v).vrows = x.vrows := rfl
@[simp] theorem Hart.writeF_vstart (x : Hart) (r : Reg) (v : Word) : (x.writeF r v).vstart = x.vstart := rfl
@[simp] theorem Hart.writeF_v (x : Hart) (r : Reg) (v : Word) : (x.writeF r v).v = x.v := rfl
@[simp] theorem Hart.writeF_m (x : Hart) (r : Reg) (v : Word) : (x.writeF r v).m = x.m := rfl
@[simp] theorem Hart.writeF_gang (x : Hart) (r : Reg) (v : Word) : (x.writeF r v).gang = x.gang := rfl
@[simp] theorem Hart.writeF_gangLead (x : Hart) (r : Reg) (v : Word) : (x.writeF r v).gangLead = x.gangLead := rfl
@[simp] theorem Hart.writeF_gangFeed (x : Hart) (r : Reg) (v : Word) : (x.writeF r v).gangFeed = x.gangFeed := rfl
@[simp] theorem Hart.writeF_tokens (x : Hart) (r : Reg) (v : Word) : (x.writeF r v).tokens = x.tokens := rfl
@[simp] theorem Hart.writeF_chain (x : Hart) (r : Reg) (v : Word) : (x.writeF r v).chain = x.chain := rfl
@[simp] theorem Hart.writeF_cursors (x : Hart) (r : Reg) (v : Word) : (x.writeF r v).cursors = x.cursors := rfl
@[simp] theorem Hart.writeF_pass (x : Hart) (r : Reg) (v : Word) : (x.writeF r v).pass = x.pass := rfl
@[simp] theorem Hart.writeF_seg (x : Hart) (r : Reg) (v : Word) : (x.writeF r v).seg = x.seg := rfl
@[simp] theorem Hart.writeF_scalarTime (x : Hart) (r : Reg) (v : Word) : (x.writeF r v).scalarTime = x.scalarTime := rfl
@[simp] theorem Hart.writeF_vectorTime (x : Hart) (r : Reg) (v : Word) : (x.writeF r v).vectorTime = x.vectorTime := rfl
@[simp] theorem Hart.writeF_lines (x : Hart) (r : Reg) (v : Word) : (x.writeF r v).lines = x.lines := rfl
@[simp] theorem Hart.writeF_image (x : Hart) (r : Reg) (v : Word) : (x.writeF r v).image = x.image := rfl
@[simp] theorem Hart.writeF_loops (x : Hart) (r : Reg) (v : Word) : (x.writeF r v).loops = x.loops := rfl
@[simp] theorem Hart.writeF_work (x : Hart) (r : Reg) (v : Word) : (x.writeF r v).work = x.work := rfl
@[simp] theorem Hart.writeF_gen (x : Hart) (r : Reg) (v : Word) : (x.writeF r v).gen = x.gen := rfl
@[simp] theorem Hart.writeF_placed (x : Hart) (r : Reg) (v : Word) : (x.writeF r v).placed = x.placed := rfl
@[simp] theorem Hart.writeF_raised (x : Hart) (r : Reg) (v : Word) : (x.writeF r v).raised = x.raised := rfl
@[simp] theorem Hart.writeF_lag (x : Hart) (r : Reg) (v : Word) : (x.writeF r v).lag = x.lag := rfl
@[simp] theorem Hart.writeF_scalarQueue (x : Hart) (r : Reg) (v : Word) : (x.writeF r v).scalarQueue = x.scalarQueue := rfl
@[simp] theorem Hart.writeF_vectorQueue (x : Hart) (r : Reg) (v : Word) : (x.writeF r v).vectorQueue = x.vectorQueue := rfl
@[simp] theorem Hart.writeF_run (x : Hart) (r : Reg) (v : Word) : (x.writeF r v).run = x.run := rfl
@[simp] theorem Hart.writeF_halted (x : Hart) (r : Reg) (v : Word) : (x.writeF r v).halted = x.halted := rfl
@[simp] theorem Hart.writeF_stepping (x : Hart) (r : Reg) (v : Word) : (x.writeF r v).stepping = x.stepping := rfl

@[simp] theorem Hart.setToken_s (x : Hart) (k : Nat) (t : Token) : (x.setToken k t).s = x.s := rfl
@[simp] theorem Hart.setToken_f (x : Hart) (k : Nat) (t : Token) : (x.setToken k t).f = x.f := rfl
@[simp] theorem Hart.setToken_pc (x : Hart) (k : Nat) (t : Token) : (x.setToken k t).pc = x.pc := rfl
@[simp] theorem Hart.setToken_fetched (x : Hart) (k : Nat) (t : Token) : (x.setToken k t).fetched = x.fetched := rfl
@[simp] theorem Hart.setToken_qual (x : Hart) (k : Nat) (t : Token) : (x.setToken k t).qual = x.qual := rfl
@[simp] theorem Hart.setToken_mode (x : Hart) (k : Nat) (t : Token) : (x.setToken k t).mode = x.mode := rfl
@[simp] theorem Hart.setToken_asid (x : Hart) (k : Nat) (t : Token) : (x.setToken k t).asid = x.asid := rfl
@[simp] theorem Hart.setToken_frm (x : Hart) (k : Nat) (t : Token) : (x.setToken k t).frm = x.frm := rfl
@[simp] theorem Hart.setToken_fflags (x : Hart) (k : Nat) (t : Token) : (x.setToken k t).fflags = x.fflags := rfl
@[simp] theorem Hart.setToken_lc0 (x : Hart) (k : Nat) (t : Token) : (x.setToken k t).lc0 = x.lc0 := rfl
@[simp] theorem Hart.setToken_lc1 (x : Hart) (k : Nat) (t : Token) : (x.setToken k t).lc1 = x.lc1 := rfl
@[simp] theorem Hart.setToken_pred (x : Hart) (k : Nat) (t : Token) : (x.setToken k t).pred = x.pred := rfl
@[simp] theorem Hart.setToken_wid (x : Hart) (k : Nat) (t : Token) : (x.setToken k t).wid = x.wid := rfl
@[simp] theorem Hart.setToken_qpmin (x : Hart) (k : Nat) (t : Token) : (x.setToken k t).qpmin = x.qpmin := rfl
@[simp] theorem Hart.setToken_qpcap (x : Hart) (k : Nat) (t : Token) : (x.setToken k t).qpcap = x.qpcap := rfl
@[simp] theorem Hart.setToken_epc (x : Hart) (k : Nat) (t : Token) : (x.setToken k t).epc = x.epc := rfl
@[simp] theorem Hart.setToken_ecause (x : Hart) (k : Nat) (t : Token) : (x.setToken k t).ecause = x.ecause := rfl
@[simp] theorem Hart.setToken_eval (x : Hart) (k : Nat) (t : Token) : (x.setToken k t).eval = x.eval := rfl
@[simp] theorem Hart.setToken_estat (x : Hart) (k : Nat) (t : Token) : (x.setToken k t).estat = x.estat := rfl
@[simp] theorem Hart.setToken_escratch (x : Hart) (k : Nat) (t : Token) : (x.setToken k t).escratch = x.escratch := rfl
@[simp] theorem Hart.setToken_conf (x : Hart) (k : Nat) (t : Token) : (x.setToken k t).conf = x.conf := rfl
@[simp] theorem Hart.setToken_vl (x : Hart) (k : Nat) (t : Token) : (x.setToken k t).vl = x.vl := rfl
@[simp] theorem Hart.setToken_vrows (x : Hart) (k : Nat) (t : Token) : (x.setToken k t).vrows = x.vrows := rfl
@[simp] theorem Hart.setToken_vstart (x : Hart) (k : Nat) (t : Token) : (x.setToken k t).vstart = x.vstart := rfl
@[simp] theorem Hart.setToken_v (x : Hart) (k : Nat) (t : Token) : (x.setToken k t).v = x.v := rfl
@[simp] theorem Hart.setToken_m (x : Hart) (k : Nat) (t : Token) : (x.setToken k t).m = x.m := rfl
@[simp] theorem Hart.setToken_spoiled (x : Hart) (k : Nat) (t : Token) : (x.setToken k t).spoiled = x.spoiled := rfl
@[simp] theorem Hart.setToken_gang (x : Hart) (k : Nat) (t : Token) : (x.setToken k t).gang = x.gang := rfl
@[simp] theorem Hart.setToken_gangLead (x : Hart) (k : Nat) (t : Token) : (x.setToken k t).gangLead = x.gangLead := rfl
@[simp] theorem Hart.setToken_gangFeed (x : Hart) (k : Nat) (t : Token) : (x.setToken k t).gangFeed = x.gangFeed := rfl
@[simp] theorem Hart.setToken_chain (x : Hart) (k : Nat) (t : Token) : (x.setToken k t).chain = x.chain := rfl
@[simp] theorem Hart.setToken_cursors (x : Hart) (k : Nat) (t : Token) : (x.setToken k t).cursors = x.cursors := rfl
@[simp] theorem Hart.setToken_pass (x : Hart) (k : Nat) (t : Token) : (x.setToken k t).pass = x.pass := rfl
@[simp] theorem Hart.setToken_seg (x : Hart) (k : Nat) (t : Token) : (x.setToken k t).seg = x.seg := rfl
@[simp] theorem Hart.setToken_scalarTime (x : Hart) (k : Nat) (t : Token) : (x.setToken k t).scalarTime = x.scalarTime := rfl
@[simp] theorem Hart.setToken_vectorTime (x : Hart) (k : Nat) (t : Token) : (x.setToken k t).vectorTime = x.vectorTime := rfl
@[simp] theorem Hart.setToken_lines (x : Hart) (k : Nat) (t : Token) : (x.setToken k t).lines = x.lines := rfl
@[simp] theorem Hart.setToken_image (x : Hart) (k : Nat) (t : Token) : (x.setToken k t).image = x.image := rfl
@[simp] theorem Hart.setToken_loops (x : Hart) (k : Nat) (t : Token) : (x.setToken k t).loops = x.loops := rfl
@[simp] theorem Hart.setToken_work (x : Hart) (k : Nat) (t : Token) : (x.setToken k t).work = x.work := rfl
@[simp] theorem Hart.setToken_gen (x : Hart) (k : Nat) (t : Token) : (x.setToken k t).gen = x.gen := rfl
@[simp] theorem Hart.setToken_placed (x : Hart) (k : Nat) (t : Token) : (x.setToken k t).placed = x.placed := rfl
@[simp] theorem Hart.setToken_raised (x : Hart) (k : Nat) (t : Token) : (x.setToken k t).raised = x.raised := rfl
@[simp] theorem Hart.setToken_lag (x : Hart) (k : Nat) (t : Token) : (x.setToken k t).lag = x.lag := rfl
@[simp] theorem Hart.setToken_scalarQueue (x : Hart) (k : Nat) (t : Token) : (x.setToken k t).scalarQueue = x.scalarQueue := rfl
@[simp] theorem Hart.setToken_vectorQueue (x : Hart) (k : Nat) (t : Token) : (x.setToken k t).vectorQueue = x.vectorQueue := rfl
@[simp] theorem Hart.setToken_run (x : Hart) (k : Nat) (t : Token) : (x.setToken k t).run = x.run := rfl
@[simp] theorem Hart.setToken_halted (x : Hart) (k : Nat) (t : Token) : (x.setToken k t).halted = x.halted := rfl
@[simp] theorem Hart.setToken_stepping (x : Hart) (k : Nat) (t : Token) : (x.setToken k t).stepping = x.stepping := rfl

@[simp] theorem Hart.raise_s (x : Hart) (g : Flags) : (x.raise g).s = x.s := rfl
@[simp] theorem Hart.raise_f (x : Hart) (g : Flags) : (x.raise g).f = x.f := rfl
@[simp] theorem Hart.raise_pc (x : Hart) (g : Flags) : (x.raise g).pc = x.pc := rfl
@[simp] theorem Hart.raise_fetched (x : Hart) (g : Flags) : (x.raise g).fetched = x.fetched := rfl
@[simp] theorem Hart.raise_qual (x : Hart) (g : Flags) : (x.raise g).qual = x.qual := rfl
@[simp] theorem Hart.raise_mode (x : Hart) (g : Flags) : (x.raise g).mode = x.mode := rfl
@[simp] theorem Hart.raise_asid (x : Hart) (g : Flags) : (x.raise g).asid = x.asid := rfl
@[simp] theorem Hart.raise_frm (x : Hart) (g : Flags) : (x.raise g).frm = x.frm := rfl
@[simp] theorem Hart.raise_lc0 (x : Hart) (g : Flags) : (x.raise g).lc0 = x.lc0 := rfl
@[simp] theorem Hart.raise_lc1 (x : Hart) (g : Flags) : (x.raise g).lc1 = x.lc1 := rfl
@[simp] theorem Hart.raise_pred (x : Hart) (g : Flags) : (x.raise g).pred = x.pred := rfl
@[simp] theorem Hart.raise_wid (x : Hart) (g : Flags) : (x.raise g).wid = x.wid := rfl
@[simp] theorem Hart.raise_qpmin (x : Hart) (g : Flags) : (x.raise g).qpmin = x.qpmin := rfl
@[simp] theorem Hart.raise_qpcap (x : Hart) (g : Flags) : (x.raise g).qpcap = x.qpcap := rfl
@[simp] theorem Hart.raise_epc (x : Hart) (g : Flags) : (x.raise g).epc = x.epc := rfl
@[simp] theorem Hart.raise_ecause (x : Hart) (g : Flags) : (x.raise g).ecause = x.ecause := rfl
@[simp] theorem Hart.raise_eval (x : Hart) (g : Flags) : (x.raise g).eval = x.eval := rfl
@[simp] theorem Hart.raise_estat (x : Hart) (g : Flags) : (x.raise g).estat = x.estat := rfl
@[simp] theorem Hart.raise_escratch (x : Hart) (g : Flags) : (x.raise g).escratch = x.escratch := rfl
@[simp] theorem Hart.raise_conf (x : Hart) (g : Flags) : (x.raise g).conf = x.conf := rfl
@[simp] theorem Hart.raise_vl (x : Hart) (g : Flags) : (x.raise g).vl = x.vl := rfl
@[simp] theorem Hart.raise_vrows (x : Hart) (g : Flags) : (x.raise g).vrows = x.vrows := rfl
@[simp] theorem Hart.raise_vstart (x : Hart) (g : Flags) : (x.raise g).vstart = x.vstart := rfl
@[simp] theorem Hart.raise_v (x : Hart) (g : Flags) : (x.raise g).v = x.v := rfl
@[simp] theorem Hart.raise_m (x : Hart) (g : Flags) : (x.raise g).m = x.m := rfl
@[simp] theorem Hart.raise_spoiled (x : Hart) (g : Flags) : (x.raise g).spoiled = x.spoiled := rfl
@[simp] theorem Hart.raise_gang (x : Hart) (g : Flags) : (x.raise g).gang = x.gang := rfl
@[simp] theorem Hart.raise_gangLead (x : Hart) (g : Flags) : (x.raise g).gangLead = x.gangLead := rfl
@[simp] theorem Hart.raise_gangFeed (x : Hart) (g : Flags) : (x.raise g).gangFeed = x.gangFeed := rfl
@[simp] theorem Hart.raise_tokens (x : Hart) (g : Flags) : (x.raise g).tokens = x.tokens := rfl
@[simp] theorem Hart.raise_chain (x : Hart) (g : Flags) : (x.raise g).chain = x.chain := rfl
@[simp] theorem Hart.raise_cursors (x : Hart) (g : Flags) : (x.raise g).cursors = x.cursors := rfl
@[simp] theorem Hart.raise_pass (x : Hart) (g : Flags) : (x.raise g).pass = x.pass := rfl
@[simp] theorem Hart.raise_seg (x : Hart) (g : Flags) : (x.raise g).seg = x.seg := rfl
@[simp] theorem Hart.raise_scalarTime (x : Hart) (g : Flags) : (x.raise g).scalarTime = x.scalarTime := rfl
@[simp] theorem Hart.raise_vectorTime (x : Hart) (g : Flags) : (x.raise g).vectorTime = x.vectorTime := rfl
@[simp] theorem Hart.raise_lines (x : Hart) (g : Flags) : (x.raise g).lines = x.lines := rfl
@[simp] theorem Hart.raise_image (x : Hart) (g : Flags) : (x.raise g).image = x.image := rfl
@[simp] theorem Hart.raise_loops (x : Hart) (g : Flags) : (x.raise g).loops = x.loops := rfl
@[simp] theorem Hart.raise_work (x : Hart) (g : Flags) : (x.raise g).work = x.work := rfl
@[simp] theorem Hart.raise_gen (x : Hart) (g : Flags) : (x.raise g).gen = x.gen := rfl
@[simp] theorem Hart.raise_placed (x : Hart) (g : Flags) : (x.raise g).placed = x.placed := rfl
@[simp] theorem Hart.raise_raised (x : Hart) (g : Flags) : (x.raise g).raised = x.raised := rfl
@[simp] theorem Hart.raise_lag (x : Hart) (g : Flags) : (x.raise g).lag = x.lag := rfl
@[simp] theorem Hart.raise_scalarQueue (x : Hart) (g : Flags) : (x.raise g).scalarQueue = x.scalarQueue := rfl
@[simp] theorem Hart.raise_vectorQueue (x : Hart) (g : Flags) : (x.raise g).vectorQueue = x.vectorQueue := rfl
@[simp] theorem Hart.raise_run (x : Hart) (g : Flags) : (x.raise g).run = x.run := rfl
@[simp] theorem Hart.raise_halted (x : Hart) (g : Flags) : (x.raise g).halted = x.halted := rfl
@[simp] theorem Hart.raise_stepping (x : Hart) (g : Flags) : (x.raise g).stepping = x.stepping := rfl

@[simp] theorem Hart.raise_fflags (x : Hart) (g : Flags) : (x.raise g).fflags = x.fflags ||| g := rfl

/-! Reading what was written. -/

@[simp] theorem State.hart_setHart_same (s : State) (h : Nat) (x : Hart) : (s.setHart h x).hart h = x := by
  simp [State.hart, State.setHart]
theorem State.hart_setHart_other (s : State) (h k : Nat) (x : Hart) (n : k ≠ h) : (s.setHart h x).hart k = s.hart k := by
  simp [State.hart, State.setHart, Tab.get_set_other _ _ _ _ _ n]
@[simp] theorem State.me_setMe (s : State) (x : Hart) : (s.setMe x).me = x := by
  simp [State.me, State.setMe]
@[simp] theorem State.hart_setMe_cur (s : State) (x : Hart) : (s.setMe x).hart s.cur = x := by
  simp [State.setMe]
theorem State.hart_setMe_other (s : State) (k : Nat) (x : Hart) (n : k ≠ s.cur) : (s.setMe x).hart k = s.hart k :=
  State.hart_setHart_other s s.cur k x n
@[simp] theorem State.core_setCore_same (s : State) (c : Nat) (x : CoreState) : (s.setCore c x).core c = x := by
  simp [State.core, State.setCore]
theorem State.core_setCore_other (s : State) (c k : Nat) (x : CoreState) (n : k ≠ c) :
    (s.setCore c x).core k = s.core k := by
  simp [State.core, State.setCore, Tab.get_set_other _ _ _ _ _ n]
@[simp] theorem State.cluster_setCluster_same (s : State) (c : Nat) (x : Cluster) :
    (s.setCluster c x).cluster c = x := by
  simp [State.cluster, State.setCluster]
@[simp] theorem State.context_setContext_same (s : State) (a : Nat) (x : Context) :
    (s.setContext a x).context a = x := by
  simp [State.context, State.setContext]
@[simp] theorem State.core_setHart (s : State) (h c : Nat) (x : Hart) : (s.setHart h x).core c = s.core c := rfl
@[simp] theorem State.core_setMe (s : State) (c : Nat) (x : Hart) : (s.setMe x).core c = s.core c := rfl
@[simp] theorem State.context_setHart (s : State) (h a : Nat) (x : Hart) : (s.setHart h x).context a = s.context a := rfl
@[simp] theorem State.context_setMe (s : State) (a : Nat) (x : Hart) : (s.setMe x).context a = s.context a := rfl
@[simp] theorem State.cluster_setHart (s : State) (h c : Nat) (x : Hart) : (s.setHart h x).cluster c = s.cluster c := rfl
@[simp] theorem State.cluster_setMe (s : State) (c : Nat) (x : Hart) : (s.setMe x).cluster c = s.cluster c := rfl
@[simp] theorem State.hart_setCore (s : State) (h c : Nat) (x : CoreState) : (s.setCore c x).hart h = s.hart h := rfl
@[simp] theorem State.me_setCore (s : State) (c : Nat) (x : CoreState) : (s.setCore c x).me = s.me := rfl
@[simp] theorem writeRam_hart (s : State) (l h : Nat) (b : List Byte) : (writeRam s l b).hart h = s.hart h := rfl
@[simp] theorem writeRam_me (s : State) (l : Nat) (b : List Byte) : (writeRam s l b).me = s.me := rfl
@[simp] theorem writeRam_core (s : State) (l c : Nat) (b : List Byte) : (writeRam s l b).core c = s.core c := rfl

/-! Registers (03 R69, R70). -/

@[simp] theorem Hart.readS_zero (x : Hart) : x.readS 0 = 0 := rfl
@[simp] theorem Hart.writeS_zero (x : Hart) (v : Word) : x.writeS 0 v = x := rfl
theorem Hart.readS_writeS_same (x : Hart) (d : Reg) (v : Word) (h : d ≠ 0) : (x.writeS d v).readS d = v := by
  rw [Hart.readS, Hart.writeS, if_neg h, if_neg h]; exact Tab.get_set_same 0 _ _ _
theorem Hart.readS_writeS_other (x : Hart) (d r : Reg) (v : Word) (h : r ≠ d) : (x.writeS d v).readS r = x.readS r := by
  have hn : r.toNat ≠ d.toNat := fun e => h (BitVec.eq_of_toNat_eq e)
  unfold Hart.readS Hart.writeS
  by_cases hd : d = 0
  · rw [if_pos hd]
  · rw [if_neg hd]; exact congrArg (fun w => if r = 0 then 0 else w) (Tab.get_set_other 0 _ _ _ _ hn)
@[simp] theorem Hart.readF_writeF_same (x : Hart) (d : Reg) (v : Word) : (x.writeF d v).readF d = v := by
  exact Tab.get_set_same 0 _ _ _
theorem Hart.readF_writeF_other (x : Hart) (d r : Reg) (v : Word) (h : r ≠ d) : (x.writeF d v).readF r = x.readF r := by
  have hn : r.toNat ≠ d.toNat := fun e => h (BitVec.eq_of_toNat_eq e)
  exact Tab.get_set_other 0 _ _ _ _ hn
@[simp] theorem Hart.token_setToken_same (x : Hart) (k : Nat) (t : Token) : (x.setToken k t).token k = t := by
  exact Tab.get_set_same _ _ _ _

end Sys2Proof.Machine
end

