-- ==== Sys2Proof/Laws/Control.lean ====
section
/-! SUPPORT. What the shared operations of control do, said once: the end-of-body tests, arriving at a PC, completing an
instruction, breaking a chain, entering a handler. -/

namespace Sys2Proof.Machine

/-- The hart's fields that a loop test may change are the PC, the counters, the predicates and the rotating names, with
what is poisoned of them. -/
theorem loopTest_hart (x : Hart) (l : Loop) :
    (loopTest x l).2 = { x with
      s := (loopTest x l).2.s
      spoiled := { x.spoiled with s := (loopTest x l).2.spoiled.s }
      pc := (loopTest x l).2.pc
      pred := (loopTest x l).2.pred } := by
  unfold loopTest
  split
  · split <;> rfl
  · split <;> rfl

theorem Tab.get_sets_other {α : Type} [DecidableEq α] (d : α) (l : List (Nat × α)) (m : SMap α) (i : Nat)
    (h : ∀ e ∈ l, e.1 ≠ i) : Tab.get d (Tab.sets d l m) i = Tab.get d m i := by
  unfold Tab.sets
  induction l generalizing m with
  | nil => rfl
  | cons e r ih =>
    simp only [List.foldl_cons]
    rw [ih _ fun a ha => h a (List.mem_cons_of_mem _ ha), Tab.get_set_other _ _ _ _ _ (h e List.mem_cons_self).symm]

/-- A rotation touches no name below s24 (05 R139). -/
theorem rotateWindow_low (x : Hart) (r : Nat) (h : r < 24) : Tab.get 0 (rotateWindow x).s r = Tab.get 0 x.s r := by
  apply Tab.get_sets_other
  intro e he
  simp only [List.mem_map] at he
  obtain ⟨k, -, rfl⟩ := he
  simp only
  omega

/-- A rotation moves no poison below s24. -/
theorem rotateWindow_spoiled (x : Hart) (r : Nat) (h : r < 24) :
    (rotateWindow x).spoiled.s.getLsbD r = x.spoiled.s.getLsbD r := by
  refine (BitVec.getLsbD_append (x := (x.spoiled.s.extractLsb' 24 8).rotateLeft 1) (y := x.spoiled.s.extractLsb' 0 24)).trans ?_
  simp [h]

theorem loopTest_spoiled (x : Hart) (l : Loop) (r : Nat) (h : r < 24) :
    (loopTest x l).2.spoiled.s.getLsbD r = x.spoiled.s.getLsbD r := by
  unfold loopTest
  split
  · split <;> rfl
  · split
    · exact rotateWindow_spoiled x r h
    · rfl

theorem loopTest_low (x : Hart) (l : Loop) (r : Nat) (h : r < 24) :
    Tab.get 0 (loopTest x l).2.s r = Tab.get 0 x.s r := by
  unfold loopTest
  split
  · split <;> rfl
  · split
    · exact rotateWindow_low x r h
    · rfl

/-- What the end-of-body tests may change. -/
theorem endOfBody_frame (n : Nat) (x : Hart) :
    let y := endOfBody n x
    y = { x with
        s := y.s
        spoiled := { x.spoiled with s := y.spoiled.s }
        pc := y.pc
        lc0 := y.lc0
        lc1 := y.lc1
        pred := y.pred }
      ∧ ∀ r, r < 24 → Tab.get 0 y.s r = Tab.get 0 x.s r ∧ y.spoiled.s.getLsbD r = x.spoiled.s.getLsbD r := by
  induction n generalizing x with
  | zero => exact ⟨rfl, fun _ _ => ⟨rfl, rfl⟩⟩
  | succ n ih =>
    simp only [endOfBody]
    split
    · have h := ih { (loopTest x x.lc0).2 with lc0 := (loopTest x x.lc0).1 }
      refine ⟨?_, fun r hr => ⟨(h.2 r hr).1.trans (loopTest_low x x.lc0 r hr),
        (h.2 r hr).2.trans (loopTest_spoiled x x.lc0 r hr)⟩⟩
      rw [h.1, loopTest_hart]
    · split
      · have h := ih { (loopTest x x.lc1).2 with lc1 := (loopTest x x.lc1).1 }
        refine ⟨?_, fun r hr => ⟨(h.2 r hr).1.trans (loopTest_low x x.lc1 r hr),
          (h.2 r hr).2.trans (loopTest_spoiled x x.lc1 r hr)⟩⟩
        rw [h.1, loopTest_hart]
      · exact ⟨rfl, fun _ _ => ⟨rfl, rfl⟩⟩

/-- Arriving at a PC changes no more than the tests made there do. -/
theorem arrive_completes (x : Hart) (pc : Word) : completes x (arrive x pc) := by
  have h := endOfBody_frame (x.lc0.count.toNat + x.lc1.count.toNat + 2) { x with pc := pc, qual := false }
  refine ⟨by unfold arrive; rw [h.1], fun r hr => ⟨?_, (h.2 r.toNat hr).2⟩⟩
  unfold Hart.readS
  split
  · rfl
  · exact (h.2 r.toNat hr).1

theorem not_loopHit (x : Hart) (l : Loop) (h : l.busy = true → l.mode = x.mode → l.fin ≠ x.pc) : loopHit x l = false := by
  unfold loopHit
  by_cases hb : l.busy = true
  · by_cases hm : l.mode = x.mode
    · simp [h hb hm]
    · simp [hm]
  · simp [hb]

/-- At a PC that is no active loop's END, arriving only sets the PC. -/
theorem arrive_plain (x : Hart) (pc : Word) (h : plainAt x pc) : arrive x pc = { x with pc := pc, qual := false } := by
  unfold arrive
  simp only [endOfBody]
  have h0 := not_loopHit { x with pc := pc, qual := false } x.lc0 h.1
  have h1 := not_loopHit { x with pc := pc, qual := false } x.lc1 h.2
  simp [h0, h1]

@[simp] theorem State.cur_setMe_eq (s : State) (x : Hart) : (s.setMe x).cur = s.cur := rfl

theorem finish_me (s : State) : (finish s).me = arrive s.me (following s.me) := State.me_setMe _ _

theorem finishWith_me (s : State) (f : Hart → Hart) :
    (finishWith s f).me = arrive (f s.me) (following (f s.me)) := by
  rw [finishWith, finish_me, State.me_setMe]

theorem setMe_onlyMe (s : State) (x : Hart) : onlyMe s (s.setMe x) :=
  ⟨rfl, fun h n => State.hart_setMe_other s h x n, fun _ => rfl⟩

theorem onlyMe_trans {s t u : State} (a : onlyMe s t) (b : onlyMe t u) : onlyMe s u := by
  have hc : t.cur = s.cur := by rw [a.1]
  refine ⟨?_, fun h n => (b.2.1 h (hc ▸ n)).trans (a.2.1 h n), fun k => (b.2.2 k).trans (a.2.2 k)⟩
  rw [b.1, a.1]

theorem finishWith_onlyMe (s : State) (f : Hart → Hart) : onlyMe s (finishWith s f) :=
  onlyMe_trans (setMe_onlyMe s (f s.me)) (setMe_onlyMe _ _)

/-- Out of a chain group an instruction runs as it stands. -/
theorem unchained_free (s : State) (k : State → Res) (h : free s) : unchained s k = k s := by
  unfold unchained
  rw [show s.me.chain = none from h.1]

/-- A trap from user mode into an installed handler (16 R401). -/
theorem takeTrap_user (s : State) (epc : Word) (c : Nat) (e st : Word) (q ch : Bool) (hc : c ≠ stackHeld)
    (hm : s.me.mode = .user) (hh : (s.context s.me.asid).handler ≠ 0) :
    takeTrap s epc c e st q ch = enterHandler s epc c e st q :=
  (if_neg hc).trans (if_pos ⟨hm, hh⟩)

end Sys2Proof.Machine
end

