-- ==== Sys2Proof/Laws/Spoil.lean ====
section
/-! SUPPORT. What poisoning and cleaning a part of a hart do (16 R418 to R420), said once. -/

namespace Sys2Proof.Machine

/-- With nothing poisoned an instruction has its own effect. -/
theorem execChecked_clear (i : Instr) (s : State) (h : s.me.spoiled.clear = true) : execChecked i s = exec i s := by
  simp [execChecked, readsSpoiled, h]

/-- A filter on keys keeps what it lets through and drops the rest. -/
theorem Tab.get_filter_key {α : Type} (d : α) (p : Nat → Bool) (m : SMap α) (k : Nat) :
    Tab.get d (m.filter fun e => p e.1) k = if p k then Tab.get d m k else d := by
  induction m with
  | nil => simp [Tab.get]
  | cons e r ih =>
    obtain ⟨j, v⟩ := e
    by_cases hp : p j = true
    · simp only [List.filter_cons, hp, if_true, Tab.get]
      by_cases hj : j = k
      · subst hj; simp [hp]
      · simp [hj, ih]
    · simp only [List.filter_cons, hp, Bool.false_eq_true, if_false, ih, Tab.get]
      by_cases hj : j = k
      · subst hj; simp [hp]
      · simp [hj]

/-- What is poisoned after the parts `l` of `r` have been written whole. -/
theorem unspoil_get (m : SMap Bits) (r : Nat) (l : List Nat) (q e : Nat) :
    Tab.get false (Tab.get [] (unspoil m r l) q) e
      = (Tab.get false (Tab.get [] m q) e && !(decide (q = r) && l.contains e)) := by
  unfold unspoil
  by_cases h : q = r
  · subst h
    rw [Tab.get_set_same, Tab.get_filter_key false (fun k => !l.contains k)]
    cases l.contains e <;> simp
  · rw [Tab.get_set_other _ _ _ _ _ h]; simp [h]

/-- Writing elements of a vector register whole. -/
theorem Hart.cleanV_spoiled (x : Hart) (r : Nat) (l : List Nat) (q e : Nat) :
    spoiledElem (x.cleanV r l) q e = (spoiledElem x q e && !(decide (q = r) && l.contains e)) :=
  unspoil_get x.spoiled.v r l q e

end Sys2Proof.Machine
end

