-- ==== Sys2Proof/Laws/Streams.lean ====
section
/-! SUPPORT. What the shared operations over a hart's streams and over the links of the Keel do. -/

namespace Sys2Proof.Machine

/-- With nothing performed before its turn, a stream's fresh access changes nothing. -/
theorem freshAccess_plain (s : State) (v : Bool) (h : s.ahead = []) : freshAccess s v = s := by
  simp [freshAccess, dropEarly, h]

/-- With nothing performed before its turn, a stream has nothing that its next accesses may be. -/
theorem early_plain (s : State) (h : Nat) (v : Bool) (e : s.ahead = []) : early s h v = [] := by
  simp [early, e]

/-- A read of a stream that has performed nothing before its turn finds memory as it stands (13 R324). -/
theorem readAccess_plain (s : State) (v : Bool) (r : Resolved) (n : Nat) (h : s.ahead = []) :
    readAccess s v r n = (readPlace s r.place n, s) := by
  simp [readAccess, early_plain s s.cur v h, takeRead, freshAccess_plain s v h]

/-- The stores of an access of such a stream are all left to perform (13 R324). -/
theorem writeAccess_plain (s : State) (v : Bool) (l : List (Resolved × List Byte)) (h : s.ahead = []) :
    writeAccess s v l = (s, l) := by
  have e : setEarly s s.cur v [] = s := by simp [setEarly, h]
  simp [writeAccess, early_plain s s.cur v h, takeWritten, e, freshAccess_plain s v h]

/-- A read-modify-write of such a stream is made on memory as it stands (13 R324). -/
theorem atomicAccess_plain (s : State) (r : Resolved) (n : Nat) (f : Nat → Option Nat) (h : s.ahead = []) :
    atomicAccess s r n f = (leNat (readPlace s r.place n),
      match f (leNat (readPlace s r.place n)) with | some v => storePlace s r.place (leBytes n v) | none => s) := by
  simp only [atomicAccess, early_plain s s.cur true h, takeAtomic, freshAccess_plain s true h] <;>
    cases f (leNat (readPlace s r.place n)) <;> rfl

/-- With both queues empty no access comes before an instruction. -/
theorem drained_empty (s : State) (i : Instr) (hs : s.me.scalarQueue = []) (hv : s.me.vectorQueue = []) : drained s i = s := by
  simp [drained, hs, hv]

/-- A hart whose accesses are made at their turn executes an instruction in the state as it stands. -/
theorem prepared_atTurn (s : State) (i : Instr) (h : atTurn s) : prepared s i = s := by
  obtain ⟨-, hs, hv, -, hp⟩ := h
  have fs : ∀ v, freshAccess s v = s := fun v => freshAccess_plain s v hp
  rw [prepared, drained_empty s i hs hv]
  unfold freshened
  cases meetsQueues i <;> dsimp only <;> (try split) <;> simp only [fs]

/-- Such a hart's instruction waits behind no store (09 R218). -/
theorem blocked_atTurn (s : State) (i : Instr) (h : atTurn s) : blocked s i = false := by
  obtain ⟨-, -, hv, -, -⟩ := h
  have hd : (drains s i).2 = 0 := by
    unfold drains resultLength
    dsimp only
    cases meetsQueues i <;> simp [hv]
  simp [blocked, hd]

/-- A message that finds a permit, and none before it, spends the permit and stands on the link (01 R29). -/
theorem sendCommand_permit (s : State) (cl : Nat) (m : Command) (hp : (s.cluster cl).permits ≠ 0)
    (hb : (s.cluster cl).backlog = []) :
    sendCommand s cl m = s.setCluster cl
      { s.cluster cl with permits := (s.cluster cl).permits - 1, link := (s.cluster cl).link ++ [m] } := by
  simp [sendCommand, hp, hb]

/-- A message that finds no permit waits behind the earlier ones (01 R29). -/
theorem sendCommand_waits (s : State) (cl : Nat) (m : Command) (hp : (s.cluster cl).permits = 0) :
    sendCommand s cl m = s.setCluster cl { s.cluster cl with backlog := (s.cluster cl).backlog ++ [m] } := by
  simp [sendCommand, hp]

/-- An access that joins a queue changes nothing but the executing hart (13 R323). -/
theorem enqueueAccess_onlyMe (s : State) (v : Bool) (l : List Pending) : onlyMe s (enqueueAccess s v l) := by
  unfold enqueueAccess
  split
  · exact ⟨rfl, fun _ _ => rfl, fun _ => rfl⟩
  · exact setMe_onlyMe s _

end Sys2Proof.Machine
end

