-- ==== Sys2Proof/Tests/Slice0.lean ====
section
/-! SUPPORT. The author's tests: words written out from the encodings of spec/, ill-formed terms that wellFormed refuses,
worked examples of spec/, and for the statements with hypotheses states that meet them. -/

namespace Sys2Proof.Tests

open Sys2Proof Sys2Proof.Machine

set_option Elab.async false

/-! Encodings: one word per encodable constructor, put together from the field tables of 04 R96, R105 and R110. -/

theorem test_words_register : ∀ e ∈ ([(32, 0x04E80009, .add 7 8 9),
    (32, 0x04E80409, .sub 7 8 9),
    (32, 0x04E80809, .mul 7 8 9),
    (32, 0x04E80C09, .mulh 7 8 9),
    (32, 0x04E81009, .mulhn 7 8 9),
    (32, 0x04E81409, .div 7 8 9),
    (32, 0x04E81809, .divn 7 8 9),
    (32, 0x04E81C09, .rem 7 8 9),
    (32, 0x04E82009, .remn 7 8 9),
    (32, 0x04E82409, .and 7 8 9),
    (32, 0x04E82809, .or 7 8 9),
    (32, 0x04E82C09, .xor 7 8 9),
    (32, 0x04E83009, .shl 7 8 9),
    (32, 0x04E83409, .shr 7 8 9),
    (32, 0x04E83809, .sra 7 8 9),
    (32, 0x04E83C09, .rot 7 8 9),
    (32, 0x04E84009, .slt 7 8 9),
    (32, 0x04E84409, .sltn 7 8 9),
    (32, 0x04E84809, .min 7 8 9),
    (32, 0x04E84C09, .max 7 8 9),
    (32, 0x04E85009, .minn 7 8 9),
    (32, 0x04E85409, .maxn 7 8 9),
    (32, 0x04E85809, .clmul 7 8 9),
    (32, 0x04E85C09, .clmulh 7 8 9),
    (32, 0x04E86000, .clz 7 8),
    (32, 0x04E86400, .ctz 7 8),
    (32, 0x04E86800, .pop 7 8),
    (32, 0x04646C20, .sext 3 4 1),
    (32, 0x04647020, .zext 3 4 1)] : List (Nat × Nat × Instr)),
    decodeTableWord e.1 e.2.1 = some e.2.2 := by decide +kernel
theorem test_words_immediate : ∀ e ∈ ([(32, 0x0923002D, .addi 9 3 45),
    (32, 0x0D23002D, .andi 9 3 45),
    (32, 0x1123002D, .ori 9 3 45),
    (32, 0x1523002D, .xori 9 3 45),
    (32, 0x1923002D, .shli 9 3 45),
    (32, 0x1D23002D, .shri 9 3 45),
    (32, 0x2123002D, .srai 9 3 45),
    (32, 0x2523002D, .slti 9 3 45),
    (64, 0x28A0123456789ABC, .limm 5 0x123456789ABC),
    (48, 0x2CA012345678, .addpc 5 0x12345678),
    (32, 0x30220083, .sel 1 2 3 4)] : List (Nat × Nat × Instr)),
    decodeTableWord e.1 e.2.1 = some e.2.2 := by decide +kernel
theorem test_words_float : ∀ e ∈ ([(48, 0x346120050002, .fadd ⟨3, 1, 2, 0, 2, false, false, false, 0, 0, 10⟩),
    (48, 0x346120050402, .fsub ⟨3, 1, 2, 0, 2, false, false, false, 0, 0, 10⟩),
    (48, 0x346120050802, .fmul ⟨3, 1, 2, 0, 2, false, false, false, 0, 0, 10⟩),
    (48, 0x346110050C82, .ffma ⟨3, 1, 2, 4, 1, false, false, false, 0, 0, 10⟩),
    (48, 0x34C120011140, .fcvt ⟨6, 1, 0, 10, 2, false, false, false, 0, 0, 2⟩),
    (48, 0x34C100059422, .fcmp ⟨6, 1, 2, 1, 0, false, false, false, 0, 0, 11⟩)] : List (Nat × Nat × Instr)),
    decodeTableWord e.1 e.2.1 = some e.2.2 := by decide +kernel
theorem test_words_control : ∀ e ∈ ([(48, 0x38220005FFFF, .beq 1 2 ⟨5, 0xFFFF⟩),
    (48, 0x38220025FFFF, .bne 1 2 ⟨5, 0xFFFF⟩),
    (48, 0x38220045FFFF, .blt 1 2 ⟨5, 0xFFFF⟩),
    (48, 0x38220065FFFF, .bge 1 2 ⟨5, 0xFFFF⟩),
    (48, 0x38220085FFFF, .bltn 1 2 ⟨5, 0xFFFF⟩),
    (48, 0x382200A5FFFF, .bgen 1 2 ⟨5, 0xFFFF⟩),
    (48, 0x3C0000050002, .jmp ⟨5, 2⟩),
    (48, 0x3C0000250002, .call ⟨5, 2⟩),
    (16, 0x4022, .jmpr 1 2),
    (48, 0x442200050002, .loop 1 2 ⟨5, 2⟩),
    (48, 0x4405022F0000, .loopm 0 5 ⟨15, 0⟩ 2),
    (64, 0x482002BC00050002, .loopi 1 700 ⟨5, 2⟩)] : List (Nat × Nat × Instr)),
    decodeTableWord e.1 e.2.1 = some e.2.2 := by decide +kernel
theorem test_words_system : ∀ e ∈ ([(16, 0x4C00, .nop),
    (16, 0x4C01, .next),
    (16, 0x4C02, .halt),
    (16, 0x4C03, .eret),
    (16, 0x4C04, .ill),
    (16, 0x4C05, .yield),
    (16, 0x4C06, .fence),
    (16, 0x4C07, .fenceSv),
    (16, 0x4C08, .fenceVs),
    (16, 0x4C09, .vdrain),
    (32, 0x50000007, .trap 7),
    (32, 0x54A00402, .srr 5 0x402),
    (32, 0x54A10003, .srw 5 3),
    (16, 0xC022, .tlbinv 1 2),
    (16, 0xC403, .stagePrefix 3)] : List (Nat × Nat × Instr)),
    decodeTableWord e.1 e.2.1 = some e.2.2 := by decide +kernel
theorem test_words_memory : ∀ e ∈ ([(48, 0x5B0A03800001, .ld ⟨24, 10, false, 3, 0x800001⟩),
    (48, 0x5C8A0B000008, .st ⟨4, 10, true, 3, 8⟩),
    (48, 0x602A00000040, .pref ⟨1, 10, false, 0, 64⟩),
    (32, 0x64220203, .amoAdd 1 2 3 true),
    (32, 0x64220223, .amoAnd 1 2 3 true),
    (32, 0x64220243, .amoOr 1 2 3 true),
    (32, 0x64220263, .amoXor 1 2 3 true),
    (32, 0x64220283, .amoMin 1 2 3 true),
    (32, 0x642202A3, .amoMax 1 2 3 true),
    (32, 0x642202C3, .amoMinn 1 2 3 true),
    (32, 0x642202E3, .amoMaxn 1 2 3 true),
    (32, 0x64220303, .amoSwap 1 2 3 true),
    (32, 0x64220323, .amoFadd 1 2 3 true),
    (32, 0x68220483, .cas 1 2 3 4 true)] : List (Nat × Nat × Instr)),
    decodeTableWord e.1 e.2.1 = some e.2.2 := by decide +kernel
theorem test_words_sync : ∀ e ∈ ([(32, 0x6C221523, .waitw 1 2 3 1 true 9),
    (32, 0x70220000, .pbinit 1 2),
    (32, 0x70220400, .pbarr 1 2),
    (32, 0x70220800, .pbexp 1 2),
    (32, 0x70220D20, .pbwait 1 2 9)] : List (Nat × Nat × Instr)),
    decodeTableWord e.1 e.2.1 = some e.2.2 := by decide +kernel
theorem test_words_shape : ∀ e ∈ ([(32, 0x74000076, .vcfg 2 5 3),
    (32, 0x78220000, .vsetl 1 2),
    (32, 0x78220400, .vsetr 1 2),
    (32, 0x78000800, .vrel),
    (32, 0x78220C00, .gang 1 2),
    (32, 0x7C220003, .mand 1 2 3),
    (32, 0x7C220403, .mor 1 2 3),
    (32, 0x7C220803, .mxor 1 2 3),
    (32, 0x7C220C00, .mnot 1 2),
    (32, 0x7C221000, .mset 1 2),
    (32, 0x7C221400, .mpop 1 2),
    (32, 0x7C221800, .mfirst 1 2),
    (32, 0x7C221C00, .mmov 1 2)] : List (Nat × Nat × Instr)),
    decodeTableWord e.1 e.2.1 = some e.2.2 := by decide +kernel
theorem test_words_vector : ∀ e ∈ ([(48, 0x806108090002, .vadd ⟨3, 1, 2, 0, 0, true, false, false, 0, 1, 2⟩),
    (48, 0x806108090402, .vsub ⟨3, 1, 2, 0, 0, true, false, false, 0, 1, 2⟩),
    (48, 0x806108090802, .vmul ⟨3, 1, 2, 0, 0, true, false, false, 0, 1, 2⟩),
    (48, 0x806130850C82, .vfma ⟨3, 1, 2, 4, 3, false, false, false, 2, 0, 10⟩),
    (48, 0x806130851082, .vfms ⟨3, 1, 2, 4, 3, false, false, false, 2, 0, 10⟩),
    (48, 0x806100031402, .vdiv ⟨3, 1, 2, 0, 0, false, false, false, 0, 0, 6⟩),
    (48, 0x806100052402, .vmin ⟨3, 1, 2, 0, 0, false, false, false, 0, 0, 10⟩),
    (48, 0x806100052802, .vmax ⟨3, 1, 2, 0, 0, false, false, false, 0, 0, 10⟩),
    (48, 0x806100033402, .vand ⟨3, 1, 2, 0, 0, false, false, false, 0, 0, 6⟩),
    (48, 0x806100033802, .vor ⟨3, 1, 2, 0, 0, false, false, false, 0, 0, 6⟩),
    (48, 0x806100033C02, .vxor ⟨3, 1, 2, 0, 0, false, false, false, 0, 0, 6⟩),
    (48, 0x806100034002, .vshl ⟨3, 1, 2, 0, 0, false, false, false, 0, 0, 6⟩),
    (48, 0x806100034402, .vshr ⟨3, 1, 2, 0, 0, false, false, false, 0, 0, 6⟩),
    (48, 0x806100034802, .vsra ⟨3, 1, 2, 0, 0, false, false, false, 0, 0, 6⟩),
    (48, 0x80610003CC22, .vclmul ⟨3, 1, 2, 1, 0, false, false, false, 0, 0, 7⟩),
    (48, 0x806100005082, .vdot ⟨3, 1, 2, 4, 0, false, false, false, 0, 0, 0⟩),
    (48, 0x806110051800, .vsqrt ⟨3, 1, 0, 0, 1, false, false, false, 0, 0, 10⟩),
    (48, 0x806110051C00, .vrsq ⟨3, 1, 0, 0, 1, false, false, false, 0, 0, 10⟩),
    (48, 0x806110052000, .vexp2 ⟨3, 1, 0, 0, 1, false, false, false, 0, 0, 10⟩),
    (48, 0x806100012C00, .vabs ⟨3, 1, 0, 0, 0, false, false, false, 0, 0, 2⟩),
    (48, 0x806100013000, .vneg ⟨3, 1, 0, 0, 0, false, false, false, 0, 0, 2⟩),
    (48, 0x8061000554A0, .vhad ⟨3, 1, 0, 5, 0, false, false, false, 0, 0, 10⟩),
    (48, 0x806120015940, .vcvt ⟨3, 1, 0, 10, 2, false, false, false, 0, 0, 2⟩)] : List (Nat × Nat × Instr)),
    decodeTableWord e.1 e.2.1 = some e.2.2 := by decide +kernel
theorem test_words_vectorVs : ∀ e ∈ ([(48, 0x846108090002, .vaddVs ⟨3, 1, 2, 0, 0, true, false, false, 0, 1, 2⟩),
    (48, 0x846108090402, .vsubVs ⟨3, 1, 2, 0, 0, true, false, false, 0, 1, 2⟩),
    (48, 0x846108090802, .vmulVs ⟨3, 1, 2, 0, 0, true, false, false, 0, 1, 2⟩),
    (48, 0x846130850C82, .vfmaVs ⟨3, 1, 2, 4, 3, false, false, false, 2, 0, 10⟩),
    (48, 0x846130851082, .vfmsVs ⟨3, 1, 2, 4, 3, false, false, false, 2, 0, 10⟩),
    (48, 0x846100031402, .vdivVs ⟨3, 1, 2, 0, 0, false, false, false, 0, 0, 6⟩),
    (48, 0x846100052402, .vminVs ⟨3, 1, 2, 0, 0, false, false, false, 0, 0, 10⟩),
    (48, 0x846100052802, .vmaxVs ⟨3, 1, 2, 0, 0, false, false, false, 0, 0, 10⟩),
    (48, 0x846100033402, .vandVs ⟨3, 1, 2, 0, 0, false, false, false, 0, 0, 6⟩),
    (48, 0x846100033802, .vorVs ⟨3, 1, 2, 0, 0, false, false, false, 0, 0, 6⟩),
    (48, 0x846100033C02, .vxorVs ⟨3, 1, 2, 0, 0, false, false, false, 0, 0, 6⟩),
    (48, 0x846100034002, .vshlVs ⟨3, 1, 2, 0, 0, false, false, false, 0, 0, 6⟩),
    (48, 0x846100034402, .vshrVs ⟨3, 1, 2, 0, 0, false, false, false, 0, 0, 6⟩),
    (48, 0x846100034802, .vsraVs ⟨3, 1, 2, 0, 0, false, false, false, 0, 0, 6⟩),
    (48, 0x84610003CC22, .vclmulVs ⟨3, 1, 2, 1, 0, false, false, false, 0, 0, 7⟩),
    (48, 0x846100005082, .vdotVs ⟨3, 1, 2, 4, 0, false, false, false, 0, 0, 0⟩)] : List (Nat × Nat × Instr)),
    decodeTableWord e.1 e.2.1 = some e.2.2 := by decide +kernel
theorem test_words_cross : ∀ e ∈ ([(48, 0x8861000100A2, .vsel ⟨3, 1, 2, 5, 0, false, false, false, 0, 0, 2⟩),
    (48, 0x886100010400, .vmv ⟨3, 1, 0, 0, 0, false, false, false, 0, 0, 2⟩),
    (48, 0x886000010802, .vbcast ⟨3, 0, 2, 0, 0, false, false, false, 0, 0, 2⟩),
    (48, 0x886100010C02, .vslide ⟨3, 1, 2, 0, 0, false, false, false, 0, 0, 2⟩),
    (48, 0x886100011002, .vperm ⟨3, 1, 2, 0, 0, false, false, false, 0, 0, 2⟩),
    (48, 0x886100031400, .viota ⟨3, 1, 0, 0, 0, false, false, false, 0, 0, 6⟩),
    (48, 0x8861000118A2, .vcmp ⟨3, 1, 2, 5, 0, false, false, false, 0, 0, 2⟩),
    (48, 0x886100011C20, .vred ⟨3, 1, 0, 1, 0, false, false, false, 0, 0, 2⟩)] : List (Nat × Nat × Instr)),
    decodeTableWord e.1 e.2.1 = some e.2.2 := by decide +kernel
theorem test_words_vmemory : ∀ e ∈ ([(64, 0x8C22000100480003, .vld ⟨1, 2, 0, 4, 0, 1, 2, 3⟩),
    (64, 0x8C22FFFF00082300, .vlds ⟨1, 2, 3, 262140, 0, 0, 2, 0⟩),
    (64, 0x8C22FFFF00084300, .vldx ⟨1, 2, 3, 262140, 0, 0, 2, 0⟩),
    (64, 0x8C22000000086000, .vldff ⟨1, 2, 0, 0, 0, 0, 2, 0⟩),
    (64, 0x8C2200000E088000, .vldt ⟨1, 2, 0, 0, 7, 0, 2, 0⟩),
    (64, 0x8C0200000008A000, .vpref ⟨0, 2, 0, 0, 0, 0, 2, 0⟩),
    (64, 0x9022000000080000, .vst ⟨1, 2, 0, 0, 0, 0, 2, 0⟩),
    (64, 0x9022000000082300, .vsts ⟨1, 2, 3, 0, 0, 0, 2, 0⟩),
    (64, 0x9022000000084300, .vstx ⟨1, 2, 3, 0, 0, 0, 2, 0⟩),
    (64, 0x9422000030080300, .vamo ⟨1, 2, 3, 0, 24, 0, 2, 0⟩),
    (64, 0x9420000004002300, .vlock ⟨1, 0, 3, 0, 2, 0, 0, 0⟩),
    (64, 0x9400000000004300, .vunlock ⟨0, 0, 3, 0, 0, 0, 0, 0⟩),
    (64, 0x9822000000000300, .stmap ⟨1, 2, 3, 0, 0, 0, 0, 0⟩),
    (64, 0x9820000000002000, .stwb ⟨1, 0, 0, 0, 0, 0, 0, 0⟩),
    (64, 0x9820000000004000, .stunmap ⟨1, 0, 0, 0, 0, 0, 0, 0⟩)] : List (Nat × Nat × Instr)),
    decodeTableWord e.1 e.2.1 = some e.2.2 := by decide +kernel
theorem test_words_matrix : ∀ e ∈ ([(64, 0x9C22000000000000, .oclaim ⟨1, 2, 0, 0, 0, 0, 0, 0⟩),
    (64, 0x9C20000000002000, .orel ⟨1, 0, 0, 0, 0, 0, 0, 0⟩),
    (64, 0x9C22000000304300, .oldv ⟨1, 2, 3, 0, 0, 0, 12, 0⟩),
    (64, 0xA02200014E000000, .opa ⟨1, 2, 0, 5, 7, 0, 0, 0⟩),
    (64, 0xA402000002000000, .aclaim ⟨0, 2, 0, 0, 1, 0, 0, 0⟩),
    (64, 0xA400000002002000, .arel ⟨0, 0, 0, 0, 1, 0, 0, 0⟩),
    (64, 0xA400000002004000, .aclr ⟨0, 0, 0, 0, 1, 0, 0, 0⟩),
    (64, 0xA420000002286300, .axt ⟨1, 0, 3, 0, 1, 0, 10, 0⟩),
    (64, 0xA402000002008000, .asave ⟨0, 2, 0, 0, 1, 0, 0, 0⟩),
    (64, 0xA40200000200A000, .aload ⟨0, 2, 0, 0, 1, 0, 0, 0⟩)] : List (Nat × Nat × Instr)),
    decodeTableWord e.1 e.2.1 = some e.2.2 := by decide +kernel
theorem test_words_movement : ∀ e ∈ ([(64, 0xA82200000E000300, .vcopy ⟨1, 2, 3, 0, 7, 0, 0, 0⟩),
    (64, 0xA802000016000000, .vcopyJob ⟨0, 2, 0, 0, 11, 0, 0, 0⟩),
    (64, 0xA822001006002300, .vcopyx ⟨1, 2, 3, 64, 3, 0, 0, 0⟩),
    (64, 0xAC22000000000000, .vstrm ⟨1, 2, 0, 0, 0, 0, 0, 0⟩),
    (64, 0xAC22000000002000, .vstrmx ⟨1, 2, 0, 0, 0, 0, 0, 0⟩),
    (32, 0xB00000A5, .waitk 0xA5),
    (32, 0xB0A00B00, .cwp 5 3),
    (32, 0xB4220003, .topen 1 2 3),
    (32, 0xB400000B, .trel 3),
    (32, 0xB4200013, .tstat 1 3)] : List (Nat × Nat × Instr)),
    decodeTableWord e.1 e.2.1 = some e.2.2 := by decide +kernel
theorem test_words_spools : ∀ e ∈ ([(32, 0xB8020003, .qinit 2 3),
    (32, 0xB8220523, .enq 1 2 3 9),
    (32, 0xB8220923, .deq 1 2 3 9),
    (32, 0xB822AD20, .venq 1 2 5 9),
    (32, 0xB822B120, .vdeq 1 2 5 9),
    (32, 0xB82214C3, .enqt 1 2 3 6),
    (32, 0xB82218C3, .deqt 1 2 3 6),
    (32, 0xB8221C00, .qstat 1 2),
    (32, 0xBC020000, .spawn 2),
    (32, 0xBC020400, .joinw 2),
    (32, 0xBC220803, .launch 1 2 3),
    (32, 0xBC220C03, .jstat 1 2 3),
    (32, 0xBC021003, .cancel 2 3)] : List (Nat × Nat × Instr)),
    decodeTableWord e.1 e.2.1 = some e.2.2 := by decide +kernel

/-! Ill-formed terms (04 R107, R108 and the form tables): each check refuses one. -/

theorem test_illformed_scalar :
    [(.sext 1 2 3 : Instr), .shli 1 2 64, .fadd ⟨16, 0, 0, 0, 0, false, false, false, 0, 0, 10⟩,
      .fadd ⟨1, 0, 0, 1, 0, false, false, false, 0, 0, 10⟩, .fmul ⟨1, 0, 0, 0, 6, false, false, false, 0, 0, 10⟩,
      .fsub ⟨1, 0, 0, 0, 0, false, false, false, 0, 0, 7⟩, .ffma ⟨1, 0, 0, 16, 0, false, false, false, 0, 0, 10⟩,
      .fcvt ⟨1, 2, 0, 10, 0, false, false, false, 0, 0, 10⟩, .fcmp ⟨1, 2, 3, 4, 0, false, false, false, 0, 0, 10⟩,
      .loop 2 1 ⟨1, 0⟩, .loopm 2 1 ⟨1, 0⟩ 0, .loopm 0 1 ⟨1, 0⟩ 8, .loopi 2 5 ⟨1, 0⟩].all (! Instr.wellFormed ·) = true := by
  decide
theorem test_illformed_memory :
    [(.ld ⟨1, 2, false, 7, 0⟩ : Instr), .ld ⟨1, 2, true, 2, 0⟩, .ld ⟨16, 2, true, 3, 0⟩, .st ⟨1, 2, false, 4, 0⟩,
      .st ⟨1, 2, true, 2, 0⟩, .pref ⟨2, 2, false, 0, 0⟩, .waitw 1 2 3 2 false 0].all (! Instr.wellFormed ·) = true := by
  decide
theorem test_illformed_vector :
    [(.mand 8 1 2 : Instr), .mset 8 1, .mpop 1 8, .vadd ⟨1, 2, 3, 4, 0, false, false, false, 0, 0, 2⟩,
      .vadd ⟨1, 2, 3, 0, 0, false, false, true, 0, 0, 10⟩, .vadd ⟨1, 2, 3, 0, 1, false, false, false, 0, 0, 2⟩,
      .vadd ⟨1, 2, 3, 0, 0, true, false, false, 0, 0, 10⟩, .vfma ⟨1, 2, 3, 4, 0, false, false, false, 0, 0, 11⟩,
      .vsqrt ⟨1, 2, 0, 0, 0, false, false, false, 0, 0, 3⟩, .vmin ⟨1, 2, 3, 0, 0, false, false, true, 0, 0, 2⟩,
      .vabs ⟨1, 2, 0, 0, 0, false, false, false, 0, 0, 4⟩, .vand ⟨1, 2, 3, 0, 0, false, false, false, 0, 0, 10⟩,
      .vclmul ⟨1, 2, 3, 0, 0, false, false, false, 0, 0, 3⟩, .vdot ⟨1, 2, 3, 4, 0, false, false, false, 0, 0, 1⟩,
      .vhad ⟨1, 2, 0, 16, 0, false, false, false, 0, 0, 2⟩, .vcvt ⟨1, 2, 0, 2, 0, false, false, false, 0, 0, 2⟩,
      .vsel ⟨1, 2, 3, 8, 0, false, false, false, 0, 0, 2⟩, .vmv ⟨1, 2, 1, 0, 0, false, false, false, 0, 0, 2⟩,
      .vbcast ⟨1, 2, 1, 0, 0, false, false, false, 0, 0, 2⟩, .viota ⟨1, 8, 0, 0, 0, false, false, false, 0, 0, 4⟩,
      .vcmp ⟨1, 2, 3, 7, 0, false, false, false, 0, 0, 10⟩, .vred ⟨1, 2, 0, 6, 0, false, false, false, 0, 0, 2⟩].all
        (! Instr.wellFormed ·) = true := by
  decide
theorem test_illformed_vmemory :
    [(.vld ⟨1, 2, 3, 0, 0, 0, 2, 0⟩ : Instr), .vlds ⟨1, 2, 3, 0, 0, 0, 11, 0⟩, .vldt ⟨1, 2, 0, 0, 8, 0, 2, 0⟩,
      .vpref ⟨1, 2, 0, 0, 0, 0, 2, 0⟩, .vamo ⟨1, 2, 3, 0, 10, 0, 2, 0⟩, .vlock ⟨1, 0, 3, 0, 1, 0, 0, 0⟩,
      .vunlock ⟨1, 0, 3, 0, 0, 0, 0, 0⟩, .stmap ⟨1, 2, 3, 1, 0, 0, 0, 0⟩, .stwb ⟨1, 2, 0, 0, 0, 0, 0, 0⟩,
      .oclaim ⟨16, 1, 0, 0, 0, 0, 0, 0⟩, .orel ⟨1, 1, 0, 0, 0, 0, 0, 0⟩, .oldv ⟨1, 2, 3, 0, 0, 0, 2, 0⟩,
      .opa ⟨1, 2, 0, 6, 0, 0, 0, 0⟩, .aclaim ⟨0, 1, 0, 0, 2, 0, 0, 0⟩, .aclr ⟨1, 0, 0, 0, 0, 0, 0, 0⟩,
      .axt ⟨1, 0, 3, 0, 2, 0, 2, 0⟩, .asave ⟨1, 2, 0, 0, 0, 0, 0, 0⟩, .vcopy ⟨1, 2, 3, 0, 8, 0, 0, 0⟩,
      .vcopyJob ⟨0, 2, 0, 0, 7, 0, 0, 0⟩, .vcopyx ⟨1, 2, 3, 4, 0, 0, 0, 0⟩, .vstrm ⟨1, 2, 3, 0, 0, 0, 0, 0⟩].all
        (! Instr.wellFormed ·) = true := by
  decide

/-! Worked examples of spec/, one instruction each. -/

/-- Context 1, with its windows and a handler. -/
def ctx : Context where
  valid := true
  root := 1
  swbase := 0x100000
  cwbase := 0x2000000
  handler := 0x5000
  tryq := true
  remote := true

/-- A running hart of context 1 at slot 1 of a line that holds one nop, with the register values listed. -/
def hart (l : SMap Word) : Hart := { s := l, pc := 0x1002, asid := 1, run := .running, fetched := wordLine 16 0x4C00 }

/-- The device, its stacks ready, with that hart as hart 0, its context loaded and its scratchpad its context's. -/
def on (x : Hart) : State :=
  { State.reset with
    harts := [(0, x)]
    contexts := [(1, ctx)]
    cores := [(0, { holder := some 1 })]
    hub := { State.reset.hub with ready := 0xFFF } }

/-- The state that an instruction leaves. -/
def ran (i : Instr) (s : State) : State :=
  match exec i s with
  | .next t => t
  | _ => State.reset

/-- What `i` leaves in s7 from s8 = `a` and s9 = `b`. -/
def s7 (i : Instr) (a b : Word) : Word := (ran i (on (hart [(8, a), (9, b)]))).me.readS 7

/-- 05 R121: -7 / 2 is -3 and -7 rem 2 is -1; as natural numbers 0x7FFF…FC and 1. -/
theorem test_div : s7 (.div 7 8 9) (-7) 2 = -3 ∧ s7 (.div 7 8 9) 0x8000000000000000 (-1) = 0x8000000000000000 := by
  decide +kernel
theorem test_rem : s7 (.rem 7 8 9) (-7) 2 = -1 ∧ s7 (.rem 7 8 9) 0x8000000000000000 (-1) = 0 ∧ s7 (.rem 7 8 9) 5 0 = 5 := by
  decide +kernel
theorem test_divn : s7 (.divn 7 8 9) (-7) 2 = 0x7FFFFFFFFFFFFFFC ∧ s7 (.divn 7 8 9) 5 0 = BitVec.allOnes 64 := by
  decide +kernel
theorem test_remn : s7 (.remn 7 8 9) (-7) 2 = 1 ∧ s7 (.remn 7 8 9) 5 0 = 5 := by decide +kernel
/-- 05 R120: the carry-less product of 0x8000000000000001 and 3. -/
theorem test_clmul : s7 (.clmul 7 8 9) 0x8000000000000001 3 = 0x8000000000000003
    ∧ s7 (.clmulh 7 8 9) 0x8000000000000001 3 = 1 := by decide +kernel
theorem test_add_wraps : s7 (.add 7 8 9) 0xFFFFFFFFFFFFFFFF 2 = 1 := by decide +kernel
theorem test_mulh : s7 (.mulh 7 8 9) (-1) 2 = BitVec.allOnes 64 ∧ s7 (.mulhn 7 8 9) (-1) 2 = 1 := by decide +kernel
theorem test_sra : s7 (.sra 7 8 9) 0x8000000000000000 65 = 0xC000000000000000 := by decide +kernel
theorem test_rot : s7 (.rot 7 8 9) 0x1 4 = 0x1000000000000000 := by decide +kernel
theorem test_clz : s7 (.clz 7 8) 0 0 = 64 ∧ s7 (.ctz 7 8) 0x8 0 = 3 ∧ s7 (.pop 7 8) 0xF0F 0 = 8 := by decide +kernel
theorem test_sext : s7 (.sext 7 8 1) 0x18000 0 = 0xFFFFFFFFFFFF8000 ∧ s7 (.zext 7 8 1) 0x18000 0 = 0x8000 := by decide +kernel
theorem test_slti : s7 (.slti 7 8 (-5)) (-6) 0 = 1 ∧ s7 (.slti 7 8 (-5)) (-5) 0 = 0 := by decide +kernel
/-- 03 R69: s0 discards a write. -/
theorem test_s0 : (ran (.add 0 8 9) (on (hart [(8, 1), (9, 2)]))).me.readS 0 = 0 := by decide +kernel
theorem test_sel : s7 (.sel 7 8 9 10) 1 6 = 6 ∧ s7 (.sel 7 8 9 10) 0 6 = 0 := by decide +kernel
/-- 05 R125: 0x123456789ABCDEF0 from limm, shli and ori. -/
theorem test_constant :
    (ran (.ori 5 5 0xDEF0) (ran (.shli 5 5 16) (ran (.limm 5 0x123456789ABC) (on (hart []))))).me.readS 5
      = 0x123456789ABCDEF0 := by decide +kernel
/-- 05 R127: 1.0 + 2.0 is 3.0 in f32, boxed (03 R70). -/
theorem test_fadd : (ran (.fadd ⟨3, 1, 2, 0, 0, false, false, false, 0, 0, 10⟩)
    (on { hart [] with f := [(1, 0xFFFFFFFF3F800000), (2, 0xFFFFFFFF40000000)] })).me.readF 3 = 0xFFFFFFFF40400000 := by
  decide +kernel
/-- 03 R70: an operand that is not boxed reads as the canonical NaN. -/
theorem test_unboxed : (ran (.fadd ⟨3, 1, 2, 0, 0, false, false, false, 0, 0, 10⟩)
    (on { hart [] with f := [(1, 0x3F800000), (2, 0xFFFFFFFF40000000)] })).me.readF 3 = 0xFFFFFFFF7FC00000 := by decide +kernel
/-- 06 R150: vsetl 100 under VROWS 1, then vsetr, in a hart of 4096 elements: VROWS 40. -/
theorem test_shape : (ran (.vsetr 7 8) (ran (.vsetl 6 2) (on { hart [(2, 100), (8, 200)] with
    conf := some ⟨4, 1, 1⟩, vl := 4096 }))).me.readS 7 = 40 := by decide +kernel
/-- 05 R134, R136: a loop of count 2 whose body is one nop jumps back once, then falls out. -/
theorem test_loop : (arrive { hart [] with lc0 := { busy := true, count := 2, body := 0x1002, fin := 0x1004 } } 0x1004).pc = 0x1002
    ∧ (arrive { hart [] with lc0 := { busy := true, count := 1, body := 0x1002, fin := 0x1004 } } 0x1004).lc0.busy = false := by
  decide +kernel
/-- 10 R241: amo.add returns the old value and stores the sum, little-endian, in the scratchpad window. -/
theorem test_amo : s7 (.amoAdd 7 8 9 true) 0x100000 5 = 0
    ∧ (ran (.amoAdd 7 8 9 true) (on (hart [(8, 0x100000), (9, 0x0102)]))).mem
      = [(scratchLoc 0 0, 0x02), (scratchLoc 0 1, 0x01)] := by decide +kernel
/-- 05 R143: a store of two bytes, and a misaligned one, which takes 0x04 and changes no memory (05 R144). -/
theorem test_store : (ran (.st ⟨8, 9, false, 1, 4⟩) (on (hart [(8, 0x123456), (9, 0x100000)]))).mem
      = [(scratchLoc 0 4, 0x56), (scratchLoc 0 5, 0x34)]
    ∧ (ran (.st ⟨8, 9, false, 1, 5⟩) (on (hart [(8, 0x123456), (9, 0x100000)]))).me.ecause = 0x04 := by decide +kernel
/-- 16 R401: a trap in user mode enters the handler with EPC at the trapping instruction. -/
theorem test_trap : let t := ran .ill (on (hart []))
    t.me.pc = 0x5000 ∧ t.me.epc = 0x1002 ∧ t.me.ecause = 1 ∧ t.me.eval = 0x1002 ∧ t.me.mode = .system := by decide +kernel
/-- 10 R274: `trap imm` has EPC at the following head and cause 0x13 when imm is not 0. -/
theorem test_trap_imm : let t := ran (.trap 7) (on (hart []))
    t.me.epc = 0x1042 ∧ t.me.ecause = 0x13 ∧ t.me.eval = 7 := by decide +kernel
/-- 15 R384: srr of a system register in user mode is illegal; in system mode it reads. -/
theorem test_srr : (ran (.srr 7 0x840) (on (hart []))).me.ecause = 1
    ∧ (ran (.srr 7 0x840) (on { hart [] with mode := .system, epc := 0x40 })).me.readS 7 = 0x40 := by decide +kernel
/-- 10 R250: pbinit, pbarr and pbexp on a barrier of the scratchpad. -/
theorem test_barrier : let t := ran (.pbarr 7 9) (ran (.pbinit 8 9) (on (hart [(8, 1), (9, 0x100000)])))
    t.me.readS 7 = 0 ∧ pbRead t (scratchLoc 0 0) = ⟨1, 1, 1, 0⟩ := by decide +kernel
/-- 10 R253: PHASE 3, COUNT 2, PEND 1: the arrival completes phase 3, then the expectation of 256 sets BYTES. -/
theorem test_barrier_phase :
    let s := pbWrite (on (hart [(9, 0x100000), (10, 256)])) (scratchLoc 0 0) ⟨3, 2, 1, 0⟩
    let t := ran (.pbarr 7 9) s
    t.me.readS 7 = 3 ∧ pbRead t (scratchLoc 0 0) = ⟨4, 2, 2, 0⟩
      ∧ pbRead (ran (.pbexp 10 9) t) (scratchLoc 0 0) = ⟨4, 2, 2, 256⟩ := by decide +kernel
/-- 06 R158: vadd.i16 adds both sub-values of a 32-bit element, each modulo 2^16. -/
theorem test_vadd : (ran (.vadd ⟨3, 1, 2, 0, 0, false, false, false, 0, 0, 1⟩) (on { hart [] with
      conf := some ⟨4, 1, 2⟩, vl := 1, v := [(1, [(0, 0xFF), (1, 0xFF), (2, 1)]), (2, [(0, 2), (2, 2)])] })).me.vreg 3
    = [(0, 1), (2, 3)] := by decide +kernel
/-- 08 R206: the worked `opa a1, o2, o5, 1, 2` (its first row): 3^2 * (3 * 1 + -2 * -1) = 45, and 2^47 - 10 clamps. -/
theorem test_opa :
    let x (a : BitVec 48) : CoreState := CoreState.mk [(2, some 0), (5, some 0)] [(2, [(0, 3), (1, 0xFE)]), (5, [(16, 1), (80, 3)])]
      [(1, some 0)] [(1, Tab.set 0 0 a [])] [] [] [] (some 1) [] []
    let s := on { hart [] with conf := some ⟨4, 1, 0⟩, vl := 1 }
    let acc (a : BitVec 48) (n : Nat) : BitVec 48 :=
      Tab.get 0 (Tab.get [] ((ran (.opa ⟨2, 5, 0, 2, 3, 0, 0, 0⟩) { s with cores := [(0, x a)] }).core 0).banks 1) n
    acc 0 0 = 45 ∧ acc 0x7FFFFFFFFFF6 0 = 0x7FFFFFFFFFFF := by
  decide +kernel
/-- 09 R218, R222: a vcopy makes its token pending, and its job moves the bytes. -/
theorem test_vcopy : let s := { on (hart [(7, 0x100040), (8, 0x100000), (9, 2)]) with
      mem := [(scratchLoc 0 0, 0xAB), (scratchLoc 0 1, 0xCD)] }
    let t := ran (.vcopy ⟨7, 8, 9, 0, 3, 0, 0, 0⟩) s
    t.me.token 3 = .pending 1 ∧ (ran (.jobComplete 1) (ran (.jobStart 1 0) t)).byte (scratchLoc 0 0x41) = 0xCD := by
  decide +kernel
/-- 16 R420: a poisoned s8 stops an add with trap 0x14 and EVAL 0, and nothing is written. -/
theorem test_poisoned_source : let s := on { hart [(8, 1)] with spoiled := { s := 0x100 } }
    (match execChecked (.add 7 8 9) s with
    | .next t => (t.me.ecause.toNat % 256, t.me.eval, t.me.readS 7)
    | _ => (0, 1, 1)) = (0x14, 0, 0) := by decide +kernel
/-- 16 R419: a register written whole is poisoned no longer. -/
theorem test_poison_cleared : let s := on { hart [(9, 1)] with spoiled := { s := 0x180 } }
    (ran (.add 7 9 9) s).me.spoiled.s = 0x100 := by decide +kernel
/-- 17 R435: the capability register of the IOMMU: version 1.0, Sv48 and Sv57 in both stages, flat MSI tables, 48 address bits. -/
theorem test_iommu_capabilities : iommuWord State.reset.hub.iommu 0 = 0x00000030004C0C10 := by decide +kernel
/-- A program comes to run: the word that withFetchWord places is fetched, decoded and executed (log 12). -/
theorem test_first_step : (match step (State.reset.withFetchWord 32 0x0923002D) with
    | .next t => (t.me.readS 9, t.me.pc.toNat % 64)
    | _ => (0, 0)) = (45, 2) := by decide +kernel

/-! States that meet the hypotheses of the statements, clause by clause. -/

/-- A result that answers, and one that names a cause, in a form that can be decided. -/
theorem ok_iff {ε α : Type} (x : Except ε α) (r : α) : x = .ok r ↔ x.toOption = some r := by cases x <;> simp [Except.toOption]
def errOf {α : Type} : Except Nat α → Option Nat
  | .ok _ => none
  | .error c => some c
theorem error_iff {α : Type} (x : Except Nat α) (c : Nat) : x = .error c ↔ errOf x = some c := by cases x <;> simp [errOf]
/-- Without pending tokens every wait mask is ready. -/
theorem ready_of_idle (x : Hart) (w : BitVec 8) (h : x.tokens = []) : tokensReady x w := by
  intro k _ _ j; simp [Hart.token, h, Tab.get]
/-- Without running loops every PC is plain. -/
theorem plain_of_idle (x : Hart) (pc : Word) (h : x.lc0.busy = false ∧ x.lc1.busy = false) : plainAt x pc := by
  simp [plainAt, h.1, h.2]

/-- Hart 0 at a nop that a sound line of its address space holds, at 0x400002. -/
def placed : State := State.reset.withFetchWord 16 0x4C00

theorem witness_RegisterFunctions : free (on (hart [(8, 1), (9, 2)]))
    ∧ binaryValue (.add 7 8 9) (on (hart [(8, 1), (9, 2)])).me = some (7, 3)
    ∧ (Instr.sext 7 8 2).wellFormed = true ∧ unaryValue (.sext 7 8 2) (hart [(8, 0xFFFFFFFF)]) = some (7, BitVec.allOnes 64) := by
  simp only [free, atTurn, nothingSent]; decide +kernel
theorem witness_ImmediateForms : free (on (hart [])) ∧ constantValue (.addi 7 8 0x8000) (hart []) = some (7, 0xFFFFFFFFFFFF8000) := by
  simp only [free, atTurn, nothingSent]; decide +kernel
theorem witness_Select : free (on (hart [(8, 1)])) ∧ (on (hart [(8, 1)])).me.readS 8 ≠ 0 ∧ (on (hart [(8, 1)])).me.readS 9 = 0 := by
  simp only [free, atTurn, nothingSent]; decide +kernel
theorem witness_ScalarRegisters : (31 : Reg) ≠ 0 ∧ (0 : Reg) ≠ 31 := by decide
theorem witness_FallThroughFrame : plainAt ((fun x => x.writeS 7 1) (hart [])) (following (hart [])) :=
  plain_of_idle _ _ (by decide)
theorem witness_ScalarFpArithmetic : let o : VAOps := ⟨3, 1, 2, 0, 0, false, false, false, 0, 0, 10⟩
    free (on (hart [])) ∧ .fadd o ∈ [Instr.fadd o, .fsub o, .fmul o, .ffma o]
      ∧ roundingMode { hart [] with frm := 4 } 0 = some 4 ∧ roundingMode { hart [] with frm := 5 } 0 = none
      ∧ fpArithValue (.fadd o) 4 (hart []) = some (3, 0xFFFFFFFF7FC00000, 0) := by
  simp only [free, atTurn, nothingSent]; decide +kernel
theorem witness_ScalarFpConversion : free (on (hart []))
    ∧ (∀ o ∈ [(⟨1, 2, 0, 7, 0, false, false, false, 0, 0, 7⟩ : VAOps), ⟨1, 2, 0, 3, 0, false, false, false, 0, 0, 3⟩,
        ⟨1, 2, 0, 8, 0, false, false, false, 0, 0, 11⟩, ⟨1, 2, 0, 11, 0, false, false, false, 0, 0, 7⟩,
        ⟨1, 2, 0, 7, 0, false, false, false, 0, 0, 8⟩], o.fcvtOk = true)
    ∧ roundingMode (on (hart [])).me 0 = some 0 := by
  simp only [free, atTurn, nothingSent]; decide +kernel
theorem witness_ScalarFpComparison : free (on (hart [])) ∧ (Instr.fcmp ⟨1, 2, 3, 3, 0, false, false, false, 0, 0, 8⟩).wellFormed = true := by
  simp only [free, atTurn, nothingSent]; decide +kernel
theorem witness_Branches : free placed ∧ branchOf (.beq 1 2 ⟨1, 0⟩) placed.me = some (true, ⟨1, 0⟩)
    ∧ branchOf (.bne 1 2 ⟨1, 0⟩) placed.me = some (false, ⟨1, 0⟩) ∧ branchTarget placed.me.pc ⟨1, 0⟩ = 0x400002
    ∧ checkTarget placed placed.cur (branchTarget placed.me.pc ⟨1, 0⟩) = none
    ∧ branchOf (.jmp ⟨2, 0⟩) placed.me = some (true, ⟨2, 0⟩)
    ∧ checkTarget placed placed.cur (branchTarget placed.me.pc ⟨2, 0⟩) = some (0x02, 0x400004, false)
    ∧ branchTarget placed.me.pc ⟨1, 0x8000⟩ = 0x200002
    ∧ checkTarget placed placed.cur 0x200002 = some (0x03, 0x200000, true) := by
  simp only [free, atTurn, nothingSent]; decide +kernel
theorem witness_Links : linkOf (.call ⟨1, 0⟩) placed.me = some (31, 0x400002, false)
    ∧ checkTarget placed placed.cur 0x400002 = none
    ∧ checkTarget placed placed.cur 0x400000 = some (0x02, 0x400000, false)
    ∧ linkOf (.jmpr 31 0) placed.me = some (31, 0, false)
    ∧ checkTarget placed placed.cur 0x7F0000000002 = some (0x05, 0x7F0000000002, true) := by
  decide +kernel
theorem witness_LoopStart : loopOf (.loopi 0 0xFFFF ⟨2, 0⟩) placed.me = some (0, 0xFFFF, ⟨2, 0⟩, none)
    ∧ (following { placed.me with fetched := [2, 0] }).toNat = 0x400004
    ∧ loopOf (.loopm 1 8 ⟨1, 1⟩ 7) (on (hart [(8, 0xFFFFFFF8)])).me = some (1, 0xFFFFFFF8, ⟨1, 1⟩, some 8)
    ∧ 0xFFFFFFF8 + (some 8 : Option Nat).getD 1 - 1 = 4294967295 ∧ (counterOf placed.me 0).busy = false
    ∧ (counterOf { hart [] with lc1 := { busy := true } } 1).busy = true := by
  decide +kernel
theorem witness_LoopStart_traps :
    loopOf (.loopm 1 8 ⟨1, 1⟩ 7) (on (hart [(8, 0xFFFFFFF9)])).me = some (1, 0xFFFFFFF9, ⟨1, 1⟩, some 8)
    ∧ 4294967295 < 0xFFFFFFF9 + (some 8 : Option Nat).getD 1 - 1
    ∧ ¬(following { placed.me with fetched := [2, 0] }).toNat < (branchTarget placed.me.pc ⟨1, 0⟩).toNat
    ∧ (following { placed.me with fetched := [2, 0] }).toNat < (branchTarget placed.me.pc ⟨5, 0⟩).toNat
    ∧ checkTarget placed placed.cur (branchTarget placed.me.pc ⟨5, 0⟩) = some (0x02, 0x40000A, false) := by
  decide +kernel
/-- The last iteration, an iteration that jumps back, and one of a modulo loop. -/
def looping (n : BitVec 32) (m : Bool) : Hart :=
  { hart [] with lc0 := { busy := true, count := n, body := 0x1002, fin := 0x1042, modulo := m, stages := 2, total := 4 } }
theorem witness_LoopTest : (looping 1 false).lc0.busy = true ∧ (looping 1 false).lc0.fin = 0x1042 ∧ (looping 1 false).lc0.body ≠ 0x1042
    ∧ (looping 1 false).lc0.mode = (looping 1 false).mode ∧ (looping 1 false).lc1.busy = false
    ∧ (looping 1 false).lc0.count.toNat ≤ 1 ∧ 1 < (looping 2 true).lc0.count.toNat ∧ (looping 2 true).lc0.modulo = true := by
  decide +kernel
/-- Two plain loops that end together, of which lc1 started later. -/
def ending (m n : BitVec 32) (b : Bool) : Hart :=
  { hart [] with
    lc0 := { busy := b, count := m, body := 0x1002, fin := 0x1042, stamp := 1 }
    lc1 := { busy := true, count := n, body := 0x1004, fin := 0x1042, stamp := 2 } }
theorem witness_LoopTest_two : ∀ m ∈ [1, 2], ∀ n ∈ [1, 2], ∀ b ∈ [true, false],
    let x := ending (BitVec.ofNat 32 m) (BitVec.ofNat 32 n) b
    x.lc1.busy = true ∧ x.lc1.mode = x.mode ∧ x.lc1.fin = 0x1042 ∧ x.lc1.body ≠ 0x1042 ∧ x.lc1.modulo = false
    ∧ x.lc0.body ≠ 0x1042 ∧ x.lc0.busy = b ∧ x.lc0.mode = x.mode ∧ x.lc0.fin = 0x1042 ∧ x.lc0.modulo = false
    ∧ x.lc0.stamp < x.lc1.stamp ∧ x.lc0.fin ≠ x.lc1.body ∧ (x.lc1.count.toNat ≤ 1 ∨ 1 < x.lc1.count.toNat) := by
  decide +kernel
theorem witness_PlainAndQualified : free placed ∧ jobsOf placed placed.cur = []
    ∧ let x : Hart := { hart [] with fetched := wordLine 16 0x4C00, pc := 0x1000, pred := 1 }
      x.pc.toNat / 2 % 32 < lineCount x.fetched ∧ Decode.major (lineHead x.fetched (x.pc.toNat / 2 % 32 + 1)) ≠ 0x31
        ∧ x.pred.getLsbD 0 = true ∧ x.pred.getLsbD 7 = false := by
  simp only [free, atTurn, nothingSent]; decide +kernel
/-- Hart 0 in system mode. -/
def sys : State := on { hart [(8, 5)] with mode := .system, epc := 0x400002, ecause := 0x200 }
/-- Hart 0 with an open chain group. -/
def chained : State := on { hart [] with chain := some ⟨0x1002, 1, [], 0, false, [], [], 0⟩ }
/-- Hart 0 with a vector configuration of 8 registers of 1024 elements of 32 bits. -/
def vec (l : SMap Word) : Hart := { hart l with conf := some ⟨8, 1, 2⟩, vl := 4, vrows := 2 }

theorem witness_TrapEntry : free (on (hart [])) ∧ (on (hart [])).me.mode = .user
    ∧ ((on (hart [])).context (on (hart [])).me.asid).handler ≠ 0 ∧ 255 < 256
    ∧ free placed ∧ placed.me.gang = none ∧ (placed.context placed.me.asid).handler = 0 ∧ placed.me.scalarQueue = []
    ∧ placed.me.vectorQueue = []
    ∧ free sys ∧ sys.me.gang = none ∧ sys.me.mode = .system ∧ sys.me.scalarQueue = [] ∧ sys.me.vectorQueue = [] := by
  simp only [free, atTurn, nothingSent]; decide +kernel
theorem witness_EretReturns : let s := placed.setMe { placed.me with mode := .system, epc := 0x400002, ecause := 0x201 }
    free s ∧ s.me.mode = .system ∧ checkTarget s s.cur s.me.epc = none ∧ s.me.ecause.getLsbD 9 = true
      ∧ checkTarget placed placed.cur 0x400002 = none := by
  simp only [free, atTurn, nothingSent]; decide +kernel
theorem witness_TrappingInstructions : free (on (hart [])) ∧ fetchProblem (on (hart [])) = some (0x05, 0x1002)
    ∧ fetchProblem (placed.setMe { placed.me with pc := 0x400000 }) = some (0x02, 0x400000)
    ∧ Decode.major (lineHead (hart []).fetched ((hart []).pc.toNat / 2 % 32)) ≠ 0x2A
    ∧ (let x : Hart := { hart [] with fetched := wordLine 32 0xA8000000 }
      free (on x) ∧ Decode.major (lineHead (on x).me.fetched ((on x).me.pc.toNat / 2 % 32)) = 0x2A) := by
  simp only [free, atTurn, nothingSent]; decide +kernel
theorem witness_UserMode : free placed ∧ placed.me.mode = .user ∧ (placed.context placed.me.asid).tryq = false
    ∧ (0x800 : BitVec 12).toNat / 2048 = 1 ∧ (0xFFF : BitVec 12).toNat / 2048 = 1
    ∧ free sys ∧ sys.me.mode = .system ∧ (0x900 : BitVec 12).toNat = 0x900 ∧ (Tab.get {} sys.windows 0).format = 0 := by
  simp only [free, atTurn, nothingSent]; decide +kernel
theorem witness_SystemRegisterRead : free sys ∧ (0x840 : BitVec 12) ≠ 0x401 ∧ sysReach sys.me.mode 0x840 = true
    ∧ sysValue sys sys.cur 0x840 = some 0x400002 ∧ sysReach .user 0x402 = true ∧ sysValue sys sys.cur 0x009 = none := by
  simp only [free, atTurn, nothingSent]; decide +kernel
theorem witness_SystemRegisterWrite : free sys ∧ sys.me.mode = .system
    ∧ ((0x004 : BitVec 12), (0x1F : Word)) ∈ [((0x003 : BitVec 12), (0x7 : Word)), (0x004, 0x1F), (0x007, 0xFF),
        (0x840, 0xFFFFFFFFFFFFFFFE), (0x841, 0x3FF), (0x842, 0xFFFFFFFFFFFFFFFF), (0x845, 0xFFFFFFFFFFFFFFFF)] := by
  simp only [free, atTurn, nothingSent]; decide +kernel
theorem witness_SystemRegisterWrite_plain : plainAt sys.me (following sys.me) := plain_of_idle _ _ (by decide)
theorem witness_VectorLengthWrite : free (on (vec [(8, 512), (9, 513)]))
    ∧ (on (vec [(8, 512)])).me.conf ≠ none ∧ (on (vec [(8, 512)])).me.gang = none
    ∧ ((vec [(8, 512)]).readS 8).toNat % 2 ^ 17 * (vec []).vrows = tileMax (vec [])
    ∧ tileMax (vec []) < ((vec [(9, 513)]).readS 9).toNat % 2 ^ 17 * (vec []).vrows ∧ (on (hart [])).me.conf = none := by
  simp only [free, atTurn, nothingSent]; decide +kernel
theorem witness_VectorRowsAndStartWrite : let s := on (vec [(8, 64), (9, 65), (10, 128)])
    free s ∧ s.me.conf ≠ none ∧ s.me.gang = none ∧ (s.me.readS 8).toNat % 2 ^ 7 = 64 ∧ s.me.vl * 64 ≤ tileMax s.me
    ∧ (s.me.readS 9).toNat % 2 ^ 7 = 65 ∧ (s.me.readS 10).toNat % 2 ^ 7 = 0 ∧ (on (hart [])).me.conf = none
    ∧ tileMax { s.me with vl := 512 } < 512 * 64 := by
  simp only [free, atTurn, nothingSent]; decide +kernel
theorem witness_CountAndStatusWrite : free sys ∧ sys.me.mode = .system ∧ poolOk sys 0 0x010101 sys.me.qpcap = true
    ∧ poolOk sys 0 0xFFFFFF sys.me.qpcap = false ∧ sys.me.ecause.getLsbD 8 = false
    ∧ (∀ b, b < 2 → ownsBank sys 0 b = false) := by
  simp only [free, atTurn, nothingSent]; decide +kernel
theorem witness_SystemModeInstructions : free sys ∧ sys.me.mode = .system ∧ (sys.me.readS 8).toNat < 2 ^ 17
    ∧ (sys.me.readS 9).toNat / 2 % 2 ^ 11 = 0 := by
  simp only [free, atTurn, nothingSent]; decide +kernel
theorem witness_ChainBroken : chained.me.chain = some ⟨0x1002, 1, [], 0, false, [], [], 0⟩
    ∧ integerValue (.add 7 8 9) chained.me ≠ none := by decide +kernel

theorem witness_Loads : let o : SMOps := ⟨7, 8, false, 7 - 1, 0x7FFFFF⟩
    free (on (hart [(8, 0x100000 - 0x7FFFFF)])) ∧ (Instr.ld ⟨7, 8, true, 6, 8⟩).wellFormed = true
    ∧ o.width.toNat % 4 = 2
    ∧ check (on (hart [(8, 0x100000)])) ⟨1, .user, some 0⟩ .load 0x100008 4 = .ok ⟨.ram (scratchLoc 0 8), .pma⟩ := by
  simp only [free, atTurn, nothingSent, ok_iff]; decide +kernel
theorem witness_Stores : let s := on (hart [(8, 0x12345678), (9, 0x100008)])
    free s ∧ (Instr.st ⟨8, 9, false, 3, 0xFFFFF8⟩).wellFormed = true
    ∧ (s.me.readS 9 + (0xFFFFF8 : BitVec 24).signExtend 64).toNat = 0x100000
    ∧ check s (s.agent s.cur) .store 0x100000 8 = .ok ⟨.ram (scratchLoc 0 0), .pma⟩
    ∧ check s (s.agent s.cur) .store 0x17FFF8 8 = .ok ⟨.ram (scratchLoc 0 0x7FFF8), .pma⟩ := by
  simp only [free, atTurn, nothingSent, ok_iff]; decide +kernel
theorem witness_ScalarAccessTraps : let s := on (hart [])
    free s ∧ quiet s ∧ 0x100001 % 2 ≠ 0 ∧ check s (s.agent s.cur) .load 0x180000 8 = .error 0x09
    ∧ check s (s.agent s.cur) .store 0x0FFFF8 8 = .error 0x07 ∧ check s (s.agent s.cur) .atomic 0x100004 8 = .error 0x04 := by
  simp only [free, atTurn, nothingSent, quiet, error_iff]; decide +kernel
theorem witness_ScalarAtomics : let s := on (hart [(9, 0x100000), (10, 0)])
    free s ∧ amoParts (.amoAdd 7 9 8 true) = some (0, 7, 9, 8, true) ∧ amoParts (.amoFadd 7 9 8 false) = some (9, 7, 9, 8, false)
    ∧ check s (s.agent s.cur) .atomic (s.me.readS 9).toNat 8 = .ok ⟨.ram (scratchLoc 0 0), .pma⟩
    ∧ leNat (readPlace s (.ram (scratchLoc 0 0)) 8) = (s.me.readS 10).toNat % 2 ^ (8 * 8)
    ∧ leNat (readPlace s (.ram (scratchLoc 0 0)) 8) ≠ (s.me.readS 9).toNat % 2 ^ (8 * 8) := by
  simp only [free, atTurn, nothingSent, ok_iff]; constructor <;> decide +kernel
theorem witness_Prefetch : free (on (hart [])) := by simp only [free, atTurn, nothingSent]; decide +kernel
/-- Hart 0 with loads and stores left to its queues, and two elements of v1. -/
def lagged : State := on { vec [(8, 0x100000), (9, 0x55)] with vrows := 1, vl := 2, v := [(1, [(0, 3)])], lag := true }
theorem witness_StreamQueues : lags lagged
    ∧ (Instr.ld ⟨7, 8, false, 3, 8⟩).wellFormed = true ∧ (Instr.ld ⟨7, 8, true, 6, 8⟩).wellFormed = true
    ∧ (loadValue ⟨7, 8, true, 6, 8⟩ []).1 = true ∧ (loadValue ⟨7, 8, false, 3, 8⟩ []).1 = false ∧ (7 : Reg) ≠ 0
    ∧ check lagged (lagged.agent lagged.cur) .load 0x100008 8 = .ok ⟨.ram (scratchLoc 0 8), .pma⟩
    ∧ check lagged (lagged.agent lagged.cur) .load 0x100008 4 = .ok ⟨.ram (scratchLoc 0 8), .pma⟩
    ∧ (Instr.st ⟨9, 8, false, 1, 2⟩).wellFormed = true
    ∧ check lagged (lagged.agent lagged.cur) .store 0x100002 2 = .ok ⟨.ram (scratchLoc 0 2), .pma⟩ := by
  simp only [lags, ok_iff]; decide +kernel
theorem witness_StreamQueues_vector : let o : VMOps := ⟨1, 8, 0, 0, 0, 0, 2, 0⟩
    (Instr.vld o).wellFormed = true ∧ (Instr.vst o).wellFormed = true ∧ lagged.me.conf ≠ none ∧ o.x.toNat < vCount lagged.me
    ∧ tyWidth o.ty.toNat ≤ ewBits lagged.me ∧ active lagged.me 0 = [0, 1]
    ∧ (∀ e ∈ active lagged.me 0, ∀ k ∈ [Access.load, .store], check lagged (lagged.agent lagged.cur) k (unitAt lagged.me o e)
        (ewBytes lagged.me) = .ok ⟨.ram (scratchLoc 0 (4 * e)), .pma⟩) := by
  simp only [ok_iff]; decide +kernel
theorem witness_StreamQueues_ready : tokensReady lagged.me 0 := ready_of_idle _ _ rfl

/-- Hart 0 waiting as `w`. -/
def waits (w : Wait) : State := on { hart [] with run := .waiting w 0x100000 }

theorem witness_WaitOnWord : let s := on (hart [(9, 0x100000), (10, 0xFF), (11, 1)])
    free s ∧ s.me.run = .running ∧ waitCheck s (s.agent s.cur) (s.me.readS 9).toNat 4 = .ok ⟨.ram (scratchLoc 0 0), .pma⟩
    ∧ ¬(0x40000000000 ≤ scratchLoc 0 0 ∧ scratchLoc 0 0 < 0x50000000000)
    ∧ waitCheck s (s.agent s.cur) (s.me.readS 9).toNat 8 = .ok ⟨.ram (scratchLoc 0 0), .pma⟩ := by
  simp only [free, atTurn, nothingSent, ok_iff]; decide +kernel
theorem witness_WaitsEnd :
    (on { hart [] with run := .waiting (.word (scratchLoc 0 0) 1 0 false true true) 4 }).me.run
      = .waiting (.word (scratchLoc 0 0) 1 0 false true true) 4
    ∧ ((waits (.join 8 true)).hart 0).run = .waiting (.join 8 true) 0x100000
    ∧ ((waits (.barrier 8 3 true)).hart 0).run = .waiting (.barrier 8 3 true) 0x100000
    ∧ wordMeets (waits (.word 8 1 0 false true false)) 8 1 0 false true = true
    ∧ armedPoison (waits (.word 8 1 0 false true false)) 8 8 = none
    ∧ armedPoison { waits (.word 8 1 0 false true false) with taint := [(9, .error)] } 8 8 = some 0x14
    ∧ ((waits (.word 8 1 0 false true false)).hart 0).run = .waiting (.word 8 1 0 false true false) 0x100000
    ∧ ((waits (.barrier 8 3 false)).hart 0).run = .waiting (.barrier 8 3 false) 0x100000
    ∧ ((waits (.barrier 8 3 false)).hart 0).chain = none ∧ ((waits (.barrier 8 3 false)).hart 0).mode = .user
    ∧ ((waits (.barrier 8 3 false)).context ((waits (.barrier 8 3 false)).hart 0).asid).handler ≠ 0 := by
  decide +kernel
theorem witness_Barriers : let s := on (hart [(8, 4095), (9, 0x100000), (10, 0x107FF8), (11, 16777216), (13, 16777217)])
    free s ∧ s.me.run = .running ∧ pbPlace s (s.agent s.cur) (s.me.readS 9).toNat = .ok (scratchLoc 0 0)
    ∧ pbPlace s (s.agent s.cur) 0x17FFF8 = .ok (scratchLoc 0 0x7FFF8) ∧ 1 ≤ (s.me.readS 8).toNat
    ∧ (s.me.readS 8).toNat ≤ 4095 ∧ 4095 < (s.me.readS 9).toNat ∧ (s.me.readS 12).toNat = 0
    ∧ pbPlace s (s.agent s.cur) 0x180000 = .error 0x09 ∧ pbPlace s (s.agent s.cur) 0x100004 = .error 0x04
    ∧ 16777216 < (s.me.readS 13).toNat
    ∧ 8589934591 < (pbRead (pbWrite s (scratchLoc 0 0) ⟨0, 1, 1, 8589934591⟩) (scratchLoc 0 0)).bytes + ((s.me.readS 8).toNat : Int) ∧ (pbRead s (scratchLoc 0 0)).pend = 0
    ∧ (pbRead { s with mem := [(scratchLoc 0 0 + 4, 4)] } (scratchLoc 0 0)).pend ≠ 0
    ∧ (s.me.readS 11).toNat ≤ 16777216 ∧ (pbRead s (scratchLoc 0 0)).bytes + ((s.me.readS 11).toNat : Int) ≤ 8589934591
    ∧ (pbRead s (scratchLoc 0 0)).phase = (s.me.readS 12).toNat % 64 ∧ (pbRead s (scratchLoc 0 0)).phase ≠ (s.me.readS 8).toNat % 64 := by
  simp only [free, atTurn, nothingSent, ok_iff, error_iff]; decide +kernel
theorem witness_PhaseCompletes : heldArrival (on (hart [])) (scratchLoc 0 0) = none ∧ (⟨63, 4095, 0, 0⟩ : Barrier).phase < 64
    ∧ (⟨63, 4095, 0, 0⟩ : Barrier).pend = 0 ∧ (-8589934592 : Int) ≤ (⟨0, 1, 1, -8589934592⟩ : Barrier).bytes := by
  decide +kernel
theorem witness_VectorConfiguration : let s := on (hart [])
    free s ∧ coreGanged s s.cur = false ∧ s.me.conf = none ∧ (s.core (coreOf s.cur)).shareQueue = []
    ∧ sharesUsed s (coreOf s.cur) + (7 + 1) ≤ 8
    ∧ let t := { s with harts := s.harts ++ [(1, vec [])] }
      free t ∧ t.me.conf = none ∧ 8 < sharesUsed t (coreOf t.cur) + (7 + 1) := by
  simp only [free, atTurn, nothingSent]; decide +kernel
theorem witness_VectorReconfigure : let s := on (vec [])
    free s ∧ coreGanged s s.cur = false ∧ s.me.conf ≠ none ∧ s.me.run = .running ∧ (s.core (coreOf s.cur)).shareQueue = []
    ∧ sharesUsed (unconfigure s s.cur) (coreOf s.cur) + (7 + 1) ≤ 8
    ∧ let t := { s with harts := s.harts ++ [(1, vec [])] }
      t.me.conf ≠ none ∧ 8 < sharesUsed (unconfigure t t.cur) (coreOf t.cur) + (7 + 1) := by
  simp only [free, atTurn, nothingSent]; decide +kernel
/-- The line that holds the last vector instructions, at which a hart waits for its shares. -/
def atVcfg : State := { on { hart [] with fetched := wordLine 32 0x74000076, run := .waiting .shares 0 } with
  cores := [(0, { holder := some 1, shareQueue := [(0, 6)] })] }
theorem witness_ShareGranted : (atVcfg.core 0).shareQueue = (0, (5 : BitVec 3).toNat + 1) :: []
    ∧ sharesUsed atVcfg (coreOf 0) + ((5 : BitVec 3).toNat + 1) ≤ 8 ∧ waitingInstr (atVcfg.hart 0) = some (.vcfg 2 5 3)
    ∧ (atVcfg.hart 0).chain = none ∧ (atVcfg.hart 0).conf = none ∧ coreGanged atVcfg 0 = false := by
  decide +kernel
theorem witness_VectorShape : let s := on (vec [])
    free s ∧ s.me.conf ≠ none ∧ coreGanged s s.cur = false ∧ s.me.gang = none := by
  simp only [free, atTurn, nothingSent]; decide +kernel
/-- Hart 0 in a gang of the harts of cores 0 and 1, and an instruction that completes in it. -/
def ganged : State := on { vec [(8, 3)] with gang := some 3 }
theorem witness_Gangs : free ganged ∧ (ganged.cur, ganged.me) ∈ ganged.harts ∧ ganged.me.gang = some 3
    ∧ vectorArithmetic (.mnot 1 2) = true ∧ ganged.me.mode = .user
    ∧ (ganged.context ganged.me.asid).handler ≠ 0
    ∧ (match exec (.mnot 1 2) ganged with | .next _ => true | _ => false) = true := by
  simp only [free, atTurn, nothingSent]; decide +kernel
/-- Hart 0 before a `gang` with the mask in s8, while hart 8 of core 1 waits with its own. -/
def gathering (v : Word) (w : Nat) : State :=
  { on (vec []) with
    harts := [(0, { vec [(8, v)] with work := .group 1 0 0 0 0 0 }),
      (8, { vec [] with work := .group 1 0 1 0 0 0, run := .waiting .gang 0 })]
    gangs := [(8, w)] }
theorem witness_GangFormation : free (gathering 3 3) ∧ (gathering 0 3).me.readS 8 = 0 ∧ (gathering 0 3).me.gang = none
    ∧ (gathering 3 3).me.conf ≠ none ∧ gangRefused (gathering 2 3) 2 = true ∧ gangRefused (gathering 3 3) 3 = false
    ∧ (let w := waitAt { gathering 3 1 with gangs := Tab.set 0 0 3 (gathering 3 1).gangs } .gang 0
      ∃ i ∈ (List.range 32).filter fun i => (3 : Nat).testBit i,
        w.gangs.find? (fun e => coreOf e.1 == clusterOf 0 * 32 + i && decide (e.2 = 3)) = none)
    ∧ (let w := waitAt { gathering 3 3 with gangs := Tab.set 0 0 3 (gathering 3 3).gangs } .gang 0
      ∀ i ∈ (List.range 32).filter fun i => (3 : Nat).testBit i,
        (w.gangs.find? fun e => coreOf e.1 == clusterOf 0 * 32 + i && decide (e.2 = 3)).any
          fun e => sameShape (w.hart e.1) w.me && (gangProblem w e.1).isNone)
    ∧ (let s := { gathering 3 3 with harts := (gathering 3 3).harts.map fun e => (e.1, if e.1 = 8 then { e.2 with vl := 1 } else e.2) }
      sameShape (s.hart 8) s.me = false ∧ gangRefused s 3 = false ∧ (gangProblem s 8).isNone) ∧ (on (hart [])).me.conf = none := by
  simp only [free, atTurn, nothingSent]; decide +kernel
theorem witness_GangTimeout : let s := { on { hart [] with fetched := wordLine 32 0x79090C00, run := .waiting .gang 0 } with gangs := [(0, 3)] }
    (s.hart 0).run = .waiting .gang 0 ∧ Tab.get 0 s.gangs 0 ≠ 0 ∧ waitingInstr (s.hart 0) = some (.gang 8 9) := by
  decide +kernel

/-- A configured hart with values in v1 and v2, and the mask m1 over its first element. -/
def vals : Hart := { vec [(9, 2)] with v := [(1, [(0, 0xFF), (1, 0xFF)]), (2, [(0, 1)])], m := [(1, [(0, true)])] }
theorem witness_ElementWise : let s := on vals
    let o : VAOps := ⟨7, 1, 2, 0, 0, false, false, false, 0, 1, 1⟩
    free s ∧ (Instr.vadd o).wellFormed = true ∧ o.ci = false ∧ o.co = false ∧ s.me.conf ≠ none
    ∧ (∀ r ∈ [o.x, o.y, o.w], r.toNat < vCount s.me) ∧ o.z.toNat < vCount s.me
    ∧ tyWidth o.ty.toNat ≤ ewBits s.me ∧ vectorMode s.me o true = some 0
    ∧ (active s.me 1).length = 1 ∧ (active s.me 0).length = 8 := by
  simp only [free, atTurn, nothingSent]; decide +kernel
theorem witness_ElementWise_fn (o : VAOps) : elementFn (.vadd o) = some (o, false, true, vaddFn o) ∧ plainAt vals (following vals) :=
  ⟨rfl, plain_of_idle _ _ (by decide)⟩
/-- 06 R159: without `.s`, 3 × 5 − 7 in 8 bits; with it, −128 × 127 − 127 clamps to −128. -/
theorem test_vfms : (vfmsFn ⟨7, 1, 2, 3, 0, false, false, false, 0, 0, 0⟩ 0 3 5 7).1 = 8
    ∧ (vfmsFn ⟨7, 1, 2, 3, 0, true, false, false, 0, 0, 0⟩ 0 128 127 127).1 = 128 := by decide +kernel
theorem witness_VectorIntegers : (⟨7, 1, 2, 0, 0, true, false, false, 0, 0, 7⟩ : VAOps).ty.toNat < 8
    ∧ (⟨7, 1, 2, 0, 0, true, false, false, 0, 0, 7⟩ : VAOps).sat = true ∧ (⟨7, 1, 2, 0, 0, false, false, false, 0, 0, 0⟩ : VAOps).sat = false := by
  decide
theorem witness_VectorWide : let s := on vals
    let o : VAOps := ⟨7, 1, 2, 3, 0, false, false, false, 0, 0, 0⟩
    let p : VAOps := ⟨7, 1, 0, 1, 0, false, false, false, 0, 0, 2⟩
    free s ∧ o.ci = false ∧ o.co = false ∧ s.me.conf ≠ none ∧ (∀ r ∈ [o.x, o.y], r.toNat < vCount s.me)
    ∧ vectorMode s.me o true = some 0 ∧ ewBits s.me = 32 ∧ o.w.toNat < vCount s.me ∧ o.z.toNat < vCount s.me
    ∧ (Instr.vdot o).wellFormed = true ∧ (Instr.vdotVs o).wellFormed = true
    ∧ (Instr.vhad p).wellFormed = true ∧ vectorMode s.me p true = some 0 ∧ tyWidth p.ty.toNat ≤ ewBits s.me ∧ s.me.vstart = 0 := by
  simp only [free, atTurn, nothingSent]; decide +kernel
theorem witness_VectorConvert : let s := on vals
    let o : VAOps := ⟨7, 1, 2, 18, 0, false, false, false, 0, 0, 10⟩
    o.vcvtOk = true ∧ (∀ r ∈ [o.x, o.y, o.z], r.toNat < vCount s.me) ∧ roundingMode s.me o.rm = some 0
    ∧ tyWidth o.ty.toNat ≤ ewBits s.me ∧ tyWidth (o.w.toNat % 16) ≤ ewBits s.me ∧ o.w.getLsbD 4 = true ∧ 32 ≤ ewBits s.me := by
  decide +kernel
theorem witness_VectorSelect : let s := on vals
    let o : VAOps := ⟨7, 1, 2, 1, 0, false, false, false, 0, 0, 2⟩
    let p : VAOps := ⟨7, 1, 9, 0, 0, false, false, false, 0, 0, 2⟩
    free s ∧ (Instr.vsel o).wellFormed = true ∧ (Instr.vslide p).wellFormed = true ∧ s.me.conf ≠ none
    ∧ (∀ r ∈ [o.x, o.y, o.z], r.toNat < vCount s.me) ∧ tyWidth o.ty.toNat = ewBits s.me ∧ s.me.vstart = 0
    ∧ (on { vals with vstart := 1 }).me.vstart ≠ 0
    ∧ (selectFn (.vslide p) s.me).isSome = true ∧ (selectFn (.vsel o) s.me).isSome = true := by
  simp only [free, atTurn, nothingSent]; decide +kernel
theorem witness_ComparisonsAndReductions : let s := on vals
    let o : VAOps := ⟨7, 1, 2, 6, 0, false, false, false, 0, 1, 10⟩
    let p : VAOps := ⟨7, 1, 0, 0, 0, true, false, false, 0, 1, 2⟩
    free s ∧ (Instr.vcmp o).wellFormed = true ∧ (∀ r ∈ [o.y, o.z], r.toNat < vCount s.me)
    ∧ tyWidth o.ty.toNat = ewBits s.me ∧ (Instr.vred p).wellFormed = true ∧ (∀ r ∈ [p.x, p.y], r.toNat < vCount s.me)
    ∧ tyWidth p.ty.toNat = ewBits s.me ∧ s.me.vstart = 0 ∧ s.me.vl ≠ 0 ∧ vectorMode s.me p (p.w == 0) = some 0 := by
  simp only [free, atTurn, nothingSent]; decide +kernel
/-- 06 R171; 03 R83: a mask instruction begins at VSTART, which it leaves 0. -/
theorem test_mask_vstart : let s := on { vals with vstart := 1, m := [(1, [(0, true), (2, true)])] }
    (ran (.mpop 7 1) s).me.readS 7 = 1 ∧ (ran (.mpop 7 1) s).me.vstart = 0 ∧ maskBit (ran (.mnot 2 3) s).me 2 0 = false
      ∧ maskBit (ran (.mnot 2 3) s).me 2 1 = true := by decide +kernel
theorem witness_Masks : free (on vals) ∧ (on vals).me.conf ≠ none ∧ tiles vals = 8 := by simp only [free, atTurn, nothingSent]; decide +kernel
theorem witness_Masks_fn : ∃ f, maskFn (.mand 1 2 3) vals = some (1, f) := ⟨_, rfl⟩
theorem witness_VectorChain : let s := on vals
    let o : VAOps := ⟨0, 1, 2, 0, 0, false, true, false, 0, 1, 2⟩
    let p : VAOps := ⟨7, 0, 2, 0, 0, false, false, true, 0, 1, 2⟩
    free s ∧ (on (hart [])).me.conf = none ∧ vregsOk s.me (namedRegs o false) = true ∧ o.ci = false ∧ o.co = true
    ∧ (Instr.vadd o).wellFormed = true ∧ tyWidth o.ty.toNat ≤ ewBits s.me ∧ vectorMode s.me o true = some 0
    ∧ (Instr.vadd p).wellFormed = true ∧ vregsOk s.me (namedRegs p false) = true ∧ p.ci = true
    ∧ s.me.conf ≠ none ∧ 4 ≤ vCount s.me ∧ (Instr.vadd { o with z := 8 }).wellFormed = true
    ∧ (∃ r ∈ namedRegs { o with z := 8 } false, vCount s.me ≤ r.toNat) := by
  simp only [free, atTurn, nothingSent]; decide +kernel
theorem witness_ChainMembers : let c : Chain := ⟨0x1002, 6, [(0, 3)], 0, false, [], [], 0⟩
    let s := on { vals with chain := some c }
    let o : VAOps := ⟨0, 0, 2, 0, 0, false, true, true, 0, 1, 2⟩
    s.me.chain = some c ∧ c.lost = false ∧ c.members < 7 ∧ 7 ≤ ({ c with members := 7 } : Chain).members
    ∧ (Instr.vadd o).wellFormed = true ∧ (Instr.vadd { o with x := 7, co := false }).wellFormed = true ∧ o.ci = true
    ∧ vregsOk s.me (namedRegs o false) = true ∧ tyWidth o.ty.toNat ≤ ewBits s.me ∧ vectorMode s.me o true = some 0
    ∧ Tab.rising c.masks = true ∧ s.me.conf ≠ none ∧ 4 ≤ vCount s.me ∧ (∃ r ∈ namedRegs { o with z := 8 } false, vCount s.me ≤ r.toNat)
    ∧ (Instr.vadd { o with z := 8 }).wellFormed = true := by
  decide +kernel
theorem witness_ChainMembers_plain (c : Chain) : plainAt (on { vals with chain := some c }).me (following (on { vals with chain := some c }).me) :=
  plain_of_idle _ _ ⟨rfl, rfl⟩
/-- A configured hart with s8 at the scratch window and s9 at its last 8 bytes. -/
def mover : State := on { vec [(8, 0x100000), (9, 0x17FFF8), (10, 0x180000), (11, 64)] with vrows := 1, vl := 4 }
/-- A vector memory form of v1. -/
def vm (y : Reg) (ty : BitVec 4) : VMOps := ⟨1, y, 0, 0, 0, 0, ty, 0⟩
theorem ready_mover (y : Reg) (ty : BitVec 4) : vmReady mover (vm y ty) [1] :=
  ⟨by simp only [free, atTurn, nothingSent]; decide +kernel, by decide +kernel, by decide +kernel, ready_of_idle _ _ rfl, plain_of_idle _ _ (by decide)⟩

theorem witness_VectorLoads :
    (∀ y ∈ [(8 : Reg), 9, 10], (Instr.vld (vm y 2)).wellFormed = true) ∧ active mover.me 0 = [0, 1, 2, 3]
    ∧ tyWidth (vm 8 2).ty.toNat ≤ ewBits mover.me ∧ mover.me.gang = none
    ∧ (∀ e ∈ active mover.me 0, check mover (mover.agent mover.cur) .load (unitAt mover.me (vm 8 2) e) (ewBytes mover.me)
        = .ok ⟨.ram (scratchLoc 0 (4 * e)), .pma⟩)
    ∧ check mover (mover.agent mover.cur) .load (unitAt mover.me (vm 9 2) 2) (ewBytes mover.me) = .error 0x09
    ∧ (∀ e ∈ active mover.me 0, e < 2 → check mover (mover.agent mover.cur) .load (unitAt mover.me (vm 9 2) e) (ewBytes mover.me)
        = .ok ⟨.ram (scratchLoc 0 (0x7FFF8 + 4 * e)), .pma⟩)
    ∧ check mover (mover.agent mover.cur) .load (unitAt mover.me (vm 10 2) 0) (ewBytes mover.me) = .error 0x09
    ∧ mover.me.mode = .user ∧ (mover.context mover.me.asid).handler ≠ 0 := by
  simp only [ok_iff, error_iff]; decide +kernel
theorem witness_VectorLoads_fn (o : VMOps) (x : Hart) :
    loadOf (.vld o) x = some (o, [o.x], unitAt x o, fun c => c == 0x09) ∧ storeOf (.vst o) x = some (o, [o.x], unitAt x o) := ⟨rfl, rfl⟩
theorem witness_VectorStores : (Instr.vst (vm 8 2)).wellFormed = true
    ∧ (∀ e ∈ active mover.me 0, check mover (mover.agent mover.cur) .store (unitAt mover.me (vm 8 2) e) (ewBytes mover.me)
        = .ok ⟨.ram (scratchLoc 0 (4 * e)), .pma⟩) := by
  simp only [ok_iff]; decide +kernel
/-- Words of 32 bits at the offsets in v2, and lock words at the addresses in v3. -/
def indexes : State := on { vec [(8, 0x100000)] with vrows := 1, vl := 2, v := [(2, [(4, 8)])] }
def locks : State := on { hart [] with conf := some ⟨8, 1, 3⟩, vl := 2, v := [(3, [(2, 0x10), (8, 8), (10, 0x10)])] }
theorem witness_VectorAmo : let o : VMOps := ⟨1, 8, 2, 0, 16, 0, 2, 0⟩
    (Instr.vamo o).wellFormed = true ∧ tyWidth o.ty.toNat = ewBits indexes.me
    ∧ (∀ e ∈ active indexes.me 0, check indexes (indexes.agent indexes.cur) .atomic (indexedAt indexes.me o e) (ewBytes indexes.me)
        = .ok ⟨.ram (scratchLoc 0 (8 * e)), .pma⟩)
    ∧ (∀ e ∈ active indexes.me 0, ∀ f ∈ active indexes.me 0, e ≠ f →
        scratchLoc 0 (8 * e) + 4 ≤ scratchLoc 0 (8 * f) ∨ scratchLoc 0 (8 * f) + 4 ≤ scratchLoc 0 (8 * e)) := by
  simp only [ok_iff]; decide +kernel
theorem witness_VectorAmo_ready : vmReady indexes ⟨1, 8, 2, 0, 16, 0, 2, 0⟩ [1, 2] ∧ vmReady locks ⟨1, 0, 3, 0, 2, 0, 0, 0⟩ [3] :=
  ⟨⟨by simp only [free, atTurn, nothingSent]; decide +kernel, by decide +kernel, by decide +kernel, ready_of_idle _ _ rfl, plain_of_idle _ _ (by decide)⟩,
    by simp only [free, atTurn, nothingSent]; decide +kernel, by decide +kernel, by decide +kernel, ready_of_idle _ _ rfl, plain_of_idle _ _ (by decide)⟩
theorem witness_Locks : ewBits locks.me = 64 ∧ (Instr.vlock ⟨1, 0, 3, 0, 2, 0, 0, 0⟩).wellFormed = true
    ∧ (Instr.vunlock ⟨0, 0, 3, 0, 0, 0, 0, 0⟩).wellFormed = true
    ∧ (∀ e ∈ active locks.me 0, check locks (locks.agent locks.cur) .atomic (elem (locks.me.vreg 3) 8 e) 8
        = .ok ⟨.ram (scratchLoc 0 (8 * e)), .pma⟩) := by
  simp only [ok_iff]; decide +kernel

/-- The placed hart, whose context's page is mapped, with a stash of 128 bytes at offset 0 when `l` says so. -/
def stashing (l : List Stash) : State :=
  let s := placed.setMe { placed.me with s := [(8, 0x400000000000), (9, 0x500000), (10, 128)] }
  s.setCore 0 { s.core 0 with stash := l }
theorem witness_Stashes : let s := stashing []
    let e : Stash := ⟨0, 0x500000, 128, false, [none], [(0, .dirty)]⟩
    free s ∧ (s.me.readS 8).toNat % 128 = 0 ∧ (s.me.readS 10).toNat % 128 = 0 ∧ (s.me.readS 10).toNat ≠ 0
    ∧ (s.me.readS 8).toNat + (s.me.readS 10).toNat ≤ (s.context s.me.asid).swbase.toNat + 0x80000
    ∧ (s.core (coreOf s.cur)).stash.length < 16
    ∧ stashProblem s (s.agent s.cur) 0x500000 128 = none
    ∧ pagesOf s (s.agent s.cur) 0x500000 128 = .ok [0x500]
    ∧ stashNamed (stashing [e]) ⟨8, 0, 0, 0, 0, 0, 0, 0⟩ = some e ∧ stashNamed (stashing []) ⟨8, 0, 0, 0, 0, 0, 0, 0⟩ = none := by
  simp only [free, atTurn, nothingSent, ok_iff]; decide +kernel
/-- The rows of the table of 07 R193, each with a state that meets it. -/
theorem witness_StashTraps : let s := stashing []
    let at_ (l : SMap Word) : State := s.setMe { s.me with s := l }
    quiet s ∧ s.jobs = [] ∧ ((at_ [(8, 0x400000000001), (9, 0x500000), (10, 128)]).me.readS 8).toNat % 128 ≠ 0
    ∧ (s.context s.me.asid).swbase.toNat + 0x80000 < ((at_ [(8, 0x40000007FF80), (9, 0x500000), (10, 256)]).me.readS 8).toNat + 256
    ∧ rangesMeet (0, 128) (0x400000000000 - (s.context s.me.asid).swbase.toNat, 0x400000000000 - (s.context s.me.asid).swbase.toNat + 128) = true
    ∧ stashProblem s (s.agent s.cur) 0x7F0000000000 128 = some (0x06, 0x7F0000000000) := by
  simp only [quiet]; decide +kernel
/-- Hart 0 with a tether on the row of virtual address 0x500000, of the owner and state given. -/
def tethered (h : Nat) (t : TetherState) : State :=
  let s := placed.setMe { placed.me with conf := some ⟨8, 1, 2⟩, vl := 2, s := [(8, 0)] }
  s.setCore 0 { s.core 0 with tethers := [(3, some ⟨h, 0x500000, 0x500000, t⟩)] }
theorem witness_TetherLoads : let o : VMOps := ⟨1, 8, 0, 0, 3, 0, 2, 0⟩
    (Instr.vldt o).wellFormed = true ∧ tetherAt (tethered 0 .held) 0 3 = some ⟨0, 0x500000, 0x500000, .held⟩
    ∧ (∀ k ∈ active (tethered 0 .held).me 0, tetherCheck (tethered 0 .held) ⟨0, 0x500000, 0x500000, .held⟩ (ewBytes (tethered 0 .held).me)
        (unitAt (tethered 0 .held).me o k) = .ok ⟨.ram (0x500000 + 4 * k), .pma⟩)
    ∧ tetherAt (tethered 0 .reopening) 0 3 = some ⟨0, 0x500000, 0x500000, .reopening⟩
    ∧ tetherAt (tethered 1 .held) 0 3 = some ⟨1, 0x500000, 0x500000, .held⟩
    ∧ (tethered 0 .held).me.mode = .user := by
  simp only [ok_iff]; decide +kernel
theorem witness_FreeTether : (Instr.vldt ⟨1, 8, 0, 0, 4, 0, 2, 0⟩).wellFormed = true ∧ tetherAt (tethered 0 .held) 0 4 = none := by
  decide +kernel
theorem witness_FreeTether_ready : vmReady (tethered 0 .held) ⟨1, 8, 0, 0, 4, 0, 2, 0⟩ [1] :=
  ⟨by simp only [free, atTurn, nothingSent]; decide +kernel, by decide +kernel, by decide +kernel, ready_of_idle _ _ rfl, plain_of_idle _ _ (by decide)⟩
theorem witness_TetherLoads_ready : vmReady (tethered 0 .held) ⟨1, 8, 0, 0, 3, 0, 2, 0⟩ [1] :=
  ⟨by simp only [free, atTurn, nothingSent]; decide +kernel, by decide +kernel, by decide +kernel, ready_of_idle _ _ rfl, plain_of_idle _ _ (by decide)⟩

/-- Hart 0 with the slots 1 and 2 and bank 1 of its core, and one row of A by one column of B. -/
def tiled : State := { on (vec [(8, 0x100000), (9, 0x106000), (10, 128)]) with
  cores := [(0, { holder := some 1, slotOwner := [(1, some 0), (2, some 0), (3, some 8)], bankOwner := [(1, some 0)] })] }
theorem witness_MatrixClaims : free tiled ∧ tiled.me.conf ≠ none ∧ (15 : Reg).toNat < 16 ∧ (1 : BitVec 5).toNat < 2
    ∧ claimStatus tiled.cur (Tab.get none (tiled.core 0).slotOwner 15) = 0
    ∧ claimStatus tiled.cur (Tab.get none (tiled.core 0).slotOwner 1) = 1
    ∧ claimStatus tiled.cur (Tab.get none (tiled.core 0).slotOwner 3) = 2
    ∧ claimStatus tiled.cur (Tab.get none (tiled.core 0).bankOwner 0) = 0 ∧ ownsBank tiled tiled.cur 1 = true
    ∧ ownsSlot tiled tiled.cur 3 = false ∧ ownsBank tiled tiled.cur 0 = false := by
  simp only [free, atTurn, nothingSent]; decide +kernel
theorem witness_SlotLoads : let o : VMOps := ⟨1, 8, 10, 0, 0, 0, 0, 0⟩
    (Instr.oldv o).wellFormed = true ∧ tiled.me.vl ≤ (slotShape o.ty).1 ∧ ownsSlot tiled tiled.cur o.x.toNat = true
    ∧ activeRows tiled.me 0 = [0, 1, 2, 3] ∧ (slotShape 0).2 = 128
    ∧ (∀ r ∈ activeRows tiled.me 0, check tiled (tiled.agent tiled.cur) .load
        (vectorBase tiled.me o + BitVec.ofNat 64 r * tiled.me.readS o.z).toNat 128 = .ok ⟨.ram (scratchLoc 0 (128 * r)), .pma⟩) := by
  simp only [ok_iff]; decide +kernel
theorem witness_Matrix_ready (o : VMOps) : vmReady tiled o [] :=
  ⟨by simp only [free, atTurn, nothingSent]; decide +kernel, by decide +kernel, by simp, ready_of_idle _ _ rfl, plain_of_idle _ _ (by decide)⟩
theorem witness_TileProduct : let o : VMOps := ⟨1, 2, 0, 5, 7, 0, 0, 0⟩
    (Instr.opa o).wellFormed = true ∧ tiled.me.vl ≤ 64 ∧ ownsSlot tiled tiled.cur o.x.toNat = true
    ∧ ownsSlot tiled tiled.cur o.y.toNat = true ∧ ownsBank tiled tiled.cur (o.sub.toNat % 2) = true := by
  decide +kernel
theorem witness_BankMoves : let o : VMOps := ⟨1, 0, 3, 0, 1, 0, 2, 0⟩
    free tiled ∧ ownsBank tiled tiled.cur (o.sub.toNat % 2) = true ∧ (Instr.axt o).wellFormed = true ∧ 32 ≤ ewBits tiled.me
    ∧ tiled.me.vl ≤ 64 ∧ roundingMode tiled.me 0 = some 0 ∧ (∀ r ∈ [o.x, o.z], r.toNat < vCount tiled.me)
    ∧ ((imagePlaces tiled (tiled.agent tiled.cur) .store (tiled.me.readS 9)).toOption.map (·.length)) = some 768
    ∧ ((imagePlaces tiled (tiled.agent tiled.cur) .load (tiled.me.readS 9)).toOption.map (·.length)) = some 768 := by
  simp only [free, atTurn, nothingSent]; decide +kernel
/-- The state with the bytes listed stored in memory. -/
def storing (s : State) (l : List (Nat × List Byte)) : State := l.foldl (fun s e => writeRam s e.1 e.2) s

/-- A COPY of 16 bytes from 0x500000 to 0x500040 with its status word at 0x500100 (09 R225). -/
def jobBytes : List Byte :=
  leBytes 8 4 ++ leBytes 8 0x500000 ++ leBytes 8 0x500040 ++ leBytes 8 16 ++ List.replicate 16 0 ++ leBytes 8 0x500100
    ++ List.replicate 8 0
/-- A configured hart that may copy, in a context with REMOTE set, and one whose token 3 is pending. -/
def copier : State :=
  let s := storing placed [(0x500200, jobBytes)]
  { s with
    contexts := [(1, { placedContext with remote := true, handler := 0x5000 })]
    harts := [(0, { placed.me with conf := some ⟨8, 1, 2⟩, vl := 2, v := [(2, [(4, 64)])], fetched := wordLine 16 0x4C00, s :=
      [(8, 0x500040), (9, 0x500000), (10, 16), (11, 0x500200)] })] }
def copying : State := copier.setMe { copier.me with tokens := [(3, .pending 7)] }
theorem witness_CopyIssue : let a := copier.agent copier.cur
    free copier ∧ copier.me.token 3 = .idle ∧ (copier.me.readS 12).toNat = 0
    ∧ rangeOf copier a .load 0x500000 16 = .ok [(.ram 0x500000, 16)] ∧ rangeOf copier a .store 0x500040 16 = .ok [(.ram 0x500040, 16)]
    ∧ (spanOf 0x500000 16).meets (spanOf 0x500040 16) = false ∧ vregsOk copier.me [2] = true ∧ 32 ≤ ewBits copier.me
    ∧ active copier.me 0 = [0, 1]
    ∧ chunkPieces copier a 8 (fun i => 0x500000 + (i : Int) * 64) (fun i => 0x500100 + (i : Int) * 8) [0, 1]
      = .ok [⟨some (.ram 0x500000), .ram 0x500100, 8⟩, ⟨some (.ram 0x500040), .ram 0x500108, 8⟩]
    ∧ (chunkSpan 8 [0x500000, 0x500040]).meets (chunkSpan 8 [0x500100, 0x500108]) = false
    ∧ vregsOk copying.me [2] = true ∧ 32 ≤ ewBits copying.me ∧ copying.me.token 3 = .pending 7 ∧ copying.me.mode = .user ∧ (copying.context copying.me.asid).handler ≠ 0 := by
  simp only [free, atTurn, nothingSent, ok_iff]; decide +kernel
theorem witness_CopyIssue_job : let a := copier.agent copier.cur
    let b := readPlace copier (.ram 0x500200) 64
    let t := touch copier a .load 0x500200
    check copier a .load 0x500200 64 = .ok ⟨.ram 0x500200, .pma⟩ ∧ check t a .store (field b 48 8) 4 = .ok ⟨.ram 0x500100, .pma⟩
    ∧ jdKind copier b = .copy ∧ jdStatus copier copier.me b true = 0 ∧ isCollective b = false
    ∧ rangeOf t a .load (groupTable b).1 (groupTable b).2 = .ok [] ∧ jdBarrier t b = .ok none
    ∧ rangesOf t a .load (jdRanges copier b).1 = .ok [(.ram 0x500000, 16)]
    ∧ rangesOf t a .store (jdRanges copier b).2 = .ok [(.ram 0x500040, 16)] ∧ localJob copier b = true
    ∧ (spanOf (jdSrc b) (jdLen b)).meets (spanOf (jdDst b) (jdLen b)) = false := by
  simp only [ok_iff]; decide +kernel
/-- A descriptor with byte 3 set is refused with BADDESC, and one of a PUT in a context without REMOTE with its own status. -/
theorem witness_CopyIssue_refused : let b := jobBytes.set 3 1
    let p := jobBytes.set 0 1
    let s := { copier with contexts := [(1, { placedContext with handler := 0x5000 })] }
    jdStatus copier copier.me b true = 0x60000 ∧ jdStatus s s.me p true ≠ 0 := by
  decide +kernel
theorem witness_CopyIssue_tokens : tokensReady copier.me 0xFF ∧ (∀ id, copier.me.token 3 ≠ .pending id)
    ∧ tokensReady copying.me 0xF7 ∧ ∃ id, (acquireTokens copying.me 0).token 3 = .pending id := by
  refine ⟨ready_of_idle _ _ rfl, ?_, ?_, 7, by decide +kernel⟩
  · have h : copier.me.token 3 = .idle := by decide +kernel
    simp [h]
  · intro k hk hw j
    by_cases h : k = 3
    · subst h; exact absurd hw (by decide)
    · have e : copying.me.token k = Tab.get .idle [(3, Token.pending 7)] k := rfl
      have q : ¬3 = k := fun q => h q.symm
      simp [e, Tab.get, q]

/-- A copy of 16 bytes as a job, and jobs that end otherwise. -/
def job (k : JobKind) (b : Bool) : Job where
  id := 5
  hart := 0
  asid := 1
  token := 2
  kind := k
  pieces := match k with | .copy => [⟨some (.ram 0x500000), .ram 0x500040, 16⟩] | _ => []
  moved := 0
  total := 16
  started := b
  reads := []
  writes := []
  status := match k with | .copy => none | _ => some (.ram 0x500100)
  pbar := none
  result := 0
  packet := 0
  desc := jobBytes
  order := 0
def jobs (j : Job) : State := { placed.setMe { placed.me with tokens := [(2, .pending 5)] } with jobs := [j] }
theorem witness_CopyProgress : ∀ j ∈ [job .copy false, job .copy true, job (.put 3) true, job (.get 3) true, job .allreduce true],
    jobAt (jobs j) j.id = some j ∧ (∀ e ∈ (jobs j).jobs, e.id = j.id → e = j) ∧ j.pbar = none ∧ j.ahead = [] ∧ j.early = [] ∧ j.behind = [] ∧ (jobs j).taint = []
      ∧ j.moved = 0 ∧ jdLen j.desc ≠ 0
      ∧ ((jobs j).hart j.hart).token j.token = .pending j.id ∧ j.result = 0 ∧ channelFree (jobs j) j = true
      ∧ jobWaits (setJob (jobs j) { j with started := true }) { j with started := true } = false ∧ jobWaits (jobs j) j = false := by
  decide +kernel
theorem witness_CopyProgress_copy : (job .copy true).pieces = [⟨some (.ram 0x500000), .ram 0x500040, (job .copy true).total⟩]
    ∧ (job .copy true).status = none ∧ 0x500000 + (job .copy true).total ≤ 0x500040
    ∧ (job .allreduce true).status = some (.ram 0x500100) := by decide
theorem witness_CopyProgress_ready : let s := jobs (job .copy true)
    (∀ m, m ≤ (job .copy true).total → placeReady s (job .copy true).core (.ram 0x500000) m = true
      ∧ placeReady s (job .copy true).core (.ram 0x500040) m = true)
    ∧ placeReady s (job .allreduce true).core (.ram 0x500100) 4 = true := by decide +kernel
theorem witness_PlainAndQualified_jobs : (jobs (job .copy true)).me.chain = none ∧ jobsOf (jobs (job .copy true)) 0 ≠ []
    ∧ placed.me.scalarQueue = [] ∧ placed.me.vectorQueue = [] := by decide +kernel
/-- A binding of device 7, context 9 to the local context 1, writable (15 R392). -/
def bound : State := { placed with hub := { placed.hub with
  rbind := [(0, BitVec.ofNat 64 (2 ^ 63 + 2 ^ 62 + 2 ^ 38 + 9 * 2 ^ 22 + 7))] } }
theorem witness_RemoteAccess : bindingFor placed 7 9 = none
    ∧ bindingFor bound 7 9 = some (BitVec.ofNat 64 (2 ^ 63 + 2 ^ 62 + 2 ^ 38 + 9 * 2 ^ 22 + 7))
    ∧ (BitVec.ofNat 64 (2 ^ 63 + 2 ^ 62 + 2 ^ 38 + 9 * 2 ^ 22 + 7)).getLsbD 62 = true
    ∧ (bound.context 1).dying = false ∧ errOf (remoteAnswer bound ⟨7, 9, false, 0x500000, [], 8⟩) = some 0x08
    ∧ errOf (remoteAnswer bound ⟨7, 9, true, 0x7F0000000000, [1], 0⟩) = some 0x07
    ∧ rangeOf bound ⟨1, .user, none⟩ .store 0x500000 3 = .ok [(.ram 0x500000, 3)]
    ∧ placeReady bound none (.ram 0x500000) 3 = true := by
  simp only [ok_iff]; decide +kernel

/-- A packet of one hart group of two strips of four elements, whose slot 0 reads and writes 4-byte elements at 0x500000
under handle 1. -/
def aPacket (f : Packet → Packet) : Packet := f {
  id := 1
  lspool := 0
  qcb := 0x600000
  index := 0
  asid := 1
  bytes := leBytes 8 0x620000 ++ leBytes 8 0x630000 ++ [2, 1, 0, 0, 0, 0, 0, 0] ++ List.replicate 8 0
    ++ (leBytes 8 3 ++ leBytes 8 1 ++ List.replicate 32 0) ++ [1] ++ List.replicate 7 255 ++ leBytes 8 0x500800 ++ leBytes 8 0xFF
    ++ leBytes 8 0x1234 ++ leBytes 8 0x500900 ++ List.replicate 8 0
  desc := ⟨0x400002, 4, 1, true, false, [8, 1, 1, 1], 0, [⟨3, false, 4, [1], [0], [1]⟩]⟩
  bases := [0x500000]
  phase := .dispatched
  partner := none
  producer := false
  deleted := []
  gen := 0
  status := none
  sent := 1
  started := [(0, 0)]
  live := 1
  tasks := 0
  pendingStatus := false
  reported := false
  ran := true }
/-- Hart 0 in strip `k` of that packet. -/
def streaming (k : Nat) : State :=
  { placed.setMe { placed.me with conf := some ⟨8, 1, 2⟩, vl := 2, s := [(8, 1)], work := .group 1 0 0 0 0 k } with
    keel := { placed.keel with packets := [aPacket id], spools := [⟨0, 0x600000, false, 1, false, [], false⟩] } }
theorem witness_Streams : (match streamSlot (streaming 1) 1 0, streamSlot (streaming 1) 1 1 with
    | .ok (p, j), .ok (_, i) => (deletedOf p 1).isNone && i == j && streamActive (streaming 1).me p 1 0 == [0, 1]
      && [0, 1].all fun e => [Access.load, .store].all fun k =>
        (check (streaming 1) ((streaming 1).agent 0) k (streamAddr p j e) 4).toOption == some ⟨.ram (0x500010 + 4 * e), .pma⟩
    | _, _ => false) = true ∧ (streaming 1).me.readS 8 = 1 ∧ (streaming 1).me.gang = none ∧ (streaming 1).me.gangFeed = [] := by
  decide +kernel
theorem witness_Streams_ready : vmReady (streaming 1) ⟨1, 8, 0, 0, 0, 0, 0, 0⟩ [1] :=
  ⟨by simp only [free, atTurn, nothingSent]; decide +kernel, by decide +kernel, by decide +kernel, ready_of_idle _ _ rfl, plain_of_idle _ _ (by decide)⟩
theorem witness_TokensAndTethers : free (tethered 1 .held) ∧ tetherAt (tethered 1 .held) 0 3 = some ⟨1, 0x500000, 0x500000, .held⟩
    ∧ (1 : Nat) ≠ (tethered 1 .held).cur ∧ tetherAt (tethered 1 .held) 0 4 = none
    ∧ tetherRow (tethered 1 .held) ((tethered 1 .held).agent 0) 0x5007FF = .ok 0x500400 := by
  simp only [free, atTurn, nothingSent, ok_iff]; decide +kernel
theorem witness_TokensAndTethers_pending : tokensReady copier.me 0xFF ∧ ¬tokensReady copying.me 8 :=
  ⟨ready_of_idle _ _ rfl, fun h => h 3 (by decide) (by decide) 7 (by decide +kernel)⟩
/-- A control block with HEAD, TAIL, FREE, RESVD, LOGCAP, STAT, ESIZE, THRESH's word and a sealed CHECK, BASE 0x610000,
owner 1 and an MSI of 0x77 to 0x611000 (10 R254). -/
def block (head tail free cap stat esize delay unnot : Nat) : List Byte :=
  qcbSeal (leBytes 8 head ++ leBytes 8 tail ++ leBytes 8 0x610000 ++ leBytes 4 free ++ leBytes 4 0 ++ [BitVec.ofNat 8 cap]
    ++ [BitVec.ofNat 8 stat] ++ leBytes 2 esize ++ leBytes 2 1 ++ leBytes 2 0 ++ leBytes 2 delay ++ leBytes 2 0
    ++ leBytes 4 0x77 ++ leBytes 8 0x611000 ++ leBytes 4 unnot ++ leBytes 4 0)
/-- Hart 0 in a context with TRYQ, and a spool at 0x600000 with the block given; s8 names it. -/
def spooled (b : List Byte) : State :=
  let s := storing placed [(0x600000, b), (0x640000, b)]
  { s with
    contexts := [(1, { placedContext with tryq := true, handler := 0x5000 })]
    harts := [(0, { placed.me with conf := some ⟨8, 1, 2⟩, vl := 2, fetched := wordLine 16 0x4C00, s :=
      [(8, 0x600000), (9, 0x640000), (10, 0x650000)] })] }
/-- Empty, half full and full. -/
def empty : State := spooled (block 0 0 4 2 0 8 0 0)
def half : State := spooled (block 0 2 2 2 0 8 0 0)
def full : State := spooled (block 0 4 0 2 0 8 0 0)
theorem witness_SpoolQueue : let q := 0x600000
    qcbOk (qcbRead empty q) = true ∧ qcbOk (qcbRead full q) = true ∧ qcbSpoiled empty q = false ∧ qcbSpoiled full q = false ∧ 1 ≤ qFree (qcbRead empty q)
    ∧ qResvd (qcbRead empty q) < 2 ^ 32 - 1 ∧ slotsHeld empty q .store 0 1 = false ∧ slotsHeld full q .load 0 1 = false
    ∧ qUnnot (qcbRead empty q) < 2 ^ 32 - 1 ∧ field (qcbRead empty q) 38 2 = 0
    ∧ (leBytes 8 7).length = qEsize (qcbRead empty q)
    ∧ (let b := qcbRead empty q
      slotPlaces (qcbWrite empty q (setField (setField (setField b 8 8 (qTail b + 1)) 24 4 (qFree b - 1)) 28 4 (qResvd b + 1)))
        b .store (qTail b) = .ok [.ram 0x610000, .ram 0x610004])
    ∧ (let b := qcbRead full q
      slotPlaces (qcbWrite full q (setField b 0 8 (qHead b + 1))) b .load (qHead b) = .ok [.ram 0x610000, .ram 0x610004]
        ∧ qFree b < 2 ^ 32 - 1) := by
  simp only [ok_iff]; decide +kernel
/-- A state and the value that an operation on a queue answers, when it succeeds. -/
def went {α : Type} (r : State × Except Nat α) : Bool := r.2.toOption.isSome
theorem witness_SpoolInstructions : free half
    ∧ (∀ s ∈ [empty, half, full], (spoolBlock s 0x600000).toOption = some 0x600000
        ∧ (enqElement s 0x600000 11 0).toOption = some (leBytes 8 0) ∧ (deqPlaces s 0x600000 0).toOption.isSome = true
        ∧ tryAllowed s = true)
    ∧ half.me.readS 8 = 0x600000
    ∧ canReserve empty 0x600000 1 = true ∧ went (enqueue empty 0x600000 [leBytes 8 0]) = true ∧ canReserve full 0x600000 1 = false
    ∧ canTake full 0x600000 1 = true ∧ canTake empty 0x600000 1 = false ∧ qEsize (qcbRead half 0x600000) ≤ 8
    ∧ (dequeue full 0x600000 1).2.toOption.isSome = true
    ∧ 8 < qEsize (qcbRead (spooled (block 0 4 0 2 0 16 0 0)) 0x600000)
    ∧ (deqPlaces (spooled (block 0 4 0 2 0 16 0 0)) 0x600000 10).toOption.isSome = true
    ∧ slotsHeld empty 0x600000 .store (qTail (qcbRead empty 0x600000)) 1 = false
    ∧ slotsHeld full 0x600000 .load (qHead (qcbRead full 0x600000)) 1 = false
    ∧ (let v := spooled (block 0 2 2 2 0 4 0 0)
      slotsHeld v 0x600000 .store 2 2 = false ∧ slotsHeld v 0x600000 .load 0 2 = false ∧
      qEsize (qcbRead v 0x600000) = ewBytes v.me ∧ active v.me 0 = [0, 1] ∧ 2 ≤ qCap (qcbRead v 0x600000)
      ∧ canReserve v 0x600000 2 = true ∧ canTake v 0x600000 2 = true ∧ v.me.conf ≠ none) := by
  simp only [free, atTurn, nothingSent]; decide +kernel
theorem witness_SpoolBlocks : free half ∧ (spoolAddress half (half.me.readS 8).toNat).toOption = some 0x600000
    ∧ ((wordPlaces half (half.agent half.cur) .load 8 (half.me.readS 9).toNat 8).toOption.map fun l =>
        templateOk (readWords half l 8)) = some true
    ∧ ((wordPlaces half (half.agent half.cur) .load 8 0x400000 8).toOption.map fun l => templateOk (readWords half l 8)) = some false
    ∧ qcbSpoiled half 0x600000 = false ∧ qOwner (qcbRead half 0x600000) = half.me.asid ∧ qcbOk (qcbRead half 0x600000) = true := by
  simp only [free, atTurn, nothingSent]; decide +kernel
/-- Hart 0 waiting with `i` (its word) at the spool of `s`, its request first in line. -/
def queued (s : State) (w : Nat) (taking : Bool) : State :=
  { s with
    harts := [(0, { s.me with s := [(2, 0x600000)], fetched := wordLine 32 w, run := .waiting (.spool 0x600000) 0x600000 })]
    requests := [⟨0x600000, 0, taking, 1⟩] }
theorem witness_SpoolHome_grants :
    (let s := queued half 0xB8220523 false;
      s.requests.filter (fun r => decide (r.loc = 0x600000) && r.taking == false && r.count != 0) = [⟨0x600000, 0, false, 1⟩]
      ∧ waitingInstr (s.hart 0) = some (.enq 1 2 3 9) ∧ (s.hart 0).chain = none
      ∧ (spoolBlock s (s.me.readS 2).toNat).toOption = some 0x600000
      ∧ (enqElement (touch s (s.agent 0) .store 0x600000) 0x600000 1 3).toOption = some (leBytes 8 0)
      ∧ canReserve (touch s (s.agent 0) .store 0x600000) 0x600000 1 = true
      ∧ slotsHeld (touch s (s.agent 0) .store 0x600000) 0x600000 .store (qTail (qcbRead s 0x600000)) 1 = false
      ∧ went (enqueue (touch s (s.agent 0) .store 0x600000) 0x600000 [leBytes 8 0]) = true)
    ∧ let s := queued half 0xB8220923 true;
      s.requests.filter (fun r => decide (r.loc = 0x600000) && r.taking == true && r.count != 0) = [⟨0x600000, 0, true, 1⟩]
      ∧ waitingInstr (s.hart 0) = some (.deq 1 2 3 9)
      ∧ qEsize (qcbRead (touch s (s.agent 0) .store 0x600000) 0x600000) ≤ 8
      ∧ canTake (touch s (s.agent 0) .store 0x600000) 0x600000 1 = true
      ∧ slotsHeld (touch s (s.agent 0) .store 0x600000) 0x600000 .load (qHead (qcbRead s 0x600000)) 1 = false
      ∧ (dequeue (touch s (s.agent 0) .store 0x600000) 0x600000 1).2.toOption.isSome = true := by
  decide +kernel
theorem witness_SpoolHome_latches : let q := 0x600000
    let pa := 0x20000000000 + q / 4
    let s := spooled (block 0 2 2 2 2 8 5 1)
    let b := qcbRead s q
    pa < 0x23000000000 ∧ q = (pa - 0x20000000000) / 16 * 64 ∧ qcbOk b = true ∧ pa % 16 = 0 ∧ bitOf (qStat b) 1 = true
    ∧ doorbellHeld s q = false ∧ qcbSpoiled s q = false ∧ s.hub.msiLag = false ∧ s.hub.msis = [] ∧ stackReady s 0x611000 = true ∧ qTail b < max (Tab.get 0 s.hub.latches (pa / 8)).toNat 4
    ∧ max (Tab.get 0 s.hub.latches (pa / 8)).toNat 4 = qCap b + qHead b ∧ 4 - qTail b ≤ qFree b
    ∧ qUnnot b + (4 - qTail b) < 2 ^ 32 ∧ field b 38 2 = 0 ∧ (pa + 8) % 16 = 8 ∧ q = (pa + 8 - 0x20000000000) / 16 * 64
    ∧ field b 40 2 ≠ 0 ∧ qUnnot b ≠ 0 ∧ field b 48 8 % 4 = 0 ∧ placeOf s (field b 48 8) = some (.ram 0x611000) := by
  decide +kernel

/-- A task record at 0x620000 whose join counter lies at 0x620100, and `n` tasks already in the cluster's spool. -/
def tasking (n : Nat) (join : Nat) : State :=
  let s := storing placed [(0x620000, leBytes 8 0x400002 ++ leBytes 8 5 ++ leBytes 8 6 ++ leBytes 8 0x620100), (0x620100, leBytes 8 join)]
  { s with
    harts := [(0, { placed.me with s := [(8, 0x620000), (9, 0x620100)], work := .group 1 0 0 0 0 0 })]
    clusters := [(0, { tasks := List.replicate n ⟨0, 0, 0, 0, 1, 1, 0, 0, 0⟩ })]
    keel := { s.keel with packets := [aPacket id] } }
theorem witness_Tasks : ∀ s ∈ [tasking 0 0, tasking 4095 3, tasking 4096 0],
    free s ∧ s.me.run = .running ∧ spliced s s.me = false
    ∧ (waitCheck s (s.agent s.cur) (s.me.readS 8).toNat 32).toOption = some ⟨.ram 0x620000, .pma⟩
    ∧ (let k := taskOf s (readPlace s (.ram 0x620000) 32)
      let t := tagAt (touch (noteRead s (.ok ⟨.ram 0x620000, .pma⟩)) (s.agent s.cur) .load (s.me.readS 8).toNat) s.me (.ram 0x620000)
      (check t (s.agent s.cur) .atomic k.join.toNat 8).toOption = some ⟨.ram 0x620100, .pma⟩
        ∧ s.word 0x620100 8 < 2 ^ 32 - 1 ∧ k.gen ≤ s.me.gen)
    ∧ (waitCheck s (s.agent s.cur) (s.me.readS 9).toNat 8).toOption = some ⟨.ram 0x620100, .pma⟩ := by
  simp only [free, atTurn, nothingSent]; decide +kernel
theorem witness_Tasks_counts : (tasking 4095 3).clusters.map (·.2.tasks.length) = [4095] ∧ (tasking 0 0).word 0x620100 8 = 0
    ∧ spawnBlocked (tasking 0 0) = false ∧ spawnBlocked (tasking 4095 3) = false ∧ spawnBlocked (tasking 4096 0) = true
    ∧ spawnBlocked { tasking 0 0 with clusters := [(0, { spawners := [8] })] } = true ∧ (tasking 4095 3).word 0x620100 8 = 3 ∧ (tasking 4096 0).clusters.map (·.2.tasks.length) = [4096] := by decide +kernel
/-- The kernel descriptor and the table of bases that the packet of `aPacket` names (11 R277, R279, R280). -/
def descBytes : List Byte :=
  leBytes 8 0x400002 ++ leBytes 4 4 ++ [1, 2, 0, 0] ++ leBytes 8 8 ++ leBytes 8 1 ++ leBytes 8 1 ++ leBytes 8 1
    ++ List.replicate 16 0 ++ ([3, 0, 4, 0] ++ List.replicate 4 0 ++ [1] ++ List.replicate 63 0 ++ [1] ++ List.replicate 55 0)
    ++ List.replicate 896 0
/-- The device after boot, with one launch spool whose one element is that packet. -/
def launched : State := { placed with
  mem := placed.mem ++ ([(0x600000, block 0 1 1 1 2 128 0 0), (0x610000, (aPacket id).bytes), (0x620000, descBytes),
    (0x630000, leBytes 8 0x500000)].flatMap fun e => ((List.range 1088).zip e.2).filterMap fun b =>
      if b.2 = 0 then none else some (e.1 + b.1, b.2))
  harts := []
  hub := { placed.hub with ready := bootReady ||| 0x00078000007FEFFF, ctxbase := 0x700000, tivqcb := 0x800000, faultqcb := 0x900000 }
  keel := { placed.keel with spools := [⟨0, 0x600000, false, 0, false, [], false⟩] } }
/-- It taken (test_take_packet), dispatched, sent to cluster 0, copied there, and started on its core 0. -/
def taken : State := { launched with keel := { launched.keel with
  packets := [aPacket fun p => { p with phase := .window, bases := p.bases ++ List.replicate 7 0, sent := 0, started := [], live := 0, ran := false }]
  spools := [⟨0, 0x600000, false, 1, false, [], false⟩]
  accepted := 1
  turns := [(0, 1)] } }
def dispatched : State := ran (.dispatchPacket 0) taken
def sent : State := ran (.placementMessage 1 0) dispatched
def copied : State := ran (.gondolaCopyMessage 0) sent
def started : State := ran (.startClusterGroup 0 [0]) copied
theorem test_take_packet : ((ran (.takePacket 0) launched).packet 1).map (fun p => { p with desc := noDescriptor })
    = (taken.packet 1).map fun p => { p with desc := noDescriptor } := by decide +kernel
theorem witness_Taking : keelReady launched = true ∧ nextSpool launched = some ⟨0, 0x600000, false, 0, false, [], false⟩
    ∧ qcbOk (qcbRead launched 0x600000) = true ∧ qcbSpoiled launched 0x600000 = false ∧ launched.keel.packets = []
    ∧ ((ownerRead launched 1 128 0x610000 128).toOption == some (aPacket id).bytes) = true ∧ stackReady launched 0x600000 = true
    ∧ packetHeld launched (newPacket launched ⟨0, 0x600000, false, 0, false, [], false⟩ (qcbRead launched 0x600000) (aPacket id).bytes) = false
    ∧ (let p := aPacket fun p => { p with desc := noDescriptor, bases := [], phase := .window }
      let s := { launched with keel := { launched.keel with packets := [p] } }
      s.packet 1 = some p ∧ wordProblem s p = none ∧ p.bytes.length = 128
        ∧ ((ownerRead s 1 1088 p.descVa 1088).toOption == some descBytes) = true
        ∧ ((ownerRead s 1 64 p.args.toNat 64).toOption == some (leBytes 8 0x500000 ++ List.replicate 56 0)) = true
        ∧ (readDescriptor descBytes).isSome = true ∧ field descBytes 64 1 ≠ 0
        ∧ p.late = false ∧ (aPacket fun p => { p with late := true }).late = true ∧ headerOk s (aPacket id) = true ∧ headerOk s (aPacket fun p => { p with bytes := p.bytes.set 23 1 }) = false
        ∧ elided s 1 1 = false) := by
  decide +kernel
theorem witness_Dispatching : keelReady taken = true
    ∧ (let s := evaluateWindow taken 0
      (match windowPackets s 0 with
      | p :: _ => decide (s.packet p.id = some p ∧ p.partner = none ∧ p.producer = false ∧ p.phase = .window ∧ p.reported = false
        ∧ p.status = none ∧ bitOf p.flags 0 = false ∧ edgesWait s p p.id = false ∧ batchHolds s p = false
        ∧ doorbellHeld s p.qcb = false ∧ p.cold = false ∧ spaceMissing s p = none
        ∧ grantChains s [p] = some [])
      | [] => false) = true)
    ∧ (let p := aPacket fun p => { p with live := 0 }
      let s := { launched with keel := { launched.keel with packets := [p] } }
      s.packet 1 = some p ∧ p.phase = .dispatched ∧ p.partner = none ∧ p.pendingStatus = false ∧ packetOver s p = true
        ∧ wordProblem s p = none ∧ p.signalSize = 4
        ∧ ((statusPlace s p).toOption == some (some (.ram 0x500900))) = true
        ∧ ((signalPlace (writeStatus s p (p.status.getD 0)) p).toOption == some (some (.ram 0x500800))) = true) := by
  decide +kernel
theorem witness_Placement : keelReady dispatched = true
    ∧ (match dispatched.packet 1 with
      | some p => decide (p.phase = .dispatched ∧ p.partner = none ∧ p.ended = false ∧ p.sent < p.ext 4 * p.ext 5
        ∧ p.ext 3 ≤ coresIn dispatched 0 ∧ coresIn dispatched 0 ≠ 0 ∧ 0 ∉ gridClusters dispatched 1 0
        ∧ (dispatched.cluster 0).permits ≠ 0 ∧ (dispatched.cluster 0).backlog = [] ∧ clusterAwake dispatched 0 = true)
      | none => false) = true
    ∧ placementEnded sent 0 ⟨1, 0, 0⟩ = false ∧ placementEnded sent 0 ⟨2, 0, 0⟩ = true ∧ (sent.cluster 0).link = [.place ⟨1, 0, 0⟩] ∧ headPlacement copied 0 = some ⟨1, 0, 0⟩ ∧ headTask copied 0 = none
    ∧ suspendedBefore copied 0 (placementPrio copied ⟨1, 0, 0⟩) 1 = false
    ∧ (match copied.packet 1 with | some p => decide (chooseCores copied p 0 [0] = some [0]) | none => false) = true
    ∧ (freeHarts copied 0)[0]? = some 0 ∧ (started.hart 0).pc = 0x400002 := by
  decide +kernel
theorem witness_Placement_task :
    let k : Task := ⟨0x400002, 5, 6, 0, 1, 1, 0, 0x630000, 0⟩
    let s := { started with clusters := [(0, { tasks := [k] })] }
    (∀ t ∈ [k], taskStale s 0 t = false) ∧ suspendedGroups (discardTasks s 0) 0 = [] ∧ headTask (discardTasks s 0) 0 = some k ∧ headPlacement (discardTasks s 0) 0 = none
    ∧ clusterAwake (discardTasks s 0) 0 = true ∧ chooseHart (discardTasks s 0) 0 k.asid (some 1) = some 1 := by
  decide +kernel
/-- Hart 0 of that packet, with registers that name the packet's spool, index and bytes. -/
def member (w : Work) : State := started.setMe { started.me with s := [(8, 0x600000), (9, 0), (10, 0x610000)], work := w }
theorem witness_Jobs : let s := member (.group 1 0 0 0 0 1)
    free s ∧ spliced s s.me = false ∧ (wordPlaces s (s.agent s.cur) .load 64 (s.me.readS 10).toNat 2).toOption.isSome = true
    ∧ (match wordPlaces s (s.agent s.cur) .load 64 (s.me.readS 10).toNat 2 with
      | .ok l =>
        let t := useWords s .load 64 (s.me.readS 10).toNat l
        let u := touch t (s.agent s.cur) .store (s.me.readS 8).toNat
        decide ((spoolBlock t (s.me.readS 8).toNat).toOption = some 0x600000 ∧ canReserve u 0x600000 1 = true
          ∧ slotsHeld u 0x600000 .store (qTail (qcbRead u 0x600000)) 1 = false)
      | .error _ => false) = true
    ∧ ((jobNamed s 8 9).toOption.map fun p => p.map fun p => (p.id, p.phase, p.gen)) = some (some (1, .dispatched, 0))
    ∧ ((jobNamed s 8 10).toOption.map Option.isNone) = some true
    ∧ ((jobNamed { s with keel := taken.keel } 8 9).toOption.map fun p => p.map fun p => (p.id, p.phase, p.partner, p.status))
      = some (some (1, .window, none, none)) := by
  simp only [free, atTurn, nothingSent]; decide +kernel
theorem witness_Jobs_launch : let s := member (.group 1 0 0 0 0 1)
    went (enqueue s 0x600000 [(aPacket id).bytes]) = true
    ∧ canReserve (storing s [(0x600000, block 0 2 0 1 2 128 0 0)]) 0x600000 1 = false := by
  decide +kernel
theorem witness_Bodies : free started
    ∧ (match (member (.group 1 0 0 0 0 0)).packet 1 with
      | some p => decide (p.partner = none ∧ stoppedAt started 0 1 = false ∧ 0 + 1 < p.ext 1 ∧ p.ext 1 ≤ 1 + 1 ∧ gridStarted p 0 = true)
      | none => false) = true
    ∧ jobsOf started started.cur = [] ∧ started.me.scalarQueue = [] ∧ started.me.vectorQueue = [] ∧ started.me.work = .group 1 0 0 0 0 0
    ∧ jobsOf { started with jobs := [job .copy true] } 0 = [job .copy true]
    ∧ (started.cluster (clusterOf started.cur)).queue = [] ∧ (started.cluster (clusterOf started.cur)).tasks = [] := by
  simp only [free, atTurn, nothingSent]; decide +kernel
/-- 02 R41 to R49: the packet runs to its end: both strips, then its status and signal words. -/
theorem test_packet_runs : let t := ran (.packetComplete 1) (copyReport (ran .next (ran .next started)) 0)
    (ran .next started).me.readS 1 = 4 ∧ (t.packet 1).map (·.phase) = some .done ∧ t.word 0x500800 4 = 0x34
    ∧ t.word 0x500900 4 = 0 := by decide +kernel
/-- The started device with room in the save region. -/
def roomy (s : State) : State := { s with hub := { s.hub with savebase := 0x10000000, savesize := 0x1000000 } }
/-- The request for hart 0 on its way, and the hart suspended by it. -/
def asked : State := ran (.preemptRequest 0) (roomy started)
def parked : State := ran (.gondolaCopyMessage 0) asked
theorem witness_Preemption : ((roomy started).hart 0).run ≠ .free ∧ residentWith (roomy started) 0 = [0]
    ∧ saveRoom (roomy started) 1 = true ∧ ((roomy started).hart 0).chain = none ∧ ((roomy started).hart 0).qual = false
    ∧ (roomy started).keel.up = true
    ∧ (asked.cluster 0).link = [.suspend started.keel.ids [(0, (asked.hart 0).placed)]] ∧ (asked.hart 0).run ≠ .free
    ∧ midGroup (asked.hart 0) = false ∧ (parked.keel.saved.map fun r => (r.hart.lc0.busy, r.hart.lc1.busy)) = [(false, false)]
    ∧ (let s := ran .keelRestart started; (s.hart 0).run ≠ .free ∧ s.keel.up = false)
    ∧ resumeBehind parked 0 started.keel.ids (waitingPrio parked (.resume started.keel.ids)) 1 = false
    ∧ parked.keel.saved.map (fun r => (clusterOf r.hartid, (jobPacket r.hart).getD 0)) = [(0, 1)]
    ∧ parked.keel.saved.map (·.group) = [started.keel.ids] ∧ groupResumable parked started.keel.ids = true
    ∧ ((parked.keel.saved.filter fun r => decide (r.group = started.keel.ids)).map (·.hartid)).Nodup := by
  decide +kernel
/-- A cluster whose every hart runs packet 1 of a context of lower priority, and a group of packet 2 at the head of its queue
(two cores are enough to show it). -/
def starved : State :=
  let s := roomy copied
  let low := { started.hart 0 with work := .group 9 0 0 0 0 0, asid := 2 }
  { s with
    plate := { s.plate with clusters := [(0, 0, 1)] }
    harts := (List.range 8).map fun h => (h, { low with work := .group (9 + h) 0 0 0 0 0 })
    contexts := [(1, { placedContext with prio := 3 }), (2, { placedContext with prio := 1 })]
    keel := { s.keel with packets := s.keel.packets ++ (List.range 8).map fun h => { aPacket id with id := 9 + h, asid := 2 } } }
theorem witness_Preemption_starvation : headPlacement starved 0 = some ⟨1, 0, 0⟩ ∧ suspendedGroups starved 0 = []
    ∧ canStart starved 0 (.group ⟨1, 0, 0⟩) = false
    ∧ (makeRoom starved 0 (.group ⟨1, 0, 0⟩) (victims starved [0] (placementPrio starved ⟨1, 0, 0⟩))).isSome = true
    ∧ starved.keel.up = true := by
  decide +kernel
theorem witness_KeelAndPower : (ran .keelRestart launched).keel.up = false
    ∧ (let c : Cluster := { gated := true, waking := true }; ({ launched with clusters := [(0, c)] }.cluster 0).waking = true)
    ∧ (let s := { launched with hub := { launched.hub with wakingDies := [2], checking := [0] } }
      2 ∈ s.hub.wakingDies ∧ ∀ k ∈ s.hub.checking, k / 3 ≠ 2)
    ∧ keelReady launched = true ∧ launched.hub.gateClusters = true ∧ coresIn launched 0 ≠ 0 ∧ (launched.cluster 0).waking = false
    ∧ clusterIdle launched 0 = true ∧ launched.hub.gateDies = true ∧ launched.hub.gatedDies = [] := by
  decide +kernel
/-- One die of one cluster, which is gated. -/
def oneGated : State :=
  { launched with clusters := [(0, { gated := true })], plate := { launched.plate with clusters := [(0, 0, 1)] } }
theorem witness_KeelAndPower_gated : (oneGated.cluster 0).gated = true ∧ (0 : Word).getLsbD 0 = false ∧ (∃ e ∈ oneGated.plate.clusters, e.1 = 0)
    ∧ (∀ e ∈ oneGated.plate.clusters, e.1 = 0 → (oneGated.cluster (16 * 0 + e.2.1)).gated = true) := by
  decide +kernel
theorem witness_KeelAndPower_hot : (0x640 : Word) ∈ ([0x640, 0x63F] : List Word).take 52
    ∧ (State.reset.hub.tlimit : Int) * 16 ≤ sensorTemp ((0x640 : Word) &&& 0x0000FFFFFFFFFFFF) := by
  decide +kernel
/-- A hart that trapped with no handler: its record waits for the fault spool at 0x900000. -/
def forwarded : State := copyReport (Machine.trap (roomy (storing started [(0x900000, block 0 0 4 2 0 64 0 0)])) 0x01 0) 0
def reported : State := ran .faultRecordWrite forwarded
theorem witness_FaultReplies : let q := forwarded.hub.faultqcb.toNat
    let b := qcbRead forwarded q
    forwarded.keel.held.length = 1 ∧ forwarded.keel.up = true ∧ hubSpoolTakes forwarded q 64 = true
    ∧ dramOk forwarded (qBase b + qTail b % qCap b * 64) = true
    ∧ ramReady forwarded none (qBase b + qTail b % qCap b * 64) 64 = true
    ∧ reported.keel.replies = [] ∧ replyHeld reported 0 false = false ∧ replyHeld reported 0 true = false ∧ field b 38 2 = 0
    ∧ qBase b + qTail b % qCap b * 64 + 64 ≤ q ∧ (forwarded.keel.held.map needsReply) = [true]
    ∧ (match reported.keel.awaiting.find? (fun e => decide (e.1 % 2 ^ 56 = 0)) with
      | some (_, r) => (match r.subject with
        | .hart i => (savedAt reported i).any fun w => (chargedPacket reported w.hart).any fun p => p.status.isNone && p.partner.isNone
        | _ => false)
      | none => false) = true := by
  decide +kernel
/-- An element of the translation invalidation spool with a completion word at 0x820000 (15 R388). -/
def tivElem (op asid count va : Nat) : List Byte :=
  leBytes 2 op ++ leBytes 2 asid ++ leBytes 4 count ++ leBytes 8 va ++ leBytes 8 0 ++ leBytes 8 0x820000
/-- The device, idle, with that element in its spool and a context descriptor for context 5. -/
def invalidating (op asid count va : Nat) : State :=
  storing launched [(0x800000, block 0 1 3 2 0 32 0 0), (0x610000, tivElem op asid count va),
    (0x700140, leBytes 8 (9 * 2 ^ 60 + 1) ++ leBytes 8 0 ++ leBytes 8 0x400000000000 ++ leBytes 8 0x410000000000 ++ List.replicate 32 0)]
theorem witness_Contexts : ∀ e ∈ [(0, 1, 1048576, 0x1000), (1, 1, 0, 0), (2, 0, 0, 0), (3, 5, 0, 0), (4, 1, 0, 0)],
    let s := invalidating e.1 e.2.1 e.2.2.1 e.2.2.2
    let b := tivElem e.1 e.2.1 e.2.2.1 e.2.2.2
    keelReady s = true ∧ hubElement s s.hub.tivqcb.toNat 32 = some (0, b) ∧ tivBad b = false ∧ field b 24 8 % 8 = 0
    ∧ dramOk s (field b 24 8) = true ∧ stackReady s (field b 24 8) = true ∧ tivOp b = e.1
    ∧ taintPlace s (.ram (hubSlot s s.hub.tivqcb.toNat 32)) 32 = .sound ∧ removalWaits s ⟨none, none, true⟩ = false := by
  decide +kernel
theorem witness_Contexts_load : let s := invalidating 3 5 0 0
    let pa := s.hub.ctxbase.toNat + 64 * 5
    dramOk s pa = true ∧ stackReady s pa = true ∧ contextBusy s 5 = false ∧ taintPlace s (.ram pa) 64 = .sound ∧ (readContext (readPlace s (.ram pa) 64)).isSome = true
    ∧ (s.context 5).valid = false ∧ (s.context 1).valid = true := by
  decide +kernel
theorem witness_Contexts_destroy : (let s := invalidating 4 1 0 0
    let asked := askDiscard (cancelContext (s.setContext 1 { s.context 1 with dying := true }) 1) 1
    let told := { asked with clusters := [] }
    (s.context 1).dying = false ∧ contextRuns (discardSuspended asked 1) 1 = true ∧ (asked.cluster 0).link = [.discard 1]
      ∧ (told.context 1).dying = true ∧ contextRuns (discardSuspended told 1) 1 = false
      ∧ contextOpen (completeContext (discardSuspended told 1) 1) 1 = false
      ∧ contextOpen { told with jobs := [{ job .copy true with asid := 1 }] } 1 = true) := by
  decide +kernel
/-- An element of the watch spool: 4 bytes at 0x650000, any bit set sends 9 to 0x660000 (17 R433). -/
def watchElem (flags : Nat) : List Byte :=
  leBytes 8 0x650000 ++ leBytes 8 0xFF ++ leBytes 8 0 ++ leBytes 4 flags ++ leBytes 4 9 ++ leBytes 8 0x660000 ++ List.replicate 24 0
def watching (flags : Nat) : State :=
  let s := storing launched [(0xA00000, block 0 1 3 2 0 64 0 0), (0x610000, watchElem flags)]
  { s with hub := { s.hub with watchqcb := 0xA00000 } }
theorem witness_HubSpools : let v : Word := BitVec.ofNat 64 0x680000
    dramOk launched (lspoolQcb v) = true ∧ lspoolAt launched (lspoolQcb v) = none
    ∧ launched.keel.spools.length < 4096 ∧ lspoolAt launched (lspoolQcb (BitVec.ofNat 64 0x600000)) ≠ none
    ∧ hubElement (watching 0) (watching 0).hub.watchqcb.toNat 64 = some (0, watchElem 0)
    ∧ (lspoolAt launched 0x600000).isSome = true ∧ 4096 ≤ ({ launched with keel := { launched.keel with
        spools := List.replicate 4096 ⟨0, 0x600000, false, 0, false, [], false⟩ } }).keel.spools.length
    ∧ (∀ f ∈ [(0, true), (2, false)],
      let s := watching f.1
      watchMeets (hubConsume s s.hub.watchqcb.toNat) ⟨s.keel.ids, 0x650000, 0xFF, 0, bitOf f.1 0, bitOf f.1 1, 9, 0x660000, false⟩ = f.2)
    ∧ taintPlace (watching 0) (.ram (hubSlot (watching 0) (watching 0).hub.watchqcb.toNat 64)) 64 = .sound
    ∧ ramReady (watching 0) none 0x650000 4 = true ∧ armedPoison (watching 0) 0x650000 4 = none
    ∧ (watching 0).hub.msiLag = false ∧ (watching 0).hub.msis = [] ∧ watchBad (watching 0) (watchElem 0) = false ∧ watchBad (watching 4) (watchElem 4) = true := by
  decide +kernel
theorem witness_HubSpools_number : lspoolNumber State.reset 0x680000 = some 0 ∧ State.reset.keel.spools.length < 4096 := by
  have h (l : List Nat) : l.foldl (fun m i => if m = i ∧ ([] : List Nat).contains i then i + 1 else m) 0 = 0 := by
    induction l <;> simp_all
  refine ⟨?_, by decide⟩
  simp only [lspoolNumber, State.reset, List.map_nil, List.append_nil, h]
  rfl
theorem witness_HubSpools_fired : let w : Watch := ⟨0, 0x650000, 0xFF, 0, false, false, 9, 0x660000, true⟩
    let s := { launched with watches := [w] }
    s.watches.find? (fun e => decide (e.id = 0)) = some w ∧ w.hit = true ∧ w.msiAddr % 4 = 0
    ∧ placeOf s w.msiAddr = some (.ram 0x660000) ∧ stackReady s 0x660000 = true := by
  decide +kernel
theorem witness_HubRegisters : let s := { launched with sec := { launched.sec with opLen := 32, rspLen := 304 } }
    (2 ^ 22 - 1 < 2 ^ 22) ∧ s.hub.devidSet = false ∧ (ran (.devidsetWrite 3) s).hub.devidSet = true
    ∧ s.sec.busy = false ∧ s.hub.ready.getLsbD 53 = true ∧ operandOk s = true ∧ ramReady s none s.sec.opAddr.toNat 32 = true
    ∧ taintPlace s (.ram s.sec.opAddr.toNat) 32 = .sound
    ∧ ramReady { s with hub := { s.hub with ready := 0x20000000000000 } } none s.sec.opAddr.toNat 32 = false ∧ s.sec.opLen = 32 ∧ 304 ≤ s.sec.rspLen.toNat
    ∧ launched.sec.opLen = 0 ∧ ({ launched.sec with opLen := 64, rspLen := 4 } : Security).opLen = 64
    ∧ (let t := { launched with sec := { launched.sec with busy := true, response := [1, 2, 3, 4], rspAddr := 0x690000 } }
      t.sec.busy = true ∧ t.sec.command = none ∧ t.sec.response.length ≠ 0 ∧ ramReady t none t.sec.rspAddr.toNat 4 = true
        ∧ dramOk t t.sec.rspAddr.toNat = true ∧ dramOk t (t.sec.rspAddr.toNat + 4 - 1) = true) := by
  decide +kernel
theorem witness_Surroundings : launched.hub.ready.getLsbD (31 + 15) = true ∧ launched.jobs = []
    ∧ (∀ q ∈ launched.hub.posted, q.requester ≠ 1)
    ∧ placeOf launched 0x690000 = some (.ram 0x690000) ∧ placeOf launched 0x690003 = some (.ram 0x690003)
    ∧ (let s := { launched with hub := { launched.hub with iommu := { launched.hub.iommu with ddtp := 1 } } }
      (match inboundAt s ⟨0x690000, true, [1], 1, false⟩ with | .ok (pa, c) => pa == 0x690000 && c.isNone | _ => false) = true
      ∧ (match inboundAt launched ⟨0x690000, true, [1], 1, false⟩ with
        | .error f => f.cause == 256 && !recordWaits launched f | _ => false) = true)
    ∧ dramOk launched 0x690000 = true ∧ placeReady launched none (.ram 0x690000) 4 = true ∧ 0x690000 < 4 * dieSpan ∧ 0x690000 % dieSpan < dieBytes launched.plate 0
    ∧ launched.hub.ready.getLsbD 53 = true ∧ linkEnabled launched.plate 9 = true ∧ 11 ∈ launched.plate.hbm := by
  decide +kernel
theorem witness_Resets : Instr.resetWarm ∈ [Instr.resetWarm, .mgmtWarmReset false] ∧ (∀ e ∈ launched.dirty, e.1 ≠ 5)
    ∧ stashDirty launched = [] ∧ lostBytes launched true = [] := by
  decide +kernel
theorem witness_Management : let s := { started with harts := [(0, { started.me with halted := true })] }
    let y := { s.hart 0 with halted := false, stepping := true }
    unitHolds (.cluster 0) 0 = true ∧ unitHolds (.core 0) 7 = true ∧ unitHolds (.hart 0) 1 = false ∧ (started.hart 0).run ≠ .free
    ∧ midGroup (started.hart 0) = false ∧ (started.hart 0).qual = false ∧ midGroup (chained.hart 0) = true
    ∧ (∀ e ∈ started.harts, e.2.scalarQueue = [] ∧ e.2.vectorQueue = []) ∧ (s.hart 0).halted = true
    ∧ (s.hart 0).run = .running ∧ endProblem s 0 y (arrive y y.pc) = none := by
  decide +kernel
theorem witness_HartRecord : let x := vec [(8, 0x1234)]
    x.conf = some ⟨8, 1, 2⟩ ∧ 7 < 8 ∧ 4095 < 1 * 32768 / 8 ∧ x.readS 8 = 0x1234 := by decide +kernel
theorem witness_PoisonedSources : let x := { vals with spoiled := { s := 0x100, f := 4, v := [(1, [(3, true)])], banks := [(1, [(2, true)])] } }
    let s := on x
    let o : VAOps := ⟨7, 1, 2, 2, 0, false, false, false, 0, 0, 2⟩
    let m : VMOps := ⟨1, 2, 3, 0, 1, 0, 0, 0⟩
    free s ∧ s.me.run = .running ∧ (hart []).spoiled = {} ∧ (8 : Reg) ≠ 0 ∧ x.spoiled.s.getLsbD (8 : Reg).toNat = true
    ∧ x.spoiled.f.getLsbD (2 : Reg).toNat = true ∧ roundingMode x o.rm ≠ none ∧ x.conf ≠ none
    ∧ (∀ r ∈ [o.x, o.y, o.z, o.w], r.toNat < vCount x) ∧ vectorMode x o true ≠ none ∧ 3 ∈ active x 0
    ∧ spoiledElem x o.y.toNat 3 = true ∧ m.wait = 0 ∧ m.x.toNat < vCount x ∧ spoiledElem x m.x.toNat 3 = true
    ∧ 2 ∈ activeRows x 0 ∧ Tab.get false (Tab.get [] x.spoiled.banks (m.sub.toNat % 2)) 2 = true := by
  simp only [free, atTurn, nothingSent]; decide +kernel
theorem witness_PoisonCleared : let s := on { vals with spoiled := { v := [(7, [(3, true)])] } }
    let o : VAOps := ⟨7, 1, 2, 2, 0, false, false, false, 0, 0, 2⟩
    let m : VMOps := ⟨7, 2, 3, 0, 1, 1, 2, 0⟩
    (s.hart s.cur).run ≠ .free ∧ free s ∧ vregsOk s.me [o.x, o.y, o.z, o.w] = true ∧ tyWidth o.ty.toNat ≤ ewBits s.me
    ∧ vectorMode s.me o true ≠ none ∧ (ran (.vadd o) s).me.spoiled.v = []
    ∧ tyWidth m.ty.toNat ≤ ewBits s.me ∧ m.x.toNat < vCount s.me := by
  simp only [free, atTurn, nothingSent]; decide +kernel
theorem witness_StepKeepsCanonical : placed.canonical ∧ (match step placed with | .next _ => true | _ => false) = true := by
  simp only [State.canonical]; decide +kernel
theorem witness_MemoryLaws : launched.canonical ∧ 0 < [(1 : Byte)].length := by simp only [State.canonical]; decide +kernel
theorem witness_StepRunsDecoded : let s0 := { placed with agenda := [], cur := 0 }
    let pc := (placed.hart 0).pc
    placed.agenda = [.hart 0] ∧ placed.hub.bootCode = 0 ∧ placed.hub.ready.getLsbD 53 = true ∧ placed.keel.requests = []
    ∧ blocked s0 .nop = false ∧ (placed.hart 0).run = .running ∧ (placed.hart 0).halted = false
    ∧ (fetchLine s0 0 pc.toNat).toOption = some (wordLine 16 0x4C00) ∧ lineFormatOk (wordLine 16 0x4C00) = true
    ∧ pc.toNat / 2 % 32 ≠ 0 ∧ pc.toNat / 2 % 32 ≤ lineCount (wordLine 16 0x4C00)
    ∧ (decodeSlot (wordLine 16 0x4C00) (pc.toNat / 2 % 32)).toOption = some .nop ∧ Instr.nop.wellFormed = true
    ∧ readsSpoiled s0 .nop = false
    ∧ readsSpoiled (on { hart [] with spoiled := { s := 0x100 } }) (.add 7 8 9) = true
    ∧ fetchProblem { on (hart []) with agenda := [] } = some (0x05, 0x1002) := by
  decide +kernel
/-- A fence behind a queued vector store, and that behind jobs that fill the copy channels. -/
theorem witness_StepRunsDecoded_channel :
    let f := on { hart [] with lag := true, vectorQueue := [[.store (.ram 0x500000) [1]]] }
    let s := { f with jobs := (List.range 5).map fun n => { job .copy false with id := n } }
    blocked s .fenceVs = true := by decide +kernel
theorem witness_EncodeDecode : (Instr.vfma ⟨31, 30, 29, 28, 5, false, false, false, 7, 7, 10⟩).wellFormed = true
    ∧ (Instr.vfma ⟨31, 30, 29, 28, 5, false, false, false, 7, 7, 10⟩).encodable = true := by decide

end Sys2Proof.Tests
end

section
/-! SUPPORT. The values of the register functions in the integers of 05 R120 and R121, and the two statements on
register functions and selection. -/

namespace Sys2Proof.Machine

/-! Words as residues of integers and of natural numbers. -/

/-- A word whose signed reading is `n` is the residue of `n`. -/
theorem eq_ofInt_of_toInt {v : Word} {n : Int} (h : v.toInt = n) : v = BitVec.ofInt 64 n := by
  rw [← h, BitVec.ofInt_toInt]

/-- A word whose natural reading is `n` is the residue of `n`. -/
theorem eq_ofNat_of_toNat {v : Word} {n : Nat} (h : v.toNat = n) : v = BitVec.ofNat 64 n := by
  rw [← h, BitVec.ofNat_toNat, BitVec.setWidth_eq]

/-- A signed reading of the low `w` bits is `signed` of the natural reading. -/
theorem toInt_setWidth_eq_signed (a : Word) (w : Nat) : (a.setWidth w).toInt = signed w a.toNat := by
  rw [BitVec.toInt_eq_toNat_cond, BitVec.toNat_setWidth]; rfl

theorem flag_decide (p : Prop) [Decidable p] : flag (decide p) = truth p := by
  by_cases h : p <;> simp [flag, truth, h]

/-! Sums, products and their halves. -/

theorem aluAddV_eq (a b : Word) : aluAddV a b = BitVec.ofInt 64 (a.toInt + b.toInt) := by
  rw [BitVec.ofInt_add, BitVec.ofInt_toInt, BitVec.ofInt_toInt]; rfl

theorem aluSubV_eq (a b : Word) : aluSubV a b = BitVec.ofInt 64 (a.toInt - b.toInt) := by
  apply BitVec.eq_of_toInt_eq
  rw [aluSubV, BitVec.toInt_sub, BitVec.toInt_ofInt]

theorem aluMulV_eq (a b : Word) : aluMulV a b = BitVec.ofInt 64 (a.toInt * b.toInt) := by
  rw [BitVec.ofInt_mul, BitVec.ofInt_toInt, BitVec.ofInt_toInt]; rfl

/-! Division (05 R121). -/

/-- The case that the model sets apart, -2^63 by -1, has the one
quotient that 64 bits do not hold; its residue is -2^63. -/
theorem aluDivV_eq (a b : Word) :
    aluDivV a b = BitVec.ofInt 64 (if b.toInt = 0 then -1 else a.toInt.tdiv b.toInt) := by
  unfold aluDivV aluDiv
  by_cases hb : b = 0
  · subst hb; rfl
  have hb' : b.toInt ≠ 0 := fun h => hb (BitVec.eq_of_toInt_eq h)
  rw [if_neg hb, if_neg hb']
  by_cases h : a = BitVec.intMin 64 ∧ b = BitVec.allOnes 64
  · obtain ⟨rfl, rfl⟩ := h
    rfl
  · rw [if_neg h]

theorem aluRemV_eq (a b : Word) :
    aluRemV a b = BitVec.ofInt 64 (if b.toInt = 0 then a.toInt else a.toInt - b.toInt * a.toInt.tdiv b.toInt) := by
  unfold aluRemV aluRem
  by_cases hb : b = 0
  · subst hb; exact BitVec.ofInt_toInt.symm
  have hb' : b.toInt ≠ 0 := fun h => hb (BitVec.eq_of_toInt_eq h)
  rw [if_neg hb, if_neg hb', ← Int.tmod_def]
  by_cases h : a = BitVec.intMin 64 ∧ b = BitVec.allOnes 64
  · obtain ⟨rfl, rfl⟩ := h
    rfl
  · rw [if_neg h]

theorem aluDivnV_eq (a b : Word) :
    aluDivnV a b = BitVec.ofNat 64 (if b.toNat = 0 then 2 ^ 64 - 1 else a.toNat / b.toNat) := by
  unfold aluDivnV aluDivn
  by_cases hb : b = 0
  · subst hb; rfl
  · have hb' : b.toNat ≠ 0 := fun h => hb (BitVec.eq_of_toNat_eq h)
    rw [if_neg hb, if_neg hb']

theorem aluRemnV_eq (a b : Word) :
    aluRemnV a b = BitVec.ofNat 64 (if b.toNat = 0 then a.toNat else a.toNat % b.toNat) := by
  unfold aluRemnV aluRemn
  by_cases hb : b = 0
  · subst hb; exact eq_ofNat_of_toNat rfl
  · have hb' : b.toNat ≠ 0 := fun h => hb (BitVec.eq_of_toNat_eq h)
    rw [if_neg hb, if_neg hb']

/-! Bitwise functions and shifts. -/

theorem aluAndV_eq (a b : Word) : aluAndV a b = BitVec.ofNat 64 (a.toNat &&& b.toNat) :=
  eq_ofNat_of_toNat (BitVec.toNat_and a b)

theorem aluOrV_eq (a b : Word) : aluOrV a b = BitVec.ofNat 64 (a.toNat ||| b.toNat) :=
  eq_ofNat_of_toNat (BitVec.toNat_or a b)

theorem aluXorV_eq (a b : Word) : aluXorV a b = BitVec.ofNat 64 (a.toNat ^^^ b.toNat) :=
  eq_ofNat_of_toNat (BitVec.toNat_xor a b)

theorem aluShlV_eq (a b : Word) : aluShlV a b = BitVec.ofNat 64 (a.toNat * 2 ^ (b.toNat % 64)) := by
  apply BitVec.eq_of_toNat_eq
  rw [aluShlV, BitVec.toNat_shiftLeft, Nat.shiftLeft_eq, BitVec.toNat_ofNat]

theorem aluShrV_eq (a b : Word) : aluShrV a b = BitVec.ofNat 64 (a.toNat / 2 ^ (b.toNat % 64)) :=
  eq_ofNat_of_toNat (by rw [aluShrV, BitVec.toNat_ushiftRight, Nat.shiftRight_eq_div_pow])

theorem aluSraV_eq (a b : Word) : aluSraV a b = BitVec.ofInt 64 (a.toInt / 2 ^ (b.toNat % 64)) :=
  eq_ofInt_of_toInt (by
    rw [aluSraV, BitVec.toInt_sshiftRight, Int.shiftRight_eq_div_pow, Nat.cast_pow, Nat.cast_ofNat])

/-- The bits that leave at the right enter above the others, so that OR joins them as the sum does. -/
theorem aluRotV_eq (a b : Word) :
    aluRotV a b = BitVec.ofNat 64
      (a.toNat / 2 ^ (b.toNat % 64) + a.toNat % 2 ^ (b.toNat % 64) * 2 ^ (64 - b.toNat % 64)) := by
  apply eq_ofNat_of_toNat
  have hr : b.toNat % 64 < 64 := Nat.mod_lt _ (by decide)
  rw [aluRotV, BitVec.toNat_rotateRight, Nat.mod_mod]
  generalize b.toNat % 64 = r at hr
  have hsplit : (2 : Nat) ^ 64 = 2 ^ r * 2 ^ (64 - r) := by rw [← pow_add, Nat.add_sub_cancel' hr.le]
  have hlow : a.toNat / 2 ^ r < 2 ^ (64 - r) := Nat.div_lt_of_lt_mul (hsplit ▸ a.isLt)
  calc a.toNat >>> r ||| a.toNat <<< (64 - r) % 2 ^ 64
      = a.toNat / 2 ^ r ||| a.toNat % 2 ^ r * 2 ^ (64 - r) := by
        rw [Nat.shiftRight_eq_div_pow, Nat.shiftLeft_eq, hsplit, Nat.mul_mod_mul_right]
    _ = a.toNat / 2 ^ r + a.toNat % 2 ^ r * 2 ^ (64 - r) := by
        rw [Nat.or_comm, Nat.mul_comm, ← Nat.two_pow_add_eq_or_of_lt hlow, Nat.add_comm]

/-! Comparisons. -/

theorem aluSltV_eq (a b : Word) : aluSltV a b = truth (a.toInt < b.toInt) := by
  rw [aluSltV, BitVec.slt_eq_decide, flag_decide]

theorem aluSltnV_eq (a b : Word) : aluSltnV a b = truth (a.toNat < b.toNat) := by
  rw [aluSltnV, BitVec.ult_eq_decide, flag_decide]

theorem aluMinV_eq (a b : Word) :
    aluMinV a b = BitVec.ofInt 64 (if a.toInt ≤ b.toInt then a.toInt else b.toInt) := by
  apply eq_ofInt_of_toInt
  rw [aluMinV, apply_ite BitVec.toInt, BitVec.slt_eq_decide]
  simp only [decide_eq_true_eq]
  rw [← min_def_lt, min_def]

theorem aluMaxV_eq (a b : Word) :
    aluMaxV a b = BitVec.ofInt 64 (if a.toInt ≤ b.toInt then b.toInt else a.toInt) := by
  apply eq_ofInt_of_toInt
  rw [aluMaxV, apply_ite BitVec.toInt, BitVec.slt_eq_decide]
  simp only [decide_eq_true_eq]
  rw [← max_def_lt, max_def]

theorem aluMinnV_eq (a b : Word) :
    aluMinnV a b = BitVec.ofNat 64 (if a.toNat ≤ b.toNat then a.toNat else b.toNat) := by
  apply eq_ofNat_of_toNat
  rw [aluMinnV, apply_ite BitVec.toNat, BitVec.ult_eq_decide]
  simp only [decide_eq_true_eq]
  rw [← min_def_lt, min_def]

theorem aluMaxnV_eq (a b : Word) :
    aluMaxnV a b = BitVec.ofNat 64 (if a.toNat ≤ b.toNat then b.toNat else a.toNat) := by
  apply eq_ofNat_of_toNat
  rw [aluMaxnV, apply_ite BitVec.toNat, BitVec.ult_eq_decide]
  simp only [decide_eq_true_eq]
  rw [← max_def_lt, max_def]

/-! The carry-less product: the model sums over the bits of the first factor, the rule over those of the second. -/

/-- The low `n + 1` bits are the low `n` bits and bit `n`. -/
theorem mod_two_pow_succ_xor (a n : Nat) :
    a % 2 ^ (n + 1) = a % 2 ^ n ^^^ (if a.testBit n then 2 ^ n else 0) := by
  apply Nat.eq_of_testBit_eq
  intro i
  rw [Nat.testBit_xor, Nat.testBit_mod_two_pow, Nat.testBit_mod_two_pow]
  by_cases hi : i = n
  · subst hi
    cases h : a.testBit i <;> simp
  · have hlt : i < n + 1 ↔ i < n := by omega
    cases h : a.testBit n <;> simp [hlt, Ne.symm hi]

theorem clmulNat_xor_right (w a b c : Nat) : clmulNat w a (b ^^^ c) = clmulNat w a b ^^^ clmulNat w a c := by
  induction w with
  | zero => exact (Nat.xor_self 0).symm
  | succ w ih =>
    rw [clmulNat, clmulNat, clmulNat, ih]
    by_cases h : a.testBit w
    · rw [if_pos h, if_pos h, if_pos h, Nat.shiftLeft_xor_distrib]; ac_rfl
    · rw [if_neg h, if_neg h, if_neg h, Nat.zero_xor, Nat.zero_xor, Nat.zero_xor]

theorem clmulNat_zero_right (w a : Nat) : clmulNat w a 0 = 0 := by
  induction w with
  | zero => rfl
  | succ w ih => simp [clmulNat, ih]

theorem clmulNat_two_pow (w a j : Nat) : clmulNat w a (2 ^ j) = (a % 2 ^ w) <<< j := by
  induction w with
  | zero => simp [clmulNat, Nat.mod_one]
  | succ w ih =>
    rw [clmulNat, ih, mod_two_pow_succ_xor, Nat.shiftLeft_xor_distrib, Nat.xor_comm]
    by_cases h : a.testBit w
    · rw [if_pos h, if_pos h, Nat.shiftLeft_eq _ w, Nat.shiftLeft_eq _ j, Nat.shiftLeft_eq _ j, Nat.mul_comm (2 ^ j)]
    · rw [if_neg h, if_neg h, Nat.zero_shiftLeft]

/-- The XOR of the rule, over the low `n` bits of `b`. -/
theorem carryless_low (a b n : Nat) (ha : a < 2 ^ 64) :
    ((List.range n).filter b.testBit).foldl (fun p i => p ^^^ a <<< i) 0 = clmulNat 64 a (b % 2 ^ n) := by
  induction n with
  | zero => rw [pow_zero, Nat.mod_one, clmulNat_zero_right]; rfl
  | succ n ih =>
    rw [List.range_succ, List.filter_append, List.foldl_append, ih, mod_two_pow_succ_xor, clmulNat_xor_right]
    by_cases h : b.testBit n
    · rw [if_pos h, clmulNat_two_pow, Nat.mod_eq_of_lt ha]; simp [h]
    · rw [if_neg h, clmulNat_zero_right]; simp [h]

theorem clmulNat_eq_carryless (a b : Word) : clmulNat 64 a.toNat b.toNat = carryless a.toNat b.toNat := by
  rw [carryless, carryless_low _ _ _ a.isLt, Nat.mod_eq_of_lt b.isLt]

theorem aluClmulV_eq (a b : Word) : aluClmulV a b = BitVec.ofNat 64 (carryless a.toNat b.toNat) := by
  rw [aluClmulV, clmulNat_eq_carryless]

theorem aluClmulhV_eq (a b : Word) : aluClmulhV a b = BitVec.ofNat 64 (carryless a.toNat b.toNat / 2 ^ 64) := by
  rw [aluClmulhV, clmulNat_eq_carryless]

/-! Counts of bits. -/

theorem clzNat_eq (w a : Nat) (h : a < 2 ^ w) : clzNat w a = if a = 0 then w else w - 1 - a.log2 := by
  induction w with
  | zero => simp [clzNat]
  | succ w ih =>
    rw [clzNat]
    by_cases ht : a.testBit w
    · have hw : 2 ^ w ≤ a := Nat.ge_two_pow_of_testBit ht
      have h0 : a ≠ 0 := (Nat.two_pow_pos w).trans_le hw |>.ne'
      have hl : a.log2 = w := (Nat.log2_eq_iff h0).2 ⟨hw, h⟩
      rw [if_pos ht, if_neg h0, hl]; omega
    · have hw : a < 2 ^ w := Nat.lt_of_not_ge fun hw => ht (Nat.testBit_of_two_pow_le_and_two_pow_add_one_gt hw h)
      rw [if_neg ht, ih hw]
      by_cases h0 : a = 0
      · rw [if_pos h0, if_pos h0, Nat.add_comm]
      · have hl : a.log2 < w := (Nat.log2_lt h0).2 hw
        rw [if_neg h0, if_neg h0]; omega

/-- Counted from bit `i`, so that the induction can move on to bit `i + 1`. -/
theorem ctzNat_add_eq (w i a : Nat) :
    ctzNat w i a + i = ((List.range' i w).find? fun k => a.testBit k).getD (i + w) := by
  induction w generalizing i with
  | zero => exact Nat.zero_add i
  | succ w ih =>
    rw [ctzNat, List.range'_succ, List.find?_cons]
    cases h : a.testBit i with
    | true => exact Nat.zero_add i
    | false =>
      have hnext : 1 + ctzNat w (i + 1) a + i = ctzNat w (i + 1) a + (i + 1) := by omega
      have hend : i + (w + 1) = i + 1 + w := by omega
      rw [if_neg Bool.false_ne_true, hnext, ih, hend]

theorem ctzNat_zero_eq (w a : Nat) : ctzNat w 0 a = ((List.range w).find? fun k => a.testBit k).getD w := by
  have h := ctzNat_add_eq w 0 a
  rwa [Nat.add_zero, Nat.zero_add, ← List.range_eq_range'] at h

theorem popNat_eq (w a : Nat) : popNat w a = (List.range w).countP fun k => a.testBit k := by
  induction w with
  | zero => rfl
  | succ w ih =>
    rw [popNat, ih, List.range_succ, List.countP_append, List.countP_singleton, Nat.add_comm]

theorem aluClzV_eq (a : Word) :
    aluClzV a = BitVec.ofNat 64 (if a.toNat = 0 then 64 else 63 - a.toNat.log2) := by
  rw [aluClzV, clzNat_eq 64 a.toNat a.isLt]

theorem aluCtzV_eq (a : Word) :
    aluCtzV a = BitVec.ofNat 64 (((List.range 64).find? fun k => a.toNat.testBit k).getD 64) := by
  rw [aluCtzV, ctzNat_zero_eq]

theorem aluPopV_eq (a : Word) :
    aluPopV a = BitVec.ofNat 64 ((List.range 64).countP fun k => a.toNat.testBit k) := by
  rw [aluPopV, popNat_eq]

/-! Extension of the low bits. -/

/-- The width codes that the part permits (05 R119). -/
theorem width_cases (w : Reg) (h : w.toNat ≤ 2) : w = 0 ∨ w = 1 ∨ w = 2 := by
  bv_omega

theorem signExtend_truncate_eq (a : Word) (n : Nat) :
    (a.truncate n).signExtend 64 = BitVec.ofInt 64 (signed n a.toNat) :=
  congrArg (BitVec.ofInt 64) (toInt_setWidth_eq_signed a n)

theorem zeroExtend_truncate_eq (a : Word) (n : Nat) :
    (a.truncate n).zeroExtend 64 = BitVec.ofNat 64 (a.toNat % 2 ^ n) := by
  apply BitVec.eq_of_toNat_eq
  rw [BitVec.toNat_setWidth, BitVec.toNat_setWidth, BitVec.toNat_ofNat]

theorem aluSext_eq (w : Reg) (a : Word) (h : w.toNat ≤ 2) :
    aluSext w a = if w = 0 then (a.truncate 8).signExtend 64
      else if w = 1 then (a.truncate 16).signExtend 64 else (a.truncate 32).signExtend 64 := by
  simp only [signExtend_truncate_eq]
  obtain rfl | rfl | rfl := width_cases w h <;> rfl

theorem aluZext_eq (w : Reg) (a : Word) (h : w.toNat ≤ 2) :
    aluZext w a = if w = 0 then (a.truncate 8).zeroExtend 64
      else if w = 1 then (a.truncate 16).zeroExtend 64 else (a.truncate 32).zeroExtend 64 := by
  simp only [zeroExtend_truncate_eq]
  obtain rfl | rfl | rfl := width_cases w h <;> rfl

/-! The register functions. -/

/-- Outside a chain group a scalar instruction writes its value and falls through. -/
theorem scalarResult_free {s : State} (hs : free s) (d : Reg) (v : Word) :
    scalarResult s d v = .next (finishWith s fun x => x.writeS d v) :=
  unchained_free s _ hs

/-- The same, when the instruction's value `w` is the value `v` that the rule gives. -/
theorem scalarResult_of_value {s : State} {d d' : Reg} {v v' w : Word} (hs : free s)
    (h : some (d', v') = some (d, v)) (hw : w = v') :
    scalarResult s d' w = .next (finishWith s fun x => x.writeS d v) := by
  cases h
  rw [hw, scalarResult_free hs]

theorem exec_of_binaryValue {s : State} {i : Instr} {d : Reg} {v : Word} (hs : free s)
    (h : binaryValue i s.me = some (d, v)) : exec i s = .next (finishWith s fun x => x.writeS d v) := by
  cases i with
  | add => exact scalarResult_of_value hs h (aluAddV_eq _ _)
  | sub => exact scalarResult_of_value hs h (aluSubV_eq _ _)
  | mul => exact scalarResult_of_value hs h (aluMulV_eq _ _)
  | mulh => exact scalarResult_of_value hs h rfl
  | mulhn => exact scalarResult_of_value hs h rfl
  | div => exact scalarResult_of_value hs h (aluDivV_eq _ _)
  | divn => exact scalarResult_of_value hs h (aluDivnV_eq _ _)
  | rem => exact scalarResult_of_value hs h (aluRemV_eq _ _)
  | remn => exact scalarResult_of_value hs h (aluRemnV_eq _ _)
  | and => exact scalarResult_of_value hs h (aluAndV_eq _ _)
  | or => exact scalarResult_of_value hs h (aluOrV_eq _ _)
  | xor => exact scalarResult_of_value hs h (aluXorV_eq _ _)
  | shl => exact scalarResult_of_value hs h (aluShlV_eq _ _)
  | shr => exact scalarResult_of_value hs h (aluShrV_eq _ _)
  | sra => exact scalarResult_of_value hs h (aluSraV_eq _ _)
  | rot => exact scalarResult_of_value hs h (aluRotV_eq _ _)
  | slt => exact scalarResult_of_value hs h (aluSltV_eq _ _)
  | sltn => exact scalarResult_of_value hs h (aluSltnV_eq _ _)
  | min => exact scalarResult_of_value hs h (aluMinV_eq _ _)
  | max => exact scalarResult_of_value hs h (aluMaxV_eq _ _)
  | minn => exact scalarResult_of_value hs h (aluMinnV_eq _ _)
  | maxn => exact scalarResult_of_value hs h (aluMaxnV_eq _ _)
  | clmul => exact scalarResult_of_value hs h (aluClmulV_eq _ _)
  | clmulh => exact scalarResult_of_value hs h (aluClmulhV_eq _ _)
  | _ => exact nomatch h

theorem exec_of_unaryValue {s : State} {i : Instr} {d : Reg} {v : Word} (hs : free s) (hi : i.wellFormed = true)
    (h : unaryValue i s.me = some (d, v)) : exec i s = .next (finishWith s fun x => x.writeS d v) := by
  cases i with
  | clz => exact scalarResult_of_value hs h (aluClzV_eq _)
  | ctz => exact scalarResult_of_value hs h (aluCtzV_eq _)
  | pop => exact scalarResult_of_value hs h (aluPopV_eq _)
  | sext => exact scalarResult_of_value hs h (aluSext_eq _ _ (of_decide_eq_true hi))
  | zext => exact scalarResult_of_value hs h (aluZext_eq _ _ (of_decide_eq_true hi))
  | _ => exact nomatch h

/-- Settles O1: a function of two registers by its value, a function of one register by its value under a width code
that the part permits. -/
theorem registerFunctions : Obligations.RegisterFunctions := by
  intro s i d v hs h
  obtain h | ⟨hi, h⟩ := h
  · exact exec_of_binaryValue hs h
  · exact exec_of_unaryValue hs hi h

/-! Fields of heads and of layout SR (04 R96, R105). -/

@[simp] theorem major_head (m : BitVec 6) (x y : Reg) : Decode.major (Encode.head m x y) = m.toNat := by
  rw [Decode.major, Encode.head, BitVec.extractLsb'_append_eq_of_le (by decide)]
  exact congrArg BitVec.toNat BitVec.extractLsb'_append_eq_left

@[simp] theorem fieldX_head (m : BitVec 6) (x y : Reg) : Decode.fieldX (Encode.head m x y) = x := by
  rw [Decode.fieldX, Encode.head, BitVec.extractLsb'_append_eq_of_le (by decide)]
  exact BitVec.extractLsb'_append_eq_right

@[simp] theorem fieldY_head (m : BitVec 6) (x y : Reg) : Decode.fieldY (Encode.head m x y) = y :=
  BitVec.extractLsb'_append_eq_right

@[simp] theorem srZ_sr (f : BitVec 6) (w z : Reg) : Decode.srZ (Encode.sr f w z) = z :=
  BitVec.extractLsb'_append_eq_right

@[simp] theorem srW_sr (f : BitVec 6) (w z : Reg) : Decode.srW (Encode.sr f w z) = w := by
  rw [Decode.srW, Encode.sr, BitVec.extractLsb'_append_eq_of_le (by decide)]
  exact BitVec.extractLsb'_append_eq_right

@[simp] theorem srF_sr (f : BitVec 6) (w z : Reg) : Decode.srF (Encode.sr f w z) = f.toNat := by
  rw [Decode.srF, Encode.sr, BitVec.extractLsb'_append_eq_of_le (by decide),
    BitVec.extractLsb'_append_eq_of_le (by decide)]
  exact congrArg BitVec.toNat BitVec.extractLsb'_append_eq_right

/-! Selection. -/

theorem exec_sel {s : State} (d c a b : Reg) (hs : free s) :
    exec (.sel d c a b) s
      = .next (finishWith s fun x => x.writeS d (if s.me.readS c ≠ 0 then s.me.readS a else s.me.readS b)) :=
  scalarResult_free hs d _

/-- Settles O3: the fields by the layouts of heads and of SR, the effect by the value of `exec_sel` in its two cases. -/
theorem selEncodingAndEffect : Obligations.SelEncodingAndEffect := by
  intro s d c a b hs
  refine ⟨major_head _ _ _, fieldX_head _ _ _, fieldY_head _ _ _, srZ_sr _ _ _, srW_sr _ _ _, srF_sr _ _ _, ?_, ?_⟩
  · intro hc
    rw [exec_sel d c a b hs, if_pos hc]
  · intro hc
    rw [exec_sel d c a b hs, if_neg (not_not_intro hc)]

end Sys2Proof.Machine
end

section
/-! SUPPORT. What a mode may not do (15 R384), and the statement on user mode. -/

namespace Sys2Proof.Machine

/-! What is refused outside a chain group. -/

/-- Classes 0b10 and 0b11 are the numbers with bit 11 (03 R79). -/
theorem sysReach_user_of_systemClass {n : Nat} (h : n / 2048 = 1) : sysReach .user n = false := by
  have hclass : ¬ n / 1024 % 4 < 2 := by omega
  simp [sysReach, hclass]

theorem tryAllowed_user {s : State} (hu : s.me.mode = .user) (ht : (s.context s.me.asid).tryq = false) :
    tryAllowed s = false := by
  simp [tryAllowed, hu, ht]

theorem privileged_user {s : State} (hs : free s) (hu : s.me.mode = .user) (k : State → Res) :
    privileged s k = .next (illegal s) := by
  rw [privileged, unchained_free s _ hs, if_pos hu]

theorem execTlbinv_user {s : State} (hs : free s) (hu : s.me.mode = .user) (a b : Reg) :
    execTlbinv a b s = .next (illegal s) :=
  privileged_user hs hu _

theorem execHalt_user {s : State} (hs : free s) (hu : s.me.mode = .user) : execHalt s = .next (illegal s) :=
  privileged_user hs hu _

theorem execEret_user {s : State} (hs : free s) (hu : s.me.mode = .user) : execEret s = .next (illegal s) :=
  privileged_user hs hu _

/-- A number that the mode may not reach is refused to a read, whether it is assigned or not. -/
theorem execSrr_unreachable {s : State} (hs : free s) (d : Reg) {n : BitVec 12}
    (hr : sysReach s.me.mode n.toNat = false) : execSrr d n s = .next (illegal s) := by
  rw [execSrr, unchained_free s _ hs]
  dsimp only
  split
  case h_1 => rfl
  case h_2 => rw [if_neg (ne_true_of_eq_false hr)]

theorem execSrw_unreachable {s : State} (hs : free s) (a : Reg) {n : BitVec 12}
    (hr : sysReach s.me.mode n.toNat = false) : execSrw a n s = .next (illegal s) := by
  have hbar : n.toNat / 1024 % 2 = 1 ∨ (!sysReach s.me.mode n.toNat) = true := .inr (by rw [hr]; rfl)
  rw [execSrw, unchained_free s _ hs]
  exact if_pos hbar

theorem execEnqt_refused {s : State} (hs : free s) (ht : tryAllowed s = false) (v a z : Reg) (p : BitVec 3) :
    execEnqt v a z p s = .next (illegal s) := by
  rw [execEnqt, unchained_free s _ hs, if_pos (by rw [ht]; rfl)]

theorem execDeqt_refused {s : State} (hs : free s) (ht : tryAllowed s = false) (d a z : Reg) (p : BitVec 3) :
    execDeqt d a z p s = .next (illegal s) := by
  rw [execDeqt, unchained_free s _ hs, if_pos (by rw [ht]; rfl)]

/-! Device-scope registers: the words of the format windows (17 R441, R442). -/

/-- A window that is off takes a new base of its decoded range. -/
theorem writeWindow_dec {s : State} {i : Nat} (v : Word) (hf : (Tab.get {} s.windows i).format = 0) :
    writeWindow s i 0 v = some { Tab.get {} s.windows i with dec := v &&& 0xFFFFFFFFFFC0 } := by
  have hoff : ¬ (Tab.get {} s.windows i).format = 1 := by rw [hf]; decide
  exact if_neg hoff

/-- In system mode `srw` to a window's word leaves in the table what the word's rule gives. -/
theorem execSrw_window {s : State} (hs : free s) (hm : s.me.mode = .system) (a : Reg) {n : BitVec 12} {w : Window}
    (hlo : 0x900 ≤ n.toNat) (hhi : n.toNat ≤ 0x93F)
    (hw : writeWindow s ((n.toNat - 0x900) / 4) (n.toNat % 4) (s.me.readS a) = some w) :
    execSrw a n s = .next (finish { s with windows := Tab.set {} ((n.toNat - 0x900) / 4) w s.windows }) := by
  have hreach : ¬ (n.toNat / 1024 % 2 = 1 ∨ (!sysReach s.me.mode n.toNat) = true) := by
    have hclass : ¬ n.toNat / 1024 % 2 = 1 := by omega
    simp [sysReach, hm, hclass]
  have hacc : ¬ n.toNat = 0x008 := by omega
  rw [execSrw, unchained_free s _ hs]
  dsimp only
  rw [if_neg hreach, if_neg hacc, if_pos ⟨hlo, hhi⟩, hw]

@[simp] theorem finish_windows (s : State) : (finish s).windows = s.windows := rfl

/-- The decoded base of window 0 after `srw` to its first word, 0x900. -/
theorem exec_srw_firstWindow {s : State} (hs : free s) (hm : s.me.mode = .system) (a : Reg) {n : BitVec 12}
    (hn : n.toNat = 0x900) (hf : (Tab.get {} s.windows 0).format = 0) :
    ∃ t, exec (.srw a n) s = .next t ∧ (Tab.get {} t.windows 0).dec = s.me.readS a &&& 0xFFFFFFFFFFC0 := by
  have hw := writeWindow_dec (s.me.readS a) hf
  have hword : n.toNat % 4 = 0 := by omega
  have hindex : (n.toNat - 0x900) / 4 = 0 := by omega
  refine ⟨_, execSrw_window hs hm a (by omega) (by omega) (by rw [hword, hindex]; exact hw), ?_⟩
  rw [finish_windows, hindex, Tab.get_set_same]

/-- Settles O12: what user mode may not do is refused where the instruction checks the mode, the register's class or
TRYQ, and in system mode the first word of window 0, a device-scope register, takes the value written. -/
theorem userMode : Obligations.UserMode := by
  intro s d a b p n hs
  refine ⟨?_, ?_, ?_, fun hm hn hf => exec_srw_firstWindow hs hm a hn hf⟩
  · intro hu hn
    have hr : sysReach s.me.mode n.toNat = false := by rw [hu, sysReach_user_of_systemClass hn]
    exact ⟨execSrr_unreachable hs d hr, execSrw_unreachable hs d hr⟩
  · intro hu
    simp only [List.forall_mem_cons]
    exact ⟨execTlbinv_user hs hu a b, execHalt_user hs hu, execEret_user hs hu, nofun⟩
  · intro hu hq
    have ht := tryAllowed_user hu hq
    simp only [List.forall_mem_cons]
    exact ⟨execEnqt_refused hs ht d a b p, execDeqt_refused hs ht d a b p, nofun⟩

end Sys2Proof.Machine
end

section
/-! SUPPORT. The fields that the decoder reads from an encoding are those that the encoder was given, layout by layout
(04 R105), and the statement that decoding inverts encoding (04 R110). -/

namespace Sys2Proof

open Machine

/-- An instruction whose reserved fields are zero is accepted when the part permits its fields. -/
theorem ok_of_accept {r : Except DecodeError Instr} {i : Instr} (h : r = Decode.accept true i)
    (hi : i.wellFormed = true) : r = .ok i := by
  simp [h, Decode.accept, hi]

/-! Layout SR, whose fields W and F hold smaller fields of some majors. -/

theorem extract_sr_w (f : BitVec 6) (w z : Reg) {k n : Nat} (h : 5 ≤ k) (h' : k + n ≤ 10) :
    (Encode.sr f w z).extractLsb' k n = w.extractLsb' (k - 5) n := by
  rw [Encode.sr, BitVec.extractLsb'_append_eq_of_le h, BitVec.extractLsb'_append_eq_of_add_le (by omega)]

theorem extract_sr_f (f : BitVec 6) (w z : Reg) {k n : Nat} (h : 10 ≤ k) (h' : k + n ≤ 16) :
    (Encode.sr f w z).extractLsb' k n = f.extractLsb' (k - 10) n := by
  rw [Encode.sr, BitVec.extractLsb'_append_eq_of_le (by omega), BitVec.extractLsb'_append_eq_of_le (by omega),
    BitVec.extractLsb'_append_eq_of_add_le (by omega), Nat.sub_sub]

theorem getLsbD_sr_w (f : BitVec 6) (w z : Reg) {k : Nat} (h : 5 ≤ k) (h' : k < 10) :
    (Encode.sr f w z).getLsbD k = w.getLsbD (k - 5) := by
  have hk : ¬ k < 5 := by omega
  have hw : k - 5 < 5 := by omega
  simp only [Encode.sr, BitVec.getLsbD_append, hk, hw, if_true, if_false]

theorem getLsbD_sr_f (f : BitVec 6) (w z : Reg) {k : Nat} (h : 10 ≤ k) (h' : k < 16) :
    (Encode.sr f w z).getLsbD k = f.getLsbD (k - 10) := by
  have hk : ¬ k < 5 := by omega
  have hw : ¬ k - 5 < 5 := by omega
  have hf : k - 5 - 5 < 6 := by omega
  simp only [Encode.sr, BitVec.getLsbD_append, hk, hw, hf, if_true, if_false]
  rw [Nat.sub_sub]

/-! The other layouts. -/

theorem extract_si (i : BitVec 16) {k n : Nat} (h : k + n ≤ 16) :
    (Encode.si i).extractLsb' k n = i.extractLsb' k n :=
  BitVec.extractLsb'_append_eq_of_add_le h

@[simp] theorem si_si (i : BitVec 16) : Decode.si (Encode.si i) = i := BitVec.extractLsb'_append_eq_right

@[simp] theorem target_bt (a : BitVec 8) (f : BitVec 3) (t : Target) : Decode.target (Encode.bt a f t) = t := by
  simp (disch := decide) only [Decode.target, Encode.bt, BitVec.extractLsb'_append_eq_of_le,
    BitVec.extractLsb'_append_eq_of_add_le, Nat.reduceSub, BitVec.extractLsb'_eq_self]

@[simp] theorem btF_bt (a : BitVec 8) (f : BitVec 3) (t : Target) : Decode.btF (Encode.bt a f t) = f.toNat := by
  simp (disch := decide) only [Decode.btF, Encode.bt, BitVec.extractLsb'_append_eq_of_le,
    BitVec.extractLsb'_append_eq_of_add_le, Nat.reduceSub, BitVec.extractLsb'_eq_self]

@[simp] theorem btA_bt (a : BitVec 8) (f : BitVec 3) (t : Target) : Decode.btA (Encode.bt a f t) = a := by
  simp (disch := decide) only [Decode.btA, Encode.bt, BitVec.extractLsb'_append_eq_of_le,
    BitVec.extractLsb'_append_eq_of_add_le, Nat.reduceSub, BitVec.extractLsb'_eq_self]

@[simp] theorem target_lc (n : BitVec 16) (t : Target) : Decode.target (Encode.lc n t) = t := by
  simp (disch := decide) only [Decode.target, Encode.lc, BitVec.extractLsb'_append_eq_of_le,
    BitVec.extractLsb'_append_eq_of_add_le, Nat.reduceSub, BitVec.extractLsb'_eq_self]

@[simp] theorem extract_lc_count (n : BitVec 16) (t : Target) : (Encode.lc n t).extractLsb' 32 16 = n := by
  simp (disch := decide) only [Encode.lc, BitVec.extractLsb'_append_eq_of_le, Nat.reduceSub, BitVec.extractLsb'_eq_self]

@[simp] theorem extract_lc_zero (n : BitVec 16) (t : Target) : (Encode.lc n t).extractLsb' 21 11 = 0 := by
  simp (disch := decide) only [Encode.lc, BitVec.extractLsb'_append_eq_of_le,
    BitVec.extractLsb'_append_eq_of_add_le, Nat.reduceSub, BitVec.extractLsb'_eq_self]

@[simp] theorem sm_sm (m : BitVec 6) (o : SMOps) : Decode.sm (Encode.head m o.x o.y) (Encode.sm o) = o := by
  simp (disch := decide) only [Decode.sm, Encode.sm, fieldX_head, fieldY_head, BitVec.getLsbD_append,
    BitVec.extractLsb'_append_eq_of_le, BitVec.extractLsb'_append_eq_of_add_le, Nat.reduceSub, Nat.reduceLT, if_true,
    if_false, BitVec.getLsbD_ofBool, decide_true, Bool.true_and, BitVec.extractLsb'_eq_self]

@[simp] theorem extract_sm_zero (o : SMOps) : (Encode.sm o).extractLsb' 28 4 = 0 := by
  simp (disch := decide) only [Encode.sm, BitVec.extractLsb'_append_eq_of_le, Nat.reduceSub]
  rfl

@[simp] theorem vaF_va (f : BitVec 5) (o : VAOps) : Decode.vaF (Encode.va f o) = f.toNat := by
  simp (disch := decide) only [Decode.vaF, Encode.va, BitVec.extractLsb'_append_eq_of_le,
    BitVec.extractLsb'_append_eq_of_add_le, Nat.reduceSub, BitVec.extractLsb'_eq_self]

@[simp] theorem getLsbD_va_zero (f : BitVec 5) (o : VAOps) : (Encode.va f o).getLsbD 31 = false := by
  simp only [Encode.va, BitVec.getLsbD_append, Nat.reduceSub, Nat.reduceLT, if_false]
  rfl

@[simp] theorem va_va (m : BitVec 6) (f : BitVec 5) (o : VAOps) :
    Decode.va (Encode.head m o.x o.y) (Encode.va f o) = o := by
  simp (disch := decide) only [Decode.va, Encode.va, fieldX_head, fieldY_head, BitVec.getLsbD_append,
    BitVec.extractLsb'_append_eq_of_le, BitVec.extractLsb'_append_eq_of_add_le, Nat.reduceSub, Nat.reduceLT, if_true,
    if_false, BitVec.getLsbD_ofBool, decide_true, Bool.true_and, BitVec.extractLsb'_eq_self]

@[simp] theorem vmF_vm (f : BitVec 5) (o : VMOps) : Decode.vmF (Encode.vm f o) = f.toNat := by
  simp (disch := decide) only [Decode.vmF, Encode.vm, BitVec.extractLsb'_append_eq_of_le,
    BitVec.extractLsb'_append_eq_of_add_le, Nat.reduceSub, BitVec.extractLsb'_eq_self]

@[simp] theorem vm_vm (m : BitVec 6) (f : BitVec 5) (o : VMOps) :
    Decode.vm (Encode.head m o.x o.y) (Encode.vm f o) = o := by
  simp (disch := decide) only [Decode.vm, Encode.vm, fieldX_head, fieldY_head, BitVec.extractLsb'_append_eq_of_le,
    BitVec.extractLsb'_append_eq_of_add_le, Nat.reduceSub, BitVec.extractLsb'_eq_self]

/-! The majors. -/

theorem decode_alu (f : BitVec 6) (d a w z : Reg) :
    decode (Encode.alu f d a w z) = Decode.alu d a z w f.toNat := by
  simp [decode, Encode.alu]

theorem decode_imm {m : BitVec 6} {d a : Reg} {i : BitVec 16} (k : Reg → Reg → BitVec 16 → Instr)
    (hk : (m, k) ∈ [(0x02, Instr.addi), (0x03, .andi), (0x04, .ori), (0x05, .xori), (0x06, .shli), (0x07, .shri),
      (0x08, .srai), (0x09, .slti)]) : decode (Encode.imm m d a i) = Decode.accept true (k d a i) := by
  simp only [List.mem_cons, Prod.mk.injEq, List.not_mem_nil, or_false] at hk
  rcases hk with ⟨rfl, rfl⟩ | ⟨rfl, rfl⟩ | ⟨rfl, rfl⟩ | ⟨rfl, rfl⟩ | ⟨rfl, rfl⟩ | ⟨rfl, rfl⟩ | ⟨rfl, rfl⟩ | ⟨rfl, rfl⟩ <;>
    simp [decode, Encode.imm]

theorem decode_scalarFp (f : BitVec 5) (o : VAOps) :
    decode (Encode.vaCode 0x0D f o) = Decode.scalarFp true o f.toNat := by
  simp only [decode, Encode.vaCode, major_head, BitVec.reduceToNat, getLsbD_va_zero, Bool.not_false, va_va, vaF_va]

theorem decode_branch (f : BitVec 3) (a b : Reg) (t : Target) :
    decode ⟨Encode.head 0x0E a b, Encode.bt 0 f t⟩ = Decode.branch true a b t f.toNat := by
  simp [decode]

theorem decode_system (y : Reg) : decode (Encode.system y) = Decode.system true y.toNat := by
  simp [decode, Encode.system]

theorem decode_amo (op : BitVec 4) (d a v : Reg) (sz : Bool) :
    decode (Encode.amo op d a v sz) = Decode.amo true d a v sz op.toNat := by
  have hop : (Encode.sr 0 (BitVec.ofBool sz ++ op) v).extractLsb' 5 4 = op := by
    rw [extract_sr_w _ _ _ (by decide) (by decide)]
    exact BitVec.extractLsb'_append_eq_right
  have hsz : (Encode.sr 0 (BitVec.ofBool sz ++ op) v).getLsbD 9 = sz := by
    rw [getLsbD_sr_w _ _ _ (by decide) (by decide), BitVec.getLsbD_append]
    simp
  simp only [decode, Encode.amo, major_head, BitVec.reduceToNat, fieldX_head, fieldY_head, srZ_sr, srF_sr, hop, hsz,
    decide_true]

theorem decode_barrier (f : BitVec 6) (x y w z : Reg) :
    decode ⟨Encode.head 0x1C x y, Encode.sr f w z⟩ = Decode.barrier x y w z f.toNat := by
  simp [decode]

theorem decode_config (f : BitVec 6) (x y w z : Reg) :
    decode ⟨Encode.head 0x1E x y, Encode.sr f w z⟩ = Decode.config x y w z f.toNat := by
  simp [decode]

theorem decode_masks (f : BitVec 6) (x y w z : Reg) :
    decode ⟨Encode.head 0x1F x y, Encode.sr f w z⟩ = Decode.masks x y w z f.toNat := by
  simp [decode]

theorem decode_vectorArith (f : BitVec 5) (o : VAOps) :
    decode (Encode.vaCode 0x20 f o) = Decode.vectorArith true o f.toNat := by
  simp only [decode, Encode.vaCode, major_head, BitVec.reduceToNat, getLsbD_va_zero, Bool.not_false, va_va, vaF_va]

theorem decode_vectorScalar (f : BitVec 5) (o : VAOps) :
    decode (Encode.vaCode 0x21 f o) = Decode.vectorScalar true o f.toNat := by
  simp only [decode, Encode.vaCode, major_head, BitVec.reduceToNat, getLsbD_va_zero, Bool.not_false, va_va, vaF_va]

theorem decode_vectorCross (f : BitVec 5) (o : VAOps) :
    decode (Encode.vaCode 0x22 f o) = Decode.vectorCross true o f.toNat := by
  simp only [decode, Encode.vaCode, major_head, BitVec.reduceToNat, getLsbD_va_zero, Bool.not_false, va_va, vaF_va]

theorem decode_vectorMem {m : BitVec 6} (f : BitVec 5) (o : VMOps) (h : 0x23 ≤ m.toNat ∧ m.toNat ≤ 0x2B) :
    decode (Encode.vmCode m f o) = Decode.vectorMem o m.toNat f.toNat := by
  simp only [decode, Encode.vmCode, major_head, vm_vm, vmF_vm]
  split
  case h_41 => exact if_pos h
  all_goals omega

theorem decode_spool (f : BitVec 6) (x y w z : Reg) :
    decode ⟨Encode.head 0x2E x y, Encode.sr f w z⟩
      = Decode.spool x y z w (f.extractLsb' 3 3) (w.setWidth 4) (w.setWidth 3) (f.extractLsb' 0 3).toNat := by
  have hw (n : Nat) (hn : n ≤ 5) : (Encode.sr f w z).extractLsb' 5 n = w.setWidth n := by
    rw [extract_sr_w _ _ _ (by decide) (by omega), BitVec.setWidth_eq_extractLsb' hn]
  simp only [decode, major_head, BitVec.reduceToNat, fieldX_head, fieldY_head, srZ_sr, srW_sr,
    extract_sr_f f w z (k := 13) (n := 3) (by decide) (by decide),
    extract_sr_f f w z (k := 10) (n := 3) (by decide) (by decide), hw 4 (by decide), hw 3 (by decide)]

theorem decode_tasks (f : BitVec 6) (x y w z : Reg) :
    decode ⟨Encode.head 0x2F x y, Encode.sr f w z⟩ = Decode.tasks x y z w f.toNat := by
  simp [decode]

theorem decode_tether (x y : Reg) (i : BitVec 16) (h : i.extractLsb' 5 11 = 0) :
    decode ⟨Encode.head 0x2D x y, Encode.si i⟩
      = Decode.tether x y (i.extractLsb' 0 3) (i.extractLsb' 3 2).toNat := by
  simp only [decode, major_head, BitVec.reduceToNat, fieldX_head, fieldY_head, extract_si i (k := 5) (n := 11) (by decide),
    extract_si i (k := 3) (n := 2) (by decide), extract_si i (k := 0) (n := 3) (by decide), h, if_true]

/-! Majors of one or two instructions. -/

theorem decode_limm (d : Reg) (i : BitVec 48) : decode ⟨Encode.head 0x0A d 0, i⟩ = Decode.accept true (.limm d i) := by
  simp [decode]

theorem decode_addpc (d : Reg) (i : BitVec 32) :
    decode ⟨Encode.head 0x0B d 0, (0 : BitVec 16) ++ i⟩ = Decode.accept true (.addpc d i) := by
  have hi : ((0 : BitVec 16) ++ i).extractLsb' 0 32 = i := BitVec.extractLsb'_append_eq_right
  simp only [decode, major_head, BitVec.reduceToNat, fieldX_head, fieldY_head, hi, decide_true]

theorem decode_sel (d c a b : Reg) :
    decode ⟨Encode.head 0x0C d c, Encode.sr 0 b a⟩ = Decode.accept true (.sel d c a b) := by
  simp [decode]

theorem decode_jmp (t : Target) : decode ⟨Encode.head 0x0F 0 0, Encode.bt 0 0 t⟩ = Decode.accept true (.jmp t) := by
  simp [decode]

theorem decode_call (t : Target) : decode ⟨Encode.head 0x0F 0 0, Encode.bt 0 1 t⟩ = Decode.accept true (.call t) := by
  simp [decode]

theorem decode_jmpr (d a : Reg) : decode ⟨Encode.head 0x10 d a, 0⟩ = Decode.accept true (.jmpr d a) := by
  simp [decode]

theorem decode_loop (c a : Reg) (t : Target) :
    decode ⟨Encode.head 0x11 c a, Encode.bt 0 0 t⟩ = Decode.accept true (.loop c a t) := by
  simp [decode]

theorem decode_loopm (c a : Reg) (t : Target) (g : BitVec 8) :
    decode ⟨Encode.head 0x11 c a, Encode.bt g 1 t⟩ = Decode.accept true (.loopm c a t g) := by
  simp [decode]

theorem decode_loopi (c : Reg) (n : BitVec 16) (t : Target) :
    decode ⟨Encode.head 0x12 c 0, Encode.lc n t⟩ = Decode.accept true (.loopi c n t) := by
  simp only [decode, major_head, BitVec.reduceToNat, fieldX_head, fieldY_head, target_lc, extract_lc_count,
    extract_lc_zero, decide_true, Bool.and_self]

theorem decode_trap (i : BitVec 16) : decode ⟨Encode.head 0x14 0 0, Encode.si i⟩ = Decode.accept true (.trap i) := by
  simp [decode]

/-- The number of a system register and the zero field above it. -/
theorem extract_systemNumber (n : BitVec 12) :
    (Encode.si ((0 : BitVec 4) ++ n)).extractLsb' 0 12 = n ∧ (Encode.si ((0 : BitVec 4) ++ n)).extractLsb' 12 4 = 0 := by
  constructor
  · rw [extract_si _ (by decide)]
    exact BitVec.extractLsb'_append_eq_right
  · rw [extract_si _ (by decide), BitVec.extractLsb'_append_eq_of_le (by decide)]
    rfl

theorem decode_srr (d : Reg) (n : BitVec 12) :
    decode ⟨Encode.head 0x15 d 0, Encode.si ((0 : BitVec 4) ++ n)⟩ = Decode.accept true (.srr d n) := by
  obtain ⟨hn, hz⟩ := extract_systemNumber n
  simp only [decode, major_head, BitVec.reduceToNat, fieldX_head, fieldY_head, hn, hz, decide_true]

theorem decode_srw (a : Reg) (n : BitVec 12) :
    decode ⟨Encode.head 0x15 a 1, Encode.si ((0 : BitVec 4) ++ n)⟩ = Decode.accept true (.srw a n) := by
  obtain ⟨hn, hz⟩ := extract_systemNumber n
  simp only [decode, major_head, BitVec.reduceToNat, fieldX_head, fieldY_head, hn, hz, decide_true]

theorem decode_ld (o : SMOps) : decode ⟨Encode.head 0x16 o.x o.y, Encode.sm o⟩ = Decode.accept true (.ld o) := by
  simp only [decode, major_head, BitVec.reduceToNat, sm_sm, extract_sm_zero, decide_true]

theorem decode_st (o : SMOps) : decode ⟨Encode.head 0x17 o.x o.y, Encode.sm o⟩ = Decode.accept true (.st o) := by
  simp only [decode, major_head, BitVec.reduceToNat, sm_sm, extract_sm_zero, decide_true]

theorem decode_pref (o : SMOps) : decode ⟨Encode.head 0x18 o.x o.y, Encode.sm o⟩ = Decode.accept true (.pref o) := by
  simp only [decode, major_head, BitVec.reduceToNat, sm_sm, extract_sm_zero, decide_true]

theorem decode_cas (d a e n : Reg) (z : Bool) :
    decode ⟨Encode.head 0x1A d a, Encode.sr ((0 : BitVec 5) ++ BitVec.ofBool z) n e⟩
      = Decode.accept true (.cas d a e n z) := by
  have hzero : (Encode.sr ((0 : BitVec 5) ++ BitVec.ofBool z) n e).extractLsb' 11 5 = 0 := by
    rw [extract_sr_f _ _ _ (by decide) (by decide), BitVec.extractLsb'_append_eq_of_le (by decide)]
    rfl
  have hz : (Encode.sr ((0 : BitVec 5) ++ BitVec.ofBool z) n e).getLsbD 10 = z := by
    rw [getLsbD_sr_f _ _ _ (by decide) (by decide), BitVec.getLsbD_append]
    simp
  simp only [decode, major_head, BitVec.reduceToNat, fieldX_head, fieldY_head, srZ_sr, srW_sr, hzero, hz, decide_true]

theorem decode_waitw (v a m : Reg) (cc : BitVec 2) (z : Bool) (c : BitVec 4) :
    decode ⟨Encode.head 0x1B v a, Encode.sr ((0 : BitVec 3) ++ BitVec.ofBool z ++ cc) ((0 : BitVec 1) ++ c) m⟩
      = Decode.accept true (.waitw v a m cc z c) := by
  let f : BitVec 6 := (0 : BitVec 3) ++ BitVec.ofBool z ++ cc
  let w : Reg := (0 : BitVec 1) ++ c
  have hzero : (Encode.sr f w m).extractLsb' 13 3 = 0 := by
    rw [extract_sr_f _ _ _ (by decide) (by decide), BitVec.extractLsb'_append_eq_of_le (by decide),
      BitVec.extractLsb'_append_eq_of_le (by decide)]
    rfl
  have hcc : (Encode.sr f w m).extractLsb' 10 2 = cc := by
    rw [extract_sr_f _ _ _ (by decide) (by decide)]
    exact BitVec.extractLsb'_append_eq_right
  have hz : (Encode.sr f w m).getLsbD 12 = z := by
    rw [getLsbD_sr_f _ _ _ (by decide) (by decide), BitVec.getLsbD_append, BitVec.getLsbD_append]
    simp
  have hc : (Encode.sr f w m).extractLsb' 5 4 = c := by
    rw [extract_sr_w _ _ _ (by decide) (by decide)]
    exact BitVec.extractLsb'_append_eq_right
  have hw : (Encode.sr f w m).getLsbD 9 = false := by
    rw [getLsbD_sr_w _ _ _ (by decide) (by decide), BitVec.getLsbD_append]
    simp
  simp only [decode, major_head, BitVec.reduceToNat, fieldX_head, fieldY_head, srZ_sr]
  simp only [f, w] at hzero hcc hz hc hw
  simp only [hzero, hcc, hz, hc, hw, decide_true, Bool.not_false, Bool.and_self]

theorem decode_vcfg (n : BitVec 2) (k : BitVec 3) (e : BitVec 2) :
    decode ⟨Encode.head 0x1D 0 0, Encode.si ((0 : BitVec 9) ++ e ++ k ++ n)⟩ = Decode.accept true (.vcfg n k e) := by
  have hn : (Encode.si ((0 : BitVec 9) ++ e ++ k ++ n)).extractLsb' 0 2 = n := by
    simp (disch := decide) only [extract_si, BitVec.extractLsb'_append_eq_of_add_le, BitVec.extractLsb'_eq_self]
  have hk : (Encode.si ((0 : BitVec 9) ++ e ++ k ++ n)).extractLsb' 2 3 = k := by
    simp (disch := decide) only [extract_si, BitVec.extractLsb'_append_eq_of_le,
      BitVec.extractLsb'_append_eq_of_add_le, Nat.reduceSub, BitVec.extractLsb'_eq_self]
  have he : (Encode.si ((0 : BitVec 9) ++ e ++ k ++ n)).extractLsb' 5 2 = e := by
    simp (disch := decide) only [extract_si, BitVec.extractLsb'_append_eq_of_le,
      BitVec.extractLsb'_append_eq_of_add_le, Nat.reduceSub, BitVec.extractLsb'_eq_self]
  have hz : (Encode.si ((0 : BitVec 9) ++ e ++ k ++ n)).extractLsb' 7 9 = 0 := by
    simp (disch := decide) only [extract_si, BitVec.extractLsb'_append_eq_of_le, Nat.reduceSub,
      BitVec.extractLsb'_eq_self]
  simp only [decode, major_head, BitVec.reduceToNat, fieldX_head, fieldY_head, hn, hk, he, hz, decide_true,
    Bool.and_self]

theorem decode_waitk (k : BitVec 8) :
    decode ⟨Encode.head 0x2C 0 0, Encode.si ((0 : BitVec 8) ++ k)⟩ = Decode.accept true (.waitk k) := by
  have hk : (Encode.si ((0 : BitVec 8) ++ k)).extractLsb' 0 8 = k := by
    simp (disch := decide) only [extract_si, BitVec.extractLsb'_append_eq_of_add_le, BitVec.extractLsb'_eq_self]
  have hz (i n : Nat) (hi : 8 ≤ i) (hn : i + n ≤ 16) : (Encode.si ((0 : BitVec 8) ++ k)).extractLsb' i n = 0 := by
    rw [extract_si _ hn, BitVec.extractLsb'_append_eq_of_le hi]
    exact BitVec.extractLsb'_zero
  simp only [decode, major_head, BitVec.reduceToNat, fieldX_head, fieldY_head, hk, hz 11 2 (by decide) (by decide),
    hz 8 3 (by decide) (by decide), hz 13 3 (by decide) (by decide), decide_true, Bool.and_self]

theorem decode_cwp (d : Reg) (k : BitVec 3) :
    decode ⟨Encode.head 0x2C d 0, Encode.si ((0 : BitVec 3) ++ (1 : BitVec 2) ++ k ++ (0 : BitVec 8))⟩
      = Decode.accept true (.cwp d k) := by
  have hk : (Encode.si ((0 : BitVec 3) ++ (1 : BitVec 2) ++ k ++ (0 : BitVec 8))).extractLsb' 8 3 = k := by
    simp (disch := decide) only [extract_si, BitVec.extractLsb'_append_eq_of_le,
      BitVec.extractLsb'_append_eq_of_add_le, Nat.reduceSub, BitVec.extractLsb'_eq_self]
  have hf : (Encode.si ((0 : BitVec 3) ++ (1 : BitVec 2) ++ k ++ (0 : BitVec 8))).extractLsb' 11 2 = 1 := by
    simp (disch := decide) only [extract_si, BitVec.extractLsb'_append_eq_of_le,
      BitVec.extractLsb'_append_eq_of_add_le, Nat.reduceSub, BitVec.extractLsb'_eq_self]
  have hlow : (Encode.si ((0 : BitVec 3) ++ (1 : BitVec 2) ++ k ++ (0 : BitVec 8))).extractLsb' 0 8 = 0 := by
    simp (disch := decide) only [extract_si, BitVec.extractLsb'_append_eq_of_add_le, BitVec.extractLsb'_eq_self]
  have hhigh : (Encode.si ((0 : BitVec 3) ++ (1 : BitVec 2) ++ k ++ (0 : BitVec 8))).extractLsb' 13 3 = 0 := by
    simp (disch := decide) only [extract_si, BitVec.extractLsb'_append_eq_of_le, Nat.reduceSub,
      BitVec.extractLsb'_eq_self]
  simp only [decode, major_head, BitVec.reduceToNat, fieldX_head, fieldY_head, hk, hf, hlow, hhigh, decide_true,
    Bool.and_self]

theorem decode_tlbinv (a b : Reg) : decode ⟨Encode.head 0x30 a b, 0⟩ = Decode.accept true (.tlbinv a b) := by
  simp [decode]

theorem decode_stagePrefix (p : BitVec 3) :
    decode ⟨Encode.head 0x31 0 ((0 : BitVec 2) ++ p), 0⟩ = Decode.accept true (.stagePrefix p) := by
  have hp : ((0 : BitVec 2) ++ p).extractLsb' 0 3 = p := BitVec.extractLsb'_append_eq_right
  have hz : ((0 : BitVec 2) ++ p).extractLsb' 3 2 = 0 := BitVec.extractLsb'_append_eq_left
  simp only [decode, major_head, BitVec.reduceToNat, fieldX_head, fieldY_head, hp, hz, decide_true, Bool.and_self]

/-! Fields of W that are narrower than W. -/

/-- A code of four bits in W (10 R253, R256). -/
theorem code_of_w (c : BitVec 4) :
    ((0 : BitVec 1) ++ c).setWidth 4 = c ∧ ((0 : BitVec 1) ++ c).getLsbD 4 = false := by
  constructor
  · exact BitVec.setWidth_append_eq_right
  · simp only [BitVec.getLsbD_append]
    simp

theorem decode_pbwait (p a : Reg) (c : BitVec 4) :
    decode ⟨Encode.head 0x1C p a, Encode.sr 3 ((0 : BitVec 1) ++ c) 0⟩ = Decode.accept true (.pbwait p a c) := by
  rw [decode_barrier]
  change Decode.accept (!((0 : BitVec 1) ++ c).getLsbD 4 && true) (.pbwait p a (((0 : BitVec 1) ++ c).setWidth 4)) = _
  rw [(code_of_w c).1, (code_of_w c).2]
  rfl

theorem decode_enq (v a z : Reg) (c : BitVec 4) :
    decode ⟨Encode.head 0x2E v a, Encode.sr 1 ((0 : BitVec 1) ++ c) z⟩ = Decode.accept true (.enq v a z c) := by
  rw [decode_spool, (code_of_w c).1]
  change Decode.accept (true && !((0 : BitVec 1) ++ c).getLsbD 4) (.enq v a z c) = _
  rw [(code_of_w c).2]
  rfl

theorem decode_deq (d a z : Reg) (c : BitVec 4) :
    decode ⟨Encode.head 0x2E d a, Encode.sr 2 ((0 : BitVec 1) ++ c) z⟩ = Decode.accept true (.deq d a z c) := by
  rw [decode_spool, (code_of_w c).1]
  change Decode.accept (true && !((0 : BitVec 1) ++ c).getLsbD 4) (.deq d a z c) = _
  rw [(code_of_w c).2]
  rfl

/-- The mask and the function of a vector spool instruction in F (10 R256). -/
theorem mask_of_f (m k : BitVec 3) : (m ++ k).extractLsb' 3 3 = m ∧ (m ++ k).extractLsb' 0 3 = k :=
  ⟨BitVec.extractLsb'_append_eq_left, BitVec.extractLsb'_append_eq_right⟩

theorem decode_venq (v a : Reg) (m : BitVec 3) (c : BitVec 4) :
    decode ⟨Encode.head 0x2E v a, Encode.sr (m ++ (3 : BitVec 3)) ((0 : BitVec 1) ++ c) 0⟩
      = Decode.accept true (.venq v a m c) := by
  rw [decode_spool, (code_of_w c).1, (mask_of_f m 3).1, (mask_of_f m 3).2]
  change Decode.accept (true && !((0 : BitVec 1) ++ c).getLsbD 4) (.venq v a m c) = _
  rw [(code_of_w c).2]
  rfl

theorem decode_vdeq (d a : Reg) (m : BitVec 3) (c : BitVec 4) :
    decode ⟨Encode.head 0x2E d a, Encode.sr (m ++ (4 : BitVec 3)) ((0 : BitVec 1) ++ c) 0⟩
      = Decode.accept true (.vdeq d a m c) := by
  rw [decode_spool, (code_of_w c).1, (mask_of_f m 4).1, (mask_of_f m 4).2]
  change Decode.accept (true && !((0 : BitVec 1) ++ c).getLsbD 4) (.vdeq d a m c) = _
  rw [(code_of_w c).2]
  rfl

/-- A predicate number in W (10 R256). -/
theorem predicate_of_w (p : BitVec 3) :
    ((0 : BitVec 2) ++ p).setWidth 3 = p ∧ isMReg ((0 : BitVec 2) ++ p) = true := by
  constructor
  · exact BitVec.setWidth_append_eq_right
  · revert p
    decide

theorem decode_enqt (v a z : Reg) (p : BitVec 3) :
    decode ⟨Encode.head 0x2E v a, Encode.sr 5 ((0 : BitVec 2) ++ p) z⟩ = Decode.accept true (.enqt v a z p) := by
  rw [decode_spool, (predicate_of_w p).1]
  exact congrArg (fun w => Decode.accept (true && w) (.enqt v a z p)) (predicate_of_w p).2

theorem decode_deqt (d a z : Reg) (p : BitVec 3) :
    decode ⟨Encode.head 0x2E d a, Encode.sr 6 ((0 : BitVec 2) ++ p) z⟩ = Decode.accept true (.deqt d a z p) := by
  rw [decode_spool, (predicate_of_w p).1]
  exact congrArg (fun w => Decode.accept (true && w) (.deqt d a z p)) (predicate_of_w p).2

/-- The number and the function of a tether instruction (09 R217). -/
theorem tether_fields (k : BitVec 2) (n : BitVec 3) :
    ((0 : BitVec 11) ++ k ++ n).extractLsb' 5 11 = 0 ∧ ((0 : BitVec 11) ++ k ++ n).extractLsb' 3 2 = k
      ∧ ((0 : BitVec 11) ++ k ++ n).extractLsb' 0 3 = n := by
  refine ⟨?_, ?_, BitVec.extractLsb'_append_eq_right⟩ <;>
    simp (disch := decide) only [BitVec.extractLsb'_append_eq_of_le, BitVec.extractLsb'_append_eq_of_add_le,
      Nat.reduceSub, BitVec.extractLsb'_eq_self]

theorem decode_topen (d a : Reg) (n : BitVec 3) :
    decode ⟨Encode.head 0x2D d a, Encode.si ((0 : BitVec 13) ++ n)⟩ = Decode.accept true (.topen d a n) := by
  have hn : (0 : BitVec 13) ++ n = (0 : BitVec 11) ++ (0 : BitVec 2) ++ n := rfl
  obtain ⟨hz, hk, hn'⟩ := tether_fields 0 n
  rw [hn, decode_tether _ _ _ hz, hk, hn']
  rfl

theorem decode_trel (n : BitVec 3) :
    decode ⟨Encode.head 0x2D 0 0, Encode.si ((0 : BitVec 11) ++ (1 : BitVec 2) ++ n)⟩ = Decode.accept true (.trel n) := by
  obtain ⟨hz, hk, hn⟩ := tether_fields 1 n
  rw [decode_tether _ _ _ hz, hk, hn]
  rfl

theorem decode_tstat (d : Reg) (n : BitVec 3) :
    decode ⟨Encode.head 0x2D d 0, Encode.si ((0 : BitVec 11) ++ (2 : BitVec 2) ++ n)⟩
      = Decode.accept true (.tstat d n) := by
  obtain ⟨hz, hk, hn⟩ := tether_fields 2 n
  rw [decode_tether _ _ _ hz, hk, hn]
  rfl

/-- Settles O60: by the major of each instruction, whose lemma says which function of the decoder reads the encoding and
with which fields. -/
theorem encodeDecode : Obligations.EncodeDecode := by
  intro i hi he
  cases i with
  | add | sub | mul | mulh | mulhn | div | divn | rem | remn | and | or | xor | shl | shr | sra | rot | slt | sltn | min
  | max | minn | maxn | clmul | clmulh | clz | ctz | pop | sext | zext =>
    exact ok_of_accept (decode_alu _ _ _ _ _) hi
  | addi | andi | ori | xori | shli | shri | srai | slti =>
    exact ok_of_accept (decode_imm _ (by simp)) hi
  | fadd | fsub | fmul | ffma | fcvt | fcmp => exact ok_of_accept (decode_scalarFp _ _) hi
  | beq | bne | blt | bge | bltn | bgen => exact ok_of_accept (decode_branch _ _ _ _) hi
  | nop | next | halt | eret | ill | yield | fence | fenceSv | fenceVs | vdrain =>
    exact ok_of_accept (decode_system _) hi
  | amoAdd | amoAnd | amoOr | amoXor | amoMin | amoMax | amoMinn | amoMaxn | amoSwap | amoFadd =>
    exact ok_of_accept (decode_amo _ _ _ _ _) hi
  | vadd | vsub | vmul | vfma | vfms | vdiv | vsqrt | vrsq | vexp2 | vmin | vmax | vabs | vneg | vand | vor | vxor | vshl
  | vshr | vsra | vclmul | vdot | vhad | vcvt => exact ok_of_accept (decode_vectorArith _ _) hi
  | vaddVs | vsubVs | vmulVs | vfmaVs | vfmsVs | vdivVs | vminVs | vmaxVs | vandVs | vorVs | vxorVs | vshlVs | vshrVs
  | vsraVs | vclmulVs | vdotVs => exact ok_of_accept (decode_vectorScalar _ _) hi
  | vsel | vmv | vbcast | vslide | vperm | viota | vcmp | vred =>
    exact ok_of_accept (decode_vectorCross _ _) hi
  | vld | vlds | vldx | vldff | vldt | vpref | vst | vsts | vstx | vamo | vlock | vunlock | stmap | stwb | stunmap | oclaim
  | orel | oldv | opa | aclaim | arel | aclr | axt | asave | aload | vcopyx | vstrm | vstrmx =>
    exact ok_of_accept (decode_vectorMem _ _ (by decide)) hi
  | vcopy o =>
    have hsub : o.sub.toNat < 8 := of_decide_eq_true (Bool.and_eq_true_iff.mp hi).2
    exact ok_of_accept ((decode_vectorMem _ _ (by decide)).trans (if_pos hsub)) hi
  | vcopyJob o =>
    have hsub : ¬ o.sub.toNat < 8 := Nat.not_lt.mpr (of_decide_eq_true (Bool.and_eq_true_iff.mp hi).2).1
    exact ok_of_accept ((decode_vectorMem _ _ (by decide)).trans (if_neg hsub)) hi
  | pbinit | pbarr | pbexp => exact ok_of_accept (decode_barrier _ _ _ _ _) hi
  | pbwait => exact ok_of_accept (decode_pbwait _ _ _) hi
  | vsetl | vsetr | vrel | gang => exact ok_of_accept (decode_config _ _ _ _ _) hi
  | mand | mor | mxor | mnot | mset | mpop | mfirst | mmov =>
    exact ok_of_accept (decode_masks _ _ _ _ _) hi
  | qinit | qstat => exact ok_of_accept (decode_spool _ _ _ _ _) hi
  | spawn | joinw | launch | jstat | cancel => exact ok_of_accept (decode_tasks _ _ _ _ _) hi
  | topen => exact ok_of_accept (decode_topen _ _ _) hi
  | trel => exact ok_of_accept (decode_trel _) hi
  | tstat => exact ok_of_accept (decode_tstat _ _) hi
  | enq => exact ok_of_accept (decode_enq _ _ _ _) hi
  | deq => exact ok_of_accept (decode_deq _ _ _ _) hi
  | venq => exact ok_of_accept (decode_venq _ _ _ _) hi
  | vdeq => exact ok_of_accept (decode_vdeq _ _ _ _) hi
  | enqt => exact ok_of_accept (decode_enqt _ _ _ _) hi
  | deqt => exact ok_of_accept (decode_deqt _ _ _ _) hi
  | limm => exact ok_of_accept (decode_limm _ _) hi
  | addpc => exact ok_of_accept (decode_addpc _ _) hi
  | sel => exact ok_of_accept (decode_sel _ _ _ _) hi
  | jmp => exact ok_of_accept (decode_jmp _) hi
  | call => exact ok_of_accept (decode_call _) hi
  | jmpr => exact ok_of_accept (decode_jmpr _ _) hi
  | loop => exact ok_of_accept (decode_loop _ _ _) hi
  | loopm => exact ok_of_accept (decode_loopm _ _ _ _) hi
  | loopi => exact ok_of_accept (decode_loopi _ _ _) hi
  | trap => exact ok_of_accept (decode_trap _) hi
  | srr => exact ok_of_accept (decode_srr _ _) hi
  | srw => exact ok_of_accept (decode_srw _ _) hi
  | ld => exact ok_of_accept (decode_ld _) hi
  | st => exact ok_of_accept (decode_st _) hi
  | pref => exact ok_of_accept (decode_pref _) hi
  | cas => exact ok_of_accept (decode_cas _ _ _ _ _) hi
  | waitw => exact ok_of_accept (decode_waitw _ _ _ _ _ _) hi
  | vcfg => exact ok_of_accept (decode_vcfg _ _ _) hi
  | waitk => exact ok_of_accept (decode_waitk _) hi
  | cwp => exact ok_of_accept (decode_cwp _ _) hi
  | tlbinv => exact ok_of_accept (decode_tlbinv _ _) hi
  | stagePrefix => exact ok_of_accept (decode_stagePrefix _) hi
  | _ => exact absurd he Bool.false_ne_true

end Sys2Proof
end

section
/-! SUPPORT. What every function of the model leaves of memory: `f_mem` where it leaves memory alone, `f_wfIf` where it
keeps the canonical form, and `f_lands` where it is a result: a next state, whose memory is canonical where the state
before had it so. The lemmas stand in the order of the functions, the step last. `p` is any condition, so that one
development serves both what holds of every state and what holds of the canonical ones. -/

namespace Sys2Proof.Machine

/-- Memory is canonical where `p` holds. -/
def WfIf (p : Prop) (m : List Host.Cell) : Prop := p → Memory.wf m = true

/-- A result is a next state, whose memory is canonical where `p` holds. -/
def Lands (p : Prop) (r : Res) : Prop := ∃ t, r = .next t ∧ WfIf p t.mem

variable {p : Prop}

@[simp] theorem lands_next (t : State) : Lands p (.next t) ↔ WfIf p t.mem := by
  constructor
  · rintro ⟨u, h, hu⟩
    cases h
    exact hu
  · exact fun h => ⟨t, rfl, h⟩

@[simp] theorem foldl_mem {α : Type} {f : State → α → State} (hf : ∀ s e, (f s e).mem = s.mem) (s : State)
    (l : List α) :
    (l.foldl f s).mem = s.mem := by
  induction l generalizing s with
  | nil => rfl
  | cons e r ih => exact (ih _).trans (hf s e)

theorem foldl_wfIf {α : Type} {f : State → α → State} (hf : ∀ s e, WfIf p s.mem → WfIf p (f s e).mem)
    {s : State} (h : WfIf p s.mem) (l : List α) :
    WfIf p (l.foldl f s).mem := by
  induction l generalizing s with
  | nil => exact h
  | cons e r ih => exact ih (hf s e h)

@[simp] theorem putMem_wfIf (m : List Host.Cell) (l : Nat) (b : List Byte) (h : WfIf p m) : WfIf p (putMem m l b) :=
  fun hp => putMem_wf m l b (h hp)

@[simp] theorem filter_wfIf (m : List Host.Cell) (f : Host.Cell → Bool) (h : WfIf p m) : WfIf p (m.filter f) :=
  fun hp => Memory.wf_filter m f (h hp)

@[simp] theorem sets_wfIf (l m : List Host.Cell) (h : WfIf p m) : WfIf p (Tab.sets 0 l m) :=
  fun hp => Memory.wf_sets l m (h hp)

@[simp] theorem set_wfIf (a v) (m : List Host.Cell) (h : WfIf p m) : WfIf p (Tab.set 0 a v m) :=
  fun hp => Tab.wf_set 0 a v m (h hp)

@[simp] theorem mem_ite (c : Prop) [Decidable c] (s t : State) :
    (if c then s else t).mem = if c then s.mem else t.mem := apply_ite State.mem c s t

@[simp] theorem wfIf_ite (c : Prop) [Decidable c] (m n : List Host.Cell) :
    WfIf p (if c then m else n) ↔ (c → WfIf p m) ∧ (¬c → WfIf p n) := by
  split <;> simp [*]

@[simp] theorem nil_wfIf : WfIf p [] := fun hp => by decide

/-! Memory. -/

@[simp] theorem noteFill_mem (s : State) (pa : Nat) : (noteFill s pa).mem = s.mem := by
  unfold noteFill
  (repeat' split) <;> simp

@[simp] theorem writeRam_wfIf (s : State) (l : Nat) (b : List Byte) (hs : WfIf p s.mem) :
    WfIf p (writeRam s l b).mem := by
  unfold writeRam
  simp [hs]

@[simp] theorem writeEach_wfIf (s : State) (l : Nat) (b : List Byte) (hs : WfIf p s.mem) :
    WfIf p (writeEach s l b).mem := by
  unfold writeEach
  simp [hs]

@[simp] theorem noteTlb_mem (s : State) (a : Agent) (k : Access) (va : Nat) : (noteTlb s a k va).mem = s.mem := by
  unfold noteTlb
  (repeat' split) <;> rfl

@[simp] theorem touchStash_mem (s : State) (a : Agent) (k : Access) (c o : Nat) :
    (touchStash s a k c o).mem = s.mem := by
  unfold touchStash
  (repeat' split) <;> rfl

@[simp] theorem recallLine_mem (s : State) (c : Option Nat) (l : Nat) : (recallLine s c l).mem = s.mem := by
  unfold recallLine
  split <;> rfl

@[simp] theorem recallSpan_mem (s : State) (c : Option Nat) (p : Place) (n : Nat) :
    (recallSpan s c p n).mem = s.mem := by
  unfold recallSpan
  split <;> split <;> simp

@[simp] theorem touch_mem (s : State) (a : Agent) (k : Access) (va : Nat) : (touch s a k va).mem = s.mem := by
  unfold touch
  (repeat' split) <;> simp

@[simp] theorem noteRead_mem (s : State) (r : Except Nat Resolved) : (noteRead s r).mem = s.mem := by
  unfold noteRead
  split <;> simp

@[simp] theorem imsicStore_mem (s : State) (pa : Nat) (b : List Byte) : (imsicStore s pa b).mem = s.mem := by
  unfold imsicStore
  split <;> rfl

@[simp] theorem raiseAplic_mem (s : State) (n : Nat) : (raiseAplic s n).mem = s.mem := by rfl

/-! Qcb. -/

@[simp] theorem kind5_mem (s : State) (addr : Nat) : (kind5 s addr).mem = s.mem := by rfl

@[simp] theorem reportError_mem (s : State) (pa : Nat) : (reportError s pa).mem = s.mem := by rfl

@[simp] theorem qcbWrite_wfIf (s : State) (q : Nat) (b : List Byte) (hs : WfIf p s.mem) :
    WfIf p (qcbWrite s q b).mem := by
  unfold qcbWrite
  simp [hs]

@[simp] theorem qcbPoison_wfIf (s : State) (q : Nat) (hs : WfIf p s.mem) : WfIf p (qcbPoison s q).mem := by
  unfold qcbPoison
  simp [hs]

@[simp] theorem reportSpoiled_wfIf (s : State) (q : Nat) (hs : WfIf p s.mem) : WfIf p (reportSpoiled s q).mem := by
  unfold reportSpoiled
  simp [hs]

@[simp] theorem wakeDie_mem (s : State) (d : Nat) : (wakeDie s d).mem = s.mem := by
  unfold wakeDie
  split <;> rfl

@[simp] theorem wakeCluster_mem (s : State) (c : Nat) : (wakeCluster s c).mem = s.mem := by
  unfold wakeCluster
  simp

@[simp] theorem homeStore_wfIf (s : State) (l : Nat) (b : List Byte) (hs : WfIf p s.mem) :
    WfIf p (homeStore s l b).mem := by
  unfold homeStore
  simp [hs]

@[simp] theorem releaseStores_wfIf (s : State) (hs : WfIf p s.mem) : WfIf p (releaseStores s).mem := by
  unfold releaseStores
  exact foldl_wfIf (fun s e h => by simp [h]) (by simp [hs]) _

@[simp] theorem wakeFor_mem (s : State) (q : Nat) : (wakeFor s q).mem = s.mem := by
  unfold wakeFor
  split <;> simp

@[simp] theorem dropWindow_mem (s : State) (pa : Nat) : (dropWindow s pa).mem = s.mem := by rfl

@[simp] theorem sendMsi_wfIf (s : State) (addr data : Nat) (hs : WfIf p s.mem) :
    WfIf p (sendMsi s addr data).mem := by
  unfold sendMsi
  (repeat' split) <;> simp [hs]

@[simp] theorem queueMsi_wfIf (s : State) (key addr data : Nat) (hs : WfIf p s.mem) :
    WfIf p (queueMsi s key addr data).mem := by
  unfold queueMsi
  simp [hs]

@[simp] theorem notifyNow_wfIf (s : State) (q : Nat) (hs : WfIf p s.mem) : WfIf p (notifyNow s q).mem := by
  unfold notifyNow
  simp [hs]

@[simp] theorem performMsi_wfIf (s : State) (k : Nat) (hs : WfIf p s.mem) : WfIf p (performMsi s k).mem := by
  unfold performMsi
  split <;> simp [hs]

@[simp] theorem notifyThreshold_wfIf (s : State) (q : Nat) (hs : WfIf p s.mem) :
    WfIf p (notifyThreshold s q).mem := by
  unfold notifyThreshold
  simp [hs]

@[simp] theorem noteBatch_mem (s : State) (q lo hi : Nat) : (noteBatch s q lo hi).mem = s.mem := by
  unfold noteBatch
  split <;> rfl

@[simp] theorem applyTail_wfIf (s : State) (q v : Nat) (hs : WfIf p s.mem) : WfIf p (applyTail s q v).mem := by
  unfold applyTail
  simp [hs]

@[simp] theorem applyHead_wfIf (s : State) (q v : Nat) (hs : WfIf p s.mem) : WfIf p (applyHead s q v).mem := by
  unfold applyHead
  simp [hs]

@[simp] theorem settleRemoval_mem (s : State) (q : Nat) : (settleRemoval s q).mem = s.mem := by
  unfold settleRemoval
  split <;> simp

@[simp] theorem headStore_wfIf (s : State) (q v : Nat) (hs : WfIf p s.mem) : WfIf p (headStore s q v).mem := by
  unfold headStore
  simp [hs]

@[simp] theorem applyLatches_wfIf (s : State) (mine : Nat → Bool) (hs : WfIf p s.mem) :
    WfIf p (applyLatches s mine).mem := by
  refine foldl_wfIf ?_ (foldl_wfIf ?_ hs _) _ <;>
  · intro s e hs
    simp [hs]

@[simp] theorem latchStore_wfIf (s : State) (pa : Nat) (v : Word) (hs : WfIf p s.mem) :
    WfIf p (latchStore s pa v).mem := by
  unfold latchStore
  simp [hs]

@[simp] theorem storePlace_wfIf (s : State) (q : Place) (b : List Byte) (hs : WfIf p s.mem) :
    WfIf p (storePlace s q b).mem := by
  cases q with
  | _ => simp [storePlace, hs]

@[simp] theorem agentStore_wfIf (s : State) (q : Place) (b : List Byte) (hs : WfIf p s.mem) :
    WfIf p (agentStore s q b).mem :=
  storePlace_wfIf _ q b (by simp [hs])

/-! Ops. -/

@[simp] theorem unlockAt_wfIf (s : State) (q : Place) (asid h : Nat) (hs : WfIf p s.mem) :
    WfIf p (unlockAt s q asid h).mem := by
  unfold unlockAt
  simp [hs]

@[simp] theorem lockAt_wfIf (s : State) (q : Place) (asid h md ms t : Nat) (hs : WfIf p s.mem) :
    WfIf p (lockAt s q asid h md ms t).mem := by
  unfold lockAt
  simp [hs]

@[simp] theorem commitSlots_wfIf (s : State) (q n : Nat) (hs : WfIf p s.mem) : WfIf p (commitSlots s q n).mem := by
  unfold commitSlots
  simp [hs]

@[simp] theorem freeTaken_wfIf (s : State) (q n : Nat) (hs : WfIf p s.mem) : WfIf p (freeTaken s q n).mem := by
  unfold freeTaken
  simp [hs]

@[simp] theorem landImage_mem (s : State) (h bank k : Nat) (b : Byte) : (landImage s h bank k b).mem = s.mem := by
  unfold landImage
  dsimp only
  split <;> simp

@[simp] theorem landRow_mem (s : State) (h slot start : Nat) (b : List Byte) :
    (landRow s h slot start b).mem = s.mem := by
  rfl

@[simp] theorem performOne_wfIf (s : State) (h : Nat) (vector : Bool) (q : Pending) (hs : WfIf p s.mem) :
    WfIf p (performOne s h vector q).mem := by
  simp only [performOne]
  have hu : WfIf p (if (s.hart h).run = .free then s else s.setHart h ((s.hart h).tick vector 1)).mem := by simp [hs]
  generalize (if (s.hart h).run = .free then s else s.setHart h ((s.hart h).tick vector 1)) = u at hu ⊢
  cases q <;> simp [hu]

@[simp] theorem performFirst_wfIf (s : State) (h : Nat) (vector : Bool) (n : Nat) (hs : WfIf p s.mem) :
    WfIf p (performFirst s h vector n).mem := by
  unfold performFirst
  dsimp only
  split
  · simp [hs]
  · exact foldl_wfIf (fun s e h => by simp [h]) (by simp [hs]) _

@[simp] theorem performQueue_wfIf (s : State) (h : Nat) (vector : Bool) (hs : WfIf p s.mem) :
    WfIf p (performQueue s h vector).mem := by
  unfold performQueue
  simp [hs]

@[simp] theorem performHart_wfIf (s : State) (h : Nat) (hs : WfIf p s.mem) : WfIf p (performHart s h).mem := by
  unfold performHart
  simp [hs]

@[simp] theorem completeResults_wfIf (s : State) (h : Nat) (hs : WfIf p s.mem) :
    WfIf p (completeResults s h).mem := by
  unfold completeResults
  simp [hs]

@[simp] theorem performAll_wfIf (s : State) (hs : WfIf p s.mem) : WfIf p (performAll s).mem := by
  unfold performAll
  exact foldl_wfIf (fun s e h => by simp [h]) hs _

@[simp] theorem releaseBehind_wfIf (s : State) (j : Job) (hs : WfIf p s.mem) : WfIf p (releaseBehind s j).mem := by
  unfold releaseBehind
  exact foldl_wfIf (fun s e h => by simp [h]) (by simp [hs]) _

@[simp] theorem setEarly_mem (s : State) (h : Nat) (vector : Bool) (l : List Ahead) :
    (setEarly s h vector l).mem = s.mem := by
  unfold setEarly
  split <;> rfl

@[simp] theorem dropEarly_mem (s : State) (h : Nat) (vector : Bool) : (dropEarly s h vector).mem = s.mem := by
  unfold dropEarly
  split <;> rfl

@[simp] theorem freshAccess_mem (s : State) (vector : Bool) : (freshAccess s vector).mem = s.mem := by
  unfold freshAccess
  simp

@[simp] theorem failStores_mem (s : State) (h : Nat) : (failStores s h).mem = s.mem := by
  unfold failStores
  split <;> rfl

@[simp] theorem dropJobReads_mem (s : State) (asid : Nat) : (dropJobReads s asid).mem = s.mem := by
  unfold dropJobReads
  split <;> rfl

@[simp] theorem endEarly_mem (s : State) (h : Nat) : (endEarly s h).mem = s.mem := by
  unfold endEarly
  simp

@[simp] theorem readAccess_mem (s : State) (v : Bool) (r : Resolved) (n : Nat) :
    (readAccess s v r n).2.mem = s.mem := by
  unfold readAccess
  split <;> simp

@[simp] theorem writeAccess_mem (s : State) (v : Bool) (l : List (Resolved × List Byte)) :
    (writeAccess s v l).1.mem = s.mem := by
  simp [writeAccess]

@[simp] theorem atomicAccess_wfIf (s : State) (r : Resolved) (n : Nat) (f : Nat → Option Nat) (hs : WfIf p s.mem) :
    WfIf p (atomicAccess s r n f).2.mem := by
  unfold atomicAccess
  split
  · simp [hs]
  · dsimp only
    split <;> simp [hs]

@[simp] theorem enqueueAccess_mem (s : State) (vector : Bool) (l : List Pending) :
    (enqueueAccess s vector l).mem = s.mem := by
  unfold enqueueAccess
  split <;> rfl

@[simp] theorem State.mapPacket_mem (s : State) (id : Nat) (f : Packet → Packet) :
    (State.mapPacket s id f).mem = s.mem := by
  rfl

@[simp] theorem releaseSlots_mem (s : State) (h : Nat) : (releaseSlots s h).mem = s.mem := by rfl

@[simp] theorem releaseClaims_mem (s : State) (h : Nat) : (releaseClaims s h).mem = s.mem := by rfl

@[simp] theorem leaveSpawners_mem (s : State) (h : Nat) : (leaveSpawners s h).mem = s.mem := by
  unfold leaveSpawners
  simp

@[simp] theorem withdraw_mem (s : State) (h : Nat) : (withdraw s h).mem = s.mem := by
  unfold withdraw
  simp

@[simp] theorem leaveGang_wfIf (s : State) (h : Nat) (hs : WfIf p s.mem) : WfIf p (leaveGang s h).mem := by
  unfold leaveGang
  split
  · simp [hs]
  · exact foldl_wfIf (fun s e h => by simp [h]) (by simp [hs]) _

@[simp] theorem sendReport_mem (s : State) (cl : Nat) (r : Report) : (sendReport s cl r).mem = s.mem := by rfl

@[simp] theorem reportFault_mem (s : State) (cl : Nat) (r : FaultRecord) : (reportFault s cl r).mem = s.mem := by rfl

@[simp] theorem sendCommand_mem (s : State) (cl : Nat) (m : Command) : (sendCommand s cl m).mem = s.mem := by rfl

@[simp] theorem leaveBehind_mem (s : State) (h : Nat) : (leaveBehind s h).mem = s.mem := by
  unfold leaveBehind
  split <;> simp

@[simp] theorem saveHart_wfIf (s : State) (h group : Nat) (held : Bool) (raised : SMap Nat) (hs : WfIf p s.mem) :
    WfIf p (saveHart s h group held raised).mem := by
  unfold saveHart
  simp [hs]

@[simp] theorem suspendHart_wfIf (s : State) (h g : Nat) (hs : WfIf p s.mem) : WfIf p (suspendHart s h g).mem := by
  unfold suspendHart
  simp [hs]

@[simp] theorem reopen_mem (s : State) (h t : Nat) (a : Agent) (e : Tether) : (reopen s h t a e).mem = s.mem := by
  rfl

@[simp] theorem enterHandler_mem (s : State) (epc : Word) (cause : Nat) (eval estat : Word) (q : Bool) :
    (enterHandler s epc cause eval estat q).mem = s.mem := by
  rfl

@[simp] theorem forwardTrap_wfIf (s : State) (epc : Word) (cause : Nat) (eval estat : Word) (chain : Bool)
    (hs : WfIf p s.mem) : WfIf p (forwardTrap s epc cause eval estat chain).mem := by
  unfold forwardTrap
  refine foldl_wfIf (fun s h hs => suspendHart_wfIf s h _ hs) ?_ _
  rw [reportFault_mem]
  exact saveHart_wfIf _ _ _ _ _ hs

@[simp] theorem waitAt_mem (s : State) (w : Wait) (eval : Word) : (waitAt s w eval).mem = s.mem := by rfl

@[simp] theorem takeTrap_wfIf (s : State) (epc : Word) (cause : Nat) (eval : Word) (estat : Word) (q chain : Bool)
    (hs : WfIf p s.mem) :
    WfIf p (takeTrap s epc cause eval estat q chain).mem := by
  unfold takeTrap
  simp [hs]

@[simp] theorem dropChain_mem (s : State) : (dropChain s).mem = s.mem := by
  unfold dropChain
  split <;> rfl

@[simp] theorem trap_wfIf (s : State) (cause : Nat) (eval : Word) (hs : WfIf p s.mem) :
    WfIf p (trap s cause eval).mem := by
  unfold trap
  dsimp only
  split <;> simp [hs]

@[simp] theorem illegal_wfIf (s : State) (hs : WfIf p s.mem) : WfIf p (illegal s).mem := by
  unfold illegal
  simp [hs]

@[simp] theorem vconfTrap_wfIf (s : State) (hs : WfIf p s.mem) : WfIf p (vconfTrap s).mem := by
  unfold vconfTrap
  simp [hs]

@[simp] theorem chainTrap_wfIf (s : State) (hs : WfIf p s.mem) : WfIf p (chainTrap s).mem := by
  unfold chainTrap
  dsimp only
  split <;> simp [hs]

@[simp] theorem unchained_lands (s : State) (k : State → Res) (hs : WfIf p s.mem)
    (hk : ∀ (x0 : State), WfIf p x0.mem → Lands p (k x0)) :
    Lands p (unchained s k) := by
  unfold unchained
  split <;> simp [hs, hk]

@[simp] theorem finish_mem (s : State) : (finish s).mem = s.mem := by rfl

@[simp] theorem finishWith_mem (s : State) (f : Hart → Hart) : (finishWith s f).mem = s.mem := by rfl

@[simp] theorem keepLine_mem (s : State) (h va : Nat) : (keepLine s h va).mem = s.mem := by
  unfold keepLine
  dsimp only
  split <;> simp

@[simp] theorem pickLine_mem (s : State) (h k : Nat) : (pickLine s h k).mem = s.mem := by rfl

@[simp] theorem dropLine_mem (s : State) (h : Nat) : (dropLine s h).mem = s.mem := by rfl

@[simp] theorem transfer_wfIf (s : State) (t : Word) (leaves : Bool) (commit : Hart → Hart) (hs : WfIf p s.mem) :
    WfIf p (transfer s t leaves commit).mem := by
  unfold transfer
  dsimp only
  split
  · exact hs
  · exact takeTrap_wfIf _ _ _ _ _ _ _ hs
  · exact trap_wfIf _ _ _ hs

@[simp] theorem returnFromTrap_wfIf (s : State) (hs : WfIf p s.mem) : WfIf p (returnFromTrap s).mem := by
  unfold returnFromTrap
  dsimp only
  split
  · exact hs
  · exact takeTrap_wfIf _ _ _ _ _ _ _ hs
  · exact trap_wfIf _ _ _ hs

@[simp] theorem leaveWith_wfIf (s : State) (h : Nat) (e : Nat × Word) (hs : WfIf p s.mem) :
    WfIf p (leaveWith s h e).mem :=
  trap_wfIf _ _ _ (by simp [hs])

@[simp] theorem goOn_wfIf (s : State) (h : Nat) (x : Hart) (hs : WfIf p s.mem) : WfIf p (goOn s h x).mem := by
  unfold goOn
  dsimp only
  split <;> simp [hs]

@[simp] theorem restoreHart_wfIf (s : State) (r : Saved) (hs : WfIf p s.mem) : WfIf p (restoreHart s r).mem := by
  unfold restoreHart
  refine goOn_wfIf _ _ _ ?_
  refine foldl_wfIf (fun s e h => ?_) (by simp [hs]) _
  split <;> simp [h]

@[simp] theorem tagChain_mem (s : State) (x : Hart) (loc : Nat) : (tagChain s x loc).mem = s.mem := by
  unfold tagChain
  (repeat' split) <;> rfl

@[simp] theorem tagAt_mem (s : State) (x : Hart) (p : Place) : (tagAt s x p).mem = s.mem := by
  unfold tagAt
  split <;> simp

/-! Flags. -/

@[simp] theorem setOvf_mem (s : State) (h b : Nat) (v : Bool) : (setOvf s h b v).mem = s.mem := by rfl

/-! Scalar. -/

@[simp] theorem scalarResult_lands (s : State) (d : Reg) (v : Word) (hs : WfIf p s.mem) :
    Lands p (scalarResult s d v) := by
  unfold scalarResult
  simp [hs]

@[simp] theorem execAdd_lands (d a b : Reg) (s : State) (hs : WfIf p s.mem) : Lands p (execAdd d a b s) := by
  unfold execAdd
  simp [hs]

@[simp] theorem execSub_lands (d a b : Reg) (s : State) (hs : WfIf p s.mem) : Lands p (execSub d a b s) := by
  unfold execSub
  simp [hs]

@[simp] theorem execMul_lands (d a b : Reg) (s : State) (hs : WfIf p s.mem) : Lands p (execMul d a b s) := by
  unfold execMul
  simp [hs]

@[simp] theorem execMulh_lands (d a b : Reg) (s : State) (hs : WfIf p s.mem) : Lands p (execMulh d a b s) := by
  unfold execMulh
  simp [hs]

@[simp] theorem execMulhn_lands (d a b : Reg) (s : State) (hs : WfIf p s.mem) : Lands p (execMulhn d a b s) := by
  unfold execMulhn
  simp [hs]

@[simp] theorem execDiv_lands (d a b : Reg) (s : State) (hs : WfIf p s.mem) : Lands p (execDiv d a b s) := by
  unfold execDiv
  simp [hs]

@[simp] theorem execDivn_lands (d a b : Reg) (s : State) (hs : WfIf p s.mem) : Lands p (execDivn d a b s) := by
  unfold execDivn
  simp [hs]

@[simp] theorem execRem_lands (d a b : Reg) (s : State) (hs : WfIf p s.mem) : Lands p (execRem d a b s) := by
  unfold execRem
  simp [hs]

@[simp] theorem execRemn_lands (d a b : Reg) (s : State) (hs : WfIf p s.mem) : Lands p (execRemn d a b s) := by
  unfold execRemn
  simp [hs]

@[simp] theorem execAnd_lands (d a b : Reg) (s : State) (hs : WfIf p s.mem) : Lands p (execAnd d a b s) := by
  unfold execAnd
  simp [hs]

@[simp] theorem execOr_lands (d a b : Reg) (s : State) (hs : WfIf p s.mem) : Lands p (execOr d a b s) := by
  unfold execOr
  simp [hs]

@[simp] theorem execXor_lands (d a b : Reg) (s : State) (hs : WfIf p s.mem) : Lands p (execXor d a b s) := by
  unfold execXor
  simp [hs]

@[simp] theorem execShl_lands (d a b : Reg) (s : State) (hs : WfIf p s.mem) : Lands p (execShl d a b s) := by
  unfold execShl
  simp [hs]

@[simp] theorem execShr_lands (d a b : Reg) (s : State) (hs : WfIf p s.mem) : Lands p (execShr d a b s) := by
  unfold execShr
  simp [hs]

@[simp] theorem execSra_lands (d a b : Reg) (s : State) (hs : WfIf p s.mem) : Lands p (execSra d a b s) := by
  unfold execSra
  simp [hs]

@[simp] theorem execRot_lands (d a b : Reg) (s : State) (hs : WfIf p s.mem) : Lands p (execRot d a b s) := by
  unfold execRot
  simp [hs]

@[simp] theorem execSlt_lands (d a b : Reg) (s : State) (hs : WfIf p s.mem) : Lands p (execSlt d a b s) := by
  unfold execSlt
  simp [hs]

@[simp] theorem execSltn_lands (d a b : Reg) (s : State) (hs : WfIf p s.mem) : Lands p (execSltn d a b s) := by
  unfold execSltn
  simp [hs]

@[simp] theorem execMin_lands (d a b : Reg) (s : State) (hs : WfIf p s.mem) : Lands p (execMin d a b s) := by
  unfold execMin
  simp [hs]

@[simp] theorem execMax_lands (d a b : Reg) (s : State) (hs : WfIf p s.mem) : Lands p (execMax d a b s) := by
  unfold execMax
  simp [hs]

@[simp] theorem execMinn_lands (d a b : Reg) (s : State) (hs : WfIf p s.mem) : Lands p (execMinn d a b s) := by
  unfold execMinn
  simp [hs]

@[simp] theorem execMaxn_lands (d a b : Reg) (s : State) (hs : WfIf p s.mem) : Lands p (execMaxn d a b s) := by
  unfold execMaxn
  simp [hs]

@[simp] theorem execClmul_lands (d a b : Reg) (s : State) (hs : WfIf p s.mem) : Lands p (execClmul d a b s) := by
  unfold execClmul
  simp [hs]

@[simp] theorem execClmulh_lands (d a b : Reg) (s : State) (hs : WfIf p s.mem) : Lands p (execClmulh d a b s) := by
  unfold execClmulh
  simp [hs]

@[simp] theorem execClz_lands (d a : Reg) (s : State) (hs : WfIf p s.mem) : Lands p (execClz d a s) := by
  unfold execClz
  simp [hs]

@[simp] theorem execCtz_lands (d a : Reg) (s : State) (hs : WfIf p s.mem) : Lands p (execCtz d a s) := by
  unfold execCtz
  simp [hs]

@[simp] theorem execPop_lands (d a : Reg) (s : State) (hs : WfIf p s.mem) : Lands p (execPop d a s) := by
  unfold execPop
  simp [hs]

@[simp] theorem execSext_lands (d a w : Reg) (s : State) (hs : WfIf p s.mem) : Lands p (execSext d a w s) := by
  unfold execSext
  simp [hs]

@[simp] theorem execZext_lands (d a w : Reg) (s : State) (hs : WfIf p s.mem) : Lands p (execZext d a w s) := by
  unfold execZext
  simp [hs]

@[simp] theorem execAddi_lands (d a : Reg) (imm : BitVec 16) (s : State) (hs : WfIf p s.mem) :
    Lands p (execAddi d a imm s) := by
  unfold execAddi
  simp [hs]

@[simp] theorem execAndi_lands (d a : Reg) (imm : BitVec 16) (s : State) (hs : WfIf p s.mem) :
    Lands p (execAndi d a imm s) := by
  unfold execAndi
  simp [hs]

@[simp] theorem execOri_lands (d a : Reg) (imm : BitVec 16) (s : State) (hs : WfIf p s.mem) :
    Lands p (execOri d a imm s) := by
  unfold execOri
  simp [hs]

@[simp] theorem execXori_lands (d a : Reg) (imm : BitVec 16) (s : State) (hs : WfIf p s.mem) :
    Lands p (execXori d a imm s) := by
  unfold execXori
  simp [hs]

@[simp] theorem execShli_lands (d a : Reg) (imm : BitVec 16) (s : State) (hs : WfIf p s.mem) :
    Lands p (execShli d a imm s) := by
  unfold execShli
  simp [hs]

@[simp] theorem execShri_lands (d a : Reg) (imm : BitVec 16) (s : State) (hs : WfIf p s.mem) :
    Lands p (execShri d a imm s) := by
  unfold execShri
  simp [hs]

@[simp] theorem execSrai_lands (d a : Reg) (imm : BitVec 16) (s : State) (hs : WfIf p s.mem) :
    Lands p (execSrai d a imm s) := by
  unfold execSrai
  simp [hs]

@[simp] theorem execSlti_lands (d a : Reg) (imm : BitVec 16) (s : State) (hs : WfIf p s.mem) :
    Lands p (execSlti d a imm s) := by
  unfold execSlti
  simp [hs]

@[simp] theorem execLimm_lands (d : Reg) (imm : BitVec 48) (s : State) (hs : WfIf p s.mem) :
    Lands p (execLimm d imm s) := by
  unfold execLimm
  simp [hs]

@[simp] theorem execAddpc_lands (d : Reg) (imm : BitVec 32) (s : State) (hs : WfIf p s.mem) :
    Lands p (execAddpc d imm s) := by
  unfold execAddpc
  simp [hs]

@[simp] theorem execSel_lands (d c a b : Reg) (s : State) (hs : WfIf p s.mem) : Lands p (execSel d c a b s) := by
  unfold execSel
  simp [hs]

/-! ScalarFp. -/

@[simp] theorem scalarFp_lands (s : State) (o : VAOps) (f : Fmt → Nat → FP → FP → FP → Nat × Flags)
    (hs : WfIf p s.mem) :
    Lands p (scalarFp s o f) := by
  refine unchained_lands _ _ hs fun s hs => ?_
  dsimp only
  split <;> simp [hs]

@[simp] theorem execFadd_lands (o : VAOps) (s : State) (hs : WfIf p s.mem) : Lands p (execFadd o s) := by
  unfold execFadd
  simp [hs]

@[simp] theorem execFsub_lands (o : VAOps) (s : State) (hs : WfIf p s.mem) : Lands p (execFsub o s) := by
  unfold execFsub
  simp [hs]

@[simp] theorem execFmul_lands (o : VAOps) (s : State) (hs : WfIf p s.mem) : Lands p (execFmul o s) := by
  unfold execFmul
  simp [hs]

@[simp] theorem execFfma_lands (o : VAOps) (s : State) (hs : WfIf p s.mem) : Lands p (execFfma o s) := by
  unfold execFfma
  simp [hs]

@[simp] theorem execFcvt_lands (o : VAOps) (s : State) (hs : WfIf p s.mem) : Lands p (execFcvt o s) := by
  refine unchained_lands _ _ hs fun s hs => ?_
  dsimp only
  (repeat' split) <;> simp [hs]

@[simp] theorem execFcmp_lands (o : VAOps) (s : State) (hs : WfIf p s.mem) : Lands p (execFcmp o s) := by
  unfold execFcmp
  simp [hs]

/-! LoadStore. -/

/-- A load leaves memory, whether it meets a problem or not. -/
theorem load_mem (s : State) (va : Word) (n : Nat) :
    match load s va n with | .error e => e.2.mem = s.mem | .ok r => r.2.mem = s.mem := by
  unfold load
  dsimp only
  cases check s (s.agent s.cur) .load va.toNat n <;> simp

@[simp] theorem loadNow_lands (o : SMOps) (s : State) (hs : WfIf p s.mem) : Lands p (loadNow o s) := by
  have h := load_mem s (smAddr s.me o) (widthBytes o.width)
  unfold loadNow
  dsimp only
  split <;> simp_all

@[simp] theorem loadLater_lands (o : SMOps) (s : State) (hs : WfIf p s.mem) : Lands p (loadLater o s) := by
  have hl := load_mem s (smAddr s.me o) (widthBytes o.width)
  unfold loadLater
  dsimp only
  split
  · next _ _ _ _ t _ h =>
    rw [h] at hl
    have ht : t.mem = s.mem := hl
    split
    · simp [hs]
    · simp [ht, hs]
  · simp [hs]

@[simp] theorem execLd_lands (o : SMOps) (s : State) (hs : WfIf p s.mem) : Lands p (execLd o s) := by
  refine unchained_lands _ _ hs fun s hs => ?_
  split <;> simp [hs]

theorem store_wfIf {s t : State} {va : Word} {b : List Byte} (hs : WfIf p s.mem) (h : store s va b = .ok t) :
    WfIf p t.mem := by
  unfold store at h
  dsimp only at h
  split at h
  · cases h
  · obtain rfl := Except.ok.inj h
    split
    · simp [hs]
    · exact storePlace_wfIf _ _ _ (by simp [hs])

@[simp] theorem storeNow_lands (o : SMOps) (s : State) (hs : WfIf p s.mem) : Lands p (storeNow o s) := by
  unfold storeNow
  dsimp only
  split
  · simp [hs]
  · next h => simp [store_wfIf hs h]

@[simp] theorem storeLater_lands (o : SMOps) (s : State) (hs : WfIf p s.mem) : Lands p (storeLater o s) := by
  unfold storeLater
  dsimp only
  (repeat' split) <;> simp [hs]

@[simp] theorem execSt_lands (o : SMOps) (s : State) (hs : WfIf p s.mem) : Lands p (execSt o s) := by
  refine unchained_lands _ _ hs fun s hs => ?_
  split <;> simp [hs]

@[simp] theorem execPref_lands (o : SMOps) (s : State) (hs : WfIf p s.mem) : Lands p (execPref o s) := by
  refine unchained_lands _ _ hs fun s hs => ?_
  dsimp only
  (repeat' split) <;> simp [hs]

@[simp] theorem atomic_lands (s : State) (d : Reg) (va : Word) (n op : Nat) (f : Nat → Option Nat × Flags)
    (hs : WfIf p s.mem) :
    Lands p (atomic s d va n op f) := by
  refine unchained_lands _ _ hs fun s hs => ?_
  dsimp only
  (repeat' split) <;> simp [hs]

@[simp] theorem amoOf_lands (op : Nat) (d a v : Reg) (sz : Bool) (s : State) (hs : WfIf p s.mem) :
    Lands p (amoOf op d a v sz s) := by
  unfold amoOf
  simp [hs]

@[simp] theorem execAmoAdd_lands (d a v : Reg) (sz : Bool) (s : State) (hs : WfIf p s.mem) :
    Lands p (execAmoAdd d a v sz s) := by
  unfold execAmoAdd
  simp [hs]

@[simp] theorem execAmoAnd_lands (d a v : Reg) (sz : Bool) (s : State) (hs : WfIf p s.mem) :
    Lands p (execAmoAnd d a v sz s) := by
  unfold execAmoAnd
  simp [hs]

@[simp] theorem execAmoOr_lands (d a v : Reg) (sz : Bool) (s : State) (hs : WfIf p s.mem) :
    Lands p (execAmoOr d a v sz s) := by
  unfold execAmoOr
  simp [hs]

@[simp] theorem execAmoXor_lands (d a v : Reg) (sz : Bool) (s : State) (hs : WfIf p s.mem) :
    Lands p (execAmoXor d a v sz s) := by
  unfold execAmoXor
  simp [hs]

@[simp] theorem execAmoMin_lands (d a v : Reg) (sz : Bool) (s : State) (hs : WfIf p s.mem) :
    Lands p (execAmoMin d a v sz s) := by
  unfold execAmoMin
  simp [hs]

@[simp] theorem execAmoMax_lands (d a v : Reg) (sz : Bool) (s : State) (hs : WfIf p s.mem) :
    Lands p (execAmoMax d a v sz s) := by
  unfold execAmoMax
  simp [hs]

@[simp] theorem execAmoMinn_lands (d a v : Reg) (sz : Bool) (s : State) (hs : WfIf p s.mem) :
    Lands p (execAmoMinn d a v sz s) := by
  unfold execAmoMinn
  simp [hs]

@[simp] theorem execAmoMaxn_lands (d a v : Reg) (sz : Bool) (s : State) (hs : WfIf p s.mem) :
    Lands p (execAmoMaxn d a v sz s) := by
  unfold execAmoMaxn
  simp [hs]

@[simp] theorem execAmoSwap_lands (d a v : Reg) (sz : Bool) (s : State) (hs : WfIf p s.mem) :
    Lands p (execAmoSwap d a v sz s) := by
  unfold execAmoSwap
  simp [hs]

@[simp] theorem execAmoFadd_lands (d a v : Reg) (sz : Bool) (s : State) (hs : WfIf p s.mem) :
    Lands p (execAmoFadd d a v sz s) := by
  unfold execAmoFadd
  simp [hs]

@[simp] theorem execCas_lands (d a e n : Reg) (sz : Bool) (s : State) (hs : WfIf p s.mem) :
    Lands p (execCas d a e n sz s) := by
  unfold execCas
  simp [hs]

/-! Control. -/

@[simp] theorem branchOn_lands (s : State) (taken : Bool) (t : Target) (hs : WfIf p s.mem) :
    Lands p (branchOn s taken t) :=
  unchained_lands _ _ hs fun s hs => by simp [hs]

@[simp] theorem execBeq_lands (a b : Reg) (t : Target) (s : State) (hs : WfIf p s.mem) :
    Lands p (execBeq a b t s) := by
  unfold execBeq
  simp [hs]

@[simp] theorem execBne_lands (a b : Reg) (t : Target) (s : State) (hs : WfIf p s.mem) :
    Lands p (execBne a b t s) := by
  unfold execBne
  simp [hs]

@[simp] theorem execBlt_lands (a b : Reg) (t : Target) (s : State) (hs : WfIf p s.mem) :
    Lands p (execBlt a b t s) := by
  unfold execBlt
  simp [hs]

@[simp] theorem execBge_lands (a b : Reg) (t : Target) (s : State) (hs : WfIf p s.mem) :
    Lands p (execBge a b t s) := by
  unfold execBge
  simp [hs]

@[simp] theorem execBltn_lands (a b : Reg) (t : Target) (s : State) (hs : WfIf p s.mem) :
    Lands p (execBltn a b t s) := by
  unfold execBltn
  simp [hs]

@[simp] theorem execBgen_lands (a b : Reg) (t : Target) (s : State) (hs : WfIf p s.mem) :
    Lands p (execBgen a b t s) := by
  unfold execBgen
  simp [hs]

@[simp] theorem execJmp_lands (t : Target) (s : State) (hs : WfIf p s.mem) : Lands p (execJmp t s) := by
  unfold execJmp
  simp [hs]

@[simp] theorem execCall_lands (t : Target) (s : State) (hs : WfIf p s.mem) : Lands p (execCall t s) :=
  unchained_lands _ _ hs fun s hs => by simp [hs]

@[simp] theorem execJmpr_lands (d a : Reg) (s : State) (hs : WfIf p s.mem) : Lands p (execJmpr d a s) :=
  unchained_lands _ _ hs fun s hs => by simp [hs]

@[simp] theorem startLoop_wfIf (s : State) (c : Reg) (n : Nat) (t : Target) (stages : Option Nat)
    (hs : WfIf p s.mem) :
    WfIf p (startLoop s c n t stages).mem := by
  unfold startLoop
  dsimp only
  (repeat' split) <;> simp [hs]

@[simp] theorem loopEnter_lands (s : State) (t : Target) (k : State → Res) (hs : WfIf p s.mem)
    (hk : ∀ u : State, WfIf p u.mem → Lands p (k u)) : Lands p (loopEnter s t k) := by
  unfold loopEnter
  split
  · exact unchained_lands _ _ hs hk
  · simp [hs]

@[simp] theorem execLoop_lands (c a : Reg) (t : Target) (s : State) (hs : WfIf p s.mem) :
    Lands p (execLoop c a t s) :=
  loopEnter_lands _ _ _ hs fun s hs => by simp [hs]

@[simp] theorem execLoopm_lands (c a : Reg) (t : Target) (stages : BitVec 8) (s : State) (hs : WfIf p s.mem) :
    Lands p (execLoopm c a t stages s) :=
  loopEnter_lands _ _ _ hs fun s hs => by simp [hs]

@[simp] theorem execLoopi_lands (c : Reg) (count : BitVec 16) (t : Target) (s : State) (hs : WfIf p s.mem) :
    Lands p (execLoopi c count t s) :=
  loopEnter_lands _ _ _ hs fun s hs => by simp [hs]

/-! System. -/

@[simp] theorem justFinish_lands (s : State) (hs : WfIf p s.mem) : Lands p (justFinish s) := by
  unfold justFinish
  simp [hs]

@[simp] theorem execNop_lands (s : State) (hs : WfIf p s.mem) : Lands p (execNop s) := by
  unfold execNop
  simp [hs]

@[simp] theorem fenceQueue_lands (vector : Bool) (s : State) (hs : WfIf p s.mem) : Lands p (fenceQueue vector s) :=
  unchained_lands _ _ hs fun s hs => by simp [hs]

@[simp] theorem execFenceSv_lands (s : State) (hs : WfIf p s.mem) : Lands p (execFenceSv s) := by
  unfold execFenceSv
  simp [hs]

@[simp] theorem execFenceVs_lands (s : State) (hs : WfIf p s.mem) : Lands p (execFenceVs s) := by
  unfold execFenceVs
  simp [hs]

@[simp] theorem execVdrain_lands (s : State) (hs : WfIf p s.mem) : Lands p (execVdrain s) := by
  unfold execVdrain
  simp [hs]

@[simp] theorem execFence_lands (s : State) (hs : WfIf p s.mem) : Lands p (execFence s) := by
  refine unchained_lands _ _ hs fun s hs => ?_
  dsimp only
  split <;> simp [hs]

@[simp] theorem privileged_lands (s : State) (k : State → Res) (hs : WfIf p s.mem)
    (hk : ∀ t : State, WfIf p t.mem → Lands p (k t)) : Lands p (privileged s k) := by
  refine unchained_lands _ _ hs fun s hs => ?_
  split
  · simp [hs]
  · exact hk s hs

@[simp] theorem execHalt_lands (s : State) (hs : WfIf p s.mem) : Lands p (execHalt s) :=
  privileged_lands _ _ hs fun s hs => by simp [hs]

@[simp] theorem execEret_lands (s : State) (hs : WfIf p s.mem) : Lands p (execEret s) :=
  privileged_lands _ _ hs fun s hs => by simp [hs]

@[simp] theorem execIll_lands (s : State) (hs : WfIf p s.mem) : Lands p (execIll s) :=
  unchained_lands _ _ hs fun s hs => by simp [hs]

@[simp] theorem execTrap_lands (imm : BitVec 16) (s : State) (hs : WfIf p s.mem) : Lands p (execTrap imm s) :=
  unchained_lands _ _ hs fun s hs => by simp [hs]

@[simp] theorem passTime_mem (s : State) : (passTime s).mem = s.mem := by rfl

@[simp] theorem execSrr_lands (d : Reg) (n : BitVec 12) (s : State) (hs : WfIf p s.mem) :
    Lands p (execSrr d n s) := by
  refine unchained_lands _ _ hs fun s hs => ?_
  dsimp only
  (repeat' split) <;> simp [hs]

@[simp] theorem execSrw_lands (a : Reg) (n : BitVec 12) (s : State) (hs : WfIf p s.mem) :
    Lands p (execSrw a n s) := by
  refine unchained_lands _ _ hs fun s hs => ?_
  dsimp only
  (repeat' split) <;> simp [hs]

@[simp] theorem execTlbinv_lands (a b : Reg) (s : State) (hs : WfIf p s.mem) : Lands p (execTlbinv a b s) := by
  refine privileged_lands _ _ hs fun s hs => ?_
  dsimp only
  split <;> simp [hs]

@[simp] theorem skipMember_lands (s : State) (g : Chain) (ci co : Bool) (hs : WfIf p s.mem) :
    Lands p (skipMember s g ci co) := by
  unfold skipMember
  (repeat' split) <;> simp [hs]

@[simp] theorem execStagePrefix_lands (b : BitVec 3) (s : State) (hs : WfIf p s.mem) : Lands p
    (execStagePrefix b s) := by
  unfold execStagePrefix
  dsimp only
  (repeat' split) <;> simp [hs]

@[simp] theorem execFetchFault_lands (s : State) (hs : WfIf p s.mem) : Lands p (execFetchFault s) := by
  unfold execFetchFault
  split <;> simp [hs]

@[simp] theorem execUnallocatedEncoding_lands (s : State) (hs : WfIf p s.mem) : Lands p
    (execUnallocatedEncoding s) := by
  unfold execUnallocatedEncoding
  dsimp only
  split
  · exact (lands_next _).mpr (illegal_wfIf _ hs)
  · exact (lands_next _).mpr (illegal_wfIf _ hs)

/-! Operands. -/

@[simp] theorem vaEnter_lands (s : State) (o : VAOps) (regs : List Reg) (ok rounds : Bool) (k : Nat → Res)
    (hs : WfIf p s.mem) (hk : ∀ rm, Lands p (k rm)) : Lands p (vaEnter s o regs ok rounds k) := by
  have hr : Lands p (match roundingMode s.me o.rm with | none => .next (illegal s) | some rm => k rm) := by
    split
    · simp [hs]
    · exact hk _
  have h (known broken : Bool) : Lands p (if !known then .next (vconfTrap s) else if broken then .next (chainTrap s)
      else if !ok then .next (vconfTrap s)
      else if rounds then
    (match roundingMode s.me o.rm with | none => .next (illegal s) | some rm => k rm) else k 0) := by
    cases known <;> cases broken <;> cases ok <;> cases rounds <;> simp [hs, hr, hk]
  exact h _ _

@[simp] theorem vaFinish_lands (s : State) (o : VAOps) (tile : Bytes) (whole : List Nat) (g : Flags)
    (marks : List (Nat × Bool)) (hs : WfIf p s.mem) :
    Lands p (vaFinish s o tile whole g marks) := by
  unfold vaFinish
  split <;> split <;> simp [hs]

@[simp] theorem vaElementwise_lands (s : State) (o : VAOps) (vs useZ useW rounds : Bool)
    (f : Nat → Nat → Nat → Nat → Nat × Flags) (hs : WfIf p s.mem) :
    Lands p (vaElementwise s o vs useZ useW rounds f) := by
  unfold vaElementwise
  simp [hs]

/-! VecArith. -/

@[simp] theorem execVadd_lands (o : VAOps) (s : State) (hs : WfIf p s.mem) : Lands p (execVadd o s) := by
  unfold execVadd
  simp [hs]

@[simp] theorem execVsub_lands (o : VAOps) (s : State) (hs : WfIf p s.mem) : Lands p (execVsub o s) := by
  unfold execVsub
  simp [hs]

@[simp] theorem execVmul_lands (o : VAOps) (s : State) (hs : WfIf p s.mem) : Lands p (execVmul o s) := by
  unfold execVmul
  simp [hs]

@[simp] theorem execVfma_lands (o : VAOps) (s : State) (hs : WfIf p s.mem) : Lands p (execVfma o s) := by
  unfold execVfma
  simp [hs]

@[simp] theorem execVfms_lands (o : VAOps) (s : State) (hs : WfIf p s.mem) : Lands p (execVfms o s) := by
  unfold execVfms
  simp [hs]

@[simp] theorem execVdiv_lands (o : VAOps) (s : State) (hs : WfIf p s.mem) : Lands p (execVdiv o s) := by
  unfold execVdiv
  simp [hs]

@[simp] theorem execVsqrt_lands (o : VAOps) (s : State) (hs : WfIf p s.mem) : Lands p (execVsqrt o s) := by
  unfold execVsqrt
  simp [hs]

@[simp] theorem execVrsq_lands (o : VAOps) (s : State) (hs : WfIf p s.mem) : Lands p (execVrsq o s) := by
  unfold execVrsq
  simp [hs]

@[simp] theorem execVexp2_lands (o : VAOps) (s : State) (hs : WfIf p s.mem) : Lands p (execVexp2 o s) := by
  unfold execVexp2
  simp [hs]

@[simp] theorem execVmin_lands (o : VAOps) (s : State) (hs : WfIf p s.mem) : Lands p (execVmin o s) := by
  unfold execVmin
  simp [hs]

@[simp] theorem execVmax_lands (o : VAOps) (s : State) (hs : WfIf p s.mem) : Lands p (execVmax o s) := by
  unfold execVmax
  simp [hs]

@[simp] theorem execVabs_lands (o : VAOps) (s : State) (hs : WfIf p s.mem) : Lands p (execVabs o s) := by
  unfold execVabs
  simp [hs]

@[simp] theorem execVneg_lands (o : VAOps) (s : State) (hs : WfIf p s.mem) : Lands p (execVneg o s) := by
  unfold execVneg
  simp [hs]

@[simp] theorem execVand_lands (o : VAOps) (s : State) (hs : WfIf p s.mem) : Lands p (execVand o s) := by
  unfold execVand
  simp [hs]

@[simp] theorem execVor_lands (o : VAOps) (s : State) (hs : WfIf p s.mem) : Lands p (execVor o s) := by
  unfold execVor
  simp [hs]

@[simp] theorem execVxor_lands (o : VAOps) (s : State) (hs : WfIf p s.mem) : Lands p (execVxor o s) := by
  unfold execVxor
  simp [hs]

@[simp] theorem execVshl_lands (o : VAOps) (s : State) (hs : WfIf p s.mem) : Lands p (execVshl o s) := by
  unfold execVshl
  simp [hs]

@[simp] theorem execVshr_lands (o : VAOps) (s : State) (hs : WfIf p s.mem) : Lands p (execVshr o s) := by
  unfold execVshr
  simp [hs]

@[simp] theorem execVsra_lands (o : VAOps) (s : State) (hs : WfIf p s.mem) : Lands p (execVsra o s) := by
  unfold execVsra
  simp [hs]

@[simp] theorem execVclmul_lands (o : VAOps) (s : State) (hs : WfIf p s.mem) : Lands p (execVclmul o s) := by
  unfold execVclmul
  simp [hs]

@[simp] theorem execVaddVs_lands (o : VAOps) (s : State) (hs : WfIf p s.mem) : Lands p (execVaddVs o s) := by
  unfold execVaddVs
  simp [hs]

@[simp] theorem execVsubVs_lands (o : VAOps) (s : State) (hs : WfIf p s.mem) : Lands p (execVsubVs o s) := by
  unfold execVsubVs
  simp [hs]

@[simp] theorem execVmulVs_lands (o : VAOps) (s : State) (hs : WfIf p s.mem) : Lands p (execVmulVs o s) := by
  unfold execVmulVs
  simp [hs]

@[simp] theorem execVfmaVs_lands (o : VAOps) (s : State) (hs : WfIf p s.mem) : Lands p (execVfmaVs o s) := by
  unfold execVfmaVs
  simp [hs]

@[simp] theorem execVfmsVs_lands (o : VAOps) (s : State) (hs : WfIf p s.mem) : Lands p (execVfmsVs o s) := by
  unfold execVfmsVs
  simp [hs]

@[simp] theorem execVdivVs_lands (o : VAOps) (s : State) (hs : WfIf p s.mem) : Lands p (execVdivVs o s) := by
  unfold execVdivVs
  simp [hs]

@[simp] theorem execVminVs_lands (o : VAOps) (s : State) (hs : WfIf p s.mem) : Lands p (execVminVs o s) := by
  unfold execVminVs
  simp [hs]

@[simp] theorem execVmaxVs_lands (o : VAOps) (s : State) (hs : WfIf p s.mem) : Lands p (execVmaxVs o s) := by
  unfold execVmaxVs
  simp [hs]

@[simp] theorem execVandVs_lands (o : VAOps) (s : State) (hs : WfIf p s.mem) : Lands p (execVandVs o s) := by
  unfold execVandVs
  simp [hs]

@[simp] theorem execVorVs_lands (o : VAOps) (s : State) (hs : WfIf p s.mem) : Lands p (execVorVs o s) := by
  unfold execVorVs
  simp [hs]

@[simp] theorem execVxorVs_lands (o : VAOps) (s : State) (hs : WfIf p s.mem) : Lands p (execVxorVs o s) := by
  unfold execVxorVs
  simp [hs]

@[simp] theorem execVshlVs_lands (o : VAOps) (s : State) (hs : WfIf p s.mem) : Lands p (execVshlVs o s) := by
  unfold execVshlVs
  simp [hs]

@[simp] theorem execVshrVs_lands (o : VAOps) (s : State) (hs : WfIf p s.mem) : Lands p (execVshrVs o s) := by
  unfold execVshrVs
  simp [hs]

@[simp] theorem execVsraVs_lands (o : VAOps) (s : State) (hs : WfIf p s.mem) : Lands p (execVsraVs o s) := by
  unfold execVsraVs
  simp [hs]

@[simp] theorem execVclmulVs_lands (o : VAOps) (s : State) (hs : WfIf p s.mem) : Lands p (execVclmulVs o s) := by
  unfold execVclmulVs
  simp [hs]

@[simp] theorem dotWith_lands (s : State) (o : VAOps) (vs : Bool) (hs : WfIf p s.mem) : Lands p (dotWith s o vs) := by
  unfold dotWith
  simp [hs]

@[simp] theorem execVdot_lands (o : VAOps) (s : State) (hs : WfIf p s.mem) : Lands p (execVdot o s) := by
  unfold execVdot
  simp [hs]

@[simp] theorem execVdotVs_lands (o : VAOps) (s : State) (hs : WfIf p s.mem) : Lands p (execVdotVs o s) := by
  unfold execVdotVs
  simp [hs]

@[simp] theorem execVhad_lands (o : VAOps) (s : State) (hs : WfIf p s.mem) : Lands p (execVhad o s) := by
  unfold execVhad
  simp [hs]

@[simp] theorem execVcvt_lands (o : VAOps) (s : State) (hs : WfIf p s.mem) : Lands p (execVcvt o s) := by
  unfold execVcvt
  simp [hs]

/-! VecCross. -/

@[simp] theorem vcMap_lands (s : State) (o : VAOps) (regs : List Reg) (cross : Bool) (f : Nat → Nat)
    (hs : WfIf p s.mem) :
    Lands p (vcMap s o regs cross f) := by
  unfold vcMap
  simp [hs]

@[simp] theorem execVsel_lands (o : VAOps) (s : State) (hs : WfIf p s.mem) : Lands p (execVsel o s) := by
  unfold execVsel
  simp [hs]

@[simp] theorem execVmv_lands (o : VAOps) (s : State) (hs : WfIf p s.mem) : Lands p (execVmv o s) := by
  unfold execVmv
  simp [hs]

@[simp] theorem execVbcast_lands (o : VAOps) (s : State) (hs : WfIf p s.mem) : Lands p (execVbcast o s) := by
  unfold execVbcast
  simp [hs]

@[simp] theorem execVslide_lands (o : VAOps) (s : State) (hs : WfIf p s.mem) : Lands p (execVslide o s) := by
  unfold execVslide
  simp [hs]

@[simp] theorem execVperm_lands (o : VAOps) (s : State) (hs : WfIf p s.mem) : Lands p (execVperm o s) := by
  unfold execVperm
  simp [hs]

@[simp] theorem execViota_lands (o : VAOps) (s : State) (hs : WfIf p s.mem) : Lands p (execViota o s) := by
  unfold execViota
  simp [hs]

@[simp] theorem execVcmp_lands (o : VAOps) (s : State) (hs : WfIf p s.mem) : Lands p (execVcmp o s) := by
  unfold execVcmp
  simp [hs]

@[simp] theorem execVred_lands (o : VAOps) (s : State) (hs : WfIf p s.mem) : Lands p (execVred o s) := by
  unfold execVred
  simp [hs]

@[simp] theorem maskEnter_lands (s : State) (k : Hart → Res) (hs : WfIf p s.mem) (hk : ∀ x, Lands p (k x)) :
    Lands p (maskEnter s k) := by
  unfold maskEnter
  split
  · simp [hs]
  · exact unchained_lands _ _ hs fun u _ => hk u.me

@[simp] theorem maskWrite_lands (s : State) (d : Reg) (f : Hart → Nat → Bool) (hs : WfIf p s.mem) :
    Lands p (maskWrite s d f) := by
  unfold maskWrite
  simp [hs]

@[simp] theorem maskRead_lands (s : State) (d a : Reg) (f : List Nat → Word) (hs : WfIf p s.mem) :
    Lands p (maskRead s d a f) := by
  unfold maskRead
  simp [hs]

@[simp] theorem execMand_lands (d a b : Reg) (s : State) (hs : WfIf p s.mem) : Lands p (execMand d a b s) := by
  unfold execMand
  simp [hs]

@[simp] theorem execMor_lands (d a b : Reg) (s : State) (hs : WfIf p s.mem) : Lands p (execMor d a b s) := by
  unfold execMor
  simp [hs]

@[simp] theorem execMxor_lands (d a b : Reg) (s : State) (hs : WfIf p s.mem) : Lands p (execMxor d a b s) := by
  unfold execMxor
  simp [hs]

@[simp] theorem execMnot_lands (d a : Reg) (s : State) (hs : WfIf p s.mem) : Lands p (execMnot d a s) := by
  unfold execMnot
  simp [hs]

@[simp] theorem execMset_lands (d a : Reg) (s : State) (hs : WfIf p s.mem) : Lands p (execMset d a s) := by
  unfold execMset
  simp [hs]

@[simp] theorem execMmov_lands (d a : Reg) (s : State) (hs : WfIf p s.mem) : Lands p (execMmov d a s) := by
  unfold execMmov
  simp [hs]

@[simp] theorem execMpop_lands (d a : Reg) (s : State) (hs : WfIf p s.mem) : Lands p (execMpop d a s) := by
  unfold execMpop
  simp [hs]

@[simp] theorem execMfirst_lands (d a : Reg) (s : State) (hs : WfIf p s.mem) : Lands p (execMfirst d a s) := by
  unfold execMfirst
  simp [hs]

/-! VecConfig. -/

theorem asHart_lands {s : State} {h : Nat} {k : State → Res} (hk : Lands p (k { s with cur := h })) :
    Lands p (asHart s h k) := by
  obtain ⟨t, e, ht⟩ := hk
  simp [asHart, e, ht]

@[simp] theorem unconfigure_mem (s : State) (h : Nat) : (unconfigure s h).mem = s.mem := by rfl

@[simp] theorem execVcfg_lands (count : BitVec 2) (shares : BitVec 3) (ew : BitVec 2) (s : State)
    (hs : WfIf p s.mem) :
    Lands p (execVcfg count shares ew s) := by
  refine unchained_lands _ _ hs fun s hs => ?_
  dsimp only
  (repeat' split) <;> simp [hs]

@[simp] theorem execShareGrant_lands (core : Nat) (s : State) (hs : WfIf p s.mem) :
    Lands p (execShareGrant core s) := by
  unfold execShareGrant
  split
  · exact (lands_next s).mpr hs
  · split
    · split
      · exact asHart_lands (execVcfg_lands _ _ _ _ hs)
      · exact (lands_next s).mpr hs
    · exact (lands_next s).mpr hs

@[simp] theorem execVsetl_lands (d a : Reg) (s : State) (hs : WfIf p s.mem) : Lands p (execVsetl d a s) := by
  refine unchained_lands _ _ hs fun s hs => ?_
  split <;> simp [hs]

@[simp] theorem execVsetr_lands (d a : Reg) (s : State) (hs : WfIf p s.mem) : Lands p (execVsetr d a s) := by
  refine unchained_lands _ _ hs fun s hs => ?_
  split <;> simp [hs]

@[simp] theorem execVrel_lands (s : State) (hs : WfIf p s.mem) : Lands p (execVrel s) := by
  refine unchained_lands _ _ hs fun s hs => ?_
  (repeat' split) <;> simp [hs]

@[simp] theorem gangStatus_mem (s : State) (h : Nat) (v : Word) : (gangStatus s h v).mem = s.mem := by
  unfold gangStatus
  dsimp only
  split <;> simp

@[simp] theorem execGang_lands (d a : Reg) (s : State) (hs : WfIf p s.mem) : Lands p (execGang d a s) := by
  refine unchained_lands _ _ hs fun s hs => ?_
  dsimp only
  split
  · simp [hs]
  · split
    · simp [hs]
    · split
      · simp [hs]
      · split
        · simp [hs]
        · split
          · exact (lands_next _).mpr (foldl_wfIf (fun s e h => leaveWith_wfIf _ _ _ h) (by simp [hs]) _)
          · split
            · exact (lands_next _).mpr (foldl_wfIf (fun s e h => by simp [h]) (by simp [hs]) _)
            · simp [hs]

@[simp] theorem execGangTimeout_lands (h : Nat) (s : State) (hs : WfIf p s.mem) : Lands p (execGangTimeout h s) := by
  unfold execGangTimeout
  (repeat' split) <;> simp [hs]

/-! VecMem. -/

theorem withTokens_lands {s : State} {set : BitVec 8} {k : State → Res}
    (hk : ∀ t : State, WfIf p t.mem → Lands p (k t)) (hs : WfIf p s.mem) : Lands p (withTokens s set k) := by
  unfold withTokens
  split
  · split <;> exact hk _ (by simp [hs])
  · simp [hs]

@[simp] theorem vmEnter_lands (s : State) (o : VMOps) (regs : List Reg) (ok : Bool) (k : State → Res)
    (hs : WfIf p s.mem)
    (hk : ∀ t : State, WfIf p t.mem → Lands p (k t)) : Lands p (vmEnter s o regs ok k) := by
  unfold vmEnter
  split
  · simp [hs]
  · refine unchained_lands _ _ hs fun t ht => ?_
    split
    · simp [ht]
    · exact withTokens_lands hk ht

@[simp] theorem endAccess_lands (s : State) (e : Ending) (addr : Nat → Nat) (hs : WfIf p s.mem) :
    Lands p (endAccess s e addr) := by
  cases e with
  | complete => simp [endAccess, hs]
  | trimmed f => simp [endAccess, hs]
  | trapped f c => exact (lands_next _).mpr (trap_wfIf _ _ _ hs)

@[simp] theorem touchAll_mem (s : State) (k : Access) (addr : Nat → Nat) (l : List Nat) :
    (touchAll s k addr l).mem = s.mem := by
  unfold touchAll
  refine foldl_mem (fun s e => ?_) _ _
  dsimp only
  split <;> simp

@[simp] theorem touchEnd_mem (s : State) (e : Ending) (addr : Nat → Nat) : (touchEnd s e addr).mem = s.mem := by
  unfold touchEnd
  split <;> simp

@[simp] theorem enqueueEach_mem (s : State) (q : List (List Pending)) : (enqueueEach s q).mem = s.mem := by
  unfold enqueueEach
  simp

@[simp] theorem enqueueAll_mem (s : State) (q : List (List Pending)) : (enqueueAll s q).mem = s.mem := by
  unfold enqueueAll
  simp

/-- What a vector access that leaves its elements to the queue does. -/
theorem vectorLater_lands {s : State} {k : Access} {l : List Nat} {addr : Nat → Nat} {chk : Nat → Except Nat Resolved}
    {trimmable : Nat → Bool} {f : Nat → Place → Pending} {r : Res} (hs : WfIf p s.mem)
    (h : vectorLater s k l addr chk trimmable f = some r) : Lands p r := by
  unfold vectorLater at h
  dsimp only at h
  split at h
  · cases h
  · split at h
    · cases h
    · split at h
      · cases h
        simp [hs]
      · cases h

@[simp] theorem caughtUp_lands (s : State) (store : Bool) (k : State → Res) (hs : WfIf p s.mem)
    (hk : ∀ (x0 : State), WfIf p x0.mem → Lands p (k x0)) :
    Lands p (caughtUp s store k) := by
  unfold caughtUp
  split <;> simp [hs, hk]

theorem foldl_keeps {α β : Type} {P : β → Prop} {f : β → α → β} (hf : ∀ b a, P b → P (f b a)) {b : β} (h : P b)
    (l : List α) : P (l.foldl f b) := by
  induction l generalizing b with
  | nil => exact h
  | cons a r ih => exact ih (hf b a h)

@[simp] theorem readElements_mem (s : State) (n : Nat) (chk : Nat → Except Nat Resolved) (l : List Nat) :
    (readElements s n chk l).2.mem = s.mem :=
  foldl_keeps (P := fun r : List (Nat × List Byte) × State => r.2.mem = s.mem) (fun r t h => by
    dsimp only
    split
    · exact (readAccess_mem _ _ _ _).trans h
    · exact h) rfl l

@[simp] theorem vectorLoadNow_lands (s : State) (d : Nat) (l : List Nat) (b : Nat) (addr : Nat → Nat)
    (trimmable : Nat → Bool) (hs : WfIf p s.mem) : Lands p (vectorLoadNow s d l b addr trimmable) := by
  unfold vectorLoadNow
  exact endAccess_lands _ _ _ (by simp [hs])

@[simp] theorem vectorLoad_lands (s : State) (d : Nat) (l : List Nat) (b : Nat) (addr : Nat → Nat)
    (trimmable : Nat → Bool) (hs : WfIf p s.mem) : Lands p (vectorLoad s d l b addr trimmable) := by
  unfold vectorLoad
  split
  · next h => exact vectorLater_lands hs h
  · exact caughtUp_lands _ _ _ hs fun t ht => vectorLoadNow_lands _ _ _ _ _ _ ht

@[simp] theorem clearCovered_mem (s : State) (runs : List (Nat × Nat)) : (clearCovered s runs).mem = s.mem := by
  unfold clearCovered
  split <;> simp

@[simp] theorem writeAll_wfIf (s : State) (l : List (Place × List Byte)) (hs : WfIf p s.mem) :
    WfIf p (writeAll s l).mem := by
  simp only [writeAll, clearCovered_mem]
  exact foldl_wfIf (fun s e h => storePlace_wfIf s e.1 e.2 h) hs l

@[simp] theorem writeOwn_wfIf (s : State) (l : List (Resolved × List Byte)) (hs : WfIf p s.mem) :
    WfIf p (writeOwn s l).mem := by
  simp only [writeOwn]
  split <;> simp [hs]

@[simp] theorem vectorStoreNow_lands (s : State) (l : List Nat) (b : Nat) (addr : Nat → Nat)
    (bytes : Nat → List Byte) (trimmable : Nat → Bool) (hs : WfIf p s.mem) :
    Lands p (vectorStoreNow s l b addr bytes trimmable) := by
  unfold vectorStoreNow
  simp [hs]

@[simp] theorem vectorStore_lands (s : State) (l : List Nat) (b : Nat) (addr : Nat → Nat) (bytes : Nat → List Byte)
    (trimmable : Nat → Bool) (hs : WfIf p s.mem) : Lands p (vectorStore s l b addr bytes trimmable) := by
  unfold vectorStore
  split
  · next h => exact vectorLater_lands hs h
  · exact caughtUp_lands _ _ _ hs fun t ht => vectorStoreNow_lands _ _ _ _ _ _ ht

@[simp] theorem loadForm_lands (s : State) (o : VMOps) (regs : List Reg) (addr : Hart → VMOps → Nat → Nat)
    (trimmable : Nat → Bool) (hs : WfIf p s.mem) :
    Lands p (loadForm s o regs addr trimmable) :=
  vmEnter_lands _ _ _ _ _ hs fun s hs => by simp [hs]

@[simp] theorem storeForm_lands (s : State) (o : VMOps) (regs : List Reg) (addr : Hart → VMOps → Nat → Nat)
    (hs : WfIf p s.mem) :
    Lands p (storeForm s o regs addr) :=
  vmEnter_lands _ _ _ _ _ hs fun s hs => by simp [hs]

@[simp] theorem execVld_lands (o : VMOps) (s : State) (hs : WfIf p s.mem) : Lands p (execVld o s) := by
  unfold execVld
  simp [hs]

@[simp] theorem execVlds_lands (o : VMOps) (s : State) (hs : WfIf p s.mem) : Lands p (execVlds o s) := by
  unfold execVlds
  simp [hs]

@[simp] theorem execVldx_lands (o : VMOps) (s : State) (hs : WfIf p s.mem) : Lands p (execVldx o s) := by
  unfold execVldx
  simp [hs]

@[simp] theorem execVldff_lands (o : VMOps) (s : State) (hs : WfIf p s.mem) : Lands p (execVldff o s) := by
  unfold execVldff
  simp [hs]

@[simp] theorem execVst_lands (o : VMOps) (s : State) (hs : WfIf p s.mem) : Lands p (execVst o s) := by
  unfold execVst
  simp [hs]

@[simp] theorem execVsts_lands (o : VMOps) (s : State) (hs : WfIf p s.mem) : Lands p (execVsts o s) := by
  unfold execVsts
  simp [hs]

@[simp] theorem execVstx_lands (o : VMOps) (s : State) (hs : WfIf p s.mem) : Lands p (execVstx o s) := by
  unfold execVstx
  simp [hs]

@[simp] theorem execVpref_lands (o : VMOps) (s : State) (hs : WfIf p s.mem) : Lands p (execVpref o s) := by
  refine vmEnter_lands _ _ _ _ _ hs fun s hs => ?_
  refine (lands_next _).mpr ?_
  simp only [finish_mem]
  exact foldl_wfIf (fun s e h => by split <;> simp [h]) hs _

@[simp] theorem vamoNow_lands (o : VMOps) (s : State) (hs : WfIf p s.mem) : Lands p (vamoNow o s) := by
  unfold vamoNow
  refine endAccess_lands _ _ _ ?_
  exact foldl_keeps (P := fun r : State × Bytes × Flags => WfIf p r.1.mem) (fun r t h => by
    dsimp only
    split
    · exact h
    · exact atomicAccess_wfIf _ _ _ _ h) (by simp [hs]) _

@[simp] theorem execVamo_lands (o : VMOps) (s : State) (hs : WfIf p s.mem) : Lands p (execVamo o s) := by
  refine vmEnter_lands _ _ _ _ _ hs fun s hs => ?_
  dsimp only
  split
  · next h => exact vectorLater_lands hs h
  · exact caughtUp_lands _ _ _ hs fun t ht => vamoNow_lands _ _ ht

@[simp] theorem vlockNow_lands (o : VMOps) (s : State) (hs : WfIf p s.mem) : Lands p (vlockNow o s) := by
  unfold vlockNow
  refine endAccess_lands _ _ _ ?_
  exact foldl_keeps (P := fun r : State × List (Nat × Bool × Bool) => WfIf p r.1.mem) (fun r t h => by
    dsimp only
    split
    · exact h
    · exact atomicAccess_wfIf _ _ _ _ h) (by simp [hs]) _

@[simp] theorem execVlock_lands (o : VMOps) (s : State) (hs : WfIf p s.mem) : Lands p (execVlock o s) := by
  refine vmEnter_lands _ _ _ _ _ hs fun s hs => ?_
  dsimp only
  split
  · exact endAccess_lands _ _ _ (by simp [hs])
  · exact caughtUp_lands _ _ _ hs fun t ht => vlockNow_lands _ _ ht

@[simp] theorem execVunlock_lands (o : VMOps) (s : State) (hs : WfIf p s.mem) : Lands p (execVunlock o s) := by
  refine vmEnter_lands _ _ _ _ _ hs fun s hs => ?_
  dsimp only
  split
  · simp [hs]
  · refine caughtUp_lands _ _ _ hs fun s hs => endAccess_lands _ _ _ ?_
    exact foldl_wfIf (fun s e h => by split <;> simp [h]) (by simp [hs]) _

@[simp] theorem stashEnter_lands (s : State) (o : VMOps) (k : State → Res) (hs : WfIf p s.mem)
    (hk : ∀ t : State, WfIf p t.mem → Lands p (k t)) : Lands p (stashEnter s o k) :=
  unchained_lands _ _ hs fun _ ht => withTokens_lands (fun _ ht => caughtUp_lands _ _ _ ht fun t ht => by
    split
    · exact hk _ (performAll_wfIf _ ht)
    · simp [ht]) ht

@[simp] theorem execStmap_lands (o : VMOps) (s : State) (hs : WfIf p s.mem) : Lands p (execStmap o s) := by
  refine stashEnter_lands _ _ _ hs fun s hs => ?_
  dsimp only
  (repeat' split) <;> simp [hs]

@[simp] theorem execStwb_lands (o : VMOps) (s : State) (hs : WfIf p s.mem) : Lands p (execStwb o s) := by
  refine stashEnter_lands _ _ _ hs fun s hs => ?_
  split <;> simp [hs]

@[simp] theorem stashSpill_wfIf (s : State) (c : Nat) (e : Stash) (hs : WfIf p s.mem) :
    WfIf p (stashSpill s c e).mem := by
  unfold stashSpill
  exact foldl_wfIf (fun s e h => by simp [h]) hs _

@[simp] theorem execStunmap_lands (o : VMOps) (s : State) (hs : WfIf p s.mem) : Lands p (execStunmap o s) := by
  refine stashEnter_lands _ _ _ hs fun s hs => ?_
  split <;> simp [hs]

/-! Matrix. -/

@[simp] theorem matrixEnter_lands (s : State) (cfg : Bool) (regs : List Reg) (ok : Bool) (slots banks : List Nat)
    (wait : BitVec 8) (k : State → Res) (hs : WfIf p s.mem) (hk : ∀ t : State, WfIf p t.mem → Lands p (k t)) :
    Lands p (matrixEnter s cfg regs ok slots banks wait k) := by
  unfold matrixEnter
  split
  · simp [hs]
  · refine unchained_lands _ _ hs fun t ht => ?_
    split
    · simp [ht]
    · split
      · simp [ht]
      · split
        · simp [ht]
        · exact withTokens_lands hk ht

@[simp] theorem execOclaim_lands (o : VMOps) (s : State) (hs : WfIf p s.mem) : Lands p (execOclaim o s) := by
  unfold execOclaim
  simp [hs]

@[simp] theorem releaseSlot_mem (s : State) (h n : Nat) : (releaseSlot s h n).mem = s.mem := by
  unfold releaseSlot
  split <;> rfl

@[simp] theorem execOrel_lands (o : VMOps) (s : State) (hs : WfIf p s.mem) : Lands p (execOrel o s) := by
  unfold execOrel
  simp [hs]

@[simp] theorem oldvNow_lands (o : VMOps) (s : State) (hs : WfIf p s.mem) : Lands p (oldvNow o s) := by
  unfold oldvNow
  exact endAccess_lands _ _ _ (by simp [hs])

@[simp] theorem execOldv_lands (o : VMOps) (s : State) (hs : WfIf p s.mem) : Lands p (execOldv o s) := by
  unfold execOldv
  refine matrixEnter_lands _ _ _ _ _ _ _ _ hs fun s hs => ?_
  split
  · next h => exact vectorLater_lands hs h
  · exact caughtUp_lands _ _ _ hs fun t ht => oldvNow_lands _ _ ht

@[simp] theorem setBank_mem (s : State) (h b : Nat) (m : SMap (BitVec 48)) (ovf : Bool) :
    (setBank s h b m ovf).mem = s.mem := by
  rfl

@[simp] theorem execOpa_lands (o : VMOps) (s : State) (hs : WfIf p s.mem) : Lands p (execOpa o s) := by
  unfold execOpa
  simp [hs]

@[simp] theorem execAclaim_lands (o : VMOps) (s : State) (hs : WfIf p s.mem) : Lands p (execAclaim o s) := by
  unfold execAclaim
  simp [hs]

@[simp] theorem releaseBank_mem (s : State) (h b : Nat) : (releaseBank s h b).mem = s.mem := by
  unfold releaseBank
  split <;> rfl

@[simp] theorem execArel_lands (o : VMOps) (s : State) (hs : WfIf p s.mem) : Lands p (execArel o s) := by
  unfold execArel
  simp [hs]

@[simp] theorem execAclr_lands (o : VMOps) (s : State) (hs : WfIf p s.mem) : Lands p (execAclr o s) := by
  unfold execAclr
  simp [hs]

@[simp] theorem execAxt_lands (o : VMOps) (s : State) (hs : WfIf p s.mem) : Lands p (execAxt o s) := by
  unfold execAxt
  refine matrixEnter_lands _ _ _ _ _ _ _ _ hs fun s hs => ?_
  split
  · simp [hs]
  · exact withTokens_lands (fun s hs => by simp [hs]) hs

@[simp] theorem touchImage_mem (s : State) (k : Access) (sa : Word) : (touchImage s k sa).mem = s.mem := by
  unfold touchImage
  simp

@[simp] theorem imageStore_wfIf (s : State) (ordered : Bool) (image : List Byte) (l : List Place)
    (hs : WfIf p s.mem) :
    WfIf p (imageStore s ordered image l).mem := by
  unfold imageStore
  split
  · exact foldl_wfIf (fun s e h => by simp [h]) (by simp [hs]) _
  · simp [hs]

@[simp] theorem execAsave_lands (o : VMOps) (s : State) (hs : WfIf p s.mem) : Lands p (execAsave o s) := by
  unfold execAsave
  refine matrixEnter_lands _ _ _ _ _ _ _ _ hs fun s hs => ?_
  dsimp only
  split
  · simp [hs]
  · split
    · simp [hs]
    · exact caughtUp_lands _ _ _ (by simp [hs]) fun s hs => by simp [hs]

@[simp] theorem execAload_lands (o : VMOps) (s : State) (hs : WfIf p s.mem) : Lands p (execAload o s) := by
  unfold execAload
  refine matrixEnter_lands _ _ _ _ _ _ _ _ hs fun s hs => ?_
  dsimp only
  split
  · simp [hs]
  · split
    · simp [hs]
    · exact caughtUp_lands _ _ _ (by simp [hs]) fun s hs => by simp [hs]

/-! Sync. -/

@[simp] theorem awake_mem (s : State) : (awake s).mem = s.mem := by rfl

@[simp] theorem endWait_lands (s : State) (hit : Bool) (poison : Option Nat) (met : Bool) (eval : Word)
    (k : State → Res)
    (hs : WfIf p s.mem) (hk : ∀ t : State, WfIf p t.mem → Lands p (k t)) :
    Lands p (endWait s hit poison met eval k) := by
  unfold endWait
  split
  · simp [hs]
  · split
    · simp [hs]
    · split <;> simp [hs, hk]

@[simp] theorem execWaitw_lands (v a m : Reg) (cc : BitVec 2) (sz : Bool) (code : BitVec 4) (s : State)
    (hs : WfIf p s.mem) : Lands p (execWaitw v a m cc sz code s) := by
  refine unchained_lands _ _ hs fun s hs => ?_
  split
  · exact endWait_lands _ _ _ _ _ _ hs fun t ht => by simp [ht]
  · dsimp only
    split
    · simp [hs]
    · split <;> simp [hs]

@[simp] theorem pbWrite_wfIf (s : State) (loc : Nat) (b : Barrier) (hs : WfIf p s.mem) :
    WfIf p (pbWrite s loc b).mem := by
  unfold pbWrite
  simp [hs]

@[simp] theorem applyHeld_mem (s : State) (h phase : Nat) : (applyHeld s h phase).mem = s.mem := by
  unfold applyHeld
  dsimp only
  split <;> simp

theorem pbSettle_wfIf (n : Nat) (s : State) (loc : Nat) (fresh : Bool) (hs : WfIf p s.mem) :
    WfIf p (pbSettle n s loc fresh).mem := by
  induction n generalizing s fresh with
  | zero => exact hs
  | succ n ih =>
    unfold pbSettle
    extract_lets b done u b'
    have hu : WfIf p u.mem := by
      simp only [u]
      split
      · exact pbWrite_wfIf _ _ _ hs
      · exact hs
    clear_value u
    split
    · split
      · exact hu
      · split
        · exact hu
        · split
          · exact ih _ _ (by simp [hu])
          · exact ih _ _ (by simp [hu])
    · exact hu

@[simp] theorem pbOperate_wfIf (s : State) (loc : Nat) (b : Barrier) (hs : WfIf p s.mem) :
    WfIf p (pbOperate s loc b).mem :=
  pbSettle_wfIf _ _ loc false (by simp [hs])

@[simp] theorem pbLand_wfIf (s : State) (loc k : Nat) (hs : WfIf p s.mem) : WfIf p (pbLand s loc k).mem := by
  unfold pbLand
  simp [hs]

@[simp] theorem pbEnter_lands (s : State) (a : Reg) (k : State → Nat → Res) (hs : WfIf p s.mem)
    (hk : ∀ (t : State) l, WfIf p t.mem → Lands p (k t l)) : Lands p (pbEnter s a k) := by
  refine unchained_lands _ _ hs fun s hs => ?_
  dsimp only
  split
  · simp [hs]
  · exact hk _ _ (by simp [hs])

@[simp] theorem execPbinit_lands (c a : Reg) (s : State) (hs : WfIf p s.mem) : Lands p (execPbinit c a s) := by
  refine pbEnter_lands _ _ _ hs fun s l hs => ?_
  dsimp only
  split <;> simp [hs]

@[simp] theorem execPbarr_lands (d a : Reg) (s : State) (hs : WfIf p s.mem) : Lands p (execPbarr d a s) := by
  unfold execPbarr
  split
  · simp [hs]
  · refine pbEnter_lands _ _ _ hs fun t l ht => ?_
    dsimp only
    split <;> simp [ht]

@[simp] theorem execPbexp_lands (b a : Reg) (s : State) (hs : WfIf p s.mem) : Lands p (execPbexp b a s) := by
  refine pbEnter_lands _ _ _ hs fun s l hs => ?_
  dsimp only
  split <;> simp [hs]

@[simp] theorem execPbwait_lands (q a : Reg) (code : BitVec 4) (s : State) (hs : WfIf p s.mem) :
    Lands p (execPbwait q a code s) := by
  unfold execPbwait
  split
  · exact endWait_lands _ _ _ _ _ _ hs fun t ht => by simp [ht]
  · refine pbEnter_lands _ _ _ hs fun t l ht => ?_
    dsimp only
    split <;> simp [ht]

@[simp] theorem endPoisoned_wfIf (s : State) (hs : WfIf p s.mem) : WfIf p (endPoisoned s).mem := by
  unfold endPoisoned
  exact foldl_wfIf (fun s e h => by (repeat' split) <;> simp [h]) hs _

@[simp] theorem sweepArmed_mem (s : State) : (sweepArmed s).mem = s.mem := by rfl

@[simp] theorem sweep_wfIf (s : State) (hs : WfIf p s.mem) : WfIf p (sweep s).mem := by
  unfold sweep
  simp [hs]

@[simp] theorem execWaitSatisfied_lands (h : Nat) (s : State) (hs : WfIf p s.mem) : Lands p
    (execWaitSatisfied h s) := by
  unfold execWaitSatisfied
  split
  · exact asHart_lands (endWait_lands _ _ _ _ _ _ hs fun t ht => (lands_next t).mpr ht)
  · exact asHart_lands (endWait_lands _ _ _ _ _ _ hs fun t ht => (lands_next t).mpr ht)
  · exact (lands_next s).mpr hs

@[simp] theorem execWatchPoll_lands (h : Nat) (s : State) (hs : WfIf p s.mem) : Lands p (execWatchPoll h s) := by
  unfold execWatchPoll
  split
  · exact asHart_lands (endWait_lands _ _ _ _ _ _ hs fun t ht => (lands_next t).mpr ht)
  · exact asHart_lands (endWait_lands _ _ _ _ _ _ hs fun t ht => (lands_next t).mpr ht)
  · exact (lands_next s).mpr hs

@[simp] theorem execPbwaitComplete_lands (h : Nat) (s : State) (hs : WfIf p s.mem) :
    Lands p (execPbwaitComplete h s) := by
  unfold execPbwaitComplete
  split
  · exact asHart_lands (endWait_lands _ _ _ _ _ _ hs fun t ht => (lands_next t).mpr ht)
  · exact (lands_next s).mpr hs

@[simp] theorem expire_lands (s : State) (h : Nat) (e : Word) (hs : WfIf p s.mem) : Lands p (expire s h e) :=
  asHart_lands ((lands_next _).mpr (trap_wfIf _ _ _ (by simp [hs])))

@[simp] theorem expireSpool_lands (s : State) (h q : Nat) (e : Word) (hs : WfIf p s.mem) : Lands p
    (expireSpool s h q e) :=
  asHart_lands ((lands_next _).mpr (takeTrap_wfIf _ _ _ _ _ _ _ (by simp [hs])))

@[simp] theorem execWaitBoundExpired_lands (h : Nat) (s : State) (hs : WfIf p s.mem) :
    Lands p (execWaitBoundExpired h s) := by
  unfold execWaitBoundExpired
  (repeat' split) <;> simp [hs]

/-! Jobs. -/

@[simp] theorem jobTrap_lands (s : State) (c va : Nat) (hs : WfIf p s.mem) : Lands p (jobTrap s c va) := by
  unfold jobTrap
  simp [hs]

@[simp] theorem touchRange_mem (s : State) (k : Access) (va n : Nat) : (touchRange s k va n).mem = s.mem := by
  unfold touchRange
  split <;> simp

@[simp] theorem noteSpan_mem (s : State) (p : Place) (n : Nat) : (noteSpan s p n).mem = s.mem := by
  unfold noteSpan
  split <;> simp

@[simp] theorem tagJob_mem (s : State) (id : Nat) (p : Place) (n : Nat) : (tagJob s id p n).mem = s.mem := by
  unfold tagJob
  (repeat' split) <;> rfl

@[simp] theorem jobTouch_mem (s : State) (tag : Nat) (c : Option Nat) (p : Place) (n : Nat) :
    (jobTouch s tag c p n).mem = s.mem := by
  unfold jobTouch
  split <;> simp

@[simp] theorem acceptJob_mem (s : State) (j : Job) : (acceptJob s j).mem = s.mem := by
  unfold acceptJob
  split <;> simp

@[simp] theorem copyEnter_lands (s : State) (o : VMOps) (k : State → Nat → Res) (hs : WfIf p s.mem)
    (hk : ∀ (t : State) n, WfIf p t.mem → Lands p (k t n)) : Lands p (copyEnter s o k) :=
  unchained_lands _ _ hs fun _ ht => withTokens_lands (fun _ ht => caughtUp_lands _ _ _ ht fun t ht => by
    dsimp only
    split
    · simp [ht]
    · exact hk _ _ ht) ht

@[simp] theorem execVcopy_lands (o : VMOps) (s : State) (hs : WfIf p s.mem) : Lands p (execVcopy o s) := by
  refine copyEnter_lands _ _ _ hs fun s t hs => ?_
  dsimp only
  split
  · simp [hs]
  · split
    · exact (lands_next _).mpr (illegal_wfIf _ hs)
    · split
      · simp [hs]
      · split
        · simp [hs]
        · split
          · simp [hs]
          · simp [hs]

@[simp] theorem vcopyxRun_lands (s : State) (o : VMOps) (t : Nat) (hs : WfIf p s.mem) :
    Lands p (vcopyxRun s o t) := by
  unfold vcopyxRun
  dsimp only
  (repeat' split) <;> simp [hs]

@[simp] theorem execVcopyx_lands (o : VMOps) (s : State) (hs : WfIf p s.mem) : Lands p (execVcopyx o s) := by
  unfold execVcopyx
  split
  · simp [hs]
  · refine unchained_lands _ _ hs fun _ ht => withTokens_lands (fun _ ht => caughtUp_lands _ _ _ ht fun t ht => ?_) ht
    dsimp only
    split
    · exact (lands_next _).mpr (vconfTrap_wfIf _ ht)
    · split <;> simp [ht]

@[simp] theorem countCollective_mem (s : State) (b : List Byte) : (countCollective s b).1.mem = s.mem := by
  unfold countCollective
  split <;> rfl

@[simp] theorem touchDescriptor_mem (s : State) (b : List Byte) : (touchDescriptor s b).mem = s.mem := by
  unfold touchDescriptor
  simp

@[simp] theorem issueDescriptor_lands (s : State) (t : Nat) (b : List Byte) (st : Place) (pb : Option Nat)
    (table src dst : List (Place × Nat)) (hs : WfIf p s.mem) :
    Lands p (issueDescriptor s t b st pb table src dst) := by
  simp [issueDescriptor, hs]

@[simp] theorem execVcopyJob_lands (o : VMOps) (s : State) (hs : WfIf p s.mem) : Lands p (execVcopyJob o s) := by
  refine copyEnter_lands _ _ _ hs fun s t hs => ?_
  dsimp only
  (repeat' split) <;> simp [hs]

@[simp] theorem setJob_mem (s : State) (j : Job) : (setJob s j).mem = s.mem := by rfl

@[simp] theorem jobView_wfIf (s : State) (j : Job) (hs : WfIf p s.mem) : WfIf p (jobView s j).mem := by
  unfold jobView
  split
  · exact hs
  · exact sets_wfIf _ _ hs

@[simp] theorem readAhead_mem (s : State) (j : Job) (n : Nat) : (readAhead s j n).mem = s.mem := by rfl

@[simp] theorem poisonBytes_mem (s : State) (q : Place) (l : List Carried) : (poisonBytes s q l).mem = s.mem := by
  cases q with
  | ram loc =>
    simp only [poisonBytes]
    split
    · rfl
    · exact foldl_mem (fun s e => by split <;> rfl) s _
  | _ => rfl

@[simp] theorem landAt_wfIf (s : State) (q : Place) (b : List Byte) (hs : WfIf p s.mem) : WfIf p
    (landAt s q b).mem := by
  cases q with
  | latch a | imsic a => exact foldl_wfIf (fun s i h => storePlace_wfIf s _ _ h) hs _
  | _ => simp [landAt, hs]

@[simp] theorem landBytes_wfIf (s : State) (j : Job) (dst : Place) (l : List Carried) (hs : WfIf p s.mem) :
    WfIf p (landBytes s j dst l).mem := by
  unfold landBytes
  split <;> split <;> simp (disch := simp [hs])

@[simp] theorem noteLanded_mem (s : State) (j : Job) (q : Place) (l : List Carried) :
    (noteLanded s j q l).1.mem = s.mem := by
  cases q with
  | ram loc => simp only [noteLanded]; split <;> rfl
  | _ => rfl

@[simp] theorem movePieces_wfIf (j : Job) (l : List Piece) (skip n : Nat) (s : State) (hs : WfIf p s.mem) :
    WfIf p (movePieces j l skip n s).mem := by
  induction l generalizing j skip n s with
  | nil => exact hs
  | cons q r ih =>
    simp only [movePieces]
    split
    · exact hs
    · split
      · exact ih _ _ _ _ hs
      · apply ih
        (repeat' split) <;> simp [hs]

@[simp] theorem moveJob_wfIf (s : State) (j : Job) (n : Nat) (hs : WfIf p s.mem) : WfIf p (moveJob s j n).mem :=
  movePieces_wfIf _ _ _ _ _ hs

@[simp] theorem reduceAhead_mem (s : State) (j : Job) (n : Nat) : (reduceAhead s j n).mem = s.mem := by
  unfold reduceAhead
  split <;> simp

@[simp] theorem reduceJob_wfIf (s : State) (j : Job) (n : Nat) (hs : WfIf p s.mem) :
    WfIf p (reduceJob s j n).mem := by
  unfold reduceJob
  dsimp only
  split <;> simp [hs]

@[simp] theorem takeChannel_wfIf (s : State) (j : Job) (hs : WfIf p s.mem) : WfIf p (takeChannel s j).mem := by
  unfold takeChannel
  simp [hs]

@[simp] theorem execJobStart_lands (id n : Nat) (s : State) (hs : WfIf p s.mem) : Lands p (execJobStart id n s) := by
  unfold execJobStart
  dsimp only
  (repeat' split) <;> simp [hs]

@[simp] theorem endJob_wfIf (s : State) (j : Job) (status : Nat) (hs : WfIf p s.mem) :
    WfIf p (endJob s j status).mem := by
  unfold endJob
  split <;> simp [hs]

@[simp] theorem completeJob_wfIf (s : State) (j : Job) (status : Nat) (hs : WfIf p s.mem) :
    WfIf p (completeJob s j status).mem := by
  unfold completeJob
  simp [hs]

@[simp] theorem finishBytes_wfIf (s : State) (j : Job) (hs : WfIf p s.mem) : WfIf p (finishBytes s j).mem := by
  unfold finishBytes
  split <;> simp [hs]

@[simp] theorem finishJob_wfIf (s : State) (j : Job) (hs : WfIf p s.mem) : WfIf p (finishJob s j).mem := by
  unfold finishJob
  simp [hs]

@[simp] theorem execJobComplete_lands (id : Nat) (s : State) (hs : WfIf p s.mem) :
    Lands p (execJobComplete id s) := by
  unfold execJobComplete
  dsimp only
  (repeat' split) <;> simp [hs]

@[simp] theorem execRemoteAccessTimeout_lands (id : Nat) (s : State) (hs : WfIf p s.mem) :
    Lands p (execRemoteAccessTimeout id s) := by
  unfold execRemoteAccessTimeout
  (repeat' split) <;> simp [hs]

@[simp] theorem execCollectiveJoinTimeout_lands (id : Nat) (s : State) (hs : WfIf p s.mem) :
    Lands p (execCollectiveJoinTimeout id s) := by
  unfold execCollectiveJoinTimeout
  (repeat' split) <;> simp [hs]

/-- The bytes of a remote write land run by run. -/
theorem landRuns_wfIf (l : List (Place × Nat)) (e : State × List Byte) (hs : WfIf p e.1.mem) :
    WfIf p (l.foldl (fun (e : State × List Byte) q =>
      (landAt (jobTouch e.1 0 none q.1 q.2) q.1 (e.2.take q.2), e.2.drop q.2)) e).1.mem := by
  induction l generalizing e with
  | nil => exact hs
  | cons q r ih => exact ih _ (by simp [hs])

@[simp] theorem remotePerform_wfIf (s : State) (r : RemoteRequest) (l : List (Place × Nat)) (hs : WfIf p s.mem) :
    WfIf p (remotePerform s r l).mem := by
  unfold remotePerform
  split
  · exact landRuns_wfIf l _ hs
  · exact foldl_wfIf (fun s e h => by simp [h]) hs l

@[simp] theorem execRemoteAccessReceived_lands (r : RemoteRequest) (s : State) (hs : WfIf p s.mem) :
    Lands p (execRemoteAccessReceived r s) := by
  unfold execRemoteAccessReceived
  split <;> simp [hs]

@[simp] theorem retryRemote_lands (s : State) (k : Nat) (hs : WfIf p s.mem) : Lands p (retryRemote s k) := by
  unfold retryRemote
  split
  · simp [hs]
  · next r _ =>
    obtain ⟨t, e, ht⟩ := execRemoteAccessReceived_lands r
      { s with hub := { s.hub with remotes := s.hub.remotes.eraseIdx k } } hs
    rw [e]
    simp [hs, ht]

@[simp] theorem execWaitk_lands (set : BitVec 8) (s : State) (hs : WfIf p s.mem) : Lands p (execWaitk set s) :=
  unchained_lands _ _ hs fun _ ht => withTokens_lands (fun t ht => by simp [ht]) ht

@[simp] theorem execCwp_lands (d : Reg) (k : BitVec 3) (s : State) (hs : WfIf p s.mem) : Lands p (execCwp d k s) := by
  unfold execCwp
  simp [hs]

/-! Movement. -/

@[simp] theorem streamValid_mem (s : State) (p : Strip) (h : Nat) (l : List Nat) :
    (streamValid s p h l).mem = s.mem := by
  unfold streamValid
  split <;> rfl

@[simp] theorem streamEnter_lands (s : State) (o : VMOps) (bit : Nat) (k : State → Strip → Nat → Nat → Res)
    (hs : WfIf p s.mem) (hk : ∀ (t : State) q i j, WfIf p t.mem → Lands p (k t q i j)) :
    Lands p (streamEnter s o bit k) := by
  unfold streamEnter
  split
  · simp [hs]
  · refine unchained_lands _ _ hs fun t ht => ?_
    dsimp only
    split
    · simp [ht]
    · simp [ht]
    · exact withTokens_lands (fun u hu => hk u _ _ _ hu) ht

@[simp] theorem streamTouch_mem (s : State) (q : Strip) (h : Nat) (k : Access) (addr : Nat → Nat)
    (pl : List Nat × Ending) :
    (streamTouch s q h k addr pl).mem = s.mem := by
  simp [streamTouch]

@[simp] theorem streamEnd_lands (s : State) (h : Nat) (addr : Nat → Nat) (e : Ending) (hs : WfIf p s.mem) :
    Lands p (streamEnd s h addr e) := by
  unfold streamEnd
  split
  · exact endAccess_lands _ _ _ hs
  · exact endAccess_lands _ _ _ hs

theorem setHarts_mem (l : List (Nat × Hart)) (f : Hart → Hart) (s : State) :
    (l.foldl (fun s e => s.setHart e.1 (f e.2)) s).mem = s.mem :=
  foldl_mem (f := fun s e => s.setHart e.1 (f e.2)) (fun _ _ => rfl) s l

@[simp] theorem streamLoad_lands (s : State) (o : VMOps) (q : Strip) (j h : Nat) (hs : WfIf p s.mem) :
    Lands p (streamLoad s o q j h) := by
  unfold streamLoad
  extract_lets x b addr chk pl r tile u v feed w
  have hu : WfIf p u.mem := by simp [u, r, hs]
  have hv : WfIf p v.mem := by simp only [v, State.setMe_mem]; exact hu
  have hw : w.mem = v.mem := setHarts_mem _ (fun y => { y with gangFeed := y.gangFeed ++ [feed] }) _
  clear_value v w
  split
  · exact endAccess_lands _ _ _ (by rw [State.setMe_mem, hw]; exact hv)
  · exact endAccess_lands _ _ _ hv

@[simp] theorem streamFeed_lands (s : State) (o : VMOps) (q : Strip) (h : Nat) (hs : WfIf p s.mem) :
    Lands p (streamFeed s o q h) := by
  unfold streamFeed
  dsimp only
  split
  · simp [hs]
  · split
    · exact (lands_next _).mpr (vconfTrap_wfIf _ hs)
    · exact (lands_next _).mpr (by rw [finishWith_mem]; exact hs)

/-- What a stream access that leaves its elements to the queue does. -/
theorem streamLater_lands {s : State} {q : Strip} {j h : Nat} {l : List Nat} {write : Bool} {f : Nat → Place → Pending}
    {r : Res} (hs : WfIf p s.mem) (e : streamLater s q j h l write f = some r) : Lands p r := by
  unfold streamLater at e
  dsimp only at e
  split at e
  · cases e
  · split at e
    · cases e
    · split at e
      · cases e
      · cases e
        exact streamEnd_lands _ _ _ _ (by simp [hs])

@[simp] theorem execVstrm_lands (o : VMOps) (s : State) (hs : WfIf p s.mem) : Lands p (execVstrm o s) := by
  refine streamEnter_lands _ _ _ _ hs fun s q i j hs => ?_
  split
  · exact caughtUp_lands _ _ _ hs fun t ht => streamFeed_lands _ _ _ _ ht
  · split
    · next h => exact streamLater_lands hs h
    · exact caughtUp_lands _ _ _ hs fun t ht => streamLoad_lands _ _ _ _ _ ht

@[simp] theorem streamStore_lands (s : State) (o : VMOps) (q : Strip) (j h : Nat) (hs : WfIf p s.mem) :
    Lands p (streamStore s o q j h) := by
  unfold streamStore
  exact streamEnd_lands _ _ _ _ (by simp [hs])

@[simp] theorem setTether_mem (s : State) (h t : Nat) (v : Option Tether) : (setTether s h t v).mem = s.mem := by rfl

@[simp] theorem execTopen_lands (d a : Reg) (t : BitVec 3) (s : State) (hs : WfIf p s.mem) :
    Lands p (execTopen d a t s) := by
  refine unchained_lands _ _ hs fun s hs => ?_
  dsimp only
  (repeat' split) <;> simp [hs]

@[simp] theorem releaseTether_mem (s : State) (h t : Nat) : (releaseTether s h t).mem = s.mem := by
  unfold releaseTether
  split <;> rfl

@[simp] theorem execTrel_lands (t : BitVec 3) (s : State) (hs : WfIf p s.mem) : Lands p (execTrel t s) := by
  unfold execTrel
  simp [hs]

@[simp] theorem execTstat_lands (d : Reg) (t : BitVec 3) (s : State) (hs : WfIf p s.mem) :
    Lands p (execTstat d t s) := by
  unfold execTstat
  simp [hs]

@[simp] theorem changeTethers_mem (s : State) (row : Nat) (f g : TetherState) :
    (changeTethers s row f g).mem = s.mem := by
  rfl

@[simp] theorem execRefreshCloseRow_lands (row : Nat) (s : State) (hs : WfIf p s.mem) :
    Lands p (execRefreshCloseRow row s) := by
  unfold execRefreshCloseRow
  simp [hs]

@[simp] theorem execTetherReopened_lands (row : Nat) (s : State) (hs : WfIf p s.mem) :
    Lands p (execTetherReopened row s) := by
  unfold execTetherReopened
  simp [hs]

@[simp] theorem tetherFills_mem (s : State) (e : Tether) (l : List Nat) : (tetherFills s e l).mem = s.mem := by
  unfold tetherFills
  simp

@[simp] theorem execVldt_lands (o : VMOps) (s : State) (hs : WfIf p s.mem) : Lands p (execVldt o s) := by
  refine vmEnter_lands _ _ _ _ _ hs fun s hs => ?_
  dsimp only
  split
  · simp [hs]
  · split
    · simp [hs]
    · split
      · simp [hs]
      · split
        · exact endAccess_lands _ _ _ (by simp [hs])
        · exact caughtUp_lands _ _ _ (by simp [hs]) fun s hs => endAccess_lands _ _ _ (by simp [hs])

/-! Spool. -/

@[simp] theorem spoolTrap_lands (s : State) (c : Nat) (eval : Word) (hs : WfIf p s.mem) :
    Lands p (spoolTrap s c eval) := by
  unfold spoolTrap
  split <;> simp [hs]

@[simp] theorem useWords_mem (s : State) (k : Access) (w va : Nat) (l : List Place) :
    (useWords s k w va l).mem = s.mem := by
  unfold useWords
  split <;> simp

@[simp] theorem noteProblem_mem (s : State) (e : Nat × Nat) : (noteProblem s e).mem = s.mem := by
  unfold noteProblem
  simp

@[simp] theorem writeWords_wfIf (s : State) (l : List Place) (w : Nat) (b : List Byte) (hs : WfIf p s.mem) :
    WfIf p (writeWords s l w b).mem := by
  unfold writeWords
  exact foldl_wfIf (fun s e h => by simp [h]) hs _

/-- What a problem of a control block leaves of the state. -/
theorem spoolBlock_wfIf {s t : State} {va c : Nat} (hs : WfIf p s.mem) (h : spoolBlock s va = .error (c, t)) :
    WfIf p t.mem := by
  unfold spoolBlock at h
  dsimp only at h
  (repeat' split at h) <;> cases h <;> simp [hs]

@[simp] theorem spoolWait_lands (s : State) (q : Nat) (taking : Bool) (n : Nat) (va : Word) (hs : WfIf p s.mem) :
    Lands p (spoolWait s q taking n va) := by
  unfold spoolWait
  split <;> simp [hs]

theorem writeSlots_wfIf (s : State) (b : List Byte) (i : Nat) (l : List (List Byte)) (hs : WfIf p s.mem) :
    WfIf p (writeSlots s b i l).1.mem := by
  induction l generalizing s i with
  | nil => exact hs
  | cons e r ih =>
    unfold writeSlots
    split
    · exact hs
    · exact ih _ _ (writeWords_wfIf _ _ _ _ (by simp [hs]))

@[simp] theorem useSlots_mem (s : State) (b : List Byte) (i n : Nat) : (useSlots s b i n).mem = s.mem := by
  unfold useSlots
  exact foldl_mem (fun s e => by split <;> simp) _ _

@[simp] theorem enqueue_wfIf (s : State) (q : Nat) (l : List (List Byte)) (hs : WfIf p s.mem) :
    WfIf p (enqueue s q l).1.mem := by
  have hw := writeSlots_wfIf _ (qcbRead s q) (qTail (qcbRead s q)) l
    (qcbWrite_wfIf s q (reserved (qcbRead s q) l.length) hs)
  unfold enqueue
  dsimp only
  split <;> simp [hw]

@[simp] theorem dequeue_wfIf (s : State) (q n : Nat) (hs : WfIf p s.mem) : WfIf p (dequeue s q n).1.mem := by
  unfold dequeue
  dsimp only
  (repeat' split) <;> simp [hs]

@[simp] theorem served_mem (s : State) : (served s).mem = s.mem := by
  unfold served
  simp

@[simp] theorem elementUsed_mem (s : State) (k : Access) (q : Nat) (z : Reg) : (elementUsed s k q z).mem = s.mem := by
  unfold elementUsed
  dsimp only
  (repeat' split) <;> simp

@[simp] theorem enqRun_lands (s : State) (q : Nat) (v z : Reg) (wait : State → Res) (done : Hart → Hart)
    (hs : WfIf p s.mem) (hwait : ∀ t : State, WfIf p t.mem → Lands p (wait t)) :
    Lands p (enqRun s q v z wait done) := by
  unfold enqRun
  split
  · simp [hs]
  · split
    · exact hwait s hs
    · have he (e : List Byte) : WfIf p (enqueue (elementUsed s .load q z) q [e]).1.mem := by simp [hs]
      dsimp only
      (repeat' split) <;> simp [hs, he]

@[simp] theorem deqRun_lands (s : State) (q : Nat) (d z : Reg) (wait : State → Res) (done : Hart → Hart)
    (hs : WfIf p s.mem) (hwait : ∀ t : State, WfIf p t.mem → Lands p (wait t)) :
    Lands p (deqRun s q d z wait done) := by
  unfold deqRun
  split
  · simp [hs]
  · split
    · exact hwait s hs
    · have he : WfIf p (dequeue (elementUsed s .store q z) q 1).1.mem := by simp [hs]
      dsimp only
      (repeat' split) <;> simp [hs, he]

@[simp] theorem spoolEnter_lands (s : State) (a : Reg) (k : State → Nat → Res) (hs : WfIf p s.mem)
    (hk : ∀ (t : State) q, WfIf p t.mem → Lands p (k t q)) : Lands p (spoolEnter s a k) := by
  unfold spoolEnter
  dsimp only
  split
  · next h => exact spoolTrap_lands _ _ _ (spoolBlock_wfIf hs h)
  · exact hk _ _ (by simp [hs])

@[simp] theorem execEnq_lands (v a z : Reg) (code : BitVec 4) (s : State) (hs : WfIf p s.mem) :
    Lands p (execEnq v a z code s) :=
  unchained_lands _ _ hs fun _ hs => spoolEnter_lands _ _ _ hs fun _ _ hs =>
    enqRun_lands _ _ _ _ _ _ hs fun _ hs => spoolWait_lands _ _ _ _ _ hs

@[simp] theorem execDeq_lands (d a z : Reg) (code : BitVec 4) (s : State) (hs : WfIf p s.mem) :
    Lands p (execDeq d a z code s) :=
  unchained_lands _ _ hs fun _ hs => spoolEnter_lands _ _ _ hs fun _ _ hs =>
    deqRun_lands _ _ _ _ _ _ hs fun _ hs => spoolWait_lands _ _ _ _ _ hs

@[simp] theorem execEnqt_lands (v a z : Reg) (j : BitVec 3) (s : State) (hs : WfIf p s.mem) :
    Lands p (execEnqt v a z j s) := by
  refine unchained_lands _ _ hs fun s hs => ?_
  split
  · simp [hs]
  · exact spoolEnter_lands _ _ _ hs fun _ _ hs => enqRun_lands _ _ _ _ _ _ hs fun _ hs => by simp [hs]

@[simp] theorem execDeqt_lands (d a z : Reg) (j : BitVec 3) (s : State) (hs : WfIf p s.mem) :
    Lands p (execDeqt d a z j s) := by
  refine unchained_lands _ _ hs fun s hs => ?_
  split
  · simp [hs]
  · exact spoolEnter_lands _ _ _ hs fun _ _ hs => deqRun_lands _ _ _ _ _ _ hs fun _ hs => by simp [hs]

@[simp] theorem vspoolEnter_lands (s : State) (v a : Reg) (m : BitVec 3) (k : State → Nat → List Nat → Res)
    (hs : WfIf p s.mem) (hk : ∀ (t : State) q l, WfIf p t.mem → Lands p (k t q l)) :
    Lands p (vspoolEnter s v a m k) := by
  unfold vspoolEnter
  split
  · simp [hs]
  · refine unchained_lands _ _ hs fun s hs => spoolEnter_lands _ _ _ hs fun s q hs => ?_
    dsimp only
    split
    · simp [hs]
    · split
      · simp [hs]
      · exact hk _ _ _ hs

@[simp] theorem venqNow_lands (s : State) (q : Nat) (e : List (List Byte)) (hs : WfIf p s.mem) :
    Lands p (venqNow s q e) := by
  unfold venqNow
  dsimp only
  split <;> simp [hs]

@[simp] theorem execVenq_lands (v a : Reg) (m : BitVec 3) (code : BitVec 4) (s : State) (hs : WfIf p s.mem) :
    Lands p (execVenq v a m code s) := by
  refine vspoolEnter_lands _ _ _ _ _ hs fun s q l hs => ?_
  dsimp only
  split
  · simp [hs]
  · split
    · simp [hs]
    · split
      · exact caughtUp_lands _ _ _ hs fun t ht => venqNow_lands _ _ _ ht
      · refine (lands_next _).mpr ?_
        simp only [finishWith_mem, served_mem, enqueueAll_mem]
        exact foldl_wfIf (fun s e h => by split <;> simp [h]) (by simp [hs]) _

@[simp] theorem vdeqNow_lands (s : State) (q : Nat) (d : Reg) (l : List Nat) (hs : WfIf p s.mem) :
    Lands p (vdeqNow s q d l) := by
  unfold vdeqNow
  dsimp only
  split <;> simp [hs]

@[simp] theorem execVdeq_lands (d a : Reg) (m : BitVec 3) (code : BitVec 4) (s : State) (hs : WfIf p s.mem) :
    Lands p (execVdeq d a m code s) := by
  refine vspoolEnter_lands _ _ _ _ _ hs fun s q l hs => ?_
  dsimp only
  split
  · simp [hs]
  · split
    · simp [hs]
    · split
      · exact caughtUp_lands _ _ _ hs fun t ht => vdeqNow_lands _ _ _ _ ht
      · simp [hs]

@[simp] theorem execQinit_lands (a t : Reg) (s : State) (hs : WfIf p s.mem) : Lands p (execQinit a t s) := by
  refine unchained_lands _ _ hs fun s hs => ?_
  dsimp only
  (repeat' split) <;> simp [hs]

@[simp] theorem execQstat_lands (d a : Reg) (s : State) (hs : WfIf p s.mem) : Lands p (execQstat d a s) := by
  refine unchained_lands _ _ hs fun s hs => ?_
  dsimp only
  (repeat' split) <;> simp [hs]

/-- A fold over results lands when each of its steps does. -/
theorem foldl_lands {α : Type} {f : Res → α → Res} (hf : ∀ s a, WfIf p s.mem → Lands p (f (.next s) a)) {s : State}
    (hs : WfIf p s.mem) (l : List α) : Lands p (l.foldl f (.next s)) := by
  induction l generalizing s with
  | nil => exact (lands_next s).mpr hs
  | cons a r ih =>
    obtain ⟨t, e, ht⟩ := hf s a hs
    rw [List.foldl_cons, e]
    exact ih ht

@[simp] theorem examine_lands (s : State) (q : Nat) (taking : Bool) (hs : WfIf p s.mem) :
    Lands p (examine s q taking) := by
  unfold examine
  refine foldl_lands (fun s e hs => ?_) hs _
  dsimp only
  split
  · exact asHart_lands (execEnq_lands _ _ _ _ _ hs)
  · exact asHart_lands (execDeq_lands _ _ _ _ _ hs)
  · exact asHart_lands (execVenq_lands _ _ _ _ _ hs)
  · exact asHart_lands (execVdeq_lands _ _ _ _ _ hs)
  · exact (lands_next _).mpr hs

@[simp] theorem execSpoolReservationGrant_lands (q : Nat) (s : State) (hs : WfIf p s.mem) :
    Lands p (execSpoolReservationGrant q s) := by
  unfold execSpoolReservationGrant
  simp [hs]

@[simp] theorem execSpoolTakingGrant_lands (q : Nat) (s : State) (hs : WfIf p s.mem) :
    Lands p (execSpoolTakingGrant q s) := by
  unfold execSpoolTakingGrant
  simp [hs]

@[simp] theorem execSpoolNotifyDelay_lands (q : Nat) (s : State) (hs : WfIf p s.mem) :
    Lands p (execSpoolNotifyDelay q s) := by
  unfold execSpoolNotifyDelay
  dsimp only
  split <;> simp [hs]

@[simp] theorem execDoorbellStore_lands (pa : Nat) (v : Word) (s : State) (hs : WfIf p s.mem) :
    Lands p (execDoorbellStore pa v s) := by
  unfold execDoorbellStore
  split <;> simp [hs]

@[simp] theorem execHeadLatchStore_lands (pa : Nat) (v : Word) (s : State) (hs : WfIf p s.mem) :
    Lands p (execHeadLatchStore pa v s) := by
  unfold execHeadLatchStore
  split <;> simp [hs]

/-! Keel. -/

@[simp] theorem packetRecord_mem (s : State) (p : Packet) (kind cause : Nat) (eval : Word) (subject : Subject) :
    (packetRecord s p kind cause eval subject).mem = s.mem := by
  rfl

@[simp] theorem writeStatus_wfIf (s : State) (q : Packet) (v : Nat) (hs : WfIf p s.mem) : WfIf p
    (writeStatus s q v).mem := by
  unfold writeStatus
  split
  · exact agentStore_wfIf _ _ _ hs
  · exact hs

@[simp] theorem writeSignal_wfIf (s : State) (q : Packet) (hs : WfIf p s.mem) : WfIf p (writeSignal s q).mem := by
  unfold writeSignal
  split
  · exact agentStore_wfIf _ _ _ (by simp [hs])
  · exact hs

@[simp] theorem evaluateWindow_mem (s : State) (num : Nat) : (evaluateWindow s num).mem = s.mem := by
  unfold evaluateWindow
  simp

@[simp] theorem State.mapSpool_mem (s : State) (num : Nat) (f : LaunchSpool → LaunchSpool) :
    (State.mapSpool s num f).mem = s.mem := by
  rfl

@[simp] theorem advanceHead_wfIf (s : State) (num : Nat) (hs : WfIf p s.mem) : WfIf p (advanceHead s num).mem := by
  unfold advanceHead
  split <;> simp [hs]

@[simp] theorem refusePacket_mem (s : State) (id status : Nat) : (refusePacket s id status).mem = s.mem := by rfl

@[simp] theorem ownerFills_mem (s : State) (asid fuel va n : Nat) : (ownerFills s asid fuel va n).mem = s.mem := by
  induction fuel generalizing s va n with
  | zero => rfl
  | succ fuel ih =>
    simp only [ownerFills]
    (repeat' split) <;> simp [ih]

@[simp] theorem vetPacket_mem (s : State) (id : Nat) : (vetPacket s id).mem = s.mem := by
  unfold vetPacket
  dsimp only
  (repeat' split) <;> simp

@[simp] theorem trimPackets_mem (s : State) (num : Nat) : (trimPackets s num).mem = s.mem := by rfl

@[simp] theorem closeBatches_mem (s : State) (num : Nat) : (closeBatches s num).mem = s.mem := by rfl

@[simp] theorem takeNext_wfIf (s : State) (l : LaunchSpool) (hs : WfIf p s.mem) : WfIf p (takeNext s l).mem := by
  unfold takeNext
  extract_lets b asid prio before k u poisoned q va filled taken keel
  have hu : WfIf p u.mem := hs
  have hpoisoned : WfIf p poisoned.mem := by simp only [poisoned, State.mapSpool_mem]; exact qcbPoison_wfIf u l.qcb hu
  have hfilled : WfIf p filled.mem := by simp only [filled, ownerFills_mem]; exact hu
  have htaken : WfIf p taken.mem := by simp only [taken, State.mapSpool_mem, trimPackets_mem]; exact hfilled
  clear_value b asid prio q va keel u poisoned filled taken
  split
  · exact advanceHead_wfIf _ _ (by simp [hu])
  · split
    · exact hs
    · split
      · exact reportSpoiled_wfIf _ _ (by simp [hu])
      · split
        · simp [hu]
        · split
          · simp [hpoisoned]
          · split
            · split
              · exact hs
              · simp [hu]
            · extract_lets packet dropped
              have hdropped : WfIf p dropped.mem := by simp only [dropped, dropJobReads_mem]; exact htaken
              clear_value packet dropped
              split
              · exact hs
              · exact advanceHead_wfIf _ _ (by simp [hdropped])

@[simp] theorem execTakePacket_lands (num : Nat) (s : State) (hs : WfIf p s.mem) : Lands p
    (execTakePacket num s) := by
  unfold execTakePacket
  split
  · exact (lands_next _).mpr hs
  · split
    · split
      · exact (lands_next _).mpr (takeNext_wfIf s _ hs)
      · exact (lands_next _).mpr hs
    · exact (lands_next _).mpr hs

@[simp] theorem warmPacket_mem (s : State) (q : Packet) (gone : List Nat) : (warmPacket s q gone).mem = s.mem :=
  foldl_mem (fun s e => by (repeat' split) <;> simp) s _

@[simp] theorem dispatchFirst_wfIf (s : State) (q : Packet) (hs : WfIf p s.mem) : WfIf p (dispatchFirst s q).mem := by
  unfold dispatchFirst
  dsimp only
  (repeat' split) <;> simp [hs]

@[simp] theorem execDispatchPacket_lands (num : Nat) (s : State) (hs : WfIf p s.mem) :
    Lands p (execDispatchPacket num s) := by
  unfold execDispatchPacket
  dsimp only
  (repeat' split) <;> simp [hs]

@[simp] theorem endChain_mem (s : State) (p : Packet) : (endChain s p).mem = s.mem := by
  unfold endChain
  simp

@[simp] theorem forgetStops_mem (s : State) (id : Nat) : (forgetStops s id).mem = s.mem := by rfl

@[simp] theorem completeWords_wfIf (s : State) (q : Packet) (force : Bool) (hs : WfIf p s.mem) :
    WfIf p (completeWords s q force).mem := by
  have hw (v : Nat) : WfIf p (writeSignal (writeStatus s q v) q).mem := writeSignal_wfIf _ _
    (writeStatus_wfIf _ _ _ hs)
  unfold completeWords
  split
  · exact hs
  · split
    · simp [hs]
    · dsimp only
      simp only [endChain_mem, forgetStops_mem, dropJobReads_mem, State.mapPacket_mem]
      exact hw _

@[simp] theorem settlePacket_mem (s : State) (id : Nat) : (settlePacket s id).mem = s.mem := by
  unfold settlePacket
  split
  · rfl
  · split <;> simp

@[simp] theorem execPacketComplete_lands (id : Nat) (s : State) (hs : WfIf p s.mem) :
    Lands p (execPacketComplete id s) := by
  unfold execPacketComplete
  dsimp only
  (repeat' split) <;> simp [hs]

/-! Gondola. -/

@[simp] theorem clearScratch_wfIf (s : State) (c : Nat) (hs : WfIf p s.mem) : WfIf p (clearScratch s c).mem := by
  unfold clearScratch
  simp [hs]

@[simp] theorem rearmHarts_mem (s : State) (l : List Nat) : (rearmHarts s l).mem = s.mem := by rfl

@[simp] theorem rearm_mem (s : State) (c : Nat) : (rearm s c).mem = s.mem := by rfl

@[simp] theorem spillStashes_wfIf (s : State) (c : Nat) (f : Stash → Bool) (hs : WfIf p s.mem) :
    WfIf p (spillStashes s c f).mem :=
  foldl_wfIf (fun s e h => stashSpill_wfIf s c e h) hs _

@[simp] theorem dropReads_mem (s : State) (c : Nat) : (dropReads s c).mem = s.mem := by
  unfold dropReads
  split <;> rfl

@[simp] theorem switchCore_wfIf (s : State) (c asid : Nat) (hs : WfIf p s.mem) : WfIf p
    (switchCore s c asid).mem := by
  unfold switchCore
  split
  · exact hs
  · have hu : WfIf p (spillStashes (rearm (dropReads (performAll s) c) c) c fun _ => true).mem :=
      spillStashes_wfIf _ _ _ (by simp [hs])
    generalize spillStashes (rearm (dropReads (performAll s) c) c) c (fun _ => true) = u at hu
    dsimp only
    split
    · simp [hu]
    · exact sets_wfIf _ _ (clearScratch_wfIf _ _ hu)

@[simp] theorem execPlacementMessage_lands (id cl : Nat) (s : State) (hs : WfIf p s.mem) :
    Lands p (execPlacementMessage id cl s) := by
  unfold execPlacementMessage
  dsimp only
  (repeat' split) <;> simp [hs]

@[simp] theorem heedReport_mem (s : State) (r : Report) : (heedReport s r).mem = s.mem := by
  unfold heedReport
  split <;> rfl

@[simp] theorem copyReport_mem (s : State) (cl : Nat) : (copyReport s cl).mem = s.mem := by
  unfold copyReport
  dsimp only
  split <;> simp

@[simp] theorem startCore_wfIf (s : State) (q : Packet) (e : Placement) (g3 c : Nat) (hs : WfIf p s.mem) :
    WfIf p (startCore s q e g3 c).mem :=
  foldl_wfIf (fun s e h => by simp [h]) (switchCore_wfIf s c q.asid hs) _

@[simp] theorem startGroup_wfIf (s : State) (q : Packet) (cl : Nat) (e : Placement) (cores : List Nat)
    (hs : WfIf p s.mem) : WfIf p (startGroup s q cl e cores).mem := by
  have ht (l : List (Nat × Nat)) (t : State) (ht : WfIf p t.mem) :
      WfIf p (l.foldl (fun s w => startCore s q e w.1 w.2) t).mem :=
    foldl_wfIf (fun s w h => startCore_wfIf s q e w.1 w.2 h) ht l
  unfold startGroup
  dsimp only
  rw [State.mapPacket_mem]
  exact ht _ _ hs

@[simp] theorem execStartClusterGroup_lands (cl : Nat) (cores : List Nat) (s : State) (hs : WfIf p s.mem) :
    Lands p (execStartClusterGroup cl cores s) := by
  unfold execStartClusterGroup
  dsimp only
  (repeat' split) <;> simp [hs]

@[simp] theorem joinDecrement_wfIf (s : State) (t : Task) (hs : WfIf p s.mem) : WfIf p (joinDecrement s t).mem := by
  unfold joinDecrement
  split <;> simp [hs]

@[simp] theorem releaseJoins_wfIf (s : State) (hs : WfIf p s.mem) : WfIf p (releaseJoins s).mem := by
  unfold releaseJoins
  exact foldl_wfIf (fun s e h => by simp [h]) (by simp [hs]) _

@[simp] theorem discardTasks_wfIf (s : State) (cl : Nat) (hs : WfIf p s.mem) : WfIf p (discardTasks s cl).mem := by
  unfold discardTasks
  exact foldl_wfIf (fun s e h => by simp [h]) (by simp [hs]) _

@[simp] theorem retireHart_wfIf (s : State) (h : Nat) (hs : WfIf p s.mem) : WfIf p (retireHart s h).mem := by
  unfold retireHart
  dsimp only
  split <;> simp (disch := simp [hs])

@[simp] theorem retireNext_wfIf (s : State) (hs : WfIf p s.mem) : WfIf p (retireNext s).mem := by
  unfold retireNext
  simp [hs]

@[simp] theorem enterStrip_mem (s : State) (p : Packet) (g2 g3 g4 g5 k : Nat) :
    (enterStrip s p g2 g3 g4 g5 k).mem = s.mem := by
  rfl

@[simp] theorem enterBody_wfIf (s : State) (q r : Packet) (g2 g3 g4 g5 k : Nat) (seg : Bool) (hs : WfIf p s.mem) :
    WfIf p (enterBody s q r g2 g3 g4 g5 k seg).mem := by
  have hl : WfIf p (leaveGang (endEarly (performHart s s.cur) s.cur) s.cur).mem := leaveGang_wfIf _ _ (by simp [hs])
  simp [enterBody, hl]

@[simp] theorem splicedNext_wfIf (s : State) (q c : Packet) (g2 g3 g4 g5 k : Nat) (hs : WfIf p s.mem) :
    WfIf p (splicedNext s q c g2 g3 g4 g5 k).mem := by
  unfold splicedNext
  (repeat' split) <;> simp [hs]

@[simp] theorem execNext_lands (s : State) (hs : WfIf p s.mem) : Lands p (execNext s) := by
  refine unchained_lands _ _ hs fun s hs => ?_
  (repeat' split) <;> simp [hs]

@[simp] theorem suspendHere_wfIf (s : State) (cl g : Nat) (l : List (Nat × Nat)) (hs : WfIf p s.mem) :
    WfIf p (suspendHere s cl g l).mem := by
  unfold suspendHere
  exact foldl_wfIf (fun s e h => by simp [h]) hs _

@[simp] theorem suspendAll_mem (s : State) (l : List Nat) : (suspendAll s l).mem = s.mem := by
  unfold suspendAll
  dsimp only
  split <;> simp

@[simp] theorem suspendFrom_wfIf (s : State) (cl : Nat) (l : List Nat) (hs : WfIf p s.mem) :
    WfIf p (suspendFrom s cl l).mem := by
  unfold suspendFrom
  simp [hs]

@[simp] theorem discardHere_wfIf (s : State) (cl asid : Nat) (hs : WfIf p s.mem) : WfIf p
    (discardHere s cl asid).mem := by
  simp only [discardHere]
  refine foldl_wfIf (fun s t h => joinDecrement_wfIf s t h) ?_ _
  simp only [State.setCluster_mem]
  exact foldl_wfIf (fun s e h => retireHart_wfIf _ _ (by simp [h])) hs _

@[simp] theorem heedCommand_wfIf (s : State) (cl : Nat) (m : Command) (hs : WfIf p s.mem) :
    WfIf p (heedCommand s cl m).mem := by
  unfold heedCommand
  split
  · split <;> simp [hs]
  · simp [hs]
  · simp [hs]
  · exact discardTasks_wfIf _ _ hs

@[simp] theorem copyCommand_wfIf (s : State) (cl : Nat) (hs : WfIf p s.mem) : WfIf p (copyCommand s cl).mem := by
  unfold copyCommand
  dsimp only
  split
  · exact hs
  · exact heedCommand_wfIf _ _ _ hs

@[simp] theorem execGondolaCopyMessage_lands (cl : Nat) (s : State) (hs : WfIf p s.mem) :
    Lands p (execGondolaCopyMessage cl s) := by
  unfold execGondolaCopyMessage
  simp [hs]

@[simp] theorem stopEverywhere_mem (s : State) (id gen : Nat) : (stopEverywhere s id gen).mem = s.mem := by
  unfold stopEverywhere
  simp

@[simp] theorem freedBy_wfIf (s : State) (l : List Nat) (hs : WfIf p s.mem) : WfIf p (freedBy s l).mem := by
  unfold freedBy
  exact foldl_wfIf (fun s e h => by simp [h]) hs _

@[simp] theorem requestSuspension_mem (s : State) (h : Nat) : (requestSuspension s h).mem = s.mem := by
  unfold requestSuspension
  simp

@[simp] theorem execPreemptRequest_lands (h : Nat) (s : State) (hs : WfIf p s.mem) :
    Lands p (execPreemptRequest h s) := by
  unfold execPreemptRequest
  (repeat' split) <;> simp [hs]

@[simp] theorem serveRequest_wfIf (s : State) (e : Nat × Option Nat) (hs : WfIf p s.mem) :
    WfIf p (serveRequest s e).mem := by
  unfold serveRequest
  split <;> simp [hs]

@[simp] theorem runRequest_wfIf (s : State) (hs : WfIf p s.mem) : WfIf p (runRequest s).mem := by
  unfold runRequest
  split <;> simp [hs]

@[simp] theorem yieldTo_mem (s : State) (g : Nat) (w : Waiting) : (yieldTo s g w).mem = s.mem := by
  unfold yieldTo
  split <;> rfl

@[simp] theorem execYield_lands (s : State) (hs : WfIf p s.mem) : Lands p (execYield s) := by
  refine unchained_lands _ _ hs fun s hs => ?_
  dsimp only
  (repeat' split) <;> simp [hs]

@[simp] theorem execStartTask_lands (cl hart : Nat) (s : State) (hs : WfIf p s.mem) :
    Lands p (execStartTask cl hart s) := by
  unfold execStartTask
  dsimp only
  (repeat' split) <;> simp [hs]

@[simp] theorem execPreemptStarvation_lands (cl : Nat) (s : State) (hs : WfIf p s.mem) :
    Lands p (execPreemptStarvation cl s) := by
  unfold execPreemptStarvation
  dsimp only
  (repeat' split) <;> simp [hs]

@[simp] theorem parkWaiter_wfIf (s : State) (cl : Nat) (hs : WfIf p s.mem) : WfIf p (parkWaiter s cl).mem := by
  unfold parkWaiter
  dsimp only
  (repeat' split) <;> simp [hs]

@[simp] theorem execResumeHartGroup_lands (g : Nat) (s : State) (hs : WfIf p s.mem) :
    Lands p (execResumeHartGroup g s) := by
  unfold execResumeHartGroup
  dsimp only
  split
  · simp [hs]
  · exact (lands_next _).mpr (foldl_wfIf (fun s r h => restoreHart_wfIf s _ h)
      (foldl_wfIf (fun s r h => switchCore_wfIf s _ _ h) hs _) _)

/-! Tasks. -/

@[simp] theorem acceptTask_wfIf (s : State) (t : Task) (hs : WfIf p s.mem) : WfIf p (acceptTask s t).mem := by
  unfold acceptTask
  simp [hs]

@[simp] theorem spawnWait_mem (s : State) : (spawnWait s).mem = s.mem := by
  unfold spawnWait
  simp

@[simp] theorem spawnTrap_lands (s : State) (c : Nat) (eval : Word) (hs : WfIf p s.mem) :
    Lands p (spawnTrap s c eval) := by
  unfold spawnTrap
  split <;> simp [hs]

@[simp] theorem execSpawn_lands (r : Reg) (s : State) (hs : WfIf p s.mem) : Lands p (execSpawn r s) := by
  refine unchained_lands _ _ hs fun s hs => ?_
  dsimp only
  (repeat' split) <;> simp [hs]

@[simp] theorem execJoinw_lands (j : Reg) (s : State) (hs : WfIf p s.mem) : Lands p (execJoinw j s) := by
  refine unchained_lands _ _ hs fun s hs => ?_
  dsimp only
  (repeat' split) <;> simp [hs]

@[simp] theorem execLaunch_lands (d q r : Reg) (s : State) (hs : WfIf p s.mem) : Lands p (execLaunch d q r s) := by
  refine unchained_lands _ _ hs fun s hs => ?_
  split
  · simp [hs]
  · dsimp only
    split
    · simp [hs]
    · split
      · next h => exact (lands_next _).mpr (trap_wfIf _ _ _ (spoolBlock_wfIf (by simp [hs]) h))
      · (repeat' split) <;> simp [hs]

@[simp] theorem touchJob_mem (s : State) (q : Reg) : (touchJob s q).mem = s.mem := by
  unfold touchJob
  split <;> simp

@[simp] theorem execJstat_lands (d q i : Reg) (s : State) (hs : WfIf p s.mem) : Lands p (execJstat d q i s) := by
  refine unchained_lands _ _ hs fun s hs => ?_
  split <;> simp [hs]

@[simp] theorem dropFromGang_mem (s : State) (r : Saved) : (dropFromGang s r).mem = s.mem := by
  unfold dropFromGang
  split <;> rfl

@[simp] theorem discardSaved_wfIf (s : State) (r : Saved) (hs : WfIf p s.mem) : WfIf p (discardSaved s r).mem := by
  unfold discardSaved
  split <;> simp [hs]

@[simp] theorem cancelWaiting_wfIf (s : State) (q : Packet) (hs : WfIf p s.mem) : WfIf p (cancelWaiting s q).mem := by
  unfold cancelWaiting
  dsimp only
  split <;> simp [hs]

@[simp] theorem cancelRunning_wfIf (s : State) (q : Packet) (hs : WfIf p s.mem) : WfIf p (cancelRunning s q).mem := by
  simp only [cancelRunning]
  exact foldl_wfIf (fun s r h => discardSaved_wfIf s r h) (by split <;> simp [hs]) _

@[simp] theorem cancelPacket_wfIf (s : State) (id : Nat) (hs : WfIf p s.mem) : WfIf p (cancelPacket s id).mem := by
  unfold cancelPacket
  (repeat' split) <;> simp [hs]

@[simp] theorem execCancel_lands (q i : Reg) (s : State) (hs : WfIf p s.mem) : Lands p (execCancel q i s) := by
  refine unchained_lands _ _ hs fun s hs => ?_
  split <;> simp [hs]

/-! Faults. -/

@[simp] theorem execFaultRecordWrite_lands (s : State) (hs : WfIf p s.mem) : Lands p (execFaultRecordWrite s) := by
  unfold execFaultRecordWrite
  dsimp only
  (repeat' split) <;> simp (disch := simp [hs]) [hs]

@[simp] theorem fatal_mem (s : State) (q : Packet) (cause : Nat) : (fatal s q cause).mem = s.mem := by
  unfold fatal
  dsimp only
  generalize (if q.phase = .dispatched then q.partner.bind s.packet else none) = c
  split
  · rfl
  · cases c <;> simp

@[simp] theorem forgetWalks_mem (s : State) (c asid : Nat) : (forgetWalks s c asid).mem = s.mem := by rfl

@[simp] theorem resumeSubject_wfIf (s : State) (r : FaultRecord) (hs : WfIf p s.mem) :
    WfIf p (resumeSubject s r).mem := by
  unfold resumeSubject
  (repeat' split) <;> simp [hs]

@[simp] theorem killSubject_wfIf (s : State) (r : FaultRecord) (hs : WfIf p s.mem) :
    WfIf p (killSubject s r).mem := by
  unfold killSubject
  (repeat' split) <;> simp [hs]

@[simp] theorem performReply_wfIf (s : State) (index : Nat) (kill : Bool) (hs : WfIf p s.mem) :
    WfIf p (performReply s index kill).mem := by
  unfold performReply
  split <;> simp [hs]

@[simp] theorem serveReplies_wfIf (s : State) (hs : WfIf p s.mem) : WfIf p (serveReplies s).mem := by
  unfold serveReplies
  exact foldl_wfIf (fun s e h => by simp [h]) hs _

@[simp] theorem reply_wfIf (s : State) (index : Nat) (kill : Bool) (hs : WfIf p s.mem) :
    WfIf p (reply s index kill).mem := by
  unfold reply
  simp [hs]

@[simp] theorem execFaultreplyResume_lands (index : Nat) (s : State) (hs : WfIf p s.mem) :
    Lands p (execFaultreplyResume index s) := by
  unfold execFaultreplyResume
  simp [hs]

@[simp] theorem execFaultreplyKill_lands (index : Nat) (s : State) (hs : WfIf p s.mem) :
    Lands p (execFaultreplyKill index s) := by
  unfold execFaultreplyKill
  simp [hs]

@[simp] theorem releaseHeld_wfIf (s : State) (hs : WfIf p s.mem) : WfIf p (releaseHeld s).mem := by
  unfold releaseHeld
  exact foldl_wfIf (fun s e h => by simp [h]) (by simp [hs]) _

@[simp] theorem restartKeel_mem (s : State) : (restartKeel s).mem = s.mem := by rfl

@[simp] theorem execKeelRestart_lands (s : State) (hs : WfIf p s.mem) : Lands p (execKeelRestart s) := by
  unfold execKeelRestart
  simp [hs]

@[simp] theorem execKeelHeartbeatTimeout_lands (s : State) (hs : WfIf p s.mem) :
    Lands p (execKeelHeartbeatTimeout s) := by
  unfold execKeelHeartbeatTimeout
  simp [hs]

@[simp] theorem execKeelRestartComplete_lands (s : State) (hs : WfIf p s.mem) :
    Lands p (execKeelRestartComplete s) := by
  unfold execKeelRestartComplete
  split <;> simp [hs]

/-! Contexts. -/

@[simp] theorem hubConsume_wfIf (s : State) (q : Nat) (hs : WfIf p s.mem) : WfIf p (hubConsume s q).mem := by
  unfold hubConsume
  simp [hs]

@[simp] theorem hubTake_wfIf (s : State) (q n : Nat) (k : Nat → List Byte → State) (hk : ∀ i b, WfIf p (k i b).mem)
    (hs : WfIf p s.mem) : WfIf p (hubTake s q n k).mem := by
  unfold hubTake
  (repeat' split) <;> simp [hs, hk]

@[simp] theorem tivDone_wfIf (s : State) (q i : Nat) (b : List Byte) (status : Nat) (hs : WfIf p s.mem) :
    WfIf p (tivDone s q i b status).mem := by
  unfold tivDone
  simp [hs]

@[simp] theorem Removal.rearm_mem (r : Removal) (s : State) : (Removal.rearm r s).mem = s.mem := by rfl

@[simp] theorem removeTranslations_wfIf (s : State) (r : Removal) (hs : WfIf p s.mem) :
    WfIf p (removeTranslations s r).mem :=
  foldl_wfIf (fun s e h => spillStashes_wfIf s _ _ h) (by simp [hs]) _

theorem tivEnter_lands {s : State} {ops : Nat → Bool} {k : State → Nat → Nat → List Byte → State}
    (hk : ∀ q i b, WfIf p (k s q i b).mem) (hs : WfIf p s.mem) : Lands p (tivEnter s ops k) := by
  unfold tivEnter
  dsimp only
  split
  · exact (lands_next s).mpr hs
  · refine (lands_next _).mpr (hubTake_wfIf s _ 32 _ (fun i b => ?_) hs)
    (repeat' split) <;> simp [hs, hk]

@[simp] theorem tivRemove_wfIf (s : State) (q i : Nat) (b : List Byte) (r : Removal) (hs : WfIf p s.mem) :
    WfIf p (tivRemove s q i b r).mem := by
  unfold tivRemove
  simp [hs]

@[simp] theorem execInvpage_lands (s : State) (hs : WfIf p s.mem) : Lands p (execInvpage s) :=
  tivEnter_lands (fun q i b => by simp [hs]) hs

@[simp] theorem execInvasid_lands (s : State) (hs : WfIf p s.mem) : Lands p (execInvasid s) :=
  tivEnter_lands (fun q i b => by simp [hs]) hs

@[simp] theorem execInvall_lands (s : State) (hs : WfIf p s.mem) : Lands p (execInvall s) :=
  tivEnter_lands (fun q i b => by simp [hs]) hs

@[simp] theorem execCtxload_lands (s : State) (hs : WfIf p s.mem) : Lands p (execCtxload s) := by
  refine tivEnter_lands (fun q i b => ?_) hs
  dsimp only
  split
  · simp [hs]
  · split
    · exact hs
    · split
      · exact tivDone_wfIf _ _ _ _ _ hs
      · split
        · simp [hs]
        · split
          · simp [hs]
          · split
            · exact hs
            · exact tivDone_wfIf _ _ _ _ _ (removeTranslations_wfIf _ _ hs)

@[simp] theorem cancelContext_wfIf (s : State) (asid : Nat) (hs : WfIf p s.mem) :
    WfIf p (cancelContext s asid).mem := by
  unfold cancelContext
  exact foldl_wfIf (fun s e h => by simp [h]) hs _

@[simp] theorem askDiscard_mem (s : State) (asid : Nat) : (askDiscard s asid).mem = s.mem := by
  unfold askDiscard
  simp

@[simp] theorem discardSuspended_wfIf (s : State) (asid : Nat) (hs : WfIf p s.mem) :
    WfIf p (discardSuspended s asid).mem := by
  unfold discardSuspended
  exact foldl_wfIf (fun s e h => by simp [h]) hs _

@[simp] theorem completeContext_wfIf (s : State) (asid : Nat) (hs : WfIf p s.mem) :
    WfIf p (completeContext s asid).mem := by
  unfold completeContext
  exact foldl_wfIf (fun s e h => by split <;> simp [h]) hs _

@[simp] theorem freeContext_wfIf (s : State) (asid : Nat) (hs : WfIf p s.mem) : WfIf p (freeContext s asid).mem := by
  unfold freeContext
  refine removeTranslations_wfIf _ _ ?_
  exact foldl_wfIf (fun s e h => by
    split
    · exact clearScratch_wfIf _ _ h
    · exact h) hs _

@[simp] theorem execCtxdestroy_lands (s : State) (hs : WfIf p s.mem) : Lands p (execCtxdestroy s) := by
  refine tivEnter_lands (fun q i b => ?_) hs
  extract_lets asid old dying u v
  have hu : WfIf p u.mem := by
    refine discardSuspended_wfIf _ _ ?_
    split
    · exact hs
    · rw [askDiscard_mem]
      exact cancelContext_wfIf _ _ hs
  clear_value u
  have hv : WfIf p v.mem := completeContext_wfIf _ _ hu
  clear_value v
  split
  · exact tivDone_wfIf _ _ _ _ _ hs
  · split
    · exact hu
    · split
      · exact hv
      · exact tivDone_wfIf _ _ _ _ _ (freeContext_wfIf _ _ hv)

@[simp] theorem execWatchElement_lands (s : State) (hs : WfIf p s.mem) : Lands p (execWatchElement s) := by
  refine (lands_next _).mpr (hubTake_wfIf s _ 64 _ (fun i b => ?_) hs)
  simp [hs]

@[simp] theorem execWatchEntryFired_lands (id : Nat) (s : State) (hs : WfIf p s.mem) :
    Lands p (execWatchEntryFired id s) := by
  unfold execWatchEntryFired
  (repeat' split) <;> simp [hs]

@[simp] theorem execLspoolRegister_lands (v : Word) (s : State) (hs : WfIf p s.mem) :
    Lands p (execLspoolRegister v s) := by
  unfold execLspoolRegister
  dsimp only
  (repeat' split) <;> simp [hs]

@[simp] theorem execLspoolRemove_lands (v : Word) (s : State) (hs : WfIf p s.mem) :
    Lands p (execLspoolRemove v s) := by
  unfold execLspoolRemove
  split <;> simp [hs]

/-! Iommu. -/

@[simp] theorem noteIo_mem (s : State) (requester va : Nat) (write : Bool) (c : List Byte) (pa : Nat) :
    (noteIo s requester va write c pa).mem = s.mem := by
  rfl

@[simp] theorem sendVector_wfIf (s : State) (v : Nat) (hs : WfIf p s.mem) : WfIf p (sendVector s v).mem := by
  unfold sendVector
  simp [hs]

@[simp] theorem ioInterrupt_wfIf (s : State) (k : Nat) (hs : WfIf p s.mem) : WfIf p (ioInterrupt s k).mem := by
  unfold ioInterrupt
  simp [hs]

@[simp] theorem tellCommand_wfIf (s : State) (hs : WfIf p s.mem) : WfIf p (tellCommand s).mem := by
  unfold tellCommand
  simp [hs]

@[simp] theorem recordFault_wfIf (s : State) (requester va : Nat) (write : Bool) (f : IoFault) (hs : WfIf p s.mem) :
    WfIf p (recordFault s requester va write f).mem := by
  unfold recordFault
  dsimp only
  (repeat' split) <;> simp [hs]

@[simp] theorem ioFail_wfIf (s : State) (requester va : Nat) (write : Bool) (f : IoFault) (hs : WfIf p s.mem) :
    WfIf p (ioFail s requester va write f).mem := by
  unfold ioFail
  simp [hs]

@[simp] theorem commandError_wfIf (s : State) (bits : BitVec 32) (hs : WfIf p s.mem) :
    WfIf p (commandError s bits).mem := by
  unfold commandError
  simp [hs]

@[simp] theorem commandDone_mem (s : State) : (commandDone s).mem = s.mem := by rfl

@[simp] theorem runCommand_wfIf (s : State) (a b : Nat) (hs : WfIf p s.mem) : WfIf p (runCommand s a b).mem := by
  unfold runCommand
  (repeat' split) <;> simp [hs]

@[simp] theorem stepIommu_wfIf (s : State) (hs : WfIf p s.mem) : WfIf p (stepIommu s).mem := by
  unfold stepIommu
  dsimp only
  (repeat' split) <;> simp [hs]

@[simp] theorem writeIommu_wfIf (s : State) (o : Nat) (b : List Byte) (hs : WfIf p s.mem) : WfIf p
    (writeIommu s o b).mem := by
  have hf (u : State) (l : List Nat) (hu : WfIf p u.mem) : WfIf p (tellCommand (l.foldl sendVector u)).mem :=
    tellCommand_wfIf _ (foldl_wfIf (fun s e h => by simp [h]) hu l)
  unfold writeIommu
  split
  · exact hs
  · dsimp only
    split
    · exact ioInterrupt_wfIf _ _ (hf _ _ hs)
    · exact hf _ _ hs

/-! Ecam. -/

@[simp] theorem bifurcate_mem (s : State) (j ports : Nat) : (bifurcate s j ports).mem = s.mem := by
  unfold bifurcate
  split <;> rfl

/-! Hub. -/

@[simp] theorem execWakeComplete_lands (u : UnitName) (s : State) (hs : WfIf p s.mem) :
    Lands p (execWakeComplete u s) := by
  cases u with
  | cluster c =>
    simp only [execWakeComplete]
    split
    · exact (lands_next _).mpr (applyLatches_wfIf _ _ hs)
    · exact (lands_next _).mpr hs
  | die d =>
    simp only [execWakeComplete]
    split
    · exact (lands_next _).mpr (applyLatches_wfIf _ _ hs)
    · exact (lands_next _).mpr hs
  | hart h => exact (lands_next _).mpr hs
  | core c => exact (lands_next _).mpr hs

@[simp] theorem execGateCluster_lands (cl : Nat) (s : State) (hs : WfIf p s.mem) :
    Lands p (execGateCluster cl s) := by
  unfold execGateCluster
  split <;> simp [hs]

@[simp] theorem execGateDie_lands (d : Nat) (s : State) (hs : WfIf p s.mem) : Lands p (execGateDie d s) := by
  unfold execGateDie
  dsimp only
  split <;> simp [hs]

@[simp] theorem execGatectlWrite_lands (v : Word) (s : State) (hs : WfIf p s.mem) :
    Lands p (execGatectlWrite v s) := by
  unfold execGatectlWrite
  split <;> simp [hs]

@[simp] theorem execDevidsetWrite_lands (v : Word) (s : State) (hs : WfIf p s.mem) :
    Lands p (execDevidsetWrite v s) := by
  unfold execDevidsetWrite
  split <;> simp [hs]

@[simp] theorem writeReply_lands (s : State) (v : Word) (hs : WfIf p s.mem) : Lands p (writeReply s v) := by
  unfold writeReply
  split <;> simp [hs]

@[simp] theorem commandEffect_mem (s : State) (code : Nat) (b : List Byte) :
    (commandEffect s code b).2.2.mem = s.mem := by
  unfold commandEffect
  split <;> simp only [apply_ite Prod.snd, mem_ite, ite_self]

@[simp] theorem mailboxDone_mem (r : Nat × List Byte × State) : (mailboxDone r).mem = r.2.2.mem := rfl

@[simp] theorem performCommand_wfIf (s : State) (code : Nat) (hs : WfIf p s.mem) : WfIf p
    (performCommand s code).mem := by
  unfold performCommand
  dsimp only
  (repeat' split) <;> simp [hs]

@[simp] theorem mailboxStart_lands (s : State) (code : Nat) (hs : WfIf p s.mem) : Lands p (mailboxStart s code) := by
  unfold mailboxStart
  split <;> simp [hs]

@[simp] theorem execQuote_lands (s : State) (hs : WfIf p s.mem) : Lands p (execQuote s) := by
  unfold execQuote
  simp [hs]

@[simp] theorem execExtend_lands (s : State) (hs : WfIf p s.mem) : Lands p (execExtend s) := by
  unfold execExtend
  simp [hs]

@[simp] theorem execIdentity_lands (s : State) (hs : WfIf p s.mem) : Lands p (execIdentity s) := by
  unfold execIdentity
  simp [hs]

@[simp] theorem execPlateupd_lands (s : State) (hs : WfIf p s.mem) : Lands p (execPlateupd s) := by
  unfold execPlateupd
  simp [hs]

@[simp] theorem execMailboxComplete_lands (s : State) (hs : WfIf p s.mem) : Lands p (execMailboxComplete s) := by
  unfold execMailboxComplete
  dsimp only
  (repeat' split) <;> simp [hs]

@[simp] theorem execThermalStepEval_lands (r : ThermalReading) (s : State) (hs : WfIf p s.mem) :
    Lands p (execThermalStepEval r s) := by
  unfold execThermalStepEval
  simp [hs]

@[simp] theorem uncache_mem (s : State) (l n : Nat) : (uncache s l n).mem = s.mem := by rfl

@[simp] theorem spoilCache_mem (s : State) (l n : Nat) : (spoilCache s l n).mem = s.mem := by rfl

@[simp] theorem execPatrolScrub_lands (pa : Nat) (bad : Bool) (s : State) (hs : WfIf p s.mem) :
    Lands p (execPatrolScrub pa bad s) := by
  unfold execPatrolScrub
  dsimp only
  (repeat' split) <;> simp [hs]

@[simp] theorem execUncorrectableError_lands (pa : Nat) (s : State) (hs : WfIf p s.mem) :
    Lands p (execUncorrectableError pa s) := by
  unfold execUncorrectableError
  split <;> simp [hs]

@[simp] theorem countCorrected_mem (s : State) (unit : Nat) : (countCorrected s unit).mem = s.mem := by
  unfold countCorrected
  split <;> rfl

@[simp] theorem lineError_wfIf (s : State) (pa : Nat) (hs : WfIf p s.mem) : WfIf p (lineError s pa).mem := by
  unfold lineError
  simp [hs]

@[simp] theorem execLinkDown_lands (l : LinkName) (s : State) (hs : WfIf p s.mem) : Lands p (execLinkDown l s) := by
  simp only [execLinkDown, lands_next]
  exact foldl_wfIf (fun s j h => endJob_wfIf s j _ h) (by simp [hs]) _

@[simp] theorem execLinkUp_lands (l : LinkName) (s : State) (hs : WfIf p s.mem) : Lands p (execLinkUp l s) := by
  unfold execLinkUp
  split <;> simp [hs]

@[simp] theorem sendWired_wfIf (s : State) (machine : Bool) (n : Nat) (hs : WfIf p s.mem) :
    WfIf p (sendWired s machine n).mem := by
  unfold sendWired
  simp [hs]

@[simp] theorem writeAplic_wfIf (s : State) (machine : Bool) (o : Nat) (v : BitVec 32) (hs : WfIf p s.mem) :
    WfIf p (writeAplic s machine o v).mem := by
  unfold writeAplic
  dsimp only
  split <;> simp [hs]

@[simp] theorem outsideStore_wfIf (s : State) (pa : Nat) (b : List Byte) (hs : WfIf p s.mem) :
    WfIf p (outsideStore s pa b).mem := by
  unfold outsideStore
  (repeat' split) <;> simp [hs]

@[simp] theorem postWrite_mem (s : State) (r : InboundRequest) : (postWrite s r).mem = s.mem := by rfl

@[simp] theorem performInbound_wfIf (s : State) (r : InboundRequest) (hs : WfIf p s.mem) :
    WfIf p (performInbound s r).mem := by
  unfold performInbound
  dsimp only
  (repeat' split) <;> simp [hs]

@[simp] theorem performPosted_wfIf (s : State) (k : Nat) (hs : WfIf p s.mem) : WfIf p (performPosted s k).mem := by
  unfold performPosted
  split <;> simp [hs]

@[simp] theorem execPcieInboundRequest_lands (r : InboundRequest) (s : State) (hs : WfIf p s.mem) :
    Lands p (execPcieInboundRequest r s) := by
  unfold execPcieInboundRequest
  simp [hs]

/-! Reset. -/

/-- Boot after its draw of random bytes, with the search for a component that does not verify left open: evaluating that
search is what the proof about `boot` keeps clear of. -/
def bootAfter (find : (Nat → Bool) → List Nat → Option Nat) (s : State) : State :=
  match find (fun i => !stageVerifies s i) bootStages with
  | some i => { s with hub := { s.hub with bootCode := i + 1 } }
  | none => { s with
      sec := { s.sec with measure := bootStages.foldl (measureStage s.plate) 0 }
      hub := { s.hub with ready := bootReady, bootCode := 0 } }

theorem bootAfter_mem (find : (Nat → Bool) → List Nat → Option Nat) (s : State) : (bootAfter find s).mem = s.mem := by
  unfold bootAfter
  generalize find _ bootStages = o
  cases o with
  | none => rfl
  | some i => rfl

/-- The states that hold the bytes `m`. -/
def HasMem (m : List Host.Cell) (t : State) : Prop := t.mem = m

theorem hasMem_bootAfter {find : (Nat → Bool) → List Nat → Option Nat} (s : State)
    (h : HasMem s.mem (have s := { s with sec := { s.sec with nonceSeed := s.n }, n := s.n + 1 }; bootAfter find s)) :
    HasMem s.mem (have s := { s with sec := { s.sec with nonceSeed := s.n }, n := s.n + 1 }
      match find (fun i => !stageVerifies s i) bootStages with
      | some i => { s with hub := { s.hub with bootCode := i + 1 } }
      | none => { s with
          sec := { s.sec with measure := bootStages.foldl (measureStage s.plate) 0 }
          hub := { s.hub with ready := bootReady, bootCode := 0 } }) := h

/-- Boot, as a function, is `bootAfter` of the library's search. -/
theorem boot_shape {P : State → State → Prop}
    (h : ∀ (find : (Nat → Bool) → List Nat → Option Nat) (s : State),
      P s (have s := { s with sec := { s.sec with nonceSeed := s.n }, n := s.n + 1 }
        match find (fun i => !stageVerifies s i) bootStages with
        | some i => { s with hub := { s.hub with bootCode := i + 1 } }
        | none => { s with
            sec := { s.sec with measure := bootStages.foldl (measureStage s.plate) 0 }
            hub := { s.hub with ready := bootReady, bootCode := 0 } }))
    {f : State → State} (hf : f = boot) (s : State) : P s (f s) := by
  delta boot at hf
  generalize @List.find? Nat = find at hf
  rw [hf]
  exact h find s

@[simp] theorem boot_mem (s : State) : (boot s).mem = s.mem :=
  boot_shape (P := fun s t => HasMem s.mem t) (fun find s => hasMem_bootAfter s (bootAfter_mem find _)) rfl s

@[simp] theorem warmReset_wfIf (s : State) (orderly : Bool) (hs : WfIf p s.mem) : WfIf p
    (warmReset s orderly).mem := by
  have hl (l : List Nat) (m : List Host.Cell) (hm : WfIf p m) :
      WfIf p (l.foldl (fun m a => Tab.set 0 a (Config.lostByte s.n a) m) m) := by
    induction l generalizing m with
    | nil => exact hm
    | cons a r ih => exact ih _ (set_wfIf _ _ _ hm)
  simp only [warmReset, boot_mem]
  exact hl _ _ (filter_wfIf _ _ hs)

@[simp] theorem execResetOrderlyWarm_lands (s : State) (hs : WfIf p s.mem) : Lands p (execResetOrderlyWarm s) := by
  unfold execResetOrderlyWarm
  simp [hs]

@[simp] theorem execResetWarm_lands (s : State) (hs : WfIf p s.mem) : Lands p (execResetWarm s) := by
  unfold execResetWarm
  simp [hs]

@[simp] theorem execMgmtWarmReset_lands (orderly : Bool) (s : State) (hs : WfIf p s.mem) :
    Lands p (execMgmtWarmReset orderly s) := by
  unfold execMgmtWarmReset
  simp [hs]

@[simp] theorem execColdReset_lands (s : State) : Lands p (execColdReset s) := by
  simp only [execColdReset, lands_next, boot_mem]
  exact nil_wfIf

@[simp] theorem setReady_mem (s : State) (b : Nat) : (setReady s b).mem = s.mem := by rfl

@[simp] theorem settleDies_mem (s : State) : (settleDies s).mem = s.mem := by
  unfold settleDies
  simp

@[simp] theorem execUcieLinkTrained_lands (n : Nat) (s : State) (hs : WfIf p s.mem) :
    Lands p (execUcieLinkTrained n s) := by
  unfold execUcieLinkTrained
  split <;> simp [hs]

@[simp] theorem execStackTrainingComplete_lands (n : Nat) (pass : Bool) (s : State) (hs : WfIf p s.mem) :
    Lands p (execStackTrainingComplete n pass s) := by
  unfold execStackTrainingComplete
  split <;> simp [hs]

@[simp] theorem execPciePortReady_lands (n : Nat) (s : State) (hs : WfIf p s.mem) :
    Lands p (execPciePortReady n s) := by
  unfold execPciePortReady
  split <;> simp [hs]

@[simp] theorem writeResetctl_lands (v : Word) (s : State) (hs : WfIf p s.mem) : Lands p (writeResetctl v s) := by
  unfold writeResetctl
  split <;> simp [hs]

@[simp] theorem writeMbcmd_lands (v : Word) (s : State) (hs : WfIf p s.mem) : Lands p (writeMbcmd v s) := by
  unfold writeMbcmd
  split <;> simp [hs]

@[simp] theorem execRegisterWrite_lands (pa : Nat) (v : Word) (s : State) (hs : WfIf p s.mem) :
    Lands p (execRegisterWrite pa v s) := by
  unfold execRegisterWrite
  (repeat' split) <;> simp [hs]

@[simp] theorem unitStore_wfIf (s : State) (pa : Nat) (b : List Byte) (hs : WfIf p s.mem) :
    WfIf p (unitStore s pa b).mem := by
  unfold unitStore
  simp [hs]

@[simp] theorem execApplicationCoreStore_lands (pa : Nat) (b : List Byte) (s : State) (hs : WfIf p s.mem) :
    Lands p (execApplicationCoreStore pa b s) := by
  unfold execApplicationCoreStore
  split <;> split <;> simp [hs]

/-! Management. -/

@[simp] theorem letRun_wfIf (s : State) (h : Nat) (steps : Bool) (hs : WfIf p s.mem) :
    WfIf p (letRun s h steps).mem := by
  unfold letRun
  simp [hs]

@[simp] theorem haltNow_wfIf (s : State) (h : Nat) (hs : WfIf p s.mem) : WfIf p (haltNow s h).mem := by
  unfold haltNow
  simp [hs]

@[simp] theorem haltHart_wfIf (s : State) (h : Nat) (hs : WfIf p s.mem) : WfIf p (haltHart s h).mem := by
  unfold haltHart
  simp [hs]

@[simp] theorem execMgmtHalt_lands (u : UnitName) (s : State) (hs : WfIf p s.mem) : Lands p (execMgmtHalt u s) := by
  simp only [execMgmtHalt, lands_next]
  exact foldl_wfIf (fun s e h => haltHart_wfIf s e.1 h) hs _

@[simp] theorem execMgmtResume_lands (h : Nat) (s : State) (hs : WfIf p s.mem) : Lands p (execMgmtResume h s) := by
  unfold execMgmtResume
  split <;> simp [hs]

@[simp] theorem execMgmtStep_lands (h : Nat) (s : State) (hs : WfIf p s.mem) : Lands p (execMgmtStep h s) := by
  unfold execMgmtStep
  split <;> simp [hs]

@[simp] theorem writeBank_mem (s : State) (h b o : Nat) (v : Word) : (writeBank s h b o v).mem = s.mem := by rfl

@[simp] theorem putVariable_mem (s : State) (h o : Nat) (v : Word) : (putVariable s h o v).mem = s.mem := by
  unfold putVariable
  dsimp only
  (repeat' split) <;> simp

@[simp] theorem writeVconf_mem (s : State) (h : Nat) (v : Word) : (writeVconf s h v).mem = s.mem := by
  unfold writeVconf
  split <;> simp

@[simp] theorem writeOslots_mem (s : State) (h : Nat) (v : Word) : (writeOslots s h v).mem = s.mem := by
  unfold writeOslots
  simp

@[simp] theorem writeAccst_mem (s : State) (h : Nat) (v : Word) : (writeAccst s h v).mem = s.mem := by
  unfold writeAccst
  simp

@[simp] theorem writeTether_mem (s : State) (h t : Nat) (v : Word) : (writeTether s h t v).mem = s.mem := by
  unfold writeTether
  dsimp only
  (repeat' split) <;> simp

@[simp] theorem execMgmtWriteState_lands (h off : Nat) (v : Word) (s : State) (hs : WfIf p s.mem) :
    Lands p (execMgmtWriteState h off v s) := by
  unfold execMgmtWriteState
  (repeat' split) <;> simp [hs]

/-! Spoil. -/

@[simp] theorem spoiledTrap_wfIf (s : State) (i : Instr) (hs : WfIf p s.mem) : WfIf p (spoiledTrap s i).mem := by
  unfold spoiledTrap
  simp [hs]

@[simp] theorem runUpset_wfIf (s : State) (u : Upset) (hs : WfIf p s.mem) : WfIf p (runUpset s u).mem := by
  unfold runUpset
  split <;> split <;> simp [hs]

/-! Ahead. -/

@[simp] theorem grantLease_mem (s : State) (h : Nat) (vector : Bool) (vas : List Nat) (uses : Nat) :
    (grantLease s h vector vas uses).mem = s.mem := by
  unfold grantLease
  simp

@[simp] theorem readForJob_mem (s : State) (h : Nat) (vas : List Nat) : (readForJob s h vas).mem = s.mem := by
  unfold readForJob
  simp

@[simp] theorem performAhead_wfIf (s : State) (h : Nat) (vector : Bool) (va : Nat) (b : List Byte)
    (hs : WfIf p s.mem) :
    WfIf p (performAhead s h vector va b).mem := by
  unfold performAhead
  dsimp only
  (repeat' split) <;> simp [hs]

/-! Schedule. -/

@[simp] theorem drained_wfIf (s : State) (i : Instr) (hs : WfIf p s.mem) : WfIf p (drained s i).mem := by
  unfold drained
  simp [hs]

@[simp] theorem freshened_mem (s : State) (i : Instr) : (freshened s i).mem = s.mem := by
  unfold freshened
  (repeat' split) <;> simp

@[simp] theorem prepared_wfIf (s : State) (i : Instr) (hs : WfIf p s.mem) : WfIf p (prepared s i).mem := by
  unfold prepared
  simp [hs]

@[simp] theorem performElement_wfIf (s : State) (h : Nat) (vector : Bool) (k : Nat) (hs : WfIf p s.mem) :
    WfIf p (performElement s h vector k).mem := by
  unfold performElement
  dsimp only
  split
  · exact hs
  · split
    · exact hs
    · split
      · exact hs
      · split
        · exact hs
        · exact performOne_wfIf _ _ _ _ hs

@[simp] theorem setLag_wfIf (s : State) (h : Nat) (on : Bool) (hs : WfIf p s.mem) : WfIf p (setLag s h on).mem := by
  unfold setLag
  simp [hs]

theorem fetched_mem {s t : State} (h : fetched s = some t) : t.mem = s.mem := by
  unfold fetched at h
  split at h
  · cases h
  · split at h
    · obtain rfl := Option.some.inj h
      simp
    · cases h

@[simp] theorem loopEndOf_wfIf (whole : Bool) (before after : State) (h : Nat) (hbefore : WfIf p before.mem)
    (hafter : WfIf p after.mem) : WfIf p (loopEndOf whole before after h).mem := by
  unfold loopEndOf
  dsimp only
  split
  · split
    · split
      · exact hafter
      · refine trap_wfIf _ _ _ ?_
        rw [awake_mem]
        change WfIf p (withdraw (if whole then before else after.setHart h (before.hart h)) h).mem
        rw [withdraw_mem]
        split
        · exact hbefore
        · exact hafter
    · exact hafter
  · exact hafter

@[simp] theorem loopEnds_wfIf (whole : Bool) (before after : State) (l : List Nat) (hbefore : WfIf p before.mem)
    (hafter : WfIf p after.mem) : WfIf p (loopEnds whole before after l).mem :=
  foldl_wfIf (fun t h ht => loopEndOf_wfIf whole before t h hbefore ht) hafter l

@[simp] theorem enteredOf_wfIf (before after : State) (h : Nat) (hbefore : WfIf p before.mem)
    (hafter : WfIf p after.mem) :
    WfIf p (enteredOf before after h).mem := by
  unfold enteredOf
  simp [hafter]

@[simp] theorem afterStep_wfIf (h : Option Nat) (whole : Bool) (before after : State) (hbefore : WfIf p before.mem)
    (hafter : WfIf p after.mem) : WfIf p (afterStep h whole before after).mem := by
  unfold afterStep
  refine foldl_wfIf (fun t k ht => enteredOf_wfIf _ t k hbefore ht) (loopEnds_wfIf _ _ _ _ hbefore ?_) _
  split
  · exact loopEndOf_wfIf _ _ _ _ hbefore hafter
  · exact hafter

@[simp] theorem tickTimes_wfIf (before after : State) (hbefore : WfIf p before.mem) (hafter : WfIf p after.mem) :
    WfIf p (tickTimes before after).mem := by
  unfold tickTimes
  simp [hafter]

@[simp] theorem haltAgain_wfIf (before after : State) (hbefore : WfIf p before.mem) (hafter : WfIf p after.mem) :
    WfIf p (haltAgain before after).mem := by
  unfold haltAgain
  simp [hafter]

@[simp] theorem haltOther_wfIf (before after : State) (h : Nat) (hbefore : WfIf p before.mem)
    (hafter : WfIf p after.mem) :
    WfIf p (haltOther before after h).mem := by
  unfold haltOther
  simp [hafter]

@[simp] theorem afterHart_wfIf (before after : State) (hbefore : WfIf p before.mem) (hafter : WfIf p after.mem) :
    WfIf p (afterHart before after).mem := by
  unfold afterHart
  simp [hbefore, hafter]

@[simp] theorem settle_wfIf (before after : State) (hbefore : WfIf p before.mem) (hafter : WfIf p after.mem) :
    WfIf p (settle before after).mem := by
  have he (l : List Nat) (t : State) (ht : WfIf p t.mem) : WfIf p (l.foldl (enteredOf after) t).mem :=
    foldl_wfIf (fun t h ht => enteredOf_wfIf after t h hafter ht) ht l
  have hh (l : List Nat) (t : State) (ht : WfIf p t.mem) : WfIf p (l.foldl (haltOther before) t).mem :=
    foldl_wfIf (fun t h ht => haltOther_wfIf before t h hbefore ht) ht l
  have hw := sweep_wfIf after hafter
  unfold settle
  dsimp only
  split <;> split <;> simp only [hw, he, hh]

/-! The instructions, the events, the moves and the step. -/

@[simp] theorem execVstrmx_lands (o : VMOps) (s : State) (hs : WfIf p s.mem) : Lands p (execVstrmx o s) := by
  refine streamEnter_lands _ _ _ _ hs fun s q i j hs => ?_
  dsimp only
  split
  · next h => exact streamLater_lands hs h
  · exact caughtUp_lands _ _ _ hs fun t ht => streamStore_lands _ _ _ _ _ ht

/-- Every instruction and every named event has a next state, and keeps memory canonical. -/
theorem exec_lands (i : Instr) (s : State) (hs : WfIf p s.mem) : Lands p (exec i s) := by
  cases i with
  | add d a b => exact execAdd_lands d a b s hs
  | sub d a b => exact execSub_lands d a b s hs
  | mul d a b => exact execMul_lands d a b s hs
  | mulh d a b => exact execMulh_lands d a b s hs
  | mulhn d a b => exact execMulhn_lands d a b s hs
  | div d a b => exact execDiv_lands d a b s hs
  | divn d a b => exact execDivn_lands d a b s hs
  | rem d a b => exact execRem_lands d a b s hs
  | remn d a b => exact execRemn_lands d a b s hs
  | and d a b => exact execAnd_lands d a b s hs
  | or d a b => exact execOr_lands d a b s hs
  | xor d a b => exact execXor_lands d a b s hs
  | shl d a b => exact execShl_lands d a b s hs
  | shr d a b => exact execShr_lands d a b s hs
  | sra d a b => exact execSra_lands d a b s hs
  | rot d a b => exact execRot_lands d a b s hs
  | slt d a b => exact execSlt_lands d a b s hs
  | sltn d a b => exact execSltn_lands d a b s hs
  | min d a b => exact execMin_lands d a b s hs
  | max d a b => exact execMax_lands d a b s hs
  | minn d a b => exact execMinn_lands d a b s hs
  | maxn d a b => exact execMaxn_lands d a b s hs
  | clmul d a b => exact execClmul_lands d a b s hs
  | clmulh d a b => exact execClmulh_lands d a b s hs
  | clz d a => exact execClz_lands d a s hs
  | ctz d a => exact execCtz_lands d a s hs
  | pop d a => exact execPop_lands d a s hs
  | sext d a w => exact execSext_lands d a w s hs
  | zext d a w => exact execZext_lands d a w s hs
  | addi d a imm => exact execAddi_lands d a imm s hs
  | andi d a imm => exact execAndi_lands d a imm s hs
  | ori d a imm => exact execOri_lands d a imm s hs
  | xori d a imm => exact execXori_lands d a imm s hs
  | shli d a imm => exact execShli_lands d a imm s hs
  | shri d a imm => exact execShri_lands d a imm s hs
  | srai d a imm => exact execSrai_lands d a imm s hs
  | slti d a imm => exact execSlti_lands d a imm s hs
  | limm d imm => exact execLimm_lands d imm s hs
  | addpc d imm => exact execAddpc_lands d imm s hs
  | sel d c a b => exact execSel_lands d c a b s hs
  | fadd o => exact execFadd_lands o s hs
  | fsub o => exact execFsub_lands o s hs
  | fmul o => exact execFmul_lands o s hs
  | ffma o => exact execFfma_lands o s hs
  | fcvt o => exact execFcvt_lands o s hs
  | fcmp o => exact execFcmp_lands o s hs
  | beq a b t => exact execBeq_lands a b t s hs
  | bne a b t => exact execBne_lands a b t s hs
  | blt a b t => exact execBlt_lands a b t s hs
  | bge a b t => exact execBge_lands a b t s hs
  | bltn a b t => exact execBltn_lands a b t s hs
  | bgen a b t => exact execBgen_lands a b t s hs
  | jmp t => exact execJmp_lands t s hs
  | call t => exact execCall_lands t s hs
  | jmpr d a => exact execJmpr_lands d a s hs
  | loop c a t => exact execLoop_lands c a t s hs
  | loopm c a t stages => exact execLoopm_lands c a t stages s hs
  | loopi c count t => exact execLoopi_lands c count t s hs
  | nop => exact execNop_lands s hs
  | next => exact execNext_lands s hs
  | halt => exact execHalt_lands s hs
  | eret => exact execEret_lands s hs
  | ill => exact execIll_lands s hs
  | yield => exact execYield_lands s hs
  | fence => exact execFence_lands s hs
  | fenceSv => exact execFenceSv_lands s hs
  | fenceVs => exact execFenceVs_lands s hs
  | vdrain => exact execVdrain_lands s hs
  | trap imm => exact execTrap_lands imm s hs
  | srr d n => exact execSrr_lands d n s hs
  | srw a n => exact execSrw_lands a n s hs
  | ld o => exact execLd_lands o s hs
  | st o => exact execSt_lands o s hs
  | pref o => exact execPref_lands o s hs
  | amoAdd d a v sz => exact execAmoAdd_lands d a v sz s hs
  | amoAnd d a v sz => exact execAmoAnd_lands d a v sz s hs
  | amoOr d a v sz => exact execAmoOr_lands d a v sz s hs
  | amoXor d a v sz => exact execAmoXor_lands d a v sz s hs
  | amoMin d a v sz => exact execAmoMin_lands d a v sz s hs
  | amoMax d a v sz => exact execAmoMax_lands d a v sz s hs
  | amoMinn d a v sz => exact execAmoMinn_lands d a v sz s hs
  | amoMaxn d a v sz => exact execAmoMaxn_lands d a v sz s hs
  | amoSwap d a v sz => exact execAmoSwap_lands d a v sz s hs
  | amoFadd d a v sz => exact execAmoFadd_lands d a v sz s hs
  | cas d a e n sz => exact execCas_lands d a e n sz s hs
  | waitw v a m cc sz code => exact execWaitw_lands v a m cc sz code s hs
  | waitSatisfied hart => exact execWaitSatisfied_lands hart s hs
  | watchPoll hart => exact execWatchPoll_lands hart s hs
  | waitBoundExpired hart => exact execWaitBoundExpired_lands hart s hs
  | pbinit c a => exact execPbinit_lands c a s hs
  | pbarr d a => exact execPbarr_lands d a s hs
  | pbexp b a => exact execPbexp_lands b a s hs
  | pbwait p a code => exact execPbwait_lands p a code s hs
  | pbwaitComplete hart => exact execPbwaitComplete_lands hart s hs
  | vcfg count shares ew => exact execVcfg_lands count shares ew s hs
  | shareGrant core => exact execShareGrant_lands core s hs
  | vsetl d a => exact execVsetl_lands d a s hs
  | vsetr d a => exact execVsetr_lands d a s hs
  | vrel => exact execVrel_lands s hs
  | gang d a => exact execGang_lands d a s hs
  | gangTimeout hart => exact execGangTimeout_lands hart s hs
  | mand d a b => exact execMand_lands d a b s hs
  | mor d a b => exact execMor_lands d a b s hs
  | mxor d a b => exact execMxor_lands d a b s hs
  | mnot d a => exact execMnot_lands d a s hs
  | mset d a => exact execMset_lands d a s hs
  | mpop d a => exact execMpop_lands d a s hs
  | mfirst d a => exact execMfirst_lands d a s hs
  | mmov d a => exact execMmov_lands d a s hs
  | vadd o => exact execVadd_lands o s hs
  | vsub o => exact execVsub_lands o s hs
  | vmul o => exact execVmul_lands o s hs
  | vfma o => exact execVfma_lands o s hs
  | vfms o => exact execVfms_lands o s hs
  | vdiv o => exact execVdiv_lands o s hs
  | vsqrt o => exact execVsqrt_lands o s hs
  | vrsq o => exact execVrsq_lands o s hs
  | vexp2 o => exact execVexp2_lands o s hs
  | vmin o => exact execVmin_lands o s hs
  | vmax o => exact execVmax_lands o s hs
  | vabs o => exact execVabs_lands o s hs
  | vneg o => exact execVneg_lands o s hs
  | vand o => exact execVand_lands o s hs
  | vor o => exact execVor_lands o s hs
  | vxor o => exact execVxor_lands o s hs
  | vshl o => exact execVshl_lands o s hs
  | vshr o => exact execVshr_lands o s hs
  | vsra o => exact execVsra_lands o s hs
  | vclmul o => exact execVclmul_lands o s hs
  | vdot o => exact execVdot_lands o s hs
  | vhad o => exact execVhad_lands o s hs
  | vcvt o => exact execVcvt_lands o s hs
  | vaddVs o => exact execVaddVs_lands o s hs
  | vsubVs o => exact execVsubVs_lands o s hs
  | vmulVs o => exact execVmulVs_lands o s hs
  | vfmaVs o => exact execVfmaVs_lands o s hs
  | vfmsVs o => exact execVfmsVs_lands o s hs
  | vdivVs o => exact execVdivVs_lands o s hs
  | vminVs o => exact execVminVs_lands o s hs
  | vmaxVs o => exact execVmaxVs_lands o s hs
  | vandVs o => exact execVandVs_lands o s hs
  | vorVs o => exact execVorVs_lands o s hs
  | vxorVs o => exact execVxorVs_lands o s hs
  | vshlVs o => exact execVshlVs_lands o s hs
  | vshrVs o => exact execVshrVs_lands o s hs
  | vsraVs o => exact execVsraVs_lands o s hs
  | vclmulVs o => exact execVclmulVs_lands o s hs
  | vdotVs o => exact execVdotVs_lands o s hs
  | vsel o => exact execVsel_lands o s hs
  | vmv o => exact execVmv_lands o s hs
  | vbcast o => exact execVbcast_lands o s hs
  | vslide o => exact execVslide_lands o s hs
  | vperm o => exact execVperm_lands o s hs
  | viota o => exact execViota_lands o s hs
  | vcmp o => exact execVcmp_lands o s hs
  | vred o => exact execVred_lands o s hs
  | vld o => exact execVld_lands o s hs
  | vlds o => exact execVlds_lands o s hs
  | vldx o => exact execVldx_lands o s hs
  | vldff o => exact execVldff_lands o s hs
  | vldt o => exact execVldt_lands o s hs
  | vpref o => exact execVpref_lands o s hs
  | vst o => exact execVst_lands o s hs
  | vsts o => exact execVsts_lands o s hs
  | vstx o => exact execVstx_lands o s hs
  | vamo o => exact execVamo_lands o s hs
  | vlock o => exact execVlock_lands o s hs
  | vunlock o => exact execVunlock_lands o s hs
  | stmap o => exact execStmap_lands o s hs
  | stwb o => exact execStwb_lands o s hs
  | stunmap o => exact execStunmap_lands o s hs
  | oclaim o => exact execOclaim_lands o s hs
  | orel o => exact execOrel_lands o s hs
  | oldv o => exact execOldv_lands o s hs
  | opa o => exact execOpa_lands o s hs
  | aclaim o => exact execAclaim_lands o s hs
  | arel o => exact execArel_lands o s hs
  | aclr o => exact execAclr_lands o s hs
  | axt o => exact execAxt_lands o s hs
  | asave o => exact execAsave_lands o s hs
  | aload o => exact execAload_lands o s hs
  | vcopy o => exact execVcopy_lands o s hs
  | vcopyJob o => exact execVcopyJob_lands o s hs
  | vcopyx o => exact execVcopyx_lands o s hs
  | jobStart job n => exact execJobStart_lands job n s hs
  | jobComplete job => exact execJobComplete_lands job s hs
  | remoteAccessTimeout job => exact execRemoteAccessTimeout_lands job s hs
  | collectiveJoinTimeout job => exact execCollectiveJoinTimeout_lands job s hs
  | remoteAccessReceived r => exact execRemoteAccessReceived_lands r s hs
  | vstrm o => exact execVstrm_lands o s hs
  | vstrmx o => exact execVstrmx_lands o s hs
  | waitk set => exact execWaitk_lands set s hs
  | cwp d k => exact execCwp_lands d k s hs
  | topen d a t => exact execTopen_lands d a t s hs
  | trel t => exact execTrel_lands t s hs
  | tstat d t => exact execTstat_lands d t s hs
  | refreshCloseRow row => exact execRefreshCloseRow_lands row s hs
  | tetherReopened row => exact execTetherReopened_lands row s hs
  | qinit a t => exact execQinit_lands a t s hs
  | enq v a z code => exact execEnq_lands v a z code s hs
  | deq d a z code => exact execDeq_lands d a z code s hs
  | venq v a m code => exact execVenq_lands v a m code s hs
  | vdeq d a m code => exact execVdeq_lands d a m code s hs
  | spoolReservationGrant q => exact execSpoolReservationGrant_lands q s hs
  | spoolTakingGrant q => exact execSpoolTakingGrant_lands q s hs
  | enqt v a z p => exact execEnqt_lands v a z p s hs
  | deqt d a z p => exact execDeqt_lands d a z p s hs
  | qstat d a => exact execQstat_lands d a s hs
  | spoolNotifyDelay q => exact execSpoolNotifyDelay_lands q s hs
  | doorbellStore pa v => exact execDoorbellStore_lands pa v s hs
  | headLatchStore pa v => exact execHeadLatchStore_lands pa v s hs
  | spawn r => exact execSpawn_lands r s hs
  | joinw j => exact execJoinw_lands j s hs
  | launch d q p => exact execLaunch_lands d q p s hs
  | jstat d q n => exact execJstat_lands d q n s hs
  | cancel q n => exact execCancel_lands q n s hs
  | tlbinv a b => exact execTlbinv_lands a b s hs
  | stagePrefix p => exact execStagePrefix_lands p s hs
  | takePacket spool => exact execTakePacket_lands spool s hs
  | dispatchPacket spool => exact execDispatchPacket_lands spool s hs
  | placementMessage pkt cluster => exact execPlacementMessage_lands pkt cluster s hs
  | gondolaCopyMessage cluster => exact execGondolaCopyMessage_lands cluster s hs
  | startClusterGroup cluster cores => exact execStartClusterGroup_lands cluster cores s hs
  | startTask cluster hart => exact execStartTask_lands cluster hart s hs
  | packetComplete pkt => exact execPacketComplete_lands pkt s hs
  | wakeComplete u => exact execWakeComplete_lands u s hs
  | gateCluster cluster => exact execGateCluster_lands cluster s hs
  | gateDie die => exact execGateDie_lands die s hs
  | preemptStarvation cluster => exact execPreemptStarvation_lands cluster s hs
  | preemptRequest hart => exact execPreemptRequest_lands hart s hs
  | resumeHartGroup group => exact execResumeHartGroup_lands group s hs
  | faultRecordWrite => exact execFaultRecordWrite_lands s hs
  | faultreplyResume index => exact execFaultreplyResume_lands index s hs
  | faultreplyKill index => exact execFaultreplyKill_lands index s hs
  | invpage => exact execInvpage_lands s hs
  | invasid => exact execInvasid_lands s hs
  | invall => exact execInvall_lands s hs
  | ctxload => exact execCtxload_lands s hs
  | ctxdestroy => exact execCtxdestroy_lands s hs
  | watchElement => exact execWatchElement_lands s hs
  | watchEntryFired entry => exact execWatchEntryFired_lands entry s hs
  | lspoolRegister v => exact execLspoolRegister_lands v s hs
  | lspoolRemove v => exact execLspoolRemove_lands v s hs
  | resetOrderlyWarm => exact execResetOrderlyWarm_lands s hs
  | resetWarm => exact execResetWarm_lands s hs
  | keelRestart => exact execKeelRestart_lands s hs
  | keelHeartbeatTimeout => exact execKeelHeartbeatTimeout_lands s hs
  | keelRestartComplete => exact execKeelRestartComplete_lands s hs
  | devidsetWrite v => exact execDevidsetWrite_lands v s hs
  | gatectlWrite v => exact execGatectlWrite_lands v s hs
  | registerWrite pa v => exact execRegisterWrite_lands pa v s hs
  | quote => exact execQuote_lands s hs
  | extend => exact execExtend_lands s hs
  | identity => exact execIdentity_lands s hs
  | plateupd => exact execPlateupd_lands s hs
  | mailboxComplete => exact execMailboxComplete_lands s hs
  | thermalStepEval r => exact execThermalStepEval_lands r s hs
  | patrolScrub pa bad => exact execPatrolScrub_lands pa bad s hs
  | uncorrectableError pa => exact execUncorrectableError_lands pa s hs
  | linkDown l => exact execLinkDown_lands l s hs
  | pcieInboundRequest r => exact execPcieInboundRequest_lands r s hs
  | mgmtHalt u => exact execMgmtHalt_lands u s hs
  | mgmtResume hart => exact execMgmtResume_lands hart s hs
  | mgmtStep hart => exact execMgmtStep_lands hart s hs
  | mgmtWriteState hart off v => exact execMgmtWriteState_lands hart off v s hs
  | mgmtWarmReset orderly => exact execMgmtWarmReset_lands orderly s hs
  | coldReset => exact execColdReset_lands s
  | ucieLinkTrained n => exact execUcieLinkTrained_lands n s hs
  | stackTrainingComplete n pass => exact execStackTrainingComplete_lands n pass s hs
  | pciePortReady n => exact execPciePortReady_lands n s hs
  | fetchFault => exact execFetchFault_lands s hs
  | unallocatedEncoding => exact execUnallocatedEncoding_lands s hs
  | applicationCoreStore pa bytes => exact execApplicationCoreStore_lands pa bytes s hs
  | linkUp l => exact execLinkUp_lands l s hs

theorem execChecked_lands (i : Instr) (s : State) (hs : WfIf p s.mem) : Lands p (execChecked i s) := by
  unfold execChecked
  split
  · simp [hs]
  · exact exec_lands i s hs

theorem fetched_wfIf {s t : State} (hs : WfIf p s.mem) (h : fetched s = some t) : WfIf p t.mem := by
  rw [fetched_mem h]
  exact hs

theorem runSlot_lands (s : State) (hs : WfIf p s.mem) : Lands p (runSlot s) := by
  unfold runSlot
  split
  · split
    · simp [hs]
    · exact execChecked_lands _ _ (prepared_wfIf _ _ hs)
  · exact exec_lands _ _ hs

theorem runFetched_lands (s : State) (hs : WfIf p s.mem) : Lands p (runFetched s) := by
  unfold runFetched
  split
  · next h => exact runSlot_lands _ (fetched_wfIf hs h)
  · exact exec_lands _ _ hs

theorem runOne_lands (s : State) (hs : WfIf p s.mem) : Lands p (runOne s) := by
  unfold runOne
  split
  · exact runFetched_lands _ (by simp [hs])
  · exact runSlot_lands _ (by simp [hs])
  · exact runSlot_lands _ hs
  · exact runFetched_lands _ hs

theorem runQualified_lands (s : State) (hs : WfIf p s.mem) : Lands p (runQualified s) := by
  unfold runQualified
  split
  · exact runSlot_lands _ hs
  · exact (lands_next _).mpr hs

theorem runBoth_lands (s : State) (hs : WfIf p s.mem) : Lands p (runBoth s) := by
  unfold runBoth
  obtain ⟨t, e, ht⟩ := runOne_lands s hs
  rw [e]
  have ha : WfIf p (afterStep (some s.cur) false s t).mem := afterStep_wfIf _ _ _ _ hs ht
  obtain ⟨u, f, hu⟩ := runQualified_lands _ ha
  dsimp only
  rw [f]
  refine (lands_next _).mpr (afterHart_wfIf _ _ hs ?_)
  split
  · exact afterStep_wfIf _ _ _ _ ha hu
  · exact hu

theorem runHart_lands (s : State) (h : Nat) (hs : WfIf p s.mem) : Lands p (runHart s h) := by
  unfold runHart
  dsimp only
  split
  · exact (lands_next _).mpr hs
  · split
    · simp [hs]
    · exact runBoth_lands _ hs

/-- A hart stopped inside a vector instruction (16 R410): memory is as the instruction's own run leaves it. -/
theorem stopped_wfIf {s t : State} {h n : Nat} (hs : WfIf p s.mem) (e : stopped s h n = some t) : WfIf p t.mem := by
  unfold stopped at e
  dsimp only at e
  split at e
  · cases e
  · obtain ⟨u, hu, e⟩ := Option.bind_eq_some_iff.mp e
    obtain ⟨i, hi, e⟩ := Option.bind_eq_some_iff.mp e
    have hum : WfIf p u.mem := fetched_wfIf (s := { s with cur := h }) hs hu
    split at e
    · cases e
    · split at e
      · next w hw =>
        obtain ⟨v, hv, hvm⟩ := execChecked_lands i _ (prepared_wfIf _ i (show WfIf p (u.setMe _).mem from hum))
        obtain rfl : v = w := by
          rw [hw] at hv
          exact (Host.Outcome.next.inj hv).symm
        split at e
        · obtain rfl := Option.some.inj e
          exact hvm
        · cases e
      · cases e

theorem performElements_wfIf (s : State) (h n : Nat) (hs : WfIf p s.mem) : WfIf p (performElements s h n).mem := by
  unfold performElements
  split
  · next e => split <;> simp [stopped_wfIf hs e]
  · exact hs

theorem stopInside_wfIf (s : State) (h n : Nat) (hs : WfIf p s.mem) : WfIf p (stopInside s h n).mem := by
  unfold stopInside
  dsimp only
  split
  · split
    · split
      · next e => exact copyCommand_wfIf _ _ (stopped_wfIf hs e)
      · exact hs
    · exact hs
  · exact hs

theorem haltInside_wfIf (s : State) (h n : Nat) (hs : WfIf p s.mem) : WfIf p (haltInside s h n).mem := by
  unfold haltInside
  split
  · next e => exact haltHart_wfIf _ _ (stopped_wfIf hs e)
  · exact hs

/-- Every move has a next state, and keeps memory canonical. -/
theorem moveOf_lands (s : State) (m : Move) (hs : WfIf p s.mem) : Lands p (moveOf s m) := by
  cases m with
  | hart h => exact runHart_lands s h hs
  | event i =>
    obtain ⟨t, e, ht⟩ := exec_lands i s hs
    simp only [moveOf, e]
    split
    · exact (lands_next _).mpr (afterStep_wfIf _ _ _ _ hs ht)
    · exact (lands_next _).mpr hs
  | remote k => exact retryRemote_lands s k hs
  | element h n => exact (lands_next _).mpr (performElements_wfIf s h n hs)
  | preemptInside h n => exact (lands_next _).mpr (stopInside_wfIf s h n hs)
  | haltInside h n => exact (lands_next _).mpr (haltInside_wfIf s h n hs)
  | readAhead id n =>
    simp only [moveOf]
    split
    · split <;> simp [hs]
    · simp [hs]
  | _ => simp [moveOf, hs]

theorem gated_lands (s : State) (m : Move) (hs : WfIf p s.mem) : Lands p (gated s m) := by
  unfold gated
  split
  · exact (lands_next _).mpr hs
  · exact moveOf_lands s m hs

theorem runMove_lands (s : State) (m : Move) (hs : WfIf p s.mem) : Lands p (runMove s m) := by
  obtain ⟨t, e, ht⟩ := gated_lands s m hs
  unfold runMove
  rw [e]
  split
  · next h =>
    cases h
    split
    · exact (lands_next _).mpr ht
    · exact (lands_next _).mpr hs
  · exact (lands_next _).mpr ht

theorem nextMove_mem (s : State) : (nextMove s).2.mem = s.mem := by
  unfold nextMove
  split <;> rfl

/-- Every step has a next state, and keeps memory canonical. -/
theorem step_lands (s : State) (hs : WfIf p s.mem) : Lands p (step s) := by
  have hn : WfIf p (nextMove s).2.mem := by
    rw [nextMove_mem]
    exact hs
  unfold step
  split
  · next h =>
    rw [h] at hn
    exact (lands_next _).mpr (settle_wfIf _ _ hn hn)
  · next h =>
    rw [h] at hn
    obtain ⟨u, e, hu⟩ := runMove_lands _ _ hn
    rw [e]
    exact (lands_next _).mpr (settle_wfIf _ _ hn hu)

/-- Settles O55: the step's case of `step_lands`, with the canonical form of the state before it as the condition. -/
theorem stepKeepsCanonical : Obligations.StepKeepsCanonical := by
  intro s t hs h
  obtain ⟨u, e, hu⟩ := step_lands (p := s.canonical) s id
  obtain rfl : u = t := Host.Outcome.next.inj (e.symm.trans h)
  exact hu hs

/-- Settles O57: every move, and so every step, lands in a next state. -/
theorem neverStops : Obligations.NeverStops := by
  intro s
  obtain ⟨t, e, _⟩ := step_lands (p := False) s False.elim
  exact ⟨t, e⟩

end Sys2Proof.Machine
end

section
/-! SUPPORT. The whole machine's simpler statements: the state after reset, words of the opcode map, the laws of memory. -/

namespace Sys2Proof.Machine

/-- Settles O54: the state after reset lists no byte. -/
theorem resetCanonical : Obligations.ResetCanonical := reset_wf

/-- Settles O59, by decoding each word. -/
theorem decodeWords : Obligations.DecodeWords := by
  refine ⟨?_, ?_, ?_, ?_, ?_, ?_, ?_, ?_, ?_⟩ <;> rfl

/-! Tables in canonical form that read alike are equal. -/

/-- A key below every listed one reads the default. -/
theorem Tab.get_below {α : Type} (d : α) (m : SMap α) (k : Nat) (h : ∀ j ∈ m.map (·.1), k < j) : Tab.get d m k = d := by
  induction m with
  | nil => rfl
  | cons e r ih =>
    obtain ⟨j, v⟩ := e
    have hj : k < j := h j (by simp)
    rw [Tab.get, if_neg (by omega)]
    exact ih fun i hi => h i (by simp only [List.map_cons, List.mem_cons]; exact .inr hi)

theorem Tab.get_head {α : Type} (d : α) (k : Nat) (v : α) (m : SMap α) : Tab.get d ((k, v) :: m) k = v := by
  simp [Tab.get]

theorem Tab.get_tail {α : Type} (d : α) (k j : Nat) (v : α) (m : SMap α) (h : j ≠ k) :
    Tab.get d ((k, v) :: m) j = Tab.get d m j := by
  simp [Tab.get, h.symm]

theorem Tab.wf_cons {α : Type} [DecidableEq α] {d : α} {k : Nat} {v : α} {m : SMap α} (h : Tab.wf d ((k, v) :: m) = true) :
    (∀ j ∈ m.map (·.1), k < j) ∧ v ≠ d ∧ Tab.wf d m = true := by
  simp only [Tab.wf, Bool.and_eq_true, Tab.rising_iff, List.map_cons, List.pairwise_cons, List.all_cons] at *
  obtain ⟨⟨hk, hm⟩, hv, hr⟩ := h
  exact ⟨hk, by simpa using hv, hm, hr⟩

/-- Two tables in canonical form that read alike are the same. -/
theorem Tab.ext_of_wf {α : Type} [DecidableEq α] (d : α) (m n : SMap α) (hm : Tab.wf d m = true) (hn : Tab.wf d n = true)
    (h : ∀ k, Tab.get d m k = Tab.get d n k) : m = n := by
  induction m generalizing n with
  | nil =>
    cases n with
    | nil => rfl
    | cons f r =>
      obtain ⟨j, w⟩ := f
      have hw := (Tab.wf_cons hn).2.1
      exact absurd ((h j).trans (Tab.get_head d j w r)).symm hw
  | cons e q ih =>
    obtain ⟨i, v⟩ := e
    obtain ⟨hi, hv, hq⟩ := Tab.wf_cons hm
    cases n with
    | nil => exact absurd ((Tab.get_head d i v q).symm.trans (h i)) hv
    | cons f r =>
      obtain ⟨j, w⟩ := f
      obtain ⟨hj, hw, hr⟩ := Tab.wf_cons hn
      have hij : i = j := by
        rcases Nat.lt_trichotomy i j with hlt | heq | hgt
        · refine absurd ((Tab.get_head d i v q).symm.trans ((h i).trans ?_)) hv
          rw [Tab.get_tail _ _ _ _ _ (by omega)]
          exact Tab.get_below d r i fun k hk => Nat.lt_trans hlt (hj k hk)
        · exact heq
        · refine absurd ((Tab.get_head d j w r).symm.trans ((h j).symm.trans ?_)) hw
          rw [Tab.get_tail _ _ _ _ _ (by omega)]
          exact Tab.get_below d q j fun k hk => Nat.lt_trans hgt (hi k hk)
      subst hij
      have hvw : v = w := by simpa only [Tab.get_head] using h i
      subst hvw
      refine congrArg _ (ih r hq hr fun k => ?_)
      by_cases hk : k = i
      · rw [hk, Tab.get_below d q i hi, Tab.get_below d r i hj]
      · simpa only [Tab.get_tail _ _ _ _ _ hk] using h k

/-- Settles O56, by the laws of the tables that hold memory. -/
theorem memoryLaws : Obligations.MemoryLaws := by
  intro s t l b
  refine ⟨fun i hi => ?_, fun a ha => putMem_other s.mem l b a ha, writeRam_wf s l b, fun hs ht h => ?_⟩
  · rw [List.getD_eq_getElem _ _ hi]
    exact putMem_same s.mem l b i hi
  · exact Tab.ext_of_wf 0 t.mem s.mem ht hs h

/-! Registers, and what falling through changes. -/

/-- Settles O4, by the register laws and by what arriving at a PC changes. -/
theorem registersAndFrame : Obligations.RegistersAndFrame := by
  refine ⟨fun x d r v => ⟨rfl, rfl, Hart.readS_writeS_same x d v, Hart.readS_writeS_other x d r v⟩, fun s f => ?_⟩
  rw [finishWith_me]
  exact ⟨finishWith_onlyMe s f, arrive_completes _ _, arrive_plain _ _⟩

/-! Immediate forms (05 R122 to R125). -/

theorem signExtend_eq_ofInt {w : Nat} (a : BitVec w) (h : w ≤ 64) : (a.signExtend 64 : Word) = BitVec.ofInt 64 a.toInt :=
  eq_ofInt_of_toInt (BitVec.toInt_signExtend_of_le h)

theorem sextImm_toInt (a : BitVec 16) : (sextImm a).toInt = a.toInt := BitVec.toInt_signExtend_of_le (by decide)

theorem zextImm_toNat (a : BitVec 16) : (zextImm a).toNat = a.toNat := BitVec.toNat_setWidth_of_le (by decide)

/-- Settles O2: each form's value by the rule of its register form, the immediate extended. -/
theorem immediateForms : Obligations.ImmediateForms := by
  intro s i d v hs h
  cases i with
  | addi => exact scalarResult_of_value hs h ((aluAddV_eq _ _).trans (by rw [sextImm_toInt]))
  | andi => exact scalarResult_of_value hs h ((aluAndV_eq _ _).trans (by rw [zextImm_toNat]))
  | ori => exact scalarResult_of_value hs h ((aluOrV_eq _ _).trans (by rw [zextImm_toNat]))
  | xori => exact scalarResult_of_value hs h ((aluXorV_eq _ _).trans (by rw [zextImm_toNat]))
  | shli => exact scalarResult_of_value hs h ((aluShlV_eq _ _).trans (by rw [zextImm_toNat]))
  | shri => exact scalarResult_of_value hs h ((aluShrV_eq _ _).trans (by rw [zextImm_toNat]))
  | srai => exact scalarResult_of_value hs h ((aluSraV_eq _ _).trans (by rw [zextImm_toNat]))
  | slti => exact scalarResult_of_value hs h ((aluSltV_eq _ _).trans (by rw [sextImm_toInt]))
  | limm _ a => exact scalarResult_of_value hs h (signExtend_eq_ofInt a (by decide))
  | addpc _ a =>
    refine scalarResult_of_value hs h ?_
    rw [signExtend_eq_ofInt a (by decide), BitVec.ofInt_add, BitVec.ofInt_natCast, BitVec.ofNat_toNat, BitVec.setWidth_eq]
  | sel =>
    refine scalarResult_of_value hs h ?_
    split <;> simp_all
  | _ => exact nomatch h

/-! Broken chains (06 R166). -/

/-- An instruction that may not stand in a chain group breaks the one that is open. -/
theorem unchained_chain {s : State} {g : Chain} (h : s.me.chain = some g) (k : State → Res) :
    unchained s k = .next (takeTrap (s.setMe { s.me with chain := none, vstart := g.vstart }) (trapPc s.me) 0x0F g.first
      (estatOf s s.me true) false true) := by
  simp only [unchained, chainTrap, dropChain, h]

theorem scalarResult_chain {s : State} {g : Chain} (h : s.me.chain = some g) (d : Reg) (v : Word) :
    scalarResult s d v = .next (takeTrap (s.setMe { s.me with chain := none, vstart := g.vstart }) (trapPc s.me) 0x0F g.first
      (estatOf s s.me true) false true) :=
  unchained_chain h _

/-- Settles O16: each of these instructions begins by asking whether a chain group is open. -/
theorem chainBroken : Obligations.ChainBroken := by
  intro s g i hg hi
  obtain hi | hi := hi
  · cases i with
    | add | sub | mul | mulh | mulhn | div | divn | rem | remn | and | or | xor | shl | shr | sra | rot | slt | sltn | min
    | max | minn | maxn | clmul | clmulh | clz | ctz | pop | sext | zext | addi | andi | ori | xori | shli | shri | srai
    | slti | limm | addpc | sel => exact scalarResult_chain hg _ _
    | _ => exact absurd rfl hi
  · simp only [List.mem_cons, List.not_mem_nil, or_false] at hi
    rcases hi with rfl | rfl | rfl | rfl | rfl | rfl | rfl | rfl <;>
      simp only [exec, execNop, execFence, execFenceSv, execFenceVs, execVdrain, execHalt, execEret, execIll, justFinish,
        fenceQueue, privileged, unchained_chain hg]

end Sys2Proof.Machine
end

section
/-! SUPPORT. Control (05 R130 to R140): transfers of the PC, loops and their tests. -/

namespace Sys2Proof.Machine

/-! Transfers. -/

/-- The hart that a transfer leaves, but for its PC. -/
def transferred (x : Hart) (t : Word) (leaves : Bool) (commit : Hart → Hart) : Hart :=
  if leaves then { commit x with
    lc0 := leaveLoop (commit x) (trapPc x) t (commit x).lc0
    lc1 := leaveLoop (commit x) (trapPc x) t (commit x).lc1 } else commit x

theorem transfer_sound {s : State} {t : Word} (h : checkTarget s s.cur t = none) (leaves : Bool) (commit : Hart → Hart) :
    transfer s t leaves commit = s.setMe (arrive (transferred s.me t leaves commit) t) := by
  simp only [transfer, transferred, h]

theorem transfer_early {s : State} {t : Word} {c : Nat} {v : Word} (h : checkTarget s s.cur t = some (c, v, false))
    (leaves : Bool) (commit : Hart → Hart) : transfer s t leaves commit = trap s c v := by
  simp only [transfer, h]

theorem transfer_late {s : State} {t : Word} {c : Nat} {v : Word} (h : checkTarget s s.cur t = some (c, v, true))
    (leaves : Bool) (commit : Hart → Hart) :
    let s' := s.setMe { transferred s.me t leaves commit with pc := t &&& ~~~1, qual := false }
    transfer s t leaves commit = takeTrap s' t c v (estatOf s' s'.me false) false false := by
  simp only [transfer, transferred, h]

theorem transferred_branch (x : Hart) (t : Word) : transferred x t true id = leaveLoops x t := rfl

/-- A branch outside a chain group. -/
theorem branchOn_free {s : State} (hs : free s) (k : Bool) (t : Target) :
    branchOn s k t = .next (if k then transfer s (branchTarget s.me.pc t) true id else finish s) :=
  unchained_free s _ hs

theorem slt_eq_decide (a b : Word) : a.slt b = decide (a.toInt < b.toInt) := rfl

theorem ult_eq_decide (a b : Word) : a.ult b = decide (a.toNat < b.toNat) := rfl

/-- Each branch is `branchOn` of its condition. -/
theorem exec_of_branchOf {s : State} {i : Instr} {k : Bool} {t : Target} (h : branchOf i s.me = some (k, t)) :
    exec i s = branchOn s k t := by
  cases i with
  | beq | blt | bltn | jmp =>
    obtain ⟨rfl, rfl⟩ := Prod.mk.inj (Option.some.inj h)
    rfl
  | bne =>
    obtain ⟨rfl, rfl⟩ := Prod.mk.inj (Option.some.inj h)
    exact congrArg (branchOn s · _) (by rw [bne, decide_not]; rfl)
  | bge | bgen =>
    obtain ⟨rfl, rfl⟩ := Prod.mk.inj (Option.some.inj h)
    exact congrArg (branchOn s · _) (by simp [slt_eq_decide, ult_eq_decide, ← decide_not])
  | _ => exact nomatch h

theorem branches : Claims.Branches := by
  intro s i k t hs h
  rw [exec_of_branchOf h, branchOn_free hs]
  refine ⟨?_, ?_, ?_, ?_⟩
  · rintro rfl
    rfl
  · rintro rfl ht
    rw [if_pos rfl, transfer_sound ht, transferred_branch]
  · rintro rfl c v ht
    rw [if_pos rfl, transfer_early ht]
  · rintro rfl c v ht
    rw [if_pos rfl, transfer_late ht, transferred_branch]

/-- A link commits the following head to its register and transfers. -/
theorem exec_of_linkOf {s : State} {i : Instr} {d : Reg} {u : Word} {e : Bool} (hs : free s)
    (h : linkOf i s.me = some (d, u, e)) :
    exec i s = .next (transfer s u e fun x => x.writeS d (following s.me)) := by
  cases i with
  | call | jmpr =>
    obtain ⟨rfl, rfl, rfl⟩ := Option.some.inj h
    simp only [exec, execCall, execJmpr, unchained_free s _ hs]
  | _ => exact nomatch h

theorem links : Claims.Links := by
  intro s i d u e hs h
  rw [exec_of_linkOf hs h]
  refine ⟨fun ht => ?_, fun c v ht => ?_, fun c v ht => ?_⟩
  · rw [transfer_sound ht]
    rfl
  · rw [transfer_early ht]
  · rw [transfer_late ht]
    rfl

/-- Settles O6, by the three ends of a transfer. -/
theorem branchesAndLinks : Obligations.BranchesAndLinks := ⟨branches, links⟩

/-! Starting a loop (05 R133 to R135). -/

theorem loopEncoded_iff (x : Hart) (t : Target) :
    loopEncoded x t = true ↔ (following x).toNat < (branchTarget x.pc t).toNat := decide_eq_true_iff

/-- A loop-starting instruction, with its END above BODY or not. -/
theorem exec_of_loopOf {s : State} {i : Instr} {c : Reg} {n : Nat} {t : Target} {g : Option Nat} (hs : free s)
    (h : loopOf i s.me = some (c, n, t, g)) :
    exec i s = if loopEncoded s.me t then .next (startLoop s c n t g) else .next (illegal s) := by
  cases i with
  | loop | loopm | loopi =>
    obtain ⟨rfl, rfl, rfl, rfl⟩ := Option.some.inj h
    simp only [exec, execLoop, execLoopm, execLoopi, loopEnter, unchained_free s _ hs]
  | _ => exact nomatch h

section
variable {s : State} {c : Reg} {n : Nat} {t : Target} {g : Option Nat}
  (hfin : (following s.me).toNat < (branchTarget s.me.pc t).toNat)
include hfin

theorem startLoop_busy (hb : (counterOf s.me c).busy = true) :
    startLoop s c n t g = trap s 0x10 (BitVec.ofNat 64 c.toNat) := by
  simp [startLoop, Nat.not_le.mpr hfin, hb]

variable (hb : (counterOf s.me c).busy = false)
include hb

theorem startLoop_target {e : Nat} {v : Word} {k : Bool} (ht : checkTarget s s.cur (branchTarget s.me.pc t) = some (e, v, k)) :
    startLoop s c n t g = trap s e v := by
  simp [startLoop, Nat.not_le.mpr hfin, hb, ht]

variable (ht : checkTarget s s.cur (branchTarget s.me.pc t) = none)
include ht

theorem startLoop_none (hn : n = 0) :
    startLoop s c n t g
      = s.setMe (arrive (setCounter s.me c { counterOf s.me c with count := 0 }) (branchTarget s.me.pc t)) := by
  simp [startLoop, Nat.not_le.mpr hfin, hb, ht, hn]

/-- A loop that starts: its total and record, before they are named. -/
theorem startLoop_counts (hn : n ≠ 0) :
    startLoop s c n t g = if 4294967295 < n + g.getD 1 - 1 then illegal s
      else s.setMe (arrive (withLoop s.me c (loopRecord s.me n (branchTarget s.me.pc t) g)) (following s.me)) := by
  have hw : withLoop s.me c (loopRecord s.me n (branchTarget s.me.pc t) g) =
      let x := { setCounter s.me c (loopRecord s.me n (branchTarget s.me.pc t) g) with loops := s.me.loops + 1 }
      if g.isSome then { x with pred := 1 } else x := by
    unfold withLoop setCounter
    cases g <;> split <;> rfl
  rw [hw]
  unfold startLoop
  cases g <;> simp [Nat.not_le.mpr hfin, hb, ht, hn, loopRecord]

theorem startLoop_long (hn : n ≠ 0) (hl : 4294967295 < n + g.getD 1 - 1) : startLoop s c n t g = illegal s := by
  rw [startLoop_counts hfin hb ht hn, if_pos hl]

theorem startLoop_runs (hn : n ≠ 0) (hl : n + g.getD 1 - 1 ≤ 4294967295) :
    startLoop s c n t g
      = s.setMe (arrive (withLoop s.me c (loopRecord s.me n (branchTarget s.me.pc t) g)) (following s.me)) := by
  rw [startLoop_counts hfin hb ht hn, if_neg (Nat.not_lt.mpr hl)]

end

/-- Settles O7, by the cases of a loop's start. -/
theorem loopStart : Obligations.LoopStart := by
  intro s i c n t g hs h
  rw [exec_of_loopOf hs h]
  refine ⟨fun hn => ?_, fun hfin => ?_⟩
  · rw [if_neg (mt (loopEncoded_iff _ _).mp hn)]
    rfl
  · rw [if_pos ((loopEncoded_iff _ _).mpr hfin)]
    exact ⟨fun hb => by rw [startLoop_busy hfin hb], fun hb ht hn => by rw [startLoop_none hfin hb ht hn],
      fun hb ht hn hl => by rw [startLoop_runs hfin hb ht hn hl], fun hb e v k ht => by rw [startLoop_target hfin hb ht],
      fun hb ht hn hl => by rw [startLoop_long hfin hb ht hn hl]; rfl⟩

/-! The end-of-body tests (05 R136, R139). -/

theorem loopHit_iff (x : Hart) (l : Loop) : loopHit x l = true ↔ l.busy = true ∧ l.mode = x.mode ∧ l.fin = x.pc := by
  simp [loopHit, and_assoc]

theorem loopHit_of_idle (x : Hart) (l : Loop) (h : l.busy = false) : loopHit x l = false := by
  simp [loopHit, h]

theorem loopHit_elsewhere (x : Hart) (l : Loop) (h : l.fin ≠ x.pc) : loopHit x l = false := by
  simp [loopHit, h]

/-- Where no loop ends, no test is made. -/
theorem endOfBody_none (n : Nat) (x : Hart) (h0 : loopHit x x.lc0 = false) (h1 : loopHit x x.lc1 = false) :
    endOfBody n x = x := by
  cases n with
  | zero => rfl
  | succ n => simp [endOfBody, h0, h1]

/-- The loop on lc0 is tested where it ends and none that started later does. -/
theorem endOfBody_first (n : Nat) (x : Hart) (h0 : loopHit x x.lc0 = true)
    (h1 : loopHit x x.lc1 = true → ¬x.lc0.stamp < x.lc1.stamp) :
    endOfBody (n + 1) x = endOfBody n { (loopTest x x.lc0).2 with lc0 := (loopTest x x.lc0).1 } := by
  simp only [endOfBody, h0, Bool.true_and]
  rw [if_pos]
  by_cases hl : loopHit x x.lc1 = true
  · simp [h1 hl]
  · simp [hl]

/-- The loop on lc1 is tested where it ends and the other does not, or started earlier. -/
theorem endOfBody_second (n : Nat) (x : Hart) (h1 : loopHit x x.lc1 = true)
    (h0 : loopHit x x.lc0 = true → x.lc0.stamp < x.lc1.stamp) :
    endOfBody (n + 1) x = endOfBody n { (loopTest x x.lc1).2 with lc1 := (loopTest x x.lc1).1 } := by
  simp only [endOfBody, h1, Bool.true_and]
  rw [if_neg, if_pos trivial]
  by_cases hl : loopHit x x.lc0 = true
  · simp [h0 hl]
  · simp [hl]

/-- The last iteration ends the loop. -/
theorem loopTest_last (x : Hart) (l : Loop) (h : l.count.toNat ≤ 1) :
    loopTest x l = ({ l with count := 0, busy := false }, if l.modulo then { x with pred := 0 } else x) := by
  simp [loopTest, h]

theorem loopTest_last_plain (x : Hart) (l : Loop) (h : l.count.toNat ≤ 1) (hm : l.modulo = false) :
    loopTest x l = ({ l with count := 0, busy := false }, x) := by
  rw [loopTest_last x l h, if_neg (by simp [hm])]

/-- A plain loop goes back to its BODY. -/
theorem loopTest_again (x : Hart) (l : Loop) (h : 1 < l.count.toNat) (hm : l.modulo = false) :
    loopTest x l = ({ l with count := l.count - 1 }, { x with pc := l.body }) := by
  simp [loopTest, Nat.not_le.mpr h, hm]

/-- A modulo loop goes back to its BODY with its names rotated. -/
theorem loopTest_rotates (x : Hart) (l : Loop) (h : 1 < l.count.toNat) (hm : l.modulo = true) :
    loopTest x l = ({ l with count := l.count - 1, index := l.index + 1 },
      { rotateWindow x with pred := stagePreds l.stages l.total (l.index + 1), pc := l.body }) := by
  simp [loopTest, Nat.not_le.mpr h, hm]

/-- A key of a list of writes without repetitions reads what the list gives it. -/
theorem Tab.get_sets_mem {α : Type} [DecidableEq α] (d : α) (l : List (Nat × α)) (m : SMap α) (hl : (l.map (·.1)).Nodup)
    {e : Nat × α} (he : e ∈ l) : Tab.get d (Tab.sets d l m) e.1 = e.2 := by
  induction l generalizing m with
  | nil => exact nomatch he
  | cons f r ih =>
    simp only [List.map_cons, List.nodup_cons] at hl
    obtain rfl | he := List.mem_cons.mp he
    · refine (Tab.get_sets_other d r _ e.1 fun a ha hk => hl.1 (hk ▸ List.mem_map_of_mem ha)).trans ?_
      exact Tab.get_set_same d e.1 e.2 m
    · exact ih _ hl.2 he

/-- A rotation moves each name of the window to the next one (05 R139). -/
theorem rotateWindow_window (x : Hart) (k : Nat) (hk : k < 8) :
    Tab.get 0 (rotateWindow x).s (24 + (k + 1) % 8) = Tab.get 0 x.s (24 + k) :=
  Tab.get_sets_mem 0 ((List.range 8).map fun k => (24 + (k + 1) % 8, Tab.get 0 x.s (24 + k))) x.s
    (show ((List.range 8).map fun k => 24 + (k + 1) % 8).Nodup by decide) (List.mem_map_of_mem (List.mem_range.mpr hk))

theorem getLsbD_foldl_or (c : Nat → Prop) [DecidablePred c] (l : List Nat) (p : BitVec 8) (i : Nat) :
    (l.foldl (fun p j => if c j then p ||| BitVec.ofNat 8 (2 ^ j) else p) p).getLsbD i
      = (p.getLsbD i || l.any fun j => decide (c j) && (BitVec.ofNat 8 (2 ^ j)).getLsbD i) := by
  induction l generalizing p with
  | nil => simp
  | cons j r ih =>
    rw [List.foldl_cons, ih]
    by_cases hc : c j <;> simp [hc, Bool.or_assoc]

/-- The predicates of an iteration, one by one (05 R139). -/
theorem stagePreds_getLsbD (stages total i j : Nat) (hj : j < 8) :
    (stagePreds stages total i).getLsbD j = decide (j < stages ∧ j ≤ i ∧ i - j < total) := by
  have hbit (k : Nat) : (BitVec.ofNat 8 (2 ^ k)).getLsbD j = decide (k = j) := by
    rw [BitVec.getLsbD_ofNat, Nat.testBit_two_pow]
    simp [hj]
  unfold stagePreds
  rw [getLsbD_foldl_or fun j => j < stages ∧ j ≤ i ∧ i - j < total]
  simp only [hbit, BitVec.ofNat_eq_ofNat, BitVec.getLsbD_zero, Bool.false_or]
  rw [Bool.eq_iff_iff]
  simp only [List.any_eq_true, List.mem_range, Bool.and_eq_true, decide_eq_true_eq]
  constructor
  · rintro ⟨k, -, h, rfl⟩
    exact h
  · exact fun h => ⟨j, hj, h, rfl⟩

/-- The hart that arrives at a PC, before the tests made there. -/
def atPc (x : Hart) (pc : Word) : Hart := { x with pc := pc, qual := false }

theorem arrive_second (x : Hart) (pc : Word) (h1 : loopHit (atPc x pc) x.lc1 = true)
    (h0 : loopHit (atPc x pc) x.lc0 = true → x.lc0.stamp < x.lc1.stamp) :
    arrive x pc = endOfBody (x.lc0.count.toNat + x.lc1.count.toNat + 1)
      { (loopTest (atPc x pc) x.lc1).2 with lc1 := (loopTest (atPc x pc) x.lc1).1 } :=
  endOfBody_second _ (atPc x pc) h1 h0

/-! The loop on lc0 ends at the PC, and no loop runs on lc1. -/

section
variable (n : Nat) {x : Hart} (h0 : loopHit x x.lc0 = true) (h1 : x.lc1.busy = false)
include h0 h1

theorem endOfBody_alone :
    endOfBody (n + 1) x = endOfBody n { (loopTest x x.lc0).2 with lc0 := (loopTest x x.lc0).1 } :=
  endOfBody_first n x h0 fun h => absurd ((loopHit_iff _ _).mp h).1 (by simp [h1])

theorem endOfBody_alone_last (hc : x.lc0.count.toNat ≤ 1) :
    endOfBody (n + 1) x
      = { x with lc0 := { x.lc0 with count := 0, busy := false }, pred := if x.lc0.modulo then 0 else x.pred } := by
  rw [endOfBody_alone n h0 h1, loopTest_last _ _ hc, endOfBody_none _ _ (loopHit_of_idle _ _ rfl) (loopHit_of_idle _ _ ?_)]
  · split <;> rfl
  · split <;> exact h1

variable (hbody : x.lc0.body ≠ x.pc)
include hbody

theorem endOfBody_alone_again (hc : 1 < x.lc0.count.toNat) (hp : x.lc0.modulo = false) :
    endOfBody (n + 1) x = { x with pc := x.lc0.body, lc0 := { x.lc0 with count := x.lc0.count - 1 } } := by
  have hf := ((loopHit_iff _ _).mp h0).2.2
  rw [endOfBody_alone n h0 h1, loopTest_again _ _ hc hp]
  exact endOfBody_none _ _ (loopHit_elsewhere _ _ (hf.trans_ne hbody.symm)) (loopHit_of_idle _ _ h1)

theorem endOfBody_alone_rotates (hc : 1 < x.lc0.count.toNat) (hp : x.lc0.modulo = true) :
    endOfBody (n + 1) x = { rotateWindow x with
      pc := x.lc0.body
      pred := stagePreds x.lc0.stages x.lc0.total (x.lc0.index + 1)
      lc0 := { x.lc0 with count := x.lc0.count - 1, index := x.lc0.index + 1 } } := by
  have hf := ((loopHit_iff _ _).mp h0).2.2
  rw [endOfBody_alone n h0 h1, loopTest_rotates _ _ hc hp]
  exact endOfBody_none _ _ (loopHit_elsewhere _ _ (hf.trans_ne hbody.symm)) (loopHit_of_idle _ _ h1)

end

theorem loopTestOfOne : Claims.LoopTestOfOne := by
  intro x pc hb hm hf hbody hb1
  have h0 : loopHit (atPc x pc) (atPc x pc).lc0 = true := (loopHit_iff _ _).mpr ⟨hb, hm, hf⟩
  refine ⟨fun hc => endOfBody_alone_last _ h0 hb1 hc, fun hc hp => endOfBody_alone_again _ h0 hb1 hbody hc hp,
    fun hc hp => ?_⟩
  have hy : arrive x pc = _ := endOfBody_alone_rotates _ h0 hb1 hbody hc hp
  rw [hy]
  exact ⟨rfl, rfl, rfl, fun k hk => rotateWindow_window _ k hk, fun j hj => stagePreds_getLsbD _ _ _ j hj⟩

/-- The hart at its PC after the last iteration of a plain loop on lc1. -/
def secondOver (x : Hart) (pc : Word) : Hart := { atPc x pc with lc1 := { x.lc1 with count := 0, busy := false } }

theorem loopTestOfTwo : Claims.LoopTestOfTwo := by
  intro x pc hb hm hf hbody hp hbody0
  have h1 : loopHit (atPc x pc) x.lc1 = true := (loopHit_iff _ _).mpr ⟨hb, hm, hf⟩
  refine ⟨fun hb0 => ?_, fun hb0 hm0 hf0 hp0 hst => ?_⟩
  · rw [arrive_second x pc h1 fun h => absurd ((loopHit_iff _ _).mp h).1 (by simp [hb0])]
    refine ⟨fun hc => ?_, fun hc => ?_⟩
    · rw [loopTest_last_plain _ _ hc hp]
      exact endOfBody_none _ _ (loopHit_of_idle _ _ hb0) (loopHit_of_idle _ _ rfl)
    · rw [loopTest_again _ _ hc hp]
      exact endOfBody_none _ _ (loopHit_of_idle _ _ hb0) (loopHit_elsewhere _ _ (hf.trans_ne hbody.symm))
  · have h0 : loopHit (secondOver x pc) (secondOver x pc).lc0 = true := (loopHit_iff _ _).mpr ⟨hb0, hm0, hf0⟩
    rw [arrive_second x pc h1 fun _ => hst]
    refine ⟨fun hne hc => ?_, fun hc hc0 => ?_, fun hc hc0 => ?_⟩
    · rw [loopTest_again _ _ hc hp]
      exact endOfBody_none _ _ (loopHit_elsewhere _ _ hne) (loopHit_elsewhere _ _ (hf.trans_ne hbody.symm))
    · rw [loopTest_last_plain _ _ hc hp]
      refine (endOfBody_alone_last _ h0 rfl hc0).trans ?_
      rw [if_neg (by rw [show (secondOver x pc).lc0.modulo = false from hp0]; decide)]
      rfl
    · rw [loopTest_last_plain _ _ hc hp]
      exact endOfBody_alone_again _ h0 rfl hbody0 hc0 hp0

end Sys2Proof.Machine

/-- Settles O8, by the tests that arriving makes. -/
theorem Sys2Proof.loopTest : Obligations.LoopTest := ⟨Sys2Proof.Machine.loopTestOfOne, Sys2Proof.Machine.loopTestOfTwo⟩
end

section
/-! SUPPORT. Scalar floating point (05 R126 to R129). -/

namespace Sys2Proof.Machine

/-! Arithmetic. -/

theorem scalarFp_mode {s : State} (hs : free s) {o : VAOps} {rm : Nat} (hr : roundingMode s.me o.rm = some rm)
    (f : Fmt → Nat → FP → FP → FP → Nat × Flags) :
    let m := fmtOf o.ty.toNat
    let r := f m rm (fpOf s.me m o.y) (fpOf s.me m o.z) (fpOf s.me m o.w)
    scalarFp s o f = .next (finishWith s fun x => { x.writeF o.x (box m r.1) with fflags := x.fflags ||| r.2 }) := by
  simp only [scalarFp, unchained_free s _ hs, hr]
  rfl

theorem scalarFp_noMode {s : State} (hs : free s) {o : VAOps} (hr : roundingMode s.me o.rm = none)
    (f : Fmt → Nat → FP → FP → FP → Nat × Flags) : scalarFp s o f = .next (illegal s) := by
  simp only [scalarFp, unchained_free s _ hs, hr]

/-- Each arithmetic instruction is `scalarFp` of a function whose value `fpArithValue` gives. -/
theorem exec_of_fpArith {s : State} {i : Instr} {o : VAOps} (hi : i ∈ [.fadd o, .fsub o, .fmul o, .ffma o]) :
    ∃ f, exec i s = scalarFp s o f ∧ ∀ rm,
      let m := fmtOf o.ty.toNat
      let r := f m rm (fpOf s.me m o.y) (fpOf s.me m o.z) (fpOf s.me m o.w)
      fpArithValue i rm s.me = some (o.x, box m r.1, r.2) := by
  simp only [List.mem_cons, List.not_mem_nil, or_false] at hi
  rcases hi with rfl | rfl | rfl | rfl
  · exact ⟨fun f rm a b _ => fpAdd f rm a b, rfl, fun _ => rfl⟩
  · exact ⟨fun f rm a b _ => fpAdd f rm a (fpNeg b), rfl, fun _ => rfl⟩
  · exact ⟨fun f rm a b _ => fpProd f rm a b, rfl, fun _ => rfl⟩
  · exact ⟨fun f rm a b c => fpDot f rm [(a, b)] c, rfl, fun _ => rfl⟩

theorem scalarFpArithmetic : Claims.ScalarFpArithmetic := by
  intro s i o hs hi
  obtain ⟨f, he, hv⟩ := exec_of_fpArith (s := s) hi
  rw [he]
  refine ⟨fun rm d v g hr h => ?_, fun hr => scalarFp_noMode hs hr f⟩
  rw [hv rm] at h
  simp only [Option.some.injEq, Prod.mk.injEq] at h
  obtain ⟨rfl, rfl, rfl⟩ := h
  exact scalarFp_mode hs hr f

/-! Conversion. -/

theorem scalarFpConversion : Claims.ScalarFpConversion := by
  intro s o hs _
  refine ⟨fun hw ht => ?_, fun hw ht => ?_, fun rm hr => ⟨fun hw ht => ?_, fun hw ht => ?_, fun hw ht => ?_⟩⟩
  · simp only [exec, execFcvt, unchained_free s _ hs, hw, ht]
    rfl
  · simp only [exec, execFcvt, unchained_free s _ hs, hw, ht]
    rfl
  · have h7 : ¬(o.w.toNat = 7 ∧ o.ty.toNat = 7) := by omega
    have h3 : ¬(o.w.toNat = 3 ∧ o.ty.toNat = 3) := by omega
    simp only [exec, execFcvt, unchained_free s _ hs, h7, h3, if_false, hr]
    rw [if_pos ⟨hw, ht⟩]
    rfl
  · have h7 : ¬(o.w.toNat = 7 ∧ o.ty.toNat = 7) := by omega
    have h3 : ¬(o.w.toNat = 3 ∧ o.ty.toNat = 3) := by omega
    simp only [exec, execFcvt, unchained_free s _ hs, h7, h3, if_false, hr]
    rw [if_neg (by omega), if_pos hw]
    rfl
  · have h7 : ¬(o.w.toNat = 7 ∧ o.ty.toNat = 7) := by omega
    have h3 : ¬(o.w.toNat = 3 ∧ o.ty.toNat = 3) := by omega
    simp only [exec, execFcvt, unchained_free s _ hs, h7, h3, if_false, hr]
    rw [if_neg (by omega), if_neg (by omega)]

/-! Comparison. -/

theorem fpEq_nan (a b : FP) (h : (isNan a || isNan b) = true) : fpEq a b = false := by
  cases a <;> cases b <;> simp_all [isNan, fpEq]

theorem fpLt_nan (a b : FP) (h : (isNan a || isNan b) = true) : fpLt a b = false := by
  cases a <;> cases b <;> simp_all [isNan, fpLt]

/-- Conditions 0 to 2 are false on a NaN, so that asking for one first changes nothing. -/
theorem not_nan_and_fpEq (a b : FP) : (!(isNan a || isNan b) && fpEq a b) = fpEq a b := by
  cases h : isNan a || isNan b
  · rfl
  · rw [fpEq_nan a b h]
    rfl

theorem not_nan_and_fpLt (a b : FP) : (!(isNan a || isNan b) && fpLt a b) = fpLt a b := by
  cases h : isNan a || isNan b
  · rfl
  · rw [fpLt_nan a b h]
    rfl

/-- What `execFcmp` compares, by its condition. -/
theorem fpCompare_eq (cc : Nat) (a b : FP) :
    fpCompare cc a b = match cc with
      | 0 => (fpEq a b, sigFlag a ||| sigFlag b)
      | 1 => (fpLt a b, if isNan a || isNan b then fNV else 0)
      | 2 => (fpLt a b || fpEq a b, if isNan a || isNan b then fNV else 0)
      | _ => (isNan a || isNan b, sigFlag a ||| sigFlag b) := by
  match cc with
  | 0 => simp only [fpCompare, if_true, not_nan_and_fpEq]
  | 1 => simp only [fpCompare, one_ne_zero, if_false, if_true, not_nan_and_fpLt]
  | 2 => simp only [fpCompare, OfNat.ofNat_ne_zero, OfNat.ofNat_ne_one, if_false, if_true, Bool.and_or_distrib_left,
      not_nan_and_fpLt, not_nan_and_fpEq]
  | n + 3 => simp [fpCompare]

theorem scalarFpComparison : Claims.ScalarFpComparison := by
  intro s o hs _
  simp only [exec, execFcmp, unchained_free s _ hs, fpCompare_eq]
  rfl

/-- Settles O5. -/
theorem scalarFloatingPoint : Obligations.ScalarFloatingPoint :=
  ⟨scalarFpArithmetic, scalarFpConversion, scalarFpComparison⟩

end Sys2Proof.Machine
end

section
/-! SUPPORT. The registers after reset, traps and system instructions (03 R79 to R93; 10 R274, R275; 16 R401 to R405). -/

namespace Sys2Proof.Machine

theorem reset_hart (h : Nat) : State.reset.hart h = {} := rfl

theorem reset_ownsBank (h b : Nat) : ownsBank State.reset h b = false := rfl

theorem reset_accst (h : Nat) : accst State.reset h = 0 := by
  simp only [accst, reset_ownsBank, Bool.false_and]
  decide

theorem reset_hstat (h : Nat) : hstatWord State.reset h = 0 := by
  have hs : stable State.reset h = false := rfl
  have hg : (State.reset.harts.any fun e => coreOf e.1 == coreOf h && e.2.gang.isSome) = false := rfl
  have hc : (State.reset.context 0).tryq = false := rfl
  simp only [hstatWord, hs, hg, hc, reset_hart]
  decide

theorem reset_tokst : tokstWord {} = 0 := by decide

theorem lcWord_default : lcWord {} = 0 := by decide

theorem reset_asidWord : BitVec.ofNat 64 ((State.reset.context 0).prio * 2 ^ 16 + 0) = (0 : Word) := by decide

/-- Settles O53: the reset state lists no hart, so that every register of a hart reads its default. -/
theorem resetState : Obligations.ResetState := by
  refine ⟨fun h hh => ?_, by decide, by decide, by decide, by decide, by decide, by decide, rfl, rfl⟩
  simp only [List.forall_mem_cons]
  exact ⟨rfl, rfl, rfl, rfl, rfl, congrArg some lcWord_default, congrArg some lcWord_default, rfl,
    congrArg some (reset_accst h), rfl, rfl, congrArg some reset_asidWord, congrArg some (reset_hstat h), congrArg some reset_tokst, rfl, rfl, rfl,
    rfl, rfl, rfl, rfl, rfl, rfl, rfl, rfl, rfl, rfl, rfl, rfl, nofun⟩

end Sys2Proof.Machine
end

section
/-! SUPPORT. Traps and system instructions (03 R79 to R93; 10 R274, R275; 16 R401 to R405), and completion without an effect
of one's own. -/

namespace Sys2Proof.Machine

/-! Completion. -/

/-- Arriving leaves the scalar queue. -/
theorem arrive_scalarQueue (x : Hart) (pc : Word) : (arrive x pc).scalarQueue = x.scalarQueue := by
  rw [(arrive_completes x pc).1]

/-- A hart whose scalar queue holds one group of no access. -/
def emptyGroup : State := { State.reset with harts := [(0, { scalarQueue := [[]] })] }

/-- Refutes O9: the fence finds no access in a scalar queue that lists one empty group, and leaves the queue as it stands, so
that the queue is not empty afterwards. -/
theorem not_plainAndQualified : ¬ Obligations.PlainAndQualified := by
  rintro ⟨h, -⟩
  obtain ⟨-, ⟨t, -, rfl, hq⟩, -⟩ := h emptyGroup rfl
  rw [finish_me, arrive_scalarQueue] at hq
  exact nomatch (show [[]] = [] from hq)

/-! Traps. -/

/-- Settles O11. -/
theorem trappingInstructions : Obligations.TrappingInstructions := by
  intro s imm hs
  refine ⟨?_, ⟨fun h => ?_, fun h => ?_⟩, ?_, fun c e h => ?_⟩
  · simp only [exec, execIll, unchained_free s _ hs]
    rfl
  · simp only [exec, execUnallocatedEncoding, if_neg h]
    rfl
  · simp only [exec, execUnallocatedEncoding, if_pos h, illegal]
    rw [State.me_setMe]
    rfl
  · simp only [exec, execTrap, unchained_free s _ hs]
  · simp only [exec, execFetchFault, h]

/-- Settles O13. -/
theorem systemRegisterRead : Obligations.SystemRegisterRead := by
  intro s d n hs
  refine ⟨fun v hn hr hv => ?_, fun hn hv => ?_, ?_⟩
  · simp only [exec, execSrr, unchained_free s _ hs, hn, if_false, hv, hr, if_true]
  · simp only [exec, execSrr, unchained_free s _ hs, hn, if_false, hv]
    rfl
  · simp only [exec, execSrr, unchained_free s _ hs, if_true]
    rfl

theorem trap_eq_takeTrap {s : State} (hs : free s) (c : Nat) (v : Word) :
    trap s c v = takeTrap s (trapPc s.me) c v (estatOf s s.me false) false false := by
  simp only [trap, show s.me.chain = none from hs.1]

theorem ne_stackHeld {c : Nat} (h : c < 256) : c ≠ stackHeld := by
  rintro rfl
  exact absurd h (by decide)

theorem trapEntersHandler : Claims.TrapEntersHandler := by
  intro s c v hs hc hm hh
  rw [trap_eq_takeTrap hs, takeTrap_user _ _ _ _ _ _ _ (ne_stackHeld hc) hm hh]
  refine ⟨setMe_onlyMe s _, ?_⟩
  rw [enterHandler, State.me_setMe]
  simp [show s.me.chain = none from hs.1]

/-- What a hart that is free has left nowhere: nothing is performed for it, and it waits nowhere. -/
theorem performQueue_empty {s : State} {h : Nat} {v : Bool} (hq : (s.hart h).queue v = []) : performQueue s h v = s := by
  simp [performQueue, performFirst, hq]

theorem performFirst_empty {s : State} {h n : Nat} {v : Bool} (hq : (s.hart h).queue v = []) : performFirst s h v n = s := by
  simp [performFirst, hq]

theorem performHart_empty {s : State} {h : Nat} (hs : (s.hart h).scalarQueue = []) (hv : (s.hart h).vectorQueue = []) :
    performHart s h = s := by
  simp only [performHart, performQueue_empty (v := false) hs]
  exact performFirst_empty (v := true) hv

/-! Forwarding (16 R404, R405). -/

theorem clusterOf_releaseClaims (s : State) (h : Nat) : (releaseClaims s h).clusters = s.clusters := rfl

theorem endEarly_plain (s : State) (h : Nat) (e : s.ahead = []) : endEarly s h = s := by
  simp [endEarly, dropEarly, e]

theorem leaveBehind_plain (s : State) (h : Nat) (e : (s.hart h).vectorQueue = []) : leaveBehind s h = s := by
  simp [leaveBehind, e]

theorem leaveSpawners_plain (s : State) (h : Nat) (e : (s.cluster (clusterOf h)).spawners.contains h = false) :
    leaveSpawners s h = s := by
  simp only [leaveSpawners, e]
  exact if_neg Bool.false_ne_true

/-- What saving a hart outside every queue leaves: its record, and its number free. -/
theorem saveHart_plain (s : State) (h g : Nat) (held : Bool) (raised : SMap Nat) (hsq : (s.hart h).scalarQueue = [])
    (hvq : (s.hart h).vectorQueue = []) (ha : s.ahead = [])
    (hsp : (s.cluster (clusterOf h)).spawners.contains h = false) :
    let t := saveHart s h g held raised
    t.hart h = {} ∧ t.clusters = s.clusters ∧ t.time = s.time ∧ t.cur = s.cur ∧
      ∃ w, t.keel.saved = s.keel.saved ++ [w] ∧ w.hartid = h ∧ w.held = held ∧ w.hart = rollback (s.hart h) := by
  have hw : (withdraw s h).hart h = s.hart h ∧ (withdraw s h).clusters = s.clusters ∧ (withdraw s h).time = s.time
      ∧ (withdraw s h).cur = s.cur ∧ (withdraw s h).keel = s.keel ∧ (withdraw s h).ahead = s.ahead := by
    simp only [withdraw, leaveSpawners_plain s h hsp]
    exact ⟨rfl, rfl, rfl, rfl, rfl, rfl⟩
  obtain ⟨hx, hc, htm, hcur, hk, hah⟩ := hw
  unfold saveHart
  rw [performHart_empty hsq hvq, leaveBehind_plain s h hvq, endEarly_plain _ h (hah.trans ha)]
  generalize withdraw s h = u at *
  rw [← hk, ← hx, ← hc, ← htm, ← hcur]
  exact ⟨State.hart_setHart_same _ h {}, rfl, rfl, rfl, _, rfl, rfl, rfl, rfl⟩

/-- A message of a Gondola is told behind its earlier ones. -/
theorem sendReport_told (s : State) (cl : Nat) (r : Report) :
    ((sendReport s cl r).cluster cl).reports ++ ((sendReport s cl r).cluster cl).outbox
      = (s.cluster cl).reports ++ (s.cluster cl).outbox ++ [r] := by
  simp only [sendReport, State.cluster_setCluster_same]
  split
  · simp
  · next h =>
    have ho : (s.cluster cl).outbox = [] := by
      by_contra e
      exact h (.inr (by simp [e]))
    simp [ho]

/-- The hart at the instruction at which it is forwarded. -/
def atTrap (x : Hart) (epc : Word) : Hart := { x with pc := epc &&& ~~~1, qual := false, chain := none, run := .running }

/-- The record of a trap that is forwarded, but for its time. -/
def faultOf (s : State) (epc : Word) (cause : Nat) (eval estat : Word) (chain : Bool) : FaultRecord where
  kind := if s.me.mode = .user then 0 else 1
  cause := cause
  asid := s.me.asid
  hartid := s.cur
  flags := (if s.me.seg then 1 else 0) ||| (if spliced (s.setMe (atTrap s.me epc)) s.me then 2 else 0)
    ||| (if runsTask s.me then 4 else 0) ||| (if chain then 8 else 0)
  ucause := if s.me.mode = .user then 0 else s.me.ecause.toNat % 256
  pc := epc &&& ~~~1
  eval := eval
  estat := estat
  spool := match chargedPacket s s.me with | some p => p.qcb | none => 0
  index := match chargedPacket s s.me with | some p => p.index | none => 0
  vstart := s.me.vstart
  lspool := match chargedPacket s s.me with | some p => p.lspool | none => 0
  subject := .hart s.keel.ids

/-- A hart in no gang is forwarded alone. -/
theorem forwardTrap_alone {s : State} (hg : s.me.gang = none) (epc : Word) (cause : Nat) (eval estat : Word) (chain : Bool) :
    forwardTrap s epc cause eval estat chain
      = reportFault (saveHart (s.setMe (atTrap s.me epc)) s.cur s.keel.ids true []) (clusterOf s.cur)
          (faultOf s epc cause eval estat chain) := by
  simp only [forwardTrap, hg, List.foldl_nil]
  rw [atTrap, faultOf, hg]
  rfl

theorem trapForwards : Claims.TrapForwards := by
  intro s c v hs hc hg hsq hvq hm
  have hno : ¬(s.me.mode = .user ∧ (s.context s.me.asid).handler ≠ 0) := by
    rintro ⟨hu, hh⟩
    obtain hm | hm := hm
    · rw [hu] at hm
      exact nomatch hm
    · exact hh hm
  have ht : trap s c v = reportFault (saveHart (s.setMe (atTrap s.me (trapPc s.me))) s.cur s.keel.ids true [])
      (clusterOf s.cur) (faultOf s (trapPc s.me) c v (estatOf s s.me false) false) := by
    rw [trap_eq_takeTrap hs, takeTrap, if_neg (ne_stackHeld hc), if_neg hno, forwardTrap_alone hg]
  have hx : (s.setMe (atTrap s.me (trapPc s.me))).hart s.cur = atTrap s.me (trapPc s.me) := State.hart_setMe_cur _ _
  obtain ⟨hfree, hcl, htime, hu, w, hw, hid, hheld, hhart⟩ :=
    saveHart_plain (s.setMe (atTrap s.me (trapPc s.me))) s.cur s.keel.ids true [] (by rw [hx]; exact hsq)
      (by rw [hx]; exact hvq) hs.2.1.2.2.2.2 hs.2.2.1
  rw [ht]
  generalize saveHart (s.setMe (atTrap s.me (trapPc s.me))) s.cur s.keel.ids true [] = u at *
  have hcur : (u.cluster (clusterOf s.cur)) = s.cluster (clusterOf s.cur) := by
    rw [State.cluster, hcl]
    rfl
  refine ⟨hfree, ⟨{ faultOf s (trapPc s.me) c v (estatOf s s.me false) false with time := u.time }, ?_, rfl, rfl, rfl, rfl,
    rfl, rfl, rfl, rfl, htime, rfl⟩, w, hw, hid, hheld, ?_⟩
  · have hr : (reportFault u (clusterOf s.cur) (faultOf s (trapPc s.me) c v (estatOf s s.me false) false)).cur = s.cur := hu
    beta_reduce
    rw [hr]
    exact (sendReport_told u _ _).trans (by rw [hcur])
  · rw [hhart, hx]
    simp [rollback, atTrap, show s.me.chain = none from hs.1]

/-- Settles O10: into the handler by the registers it writes, and forwarding by the record and the saved hart. -/
theorem trapEntry : Obligations.TrapEntry := ⟨trapEntersHandler, trapForwards⟩

end Sys2Proof.Machine
end

section
/-! SUPPORT. Writes of system registers, and the instructions of system mode (03 R79 to R93; 10 R274, R275; 16 R402). -/

namespace Sys2Proof.Machine

/-! Tables written twice. -/

theorem Tab.put_put {α : Type} (k : Nat) (v w : α) (m : SMap α) : Tab.put k v (Tab.put k w m) = Tab.put k v m := by
  induction m with
  | nil => simp [Tab.put]
  | cons e r ih =>
    obtain ⟨j, u⟩ := e
    by_cases h : k < j
    · simp [Tab.put, h]
    · by_cases hk : k = j
      · simp [Tab.put, hk]
      · simp [Tab.put, h, hk, ih]

theorem Tab.del_put {α : Type} (k : Nat) (w : α) (m : SMap α) : Tab.del k (Tab.put k w m) = Tab.del k m := by
  induction m with
  | nil => simp [Tab.put, Tab.del]
  | cons e r ih =>
    obtain ⟨j, u⟩ := e
    by_cases h : k < j
    · simp [Tab.put, Tab.del, h]
    · by_cases hk : k = j
      · simp [Tab.put, Tab.del, hk]
      · simp [Tab.put, Tab.del, h, hk, ih]

theorem Tab.set_put {α : Type} [DecidableEq α] (d : α) (k : Nat) (v w : α) (m : SMap α) :
    Tab.set d k v (Tab.put k w m) = Tab.set d k v m := by
  unfold Tab.set
  split
  · exact Tab.del_put k w m
  · exact Tab.put_put k v w m

theorem Tab.set_set {α : Type} [DecidableEq α] (d : α) (k : Nat) (v w : α) (m : SMap α) (h : w ≠ d) :
    Tab.set d k v (Tab.set d k w m) = Tab.set d k v m := by
  rw [show Tab.set d k w m = Tab.put k w m from if_neg h]
  exact Tab.set_put d k v w m

theorem State.setMe_setMe (s : State) (x y : Hart) (h : x ≠ {}) : (s.setMe x).setMe y = s.setMe y := by
  unfold State.setMe State.setHart
  exact congrArg (fun m => { s with harts := m }) (Tab.set_set {} s.cur y x s.harts h)

/-- A hart in system mode stands in the table of harts, so that to write it as it is changes nothing to come. -/
theorem finish_setMe_me {s : State} (h : s.me.mode = .system) : finish (s.setMe s.me) = finish s := by
  have hx : s.me ≠ {} := fun e => by
    rw [e] at h
    exact nomatch h
  rw [finish, State.me_setMe, State.setMe_setMe s _ _ hx, ← finish]

/-! srw, by what the register makes of the value. -/

section
variable {s : State} {a : Reg} {n : BitVec 12}

theorem execSrw_error {c : Nat} (hs : free s) (hk : n.toNat < 0x400 ∨ 0x800 ≤ n.toNat ∧ n.toNat < 0x900)
    (h8 : n.toNat ≠ 0x008) (hr : sysReach s.me.mode n.toNat = true)
    (h : writeHartReg s n.toNat (s.me.readS a) = .error c) :
    exec (.srw a n) s = .next (if c = 0x18 then vconfTrap s else illegal s) := by
  have hc : ¬(n.toNat / 1024 % 2 = 1 ∨ (!sysReach s.me.mode n.toNat) = true) := by
    rw [hr]
    simp
    omega
  simp only [exec, execSrw, unchained_free s _ hs]
  rw [if_neg hc, if_neg h8, if_neg (by omega), h]
  split <;> simp_all

theorem execSrw_ok {x : Hart} (hs : free s) (hk : n.toNat < 0x400 ∨ 0x800 ≤ n.toNat ∧ n.toNat < 0x900)
    (h8 : n.toNat ≠ 0x008) (hr : sysReach s.me.mode n.toNat = true)
    (h : writeHartReg s n.toNat (s.me.readS a) = .ok x) : exec (.srw a n) s = .next (finish (s.setMe x)) := by
  have hc : ¬(n.toNat / 1024 % 2 = 1 ∨ (!sysReach s.me.mode n.toNat) = true) := by
    rw [hr]
    simp
    omega
  simp only [exec, execSrw, unchained_free s _ hs]
  rw [if_neg hc, if_neg h8, if_neg (by omega), h]

end

theorem sysReach_low {m : Mode} {n : Nat} (h : n < 0x400) : sysReach m n = true := by
  simp [sysReach, show n / 1024 % 4 < 2 by omega]

theorem sysReach_system (n : Nat) : sysReach .system n = true := by
  simp [sysReach]

theorem vectorLengthWrite : Claims.VectorLengthWrite := by
  intro s a hs
  refine ⟨fun h => ?_, fun hc hg hl => ?_⟩
  · refine execSrw_error (c := 0x18) hs (.inl (by decide)) (by decide) (sysReach_low (by decide)) ?_
    exact if_pos (by simpa [Option.isNone_iff_eq_none, Option.isSome_iff_ne_none] using h)
  · refine execSrw_ok hs (.inl (by decide)) (by decide) (sysReach_low (by decide)) ?_
    exact if_neg (by simpa [hc, hg] using hl)

theorem vectorRowsAndStartWrite : Claims.VectorRowsAndStartWrite := by
  intro s a hs
  refine ⟨fun h => ?_, fun hc hg h1 h64 hl => ?_, fun hc => ?_, fun hc => ?_⟩
  · refine execSrw_error (c := 0x18) hs (.inl (by decide)) (by decide) (sysReach_low (by decide)) ?_
    exact if_pos (by simpa [Option.isNone_iff_eq_none, Option.isSome_iff_ne_none] using h)
  · refine execSrw_ok hs (.inl (by decide)) (by decide) (sysReach_low (by decide)) ?_
    refine if_neg ?_
    rintro (h | h | h | h | h)
    · exact hc (Option.isNone_iff_eq_none.mp h)
    · exact Option.isSome_iff_ne_none.mp h hg
    · omega
    · omega
    · exact absurd hl (Nat.not_le.mpr h)
  · refine execSrw_error (c := 0x18) hs (.inl (by decide)) (by decide) (sysReach_low (by decide)) ?_
    exact if_pos (by simp [hc])
  · refine execSrw_ok hs (.inl (by decide)) (by decide) (sysReach_low (by decide)) ?_
    exact if_neg (by simpa using hc)

/-- What a write that only changes the hart leaves, at a PC where no loop ends. -/
theorem finish_setMe_plain {s : State} {x : Hart} (hf : following x = following s.me) (hp : plainAt x (following s.me)) :
    (finish (s.setMe x)).me = { x with pc := following s.me, qual := false } := by
  rw [finish_me, State.me_setMe, hf, arrive_plain x _ hp]

/-- A register of the hart that a write changes by `f`: what the device is afterwards. -/
theorem srw_register {s : State} {a : Reg} {n : BitVec 12} {x : Hart} {w : Word} (hs : free s)
    (hk : n.toNat < 0x400 ∨ 0x800 ≤ n.toNat ∧ n.toNat < 0x900) (h8 : n.toNat ≠ 0x008)
    (hr : sysReach s.me.mode n.toNat = true) (h : writeHartReg s n.toNat (s.me.readS a) = .ok x)
    (hx : x = { s.me with frm := x.frm, fflags := x.fflags, pred := x.pred, epc := x.epc, ecause := x.ecause, eval := x.eval, escratch := x.escratch })
    (hp : plainAt s.me (following s.me))
    (hv : ∀ t : State, t.me = { x with pc := following s.me, qual := false } → sysValue t t.cur n.toNat = some w) :
    ∃ t, exec (.srw a n) s = .next t ∧ sysValue t s.cur n.toNat = some w ∧ onlyMe s t
      ∧ t.me.pc = following s.me ∧ t.me.s = s.me.s ∧ t.me.f = s.me.f ∧ t.me.lc0 = s.me.lc0 ∧ t.me.lc1 = s.me.lc1 := by
  have hf : following x = following s.me := by rw [hx]; rfl
  have hpx : plainAt x (following s.me) := by rw [hx]; exact hp
  have hme := finish_setMe_plain hf hpx
  refine ⟨_, execSrw_ok hs hk h8 hr h, hv _ hme, onlyMe_trans (setMe_onlyMe s x) (setMe_onlyMe _ _), ?_⟩
  rw [hme, hx]
  exact ⟨rfl, rfl, rfl, rfl, rfl⟩

/-- The low bits of a word, by a mask. -/
theorem zeroExtend_truncate_eq_and (v : Word) (k : Nat) (hk : k ≤ 64) :
    ((v.truncate k).zeroExtend 64 : Word) = v &&& BitVec.ofNat 64 (2 ^ k - 1) := by
  refine BitVec.eq_of_toNat_eq ?_
  have hp : 2 ^ k ≤ 2 ^ 64 := Nat.pow_le_pow_right (by decide) hk
  have h0 : 0 < 2 ^ k := Nat.two_pow_pos k
  rw [BitVec.toNat_and, BitVec.toNat_ofNat, Nat.mod_eq_of_lt (show 2 ^ k - 1 < 2 ^ 64 by omega),
    Nat.and_two_pow_sub_one_eq_mod]
  simp only [BitVec.truncate_eq_setWidth, BitVec.toNat_setWidth]
  exact Nat.mod_eq_of_lt (by have := Nat.mod_lt v.toNat h0; omega)

theorem systemRegisterWrite : Claims.SystemRegisterWrite := by
  intro s a n mask hs hr hp hn
  simp only [List.mem_cons, Prod.mk.injEq, List.not_mem_nil, or_false] at hn
  rcases hn with ⟨rfl, rfl⟩ | ⟨rfl, rfl⟩ | ⟨rfl, rfl⟩ | ⟨rfl, rfl⟩ | ⟨rfl, rfl⟩ | ⟨rfl, rfl⟩ | ⟨rfl, rfl⟩
  · refine srw_register hs (.inl (by decide)) (by decide) hr rfl rfl hp fun t ht => congrArg some ?_
    exact (congrArg (·.frm.zeroExtend 64) ht).trans (zeroExtend_truncate_eq_and _ 3 (by decide))
  · refine srw_register hs (.inl (by decide)) (by decide) hr rfl rfl hp fun t ht => congrArg some ?_
    exact (congrArg (·.fflags.zeroExtend 64) ht).trans (zeroExtend_truncate_eq_and _ 5 (by decide))
  · refine srw_register hs (.inl (by decide)) (by decide) hr rfl rfl hp fun t ht => congrArg some ?_
    exact (congrArg (·.pred.zeroExtend 64) ht).trans (zeroExtend_truncate_eq_and _ 8 (by decide))
  · refine srw_register hs (.inr (by decide)) (by decide) hr rfl rfl hp fun t ht => congrArg some ?_
    exact congrArg Hart.epc ht
  · refine srw_register hs (.inr (by decide)) (by decide) hr rfl rfl hp fun t ht => congrArg some ?_
    exact (congrArg (·.ecause.zeroExtend 64) ht).trans (zeroExtend_truncate_eq_and _ 10 (by decide))
  · refine srw_register hs (.inr (by decide)) (by decide) hr rfl rfl hp fun t ht => congrArg some ?_
    exact (congrArg Hart.eval ht).trans BitVec.and_allOnes.symm
  · refine srw_register hs (.inr (by decide)) (by decide) hr rfl rfl hp fun t ht => congrArg some ?_
    exact (congrArg Hart.escratch ht).trans BitVec.and_allOnes.symm

/-! Counts, ACCST, pools and ESTAT. -/

/-- What srw to ACCST does with one bank. -/
def clearOvf (s : State) (v : Word) (b : Nat) : State :=
  if ownsBank s s.cur b ∧ v.getLsbD b then setOvf s s.cur b false else s

/-- The overflow flag of bank `c` of the executing hart's core. -/
def bankFlag (s : State) (c : Nat) : Bool := Tab.get false (s.core (coreOf s.cur)).bankOvf c

theorem setOvf_core (s : State) (b : Nat) (v : Bool) :
    (setOvf s s.cur b v).core (coreOf s.cur)
      = { s.core (coreOf s.cur) with bankOvf := Tab.set false b v (s.core (coreOf s.cur)).bankOvf } :=
  State.core_setCore_same s _ _

theorem clearOvf_cur (s : State) (v : Word) (b : Nat) : (clearOvf s v b).cur = s.cur := by
  unfold clearOvf
  split <;> rfl

theorem clearOvf_harts (s : State) (v : Word) (b : Nat) : (clearOvf s v b).harts = s.harts := by
  unfold clearOvf
  split <;> rfl

theorem clearOvf_mem (s : State) (v : Word) (b : Nat) : (clearOvf s v b).mem = s.mem := by
  unfold clearOvf
  split <;> rfl

theorem clearOvf_ownsBank (s : State) (v : Word) (b c : Nat) : ownsBank (clearOvf s v b) s.cur c = ownsBank s s.cur c := by
  unfold clearOvf
  split
  · rw [ownsBank, setOvf_core]
    rfl
  · rfl

theorem clearOvf_bankFlag (s : State) (v : Word) (b c : Nat) :
    bankFlag (clearOvf s v b) c = (bankFlag s c && !(decide (c = b) && ownsBank s s.cur b && v.getLsbD b)) := by
  unfold bankFlag
  rw [clearOvf_cur]
  unfold clearOvf
  split
  · next h =>
    rw [setOvf_core]
    by_cases hc : c = b
    · simp [hc, h.1, h.2]
    · simp [hc, Tab.get_set_other _ _ _ _ _ hc]
  · next h =>
    by_cases hc : c = b
    · simp only [not_and, Bool.not_eq_true] at h
      cases ho : ownsBank s s.cur b
      · simp
      · simp [h ho]
    · simp [hc]

theorem execSrw_accst {s : State} (hs : free s) (a : Reg) :
    exec (.srw a 0x008) s = .next (finish (clearOvf (clearOvf s (s.me.readS a) 0) (s.me.readS a) 1)) := by
  have hc : ¬((8 : Nat) / 1024 % 2 = 1 ∨ (!sysReach s.me.mode 8) = true) := by
    rw [sysReach_low (by decide)]
    decide
  simp only [exec, execSrw, unchained_free s _ hs, show (0x008 : BitVec 12).toNat = 8 from rfl, hc, if_false, if_true]
  rfl

theorem accstWrite {s : State} (hs : free s) (a : Reg) :
    ∃ t, exec (.srw a 0x008) s = .next t ∧ t.me = arrive s.me (following s.me) ∧ memoryStands s t
      ∧ t.cur = s.cur ∧ ∀ b, b < 2 → bankFlag t b = (bankFlag s b && !(ownsBank s s.cur b && (s.me.readS a).getLsbD b)) := by
  generalize hv : s.me.readS a = v
  have he := execSrw_accst hs a
  rw [hv] at he
  have hcur : (clearOvf (clearOvf s v 0) v 1).cur = s.cur := by rw [clearOvf_cur, clearOvf_cur]
  have hharts : (clearOvf (clearOvf s v 0) v 1).harts = s.harts := by rw [clearOvf_harts, clearOvf_harts]
  have hhart (h : Nat) : (clearOvf (clearOvf s v 0) v 1).hart h = s.hart h := by rw [State.hart, hharts]; rfl
  have hme : (clearOvf (clearOvf s v 0) v 1).me = s.me := by rw [State.me, hcur, hhart]; rfl
  refine ⟨_, he, by rw [finish_me, hme], ⟨fun k => ?_, fun h hh => ?_⟩, hcur, fun b hb => ?_⟩
  · show Tab.get 0 (clearOvf (clearOvf s v 0) v 1).mem k = _
    rw [clearOvf_mem, clearOvf_mem]
    rfl
  · exact (State.hart_setMe_other _ h _ (by rw [hcur]; exact hh)).trans (hhart h)
  · show bankFlag (clearOvf (clearOvf s v 0) v 1) b = _
    have ho (c : Nat) : ownsBank (clearOvf s v 0) (clearOvf s v 0).cur c = ownsBank s s.cur c := by
      rw [clearOvf_cur, clearOvf_ownsBank]
    rw [clearOvf_bankFlag, clearOvf_bankFlag, ho]
    obtain rfl | rfl : b = 0 ∨ b = 1 := by omega
    · simp
    · simp

/-- A pool register is written where R93 permits the value. -/
theorem execSrw_pool {s : State} {a : Reg} {n : BitVec 12} {x : Hart} {ok : Bool} (hs : free s) (hm : s.me.mode = .system)
    (hk : 0x800 ≤ n.toNat ∧ n.toNat < 0x900)
    (h : writeHartReg s n.toNat (s.me.readS a) = if ok then .ok x else .error 0x01) :
    exec (.srw a n) s = .next (if ok then finish (s.setMe x) else trap s 0x01 (trapPc s.me)) := by
  have hr : sysReach s.me.mode n.toNat = true := by rw [hm]; exact sysReach_system _
  cases ok with
  | true => exact execSrw_ok hs (.inr hk) (by omega) hr h
  | false => exact execSrw_error hs (.inr hk) (by omega) hr h

theorem countAndStatusWrite : Claims.CountAndStatusWrite := by
  intro s a hs
  refine ⟨?_, ?_, ?_, fun hm => ⟨?_, ?_, ?_, ?_⟩⟩
  · exact execSrw_ok hs (.inl (by decide)) (by decide) (sysReach_low (by decide)) rfl
  · exact execSrw_ok hs (.inl (by decide)) (by decide) (sysReach_low (by decide)) rfl
  · obtain ⟨t, he, hme, hmem, hcur, hovf⟩ := accstWrite hs a
    refine ⟨t, he, hme, hmem, fun b hb => ?_⟩
    have hb' := hovf b hb
    rw [bankFlag, bankFlag, hcur] at hb'
    exact hb'
  · exact execSrw_pool hs hm (by decide) rfl
  · exact execSrw_pool hs hm (by decide) rfl
  · exact execSrw_ok hs (.inr (by decide)) (by decide) (by rw [hm]; exact sysReach_system _) rfl
  · rw [← finish_setMe_me hm]
    exact execSrw_ok hs (.inr (by decide)) (by decide) (by rw [hm]; exact sysReach_system _) rfl

/-- Settles O14. -/
theorem systemWrites : Obligations.SystemWrites :=
  ⟨systemRegisterWrite, vectorLengthWrite, vectorRowsAndStartWrite, countAndStatusWrite⟩

end Sys2Proof.Machine
end

section
/-! SUPPORT. Returns from system mode (10 R274, R275; 16 R402), and scalar memory (05 R141 to R147; 10 R241). -/

namespace Sys2Proof.Machine

/-- In system mode a privileged instruction runs as it stands. -/
theorem privileged_system {s : State} (hs : free s) (hm : s.me.mode = .system) (k : State → Res) : privileged s k = k s := by
  rw [privileged, unchained_free s _ hs, if_neg (by rw [hm]; decide)]

/-- With nothing left to the queues, no result waits. -/
theorem completeResults_free {s : State} (hs : free s) : completeResults s s.cur = s := by
  obtain ⟨-, ⟨-, hq, hv, -, -⟩, -⟩ := hs
  have h0 : performQueue s s.cur false = s := performQueue_empty (v := false) hq
  simp only [completeResults, h0]
  exact performFirst_empty (v := true) hv

theorem eretReturns : Claims.EretReturns := by
  intro s hs hm y hy
  simp only [exec, execEret, privileged_system hs hm, returnFromTrap]
  have hy' : checkTarget (s.setMe { s.me with mode := if s.me.ecause.getLsbD 9 then .system else .user }) s.cur s.me.epc = none := hy
  simp only [hy', State.me_setMe]
  rfl

/-- Whether tlbinv with the operands `u` and `v` names a translation (10 R275). -/
def tlbinvNames (u v : Word) (e : TlbEntry) : Bool :=
  (u.getLsbD 16 || (decide (e.asid = u.toNat % 2 ^ 16) && !e.glob)) && (v.getLsbD 0 || decide (e.page = v.toNat / 4096))

theorem tlbinvNames_iff {u v : Word} {e : TlbEntry} :
    tlbinvNames u v e = true ↔ (u.getLsbD 16 = true ∨ e.asid = u.toNat % 2 ^ 16 ∧ e.glob = false)
      ∧ (v.getLsbD 0 = true ∨ e.page = v.toNat / 4096) := by
  simp [tlbinvNames]

/-- The state after the entries that tlbinv names have left the caches of the hart's core and cluster. -/
def invalidated (s : State) (u v : Word) : State :=
  let s' := s.setCore (coreOf s.cur) { s.core (coreOf s.cur) with
    tlb := (s.core (coreOf s.cur)).tlb.filter fun e => !tlbinvNames u v e }
  s'.setCluster (clusterOf s.cur) { s'.cluster (clusterOf s.cur) with
    tlb := (s'.cluster (clusterOf s.cur)).tlb.filter fun e => !tlbinvNames u v e }

theorem invalidated_core_tlb (s : State) (u v : Word) :
    ((invalidated s u v).core (coreOf s.cur)).tlb = (s.core (coreOf s.cur)).tlb.filter fun e => !tlbinvNames u v e := by
  show (State.core (State.setCore s _ _) _).tlb = _
  rw [State.core_setCore_same]

theorem invalidated_cluster_tlb (s : State) (u v : Word) :
    ((invalidated s u v).cluster (clusterOf s.cur)).tlb
      = (s.cluster (clusterOf s.cur)).tlb.filter fun e => !tlbinvNames u v e := by
  rw [invalidated, State.cluster_setCluster_same]
  rfl

theorem systemModeInstructions : Claims.SystemModeInstructions := by
  intro s a b hs hm
  refine ⟨?_, fun ha hb => ⟨finish (invalidated s (s.me.readS a) (s.me.readS b)), ?_, ?_, ?_, fun _ => rfl, ?_⟩⟩
  · simp only [exec, execHalt, privileged_system hs hm, completeResults_free hs]
  · have h0 : ¬((s.me.readS a).toNat / 2 ^ 17 ≠ 0 ∨ (s.me.readS b).toNat / 2 % 2 ^ 11 ≠ 0) := by omega
    simp only [exec, execTlbinv, privileged_system hs hm, if_neg h0]
    rfl
  · rw [finish_me]
    exact arrive_completes _ _
  · exact fun h hh => State.hart_setMe_other _ h _ hh
  · intro e he hu hv
    have hn := tlbinvNames_iff.mpr ⟨hu, hv⟩
    have hc : e ∈ (s.core (coreOf s.cur)).tlb.filter (fun e => !tlbinvNames (s.me.readS a) (s.me.readS b) e)
        ∨ e ∈ (s.cluster (clusterOf s.cur)).tlb.filter fun e => !tlbinvNames (s.me.readS a) (s.me.readS b) e := by
      rw [← invalidated_core_tlb, ← invalidated_cluster_tlb]
      exact he
    simp [List.mem_filter, hn] at hc

/-- Settles O15. -/
theorem systemReturns : Obligations.SystemReturns := ⟨eretReturns, systemModeInstructions⟩

/-! Scalar loads. -/

/-- A hart whose address 0 is the first byte of the scale window of key 0. A window of the larger key, listed before it,
begins one byte later; the second granule of the window of key 0 is bad. -/
def twoWindows : State :=
  { State.reset with
    harts := [(0, { asid := 1, run := .running })]
    contexts := [(1, { valid := true, root := 1, swbase := 0x100000, cwbase := 0x2000000 })]
    hub := { State.reset.hub with ready := 0xFFF }
    windows := [(1, { scl := 0x40000000001, raw := 0x3000, ngran := 1, format := 1 }),
      (0, { scl := 0x40000000000, raw := 0x4000, ngran := 2, format := 1 })]
    mem := [(0x1000, 0x01), (0x1001, 0x08), (0x2000, 0x53), (0x2005, 0x01), (0x3034, 1), (0x406B, 3)] }

/-- Four bytes at address 0 into s7. -/
def wordAtZero : SMOps := { x := 7, y := 0, off := 0, width := 2, fr := false }

theorem twoWindows_free : free twoWindows := ⟨rfl, ⟨rfl, rfl, rfl, rfl, rfl⟩, rfl, rfl, rfl⟩

/-- Refutes O20: noting the bad granule lists the window of key 0 first, so that the last byte of the word at address 0 is
read through that window, and not through the one that it stood in. -/
theorem not_scalarLoads : ¬ Obligations.ScalarLoads := by
  rintro ⟨h, -⟩
  obtain ⟨t, ht, hme, -⟩ := h twoWindows wordAtZero ⟨.derived 0x40000000000, .pma⟩ twoWindows_free (by decide +kernel)
    (by decide +kernel)
  have hr := (hme.2 7 (by decide)).1
  have hx : (match exec (.ld wordAtZero) twoWindows with | .next t => t.me.readS 7 | _ => 1) = 0 := by decide +kernel
  rw [ht] at hx
  exact absurd (hr.symm.trans hx) (by decide +kernel)

end Sys2Proof.Machine
end

section
/-! SUPPORT. What an access leaves beside its bytes: only caches and tags change (05 R141; 07 R182). -/

namespace Sys2Proof.Machine

/-- Only the caches, the tags of lines and the marks of the windows differ. -/
structure OnlyCaches (s t : State) : Prop where
  rest : t = { s with cores := t.cores, clusters := t.clusters, windows := t.windows, chainTags := t.chainTags }
  core : ∀ c, t.core c = { s.core c with tlb := (t.core c).tlb, stash := (t.core c).stash }
  cluster : ∀ c, t.cluster c = { s.cluster c with tlb := (t.cluster c).tlb }

namespace OnlyCaches

variable {s t u : State}

theorem refl (s : State) : OnlyCaches s s := ⟨rfl, fun _ => rfl, fun _ => rfl⟩

theorem trans (a : OnlyCaches s t) (b : OnlyCaches t u) : OnlyCaches s u :=
  ⟨by rw [b.rest, a.rest], fun c => by rw [b.core, a.core], fun c => by rw [b.cluster, a.cluster]⟩

theorem harts (h : OnlyCaches s t) : t.harts = s.harts := by rw [h.rest]
theorem mem (h : OnlyCaches s t) : t.mem = s.mem := by rw [h.rest]
theorem taint (h : OnlyCaches s t) : t.taint = s.taint := by rw [h.rest]
theorem cur (h : OnlyCaches s t) : t.cur = s.cur := by rw [h.rest]
theorem ahead (h : OnlyCaches s t) : t.ahead = s.ahead := by rw [h.rest]
theorem jobs (h : OnlyCaches s t) : t.jobs = s.jobs := by rw [h.rest]
theorem keel (h : OnlyCaches s t) : t.keel = s.keel := by rw [h.rest]
theorem contexts (h : OnlyCaches s t) : t.contexts = s.contexts := by rw [h.rest]
theorem n (h : OnlyCaches s t) : t.n = s.n := by rw [h.rest]
theorem hart (h : OnlyCaches s t) (k : Nat) : t.hart k = s.hart k := by rw [State.hart, h.harts]; rfl
theorem me (h : OnlyCaches s t) : t.me = s.me := by rw [State.me, h.cur, h.hart]; rfl
theorem byte (h : OnlyCaches s t) (a : Nat) : t.byte a = s.byte a := by rw [State.byte, h.mem]; rfl

/-- Bytes in memory read alike. -/
theorem readRam (h : OnlyCaches s t) (l n : Nat) : readPlace t (.ram l) n = readPlace s (.ram l) n := by
  have hb : placeByte t (.ram l) = placeByte s (.ram l) := by
    funext i
    simp only [placeByte, h.mem]
  rw [readPlace, hb]
  rfl

/-- A write into memory after such a change changes the same bytes. -/
theorem write (h : OnlyCaches s t) (l : Nat) (b : List Byte) : (writeRam t l b).mem = (writeRam s l b).mem := by
  show putMem t.mem l b = putMem s.mem l b
  rw [h.mem]

end OnlyCaches

/-- A core may gain or lose translations, and its stashes' lines change. -/
theorem setCore_onlyCaches (s : State) (c : Nat) (tlb : List TlbEntry) (stash : List Stash) :
    OnlyCaches s (s.setCore c { s.core c with tlb := tlb, stash := stash }) := by
  refine ⟨rfl, fun k => ?_, fun _ => rfl⟩
  by_cases h : k = c
  · rw [h, State.core_setCore_same]
  · rw [State.core_setCore_other s c k _ h]

theorem State.cluster_setCluster_other (s : State) (c k : Nat) (x : Cluster) (h : k ≠ c) :
    (s.setCluster c x).cluster k = s.cluster k := Tab.get_set_other _ _ _ _ _ h

theorem setCluster_onlyCaches (s : State) (c : Nat) (tlb : List TlbEntry) :
    OnlyCaches s (s.setCluster c { s.cluster c with tlb := tlb }) := by
  refine ⟨rfl, fun _ => rfl, fun k => ?_⟩
  by_cases h : k = c
  · rw [h, State.cluster_setCluster_same]
  · rw [State.cluster_setCluster_other s c k _ h]

theorem noteTlb_onlyCaches (s : State) (a : Agent) (k : Access) (va : Nat) : OnlyCaches s (noteTlb s a k va) := by
  unfold noteTlb
  split
  · exact .refl s
  · split
    · exact .refl s
    · exact (setCore_onlyCaches s _ _ _).trans (setCluster_onlyCaches _ _ _)

theorem touchStash_onlyCaches (s : State) (a : Agent) (k : Access) (c o : Nat) : OnlyCaches s (touchStash s a k c o) := by
  unfold touchStash
  split
  · exact .refl s
  · split
    · exact .refl s
    · exact setCore_onlyCaches s _ _ _

/-- What a map over a table's values gives at a key, where it keeps the default. -/
theorem Tab.get_map_val {α : Type} (d : α) (f : Nat × α → Nat × α) (m : SMap α) (k : Nat) (hk : ∀ e, (f e).1 = e.1)
    (hd : (f (k, d)).2 = d) : Tab.get d (m.map f) k = (f (k, Tab.get d m k)).2 := by
  induction m with
  | nil => exact hd.symm
  | cons e r ih =>
    obtain ⟨j, v⟩ := e
    simp only [List.map_cons]
    rw [Tab.get, hk]
    rw [Tab.get]
    split
    · next h => rw [← h]
    · exact ih

theorem recallLine_onlyCaches (s : State) (c : Option Nat) (l : Nat) : OnlyCaches s (recallLine s c l) := by
  unfold recallLine
  split
  · exact .refl s
  · refine ⟨rfl, fun k => ?_, fun _ => rfl⟩
    rw [State.core, Tab.get_map_val]
    · by_cases h : c = some k
      · rw [if_pos h]; rfl
      · rw [if_neg h]; rfl
    · intro e
      split <;> rfl
    · dsimp only
      split <;> rfl

/-- A fold of changes of caches changes caches only. -/
theorem foldl_onlyCaches {α : Type} {f : State → α → State} (hf : ∀ s a, OnlyCaches s (f s a)) (s : State) (l : List α) :
    OnlyCaches s (l.foldl f s) := by
  induction l generalizing s with
  | nil => exact .refl s
  | cons a l ih => exact (hf s a).trans (ih _)

theorem recallLines_onlyCaches (s : State) (c : Option Nat) (l n : Nat) :
    OnlyCaches s (if noStash s then s
      else (List.range ((l + n - 1) / 128 + 1 - l / 128)).foldl (fun s k => recallLine s c (l + 128 * k)) s) := by
  split
  · exact .refl s
  · exact foldl_onlyCaches (fun s k => recallLine_onlyCaches s c _) s _

theorem recallSpan_onlyCaches (s : State) (c : Option Nat) (p : Place) (n : Nat) : OnlyCaches s (recallSpan s c p n) := by
  cases p with
  | ram l => exact recallLines_onlyCaches s c l n
  | derived a => exact recallLines_onlyCaches s c (rawSpan s a n).1 (rawSpan s a n).2
  | _ => exact .refl s

theorem touch_onlyCaches (s : State) (a : Agent) (k : Access) (va : Nat) : OnlyCaches s (touch s a k va) := by
  unfold touch
  split
  · next c o _ =>
    have h := touchStash_onlyCaches s a k c o
    dsimp only
    split
    · exact h
    · split
      · exact h.trans (recallSpan_onlyCaches _ _ _ _)
      · exact h
  · exact .refl s
  · have h := noteTlb_onlyCaches s a k va
    dsimp only
    split
    · exact h
    · split
      · split
        · exact h.trans (recallSpan_onlyCaches _ _ _ _)
        · exact h
      · exact h

theorem setWindows_onlyCaches (s : State) (w : SMap Window) : OnlyCaches s { s with windows := w } :=
  ⟨rfl, fun _ => rfl, fun _ => rfl⟩

theorem setTags_onlyCaches (s : State) (w : SMap Nat) : OnlyCaches s { s with chainTags := w } :=
  ⟨rfl, fun _ => rfl, fun _ => rfl⟩

theorem noteFill_onlyCaches (s : State) (a : Nat) : OnlyCaches s (noteFill s a) := by
  unfold noteFill
  split
  · dsimp only
    split
    · exact setWindows_onlyCaches s _
    · exact .refl s
  · split
    · dsimp only
      split
      · exact setWindows_onlyCaches s _
      · exact .refl s
    · exact .refl s

theorem noteRead_onlyCaches (s : State) (r : Except Nat Resolved) : OnlyCaches s (noteRead s r) := by
  unfold noteRead
  split
  · exact noteFill_onlyCaches s _
  · exact .refl s

theorem tagChain_onlyCaches (s : State) (x : Hart) (l : Nat) : OnlyCaches s (tagChain s x l) := by
  unfold tagChain
  split
  · exact .refl s
  · split
    · exact .refl s
    · exact setTags_onlyCaches s _

theorem tagAt_onlyCaches (s : State) (x : Hart) (p : Place) : OnlyCaches s (tagAt s x p) := by
  unfold tagAt
  split
  · exact tagChain_onlyCaches s x _
  · exact tagChain_onlyCaches s x _
  · exact .refl s

/-! Bytes of a number, and of memory after a write. -/

theorem leBytes_length (n v : Nat) : (leBytes n v).length = n := by
  induction n generalizing v with
  | zero => rfl
  | succ n ih => rw [leBytes, List.length_cons, ih]

theorem leBytes_getElem (n v k : Nat) (h : k < (leBytes n v).length) : (leBytes n v)[k] = BitVec.ofNat 8 (v / 256 ^ k) := by
  induction n generalizing v k with
  | zero => exact nomatch h
  | succ n ih =>
    cases k with
    | zero => simp [leBytes]
    | succ k =>
      simp only [leBytes, List.getElem_cons_succ, ih]
      rw [Nat.div_div_eq_div_mul, Nat.pow_succ, Nat.mul_comm]

theorem leNat_lt (l : List Byte) : leNat l < 256 ^ l.length := by
  induction l with
  | nil => simp [leNat]
  | cons b r ih =>
    have hb := b.isLt
    rw [leNat, List.length_cons, Nat.pow_succ]
    omega

theorem readPlace_length (s : State) (p : Place) (n : Nat) : (readPlace s p n).length = n := by
  rw [readPlace, List.length_map, List.length_range]

theorem writeRam_byte_in (s : State) (l : Nat) (b : List Byte) (i : Nat) (h : i < b.length) :
    (writeRam s l b).byte (l + i) = b[i] := putMem_same s.mem l b i h

theorem writeRam_byte_out (s : State) (l : Nat) (b : List Byte) (a : Nat) (h : a < l ∨ l + b.length ≤ a) :
    (writeRam s l b).byte a = s.byte a := putMem_other s.mem l b a h

/-- The bytes of a number stand where they were written. -/
theorem writeRam_leBytes (s : State) (l n v k : Nat) (h : k < n) :
    (writeRam s l (leBytes n v)).byte (l + k) = BitVec.ofNat 8 (v / 256 ^ k) := by
  rw [writeRam_byte_in s l _ k (by rwa [leBytes_length]), leBytes_getElem]

theorem writeRam_leBytes_out (s : State) (l n v a : Nat) (h : a < l ∨ l + n ≤ a) :
    (writeRam s l (leBytes n v)).byte a = s.byte a := writeRam_byte_out s l _ a (by rwa [leBytes_length])

/-- A hart that falls through in a state with the harts of `s` changes itself alone. -/
theorem finishWith_harts {s u : State} (hh : u.harts = s.harts) (hc : u.cur = s.cur) (f : Hart → Hart) :
    (∀ h, h ≠ s.cur → (finishWith u f).hart h = s.hart h) ∧ completes (f s.me) (finishWith u f).me := by
  have hm : u.me = s.me := by rw [State.me, State.hart, hc, hh]; rfl
  refine ⟨fun h n => ?_, ?_⟩
  · rw [(finishWith_onlyMe u f).2.1 h (hc ▸ n), State.hart, hh]
    rfl
  · rw [finishWith_me, hm]
    exact arrive_completes _ _

theorem finishWith_byte (s : State) (f : Hart → Hart) (a : Nat) : (finishWith s f).byte a = s.byte a :=
  (finishWith_onlyMe s f).2.2 a

theorem finish_byte (s : State) (a : Nat) : (finish s).byte a = s.byte a := rfl

theorem finish_harts {s u : State} (hh : u.harts = s.harts) (hc : u.cur = s.cur) :
    (∀ h, h ≠ s.cur → (finish u).hart h = s.hart h) ∧ completes s.me (finish u).me := by
  have hm : u.me = s.me := by rw [State.me, State.hart, hc, hh]; rfl
  refine ⟨fun h n => ?_, ?_⟩
  · rw [finish, State.hart_setMe_other u h _ (hc ▸ n), State.hart, hh]
    rfl
  · rw [finish_me, hm]
    exact arrive_completes _ _

/-! Scalar stores (05 R141, R143). -/

theorem execSt_free {s : State} (hs : free s) (o : SMOps) : exec (.st o) s = storeNow o s := by
  have hl : scalarLags s = false := by rw [scalarLags, hs.2.1.1]; rfl
  simp only [exec, execSt, unchained_free s _ hs, hl]
  rfl

theorem execLd_free {s : State} (hs : free s) (o : SMOps) : exec (.ld o) s = loadNow o s := by
  have hl : scalarLags s = false := by rw [scalarLags, hs.2.1.1]; rfl
  simp only [exec, execLd, unchained_free s _ hs, hl]
  rfl

/-- A store that meets no problem at a place in memory, with nothing performed before its turn. -/
theorem store_ram {s : State} (ha : s.ahead = []) {va : Word} {b : List Byte} {l : Nat} {c : PageClass}
    (h : check s (s.agent s.cur) .store va.toNat b.length = .ok ⟨.ram l, c⟩) :
    ∃ u, OnlyCaches s u ∧ store s va b = .ok (writeRam u l b) := by
  have hu := (touch_onlyCaches s (s.agent s.cur) .store va.toNat).trans (tagAt_onlyCaches _ s.me (.ram l))
  refine ⟨_, hu, ?_⟩
  simp only [store, h, writeAccess_plain _ false _ (hu.ahead.trans ha)]
  rfl

/-- Settles O17. -/
theorem scalarStores : Obligations.ScalarStores := by
  intro s o l c hs hw va n v h
  have hn : widthBytes o.width = n := by
    have hle : o.width.toNat ≤ 3 := by
      simp only [Instr.wellFormed, Bool.and_eq_true, decide_eq_true_eq] at hw
      exact hw.1
    show 2 ^ (o.width.toNat % 4) = 2 ^ o.width.toNat
    rw [Nat.mod_eq_of_lt (by omega)]
  have hb : storeBytes s.me o = leBytes n v.toNat := by rw [storeBytes, hn]
  obtain ⟨u, hu, he⟩ := store_ram hs.2.1.2.2.2.2 (va := va) (b := leBytes n v.toNat) (by rw [leBytes_length]; exact h)
  refine ⟨finish (writeRam u l (leBytes n v.toNat)), ?_, fun k hk => ?_, fun a ha => ?_, ?_⟩
  · rw [execSt_free hs, storeNow, hb]
    have he' : store s (smAddr s.me o) (leBytes n v.toNat) = _ := he
    simp only [he']
  · rw [finish_byte, writeRam_leBytes _ _ _ _ _ hk]
  · rw [finish_byte, writeRam_leBytes_out _ _ _ _ _ ha, hu.byte]
  · exact finish_harts hu.harts hu.cur

/-! Scalar atomics (10 R240, R241). -/

/-- Each amo is its operation on the word at its address. -/
theorem exec_amo {i : Instr} {op : Nat} {d a v : Reg} {z : Bool} (h : amoParts i = some (op, d, a, v, z)) (s : State) :
    exec i s = amoOf op d a v z s := by
  cases i with
  | amoAdd | amoAnd | amoOr | amoXor | amoMin | amoMax | amoMinn | amoMaxn | amoSwap | amoFadd =>
    obtain ⟨rfl, rfl, rfl, rfl, rfl⟩ := Option.some.inj h
    rfl
  | _ => exact nomatch h

/-- The old value, widened as R241 has it. -/
theorem atomicWiden_eq {op n old : Nat} (h : n = 4 → old < 2 ^ 32) :
    atomicWiden op n old = if n = 4 ∧ op ∉ [6, 7, 9] then (BitVec.ofNat 32 old).signExtend 64 else BitVec.ofNat 64 old := by
  unfold atomicWiden
  have hc : (n = 4 ∧ op ≠ 6 ∧ op ≠ 7 ∧ op ≠ 9) ↔ (n = 4 ∧ op ∉ [6, 7, 9]) := by simp
  simp only [hc]
  split
  · next hn =>
    have ho := h hn.1
    rw [BitVec.signExtend, BitVec.toInt, BitVec.toNat_ofNat, Nat.mod_eq_of_lt ho, signed, Nat.mod_eq_of_lt ho]
  · rfl

/-- The word of a place in memory is that of its bytes there. -/
theorem leNat_readPlace_lt (s : State) (p : Place) (n : Nat) : leNat (readPlace s p n) < 256 ^ n := by
  have h := leNat_lt (readPlace s p n)
  rwa [readPlace_length] at h

/-- An atomic that meets no problem at a place in memory: what it stores there, and its hart. -/
theorem atomic_ram {s : State} (hs : free s) {d : Reg} {va : Word} {n op l : Nat} {c : PageClass} {f : Nat → Option Nat × Flags}
    (h : check s (s.agent s.cur) .atomic va.toNat n = .ok ⟨.ram l, c⟩) :
    let old := leNat (readPlace s (.ram l) n)
    ∃ u, OnlyCaches s u ∧ atomic s d va n op f = .next
      (finishWith (match (f old).1 with | some v => writeRam u l (leBytes n v) | none => u)
        fun x => (x.writeS d (atomicWiden op n old)).raise (f old).2) := by
  refine ⟨_, touch_onlyCaches s (s.agent s.cur) .atomic va.toNat, ?_⟩
  simp only [atomic, unchained_free s _ hs, h]
  rfl

theorem size_cases (z : Bool) (old : Nat) (h : old < 256 ^ (if z then 8 else 4)) : (if z then 8 else 4) = 4 → old < 2 ^ 32 := by
  intro hz
  rw [hz] at h
  exact h

theorem atomics : Claims.Atomics := by
  intro s i op d a v z l c hs hi n old r h
  obtain ⟨u, hu, he⟩ := atomic_ram hs (d := d) (op := op)
    (f := fun old => (some (atomicOp op n old (s.me.readS v).toNat).1, (atomicOp op n old (s.me.readS v).toNat).2)) h
  obtain ⟨hothers, hme⟩ := finishWith_harts (u := writeRam u l (leBytes n r.1)) (hu.harts) (hu.cur)
    fun x => (x.writeS d (atomicWiden op n old)).raise r.2
  refine ⟨_, (exec_amo hi s).trans he, fun k hk => ?_, fun b hb => ?_, hothers, ?_⟩
  · rw [finishWith_byte]
    exact writeRam_leBytes _ _ _ _ _ hk
  · rw [finishWith_byte]
    exact (writeRam_leBytes_out _ _ _ _ _ hb).trans (hu.byte b)
  · rw [← atomicWiden_eq (size_cases z old (leNat_readPlace_lt _ _ _))]
    exact hme

theorem Hart.raise_zero (x : Hart) : x.raise 0 = x := by
  simp [Hart.raise]

/-- An atomic that stores `N` where it finds `E`. -/
theorem atomic_swap {s : State} (hs : free s) {d : Reg} {va : Word} {w l : Nat} {c : PageClass} (E N : Nat)
    (h : check s (s.agent s.cur) .atomic va.toNat w = .ok ⟨.ram l, c⟩) :
    let old := leNat (readPlace s (.ram l) w)
    ∃ t, atomic s d va w 8 (fun old => (if old = E then some N else none, 0)) = .next t
      ∧ (old = E → ∀ k, k < w → t.byte (l + k) = BitVec.ofNat 8 (N / 256 ^ k))
      ∧ (old ≠ E → ∀ b, t.byte b = s.byte b)
      ∧ (∀ b, b < l ∨ l + w ≤ b → t.byte b = s.byte b)
      ∧ (∀ h, h ≠ s.cur → t.hart h = s.hart h)
      ∧ completes (s.me.writeS d (atomicWiden 8 w old)) t.me := by
  intro old
  obtain ⟨u, hu, he⟩ := atomic_ram hs (d := d) (op := 8) (f := fun old => (if old = E then some N else none, 0)) h
  simp only [Hart.raise_zero] at he
  by_cases hc : old = E
  · rw [if_pos hc] at he
    obtain ⟨hothers, hme⟩ := finishWith_harts (u := writeRam u l (leBytes w N)) hu.harts hu.cur
      fun x => x.writeS d (atomicWiden 8 w old)
    exact ⟨_, he, fun _ k hk => (finishWith_byte _ _ _).trans (writeRam_leBytes _ _ _ _ _ hk), fun hn => absurd hc hn,
      fun b hb => ((finishWith_byte _ _ b).trans (writeRam_leBytes_out _ _ _ _ _ hb)).trans (hu.byte b), hothers, hme⟩
  · rw [if_neg hc] at he
    obtain ⟨hothers, hme⟩ := finishWith_harts hu.harts hu.cur fun x => x.writeS d (atomicWiden 8 w old)
    exact ⟨_, he, fun hn => absurd hn hc, fun _ b => (finishWith_byte _ _ b).trans (hu.byte b),
      fun b _ => (finishWith_byte _ _ b).trans (hu.byte b), hothers, hme⟩

/-- The low bytes of a number are those of its remainder. -/
theorem byte_mod (v w k : Nat) (hk : k < w) : BitVec.ofNat 8 (v % 2 ^ (8 * w) / 256 ^ k) = BitVec.ofNat 8 (v / 256 ^ k) := by
  apply BitVec.eq_of_toNat_eq
  simp only [BitVec.toNat_ofNat]
  have h8 : (256 : Nat) ^ k = 2 ^ (8 * k) := by rw [Nat.pow_mul]
  have hw : 2 ^ (8 * w) = 2 ^ (8 * k) * 2 ^ (8 * (w - k)) := by rw [← Nat.pow_add]; congr 1; omega
  rw [h8, hw, Nat.mod_mul_right_div_self, Nat.mod_mod_of_dvd _ (Nat.pow_dvd_pow 2 (by omega))]

theorem compareAndSwap : Claims.CompareAndSwap := by
  intro s d a e n z l c hs w old h
  have hwide : atomicWiden 8 w old = if z then BitVec.ofNat 64 old else (BitVec.ofNat 32 old).signExtend 64 := by
    rw [atomicWiden_eq (size_cases z old (leNat_readPlace_lt _ _ _))]
    cases z <;> rfl
  obtain ⟨t, he, hin, hno, hout, hothers, hme⟩ := atomic_swap hs (d := d) ((s.me.readS e).toNat % 2 ^ (8 * w))
    ((s.me.readS n).toNat % 2 ^ (8 * w)) h
  exact ⟨t, he, fun hc k hk => (hin hc k hk).trans (byte_mod _ w k hk), hno, hout, hothers, hwide ▸ hme⟩

/-- Settles O19. -/
theorem scalarAtomics : Obligations.ScalarAtomics := ⟨atomics, compareAndSwap⟩

end Sys2Proof.Machine
end

section
/-! SUPPORT. Traps of scalar accesses (05 R144; 10 R242): what saving harts with nothing queued leaves of memory. -/

namespace Sys2Proof.Machine

/-- No hart has anything in a queue of its streams. -/
def idleQueues (s : State) : Prop := ∀ h, (s.hart h).scalarQueue = [] ∧ (s.hart h).vectorQueue = []

/-- What a table gives at a key is the default or a value that it lists. -/
theorem Tab.get_mem_or {α : Type} (d : α) (m : SMap α) (k : Nat) : Tab.get d m k = d ∨ (k, Tab.get d m k) ∈ m := by
  induction m with
  | nil => exact .inl rfl
  | cons e r ih =>
    obtain ⟨j, v⟩ := e
    rw [Tab.get]
    split
    · next h => exact .inr (h ▸ List.mem_cons_self)
    · exact ih.imp_right (List.mem_cons_of_mem _)

theorem idleQueues_of_quiet {s : State} (h : quiet s) : idleQueues s := by
  intro k
  obtain he | he := Tab.get_mem_or {} s.harts k
  · rw [State.hart, he]
    exact ⟨rfl, rfl⟩
  · exact h _ he

theorem idleQueues_of_harts {s t : State} (h : idleQueues s) (hh : t.harts = s.harts) : idleQueues t := by
  intro k
  rw [State.hart, hh]
  exact h k

theorem idleQueues_setHart {s : State} (h : idleQueues s) (k : Nat) (x : Hart) (hx : x.scalarQueue = [] ∧ x.vectorQueue = []) :
    idleQueues (s.setHart k x) := by
  intro j
  by_cases hj : j = k
  · rw [hj, State.hart_setHart_same]
    exact hx
  · rw [State.hart_setHart_other _ _ _ _ hj]
    exact h j

theorem dropEarly_harts (s : State) (h : Nat) (v : Bool) : (dropEarly s h v).harts = s.harts := by
  unfold dropEarly
  split <;> rfl

theorem endEarly_harts (s : State) (h : Nat) : (endEarly s h).harts = s.harts := by
  rw [endEarly, dropEarly_harts, dropEarly_harts]

theorem leaveSpawners_harts (s : State) (h : Nat) : (leaveSpawners s h).harts = s.harts := by
  unfold leaveSpawners
  dsimp only
  split <;> rfl

theorem withdraw_harts (s : State) (h : Nat) : (withdraw s h).harts = s.harts := by
  exact (show (withdraw s h).harts = (leaveSpawners s h).harts by rfl).trans (leaveSpawners_harts s h)

/-- Saving a hart with nothing queued changes no memory and queues nothing. -/
theorem saveHart_idle {s : State} (h : idleQueues s) (k g : Nat) (held : Bool) (raised : SMap Nat) :
    (saveHart s k g held raised).mem = s.mem ∧ idleQueues (saveHart s k g held raised) := by
  obtain ⟨hs, hv⟩ := h k
  unfold saveHart
  rw [performHart_empty hs hv, leaveBehind_plain s k hv]
  have hm : (endEarly (withdraw s k) k).mem = s.mem := by rw [endEarly_mem, withdraw_mem]
  have hh : (endEarly (withdraw s k) k).harts = s.harts := by
    rw [endEarly_harts]
    exact withdraw_harts s k
  generalize endEarly (withdraw s k) k = u at *
  refine ⟨(releaseClaims_mem u k).trans hm, ?_⟩
  exact idleQueues_setHart (s := releaseClaims u k) (idleQueues_of_harts h hh) k {} ⟨rfl, rfl⟩

/-- Suspending harts with nothing queued changes no memory. -/
theorem suspendHart_idle {s : State} (h : idleQueues s) (k g : Nat) :
    (suspendHart s k g).mem = s.mem ∧ idleQueues (suspendHart s k g) := by
  unfold suspendHart
  split
  · exact ⟨rfl, idleQueues_of_harts h rfl⟩
  · exact saveHart_idle h k g false _

theorem suspendHarts_idle {s : State} (h : idleQueues s) (l : List Nat) (g : Nat) :
    (l.foldl (fun s k => suspendHart s k g) s).mem = s.mem := by
  induction l generalizing s with
  | nil => rfl
  | cons k l ih =>
    obtain ⟨hm, hq⟩ := suspendHart_idle h k g
    exact (ih hq).trans hm

theorem reportFault_harts (s : State) (cl : Nat) (r : FaultRecord) : (reportFault s cl r).harts = s.harts := by rfl

theorem forwardTrap_idle {s : State} (h : idleQueues s) (epc : Word) (cause : Nat) (eval estat : Word) (chain : Bool) :
    (forwardTrap s epc cause eval estat chain).mem = s.mem := by
  obtain ⟨hm, hq⟩ := saveHart_idle (idleQueues_setHart h s.cur
    { s.me with pc := epc &&& ~~~1, qual := false, chain := none, run := .running } (h s.cur)) s.cur s.keel.ids true []
  unfold forwardTrap
  dsimp only
  rw [suspendHarts_idle]
  · exact (reportFault_mem _ _ _).trans hm
  · exact idleQueues_of_harts hq (reportFault_harts _ _ _)

/-- A trap with nothing queued changes no memory. -/
theorem takeTrap_idle {s : State} (h : idleQueues s) (epc : Word) (cause : Nat) (eval estat : Word) (q chain : Bool) :
    (takeTrap s epc cause eval estat q chain).mem = s.mem := by
  unfold takeTrap
  dsimp only
  split
  · rfl
  · split
    · rfl
    · exact forwardTrap_idle h epc cause eval estat chain

theorem trap_idle {s : State} (h : idleQueues s) (hc : s.me.chain = none) (cause : Nat) (eval : Word) :
    (trap s cause eval).mem = s.mem := by
  simp only [trap, hc]
  exact takeTrap_idle h _ _ _ _ _ _

/-- What cas stores, if anything, by the old value. -/
def swapFn (w expected new : Nat) (old : Nat) : Option Nat × Flags :=
  (if old = expected % 2 ^ (8 * w) then some (new % 2 ^ (8 * w)) else none, 0)

theorem exec_cas (d a e v : Reg) (z : Bool) (s : State) : exec (.cas d a e v z) s
    = atomic s d (s.me.readS a) (if z then 8 else 4) 8
      (swapFn (if z then 8 else 4) (s.me.readS e).toNat (s.me.readS v).toNat) := by rfl

/-- What an amo stores, and its flags, by the old value. -/
def amoFn (op n v : Nat) (old : Nat) : Option Nat × Flags := (some (atomicOp op n old v).1, (atomicOp op n old v).2)

theorem amoOf_eq (op : Nat) (d a v : Reg) (z : Bool) (s : State) : amoOf op d a v z s
    = atomic s d (s.me.readS a) (if z then 8 else 4) op (amoFn op (if z then 8 else 4) (s.me.readS v).toNat) := by rfl

/-- cas and every amo are accesses to the word at their address. -/
theorem exec_atomic {i : Instr} {d a v e : Reg} {z : Bool}
    (h : i = .cas d a e v z ∨ ∃ op, amoParts i = some (op, d, a, v, z)) (s : State) :
    ∃ op f, exec i s = atomic s d (s.me.readS a) (if z then 8 else 4) op f := by
  obtain rfl | ⟨op, hop⟩ := h
  · exact ⟨8, _, exec_cas d a e v z s⟩
  · exact ⟨op, _, (exec_amo hop s).trans (amoOf_eq op d a v z s)⟩

/-- Settles O18. -/
theorem scalarAccessTraps : Obligations.ScalarAccessTraps := by
  intro s o d a v e z c hs hquiet va w
  have hidle := idleQueues_of_quiet hquiet
  have hbyte {t : State} {e : Word} (ht : OnlyCaches s t) (k : Nat) : (trap t c e).byte k = s.byte k :=
    congrArg (Tab.get 0 · k) ((trap_idle (idleQueues_of_harts hidle ht.harts) (ht.me ▸ hs.1) c e).trans ht.mem)
  refine ⟨fun k n h => if_pos h, fun h => ⟨?_, hbyte (noteRead_onlyCaches s _)⟩, fun h => ⟨?_, hbyte (.refl s)⟩,
    fun h i hi => ⟨?_, hbyte (.refl s)⟩⟩
  · have h' : check s (s.agent s.cur) .load (smAddr s.me o).toNat (widthBytes o.width) = .error c := h
    simp only [execLd_free hs, loadNow, load, h']
    rfl
  · have h' : check s (s.agent s.cur) .store (smAddr s.me o).toNat (storeBytes s.me o).length = .error c := by
      rw [storeBytes, leBytes_length]
      exact h
    simp only [execSt_free hs, storeNow, store, h']
    rfl
  · have ha (op : Nat) (f : Nat → Option Nat × Flags) :
        atomic s d (s.me.readS a) w op f = .next (trap s c (s.me.readS a)) := by
      simp only [atomic, unchained_free s _ hs, h]
    obtain ⟨op, f, hf⟩ := exec_atomic hi s
    exact hf.trans (ha op f)

end Sys2Proof.Machine
end

section
/-! SUPPORT. Waits and phase barriers (10 R245 to R253). -/

namespace Sys2Proof.Machine

/-! Acting for another hart. -/

/-- A move for hart `h` that ends in a state. -/
theorem asHart_next {s t : State} {h : Nat} {k : State → Res} (e : k { s with cur := h } = .next t) :
    asHart s h k = .next { t with cur := s.cur } := by
  rw [asHart, e]

/-- Hart `h`, awake and past the instruction it waits at. -/
def completedBy (s : State) (h : Nat) : State := { finish (awake { s with cur := h }) with cur := s.cur }

theorem completedBy_hart (s : State) (h : Nat) : (completedBy s h).hart h
    = arrive { s.hart h with run := .running } (following (s.hart h)) := by
  have hm : (finish (awake { s with cur := h })).hart h = (finish (awake { s with cur := h })).me := rfl
  rw [completedBy, State.hart]
  show (finish (awake { s with cur := h })).hart h = _
  rw [hm, finish_me, awake, State.me_setMe]
  rfl

theorem completedBy_other (s : State) (h k : Nat) (n : k ≠ h) : (completedBy s h).hart k = s.hart k := by
  show (finish (awake { s with cur := h })).hart k = _
  rw [finish, awake, State.hart_setMe_other _ k _ n, State.hart_setMe_other _ k _ n]
  rfl

theorem completedBy_ends (s : State) (h : Nat) {r : Res} (e : r = .next (completedBy s h)) :
    ∃ t, r = .next t ∧ t.hart h = arrive { s.hart h with run := .running } (following (s.hart h)) ∧ t.cur = s.cur
      ∧ ∀ k, k ≠ h → t.hart k = s.hart k :=
  ⟨_, e, completedBy_hart s h, rfl, completedBy_other s h⟩

/-- A wait that is satisfied ends. -/
theorem endWait_hit (s : State) (p : Option Nat) (m : Bool) (e : Word) (k : State → Res) :
    endWait s true p m e k = .next (finish (awake s)) := rfl

theorem endWait_met (s : State) (e : Word) (k : State → Res) : endWait s false none true e k = .next (finish (awake s)) := rfl

theorem endWait_poison (s : State) (c : Nat) (m : Bool) (e : Word) (k : State → Res) :
    endWait s false (some c) m e k = .next (trap (awake s) c e) := rfl

theorem withdraw_contexts (s : State) (h : Nat) : (withdraw s h).contexts = s.contexts := by
  show (leaveSpawners s h).contexts = s.contexts
  unfold leaveSpawners
  dsimp only
  split <;> rfl

/-- The bound of a wait in a user with a handler enters the handler. -/
theorem expired_handler (s : State) (h : Nat) (e : Word) (hc : (s.hart h).chain = none) (hu : (s.hart h).mode = .user)
    (hh : (s.context (s.hart h).asid).handler ≠ 0) :
    let y := (trap (awake { withdraw s h with cur := h }) 0x0C e).hart h
    y.epc = trapPc (s.hart h) &&& ~~~1 ∧ y.eval = e ∧ y.ecause = 0x0C ∧ y.mode = .system
      ∧ y.pc = (s.context (s.hart h).asid).handler ∧ y.run = .running := by
  have hx : (withdraw s h).hart h = s.hart h := by rw [State.hart, withdraw_harts]; rfl
  have hctx (a : Nat) : (withdraw s h).context a = s.context a := by rw [State.context, withdraw_contexts]; rfl
  have hme : (awake { withdraw s h with cur := h }).me = { s.hart h with run := .running } := by
    rw [awake, State.me_setMe, State.me]
    show { (withdraw s h).hart h with run := .running } = _
    rw [hx]
  have ht : trap (awake { withdraw s h with cur := h }) 0x0C e
      = enterHandler (awake { withdraw s h with cur := h }) (trapPc (s.hart h)) 0x0C e
        (estatOf (awake { withdraw s h with cur := h }) { s.hart h with run := .running } false) false := by
    have hu' : (awake { withdraw s h with cur := h }).me.mode = .user := by rw [hme]; exact hu
    have hh' : ((awake { withdraw s h with cur := h }).context (awake { withdraw s h with cur := h }).me.asid).handler ≠ 0 := by
      rw [hme]
      exact (hctx _).symm ▸ hh
    have hc' : (awake { withdraw s h with cur := h }).me.chain = none := by rw [hme]; exact hc
    simp only [trap, hc']
    rw [takeTrap_user _ _ _ _ _ _ _ (ne_stackHeld (by decide)) hu' hh', hme]
    rfl
  have hy : (enterHandler (awake { withdraw s h with cur := h }) (trapPc (s.hart h)) 0x0C e
      (estatOf (awake { withdraw s h with cur := h }) { s.hart h with run := .running } false) false).hart h
      = (enterHandler (awake { withdraw s h with cur := h }) (trapPc (s.hart h)) 0x0C e
      (estatOf (awake { withdraw s h with cur := h }) { s.hart h with run := .running } false) false).me := rfl
  intro y
  have hy' : y = _ := (congrArg (State.hart · h) ht).trans (hy.trans (State.me_setMe _ _))
  rw [hy', hme]
  exact ⟨rfl, rfl, rfl, rfl, congrArg Context.handler (hctx _), rfl⟩

theorem waitsEnd : Claims.WaitsEnd := by
  intro s h loc mask value e ne z b ph x done
  refine ⟨fun hx => completedBy_ends s h ?_, fun hx hp hm => completedBy_ends s h ?_, fun c hx hp i hi => ?_,
    fun hx => completedBy_ends s h ?_, fun hx => ?_, fun hx hc hu hh => ?_⟩
  · obtain hx | hx := hx
    · have hx' : (s.hart h).run = _ := hx
      simp only [exec, execWaitSatisfied, hx']
      exact asHart_next (endWait_hit _ _ _ _ _)
    · have hx' : (s.hart h).run = _ := hx
      simp only [exec, execWaitSatisfied, hx']
      exact asHart_next (endWait_hit _ _ _ _ _)
  · have hx' : (s.hart h).run = _ := hx
    simp only [exec, execWatchPoll, hx']
    have hp' : armedPoison { s with cur := h } loc (if z then 8 else 4) = none := hp
    have hm' : wordMeets { s with cur := h } loc mask value ne z = true := hm
    refine asHart_next ?_
    rw [hp', hm']
    rfl
  · have hx' : (s.hart h).run = _ := hx
    have hp' : armedPoison { s with cur := h } loc (if z then 8 else 4) = some c := hp
    simp only [List.mem_cons, List.not_mem_nil, or_false] at hi
    obtain rfl | rfl := hi
    · simp only [exec, execWaitSatisfied, hx']
      refine asHart_next ?_
      rw [hp']
      rfl
    · simp only [exec, execWatchPoll, hx']
      refine asHart_next ?_
      rw [hp']
      rfl
  · have hx' : (s.hart h).run = _ := hx
    simp only [exec, execPbwaitComplete, hx']
    exact asHart_next (endWait_hit _ _ _ _ _)
  · obtain hx | hx := hx
    · have hx' : (s.hart h).run = _ := hx
      simp only [exec, execWaitBoundExpired, hx', if_true]
    · have hx' : (s.hart h).run = _ := hx
      simp only [exec, execWaitBoundExpired, hx', if_true]
  · have he : exec (.waitBoundExpired h) s = expire s h e := by
      obtain hx | hx := hx
      · have hx' : (s.hart h).run = _ := hx
        simp only [exec, execWaitBoundExpired, hx']
        rfl
      · have hx' : (s.hart h).run = _ := hx
        simp only [exec, execWaitBoundExpired, hx']
        rfl
    exact ⟨_, he.trans (asHart_next rfl), expired_handler s h e hc hu hh⟩

/-! Waiting on a word (10 R245, R247). -/

theorem armedPlace_ram {l : Nat} (h : ¬(0x40000000000 ≤ l ∧ l < 0x50000000000)) : armedPlace l = .ram l := if_neg h

theorem waitOnWord : Claims.WaitOnWord := by
  intro s v a m cc z code l pc hs hrun n h hl mask same
  have hu : OnlyCaches s (tagAt (touch (noteRead s (.ok ⟨.ram l, pc⟩)) (s.agent s.cur) .load (s.me.readS a).toNat) s.me (.ram l)) :=
    ((noteRead_onlyCaches s _).trans (touch_onlyCaches _ _ _ _)).trans (tagAt_onlyCaches _ _ _)
  have hx : exec (.waitw v a m cc z code) s
      = (let u := tagAt (touch (noteRead s (.ok ⟨.ram l, pc⟩)) (s.agent s.cur) .load (s.me.readS a).toNat) s.me (.ram l)
        if wordMeets u l (u.me.readS m) (u.me.readS v) (cc == 1) z then .next (finish u)
        else .next (waitAt u (.word l (u.me.readS m) (u.me.readS v) (cc == 1) z false) (s.me.readS a))) := by
    have h' : waitCheck s (s.agent s.cur) (s.me.readS a).toNat (if z then 8 else 4) = .ok ⟨.ram l, pc⟩ := h
    simp only [exec, execWaitw, unchained_free s _ hs, hrun, h']
    rfl
  generalize tagAt (touch (noteRead s (.ok ⟨.ram l, pc⟩)) (s.agent s.cur) .load (s.me.readS a).toNat) s.me (.ram l) = u at *
  have hmeets : wordMeets u l (s.me.readS m) (s.me.readS v) (cc == 1) z = (same != (cc == 1)) := by
    have hr : armedWord u l n = leNat (readPlace s (.ram l) n) := by rw [armedWord, armedPlace_ram hl, hu.readRam]
    show (decide (armedWord u l n &&& mask = _) != _) = _
    rw [hr]
  simp only [hu.me] at hx
  rw [hmeets] at hx
  by_cases hc : same = (cc == 1)
  · have hb : (same != (cc == 1)) = false := by simp [hc]
    rw [hb] at hx
    refine ⟨_, hx, hu.byte, fun k hk => ?_, fun hn => absurd hc hn, fun _ => ?_⟩
    · exact (State.hart_setMe_other u k _ (hu.cur ▸ hk)).trans (hu.hart k)
    · exact (State.me_setMe _ _).trans (by rw [hu.me])
  · have hb : (same != (cc == 1)) = true := bne_iff_ne.mpr hc
    rw [hb] at hx
    refine ⟨_, hx, hu.byte, (finish_harts hu.harts hu.cur).1, fun _ => ?_, fun hn => absurd hn hc⟩
    rw [finish_me, hu.me]

/-- Settles O22. -/
theorem waitsCompleteOrWait : Obligations.WaitsCompleteOrWait := ⟨waitOnWord, waitsEnd⟩

/-! The fields of a barrier (10 R249). -/

theorem leNat_leBytes (n v : Nat) : leNat (leBytes n v) = v % 256 ^ n := by
  induction n generalizing v with
  | zero => simp [leBytes, leNat, Nat.mod_one]
  | succ n ih =>
    have hm : v % 256 ^ (n + 1) = v % 256 + 256 * (v / 256 % 256 ^ n) := by
      rw [Nat.pow_succ, Nat.mul_comm (256 ^ n), Nat.mod_mul]
    rw [leBytes, leNat, ih, hm]
    rfl

/-- What was written is read. -/
theorem readPlace_writeRam (s : State) (l : Nat) (b : List Byte) : readPlace (writeRam s l b) (.ram l) b.length = b := by
  apply List.ext_getElem (readPlace_length _ _ _)
  intro i hi hb
  simp only [readPlace, List.getElem_map, List.getElem_range]
  exact writeRam_byte_in s l b i hb

theorem readPlace_writeRam_leBytes (s : State) (l n v : Nat) :
    leNat (readPlace (writeRam s l (leBytes n v)) (.ram l) n) = v % 256 ^ n := by
  have h := readPlace_writeRam s l (leBytes n v)
  rw [leBytes_length] at h
  rw [h, leNat_leBytes]

/-- A barrier whose fields fit is read as it was written. -/
theorem pbRead_pbWrite (s : State) (l : Nat) {b : Barrier} (hp : b.phase < 64) (hc : b.count < 4096) (hd : b.pend < 4096)
    (hlo : -8589934592 ≤ b.bytes) (hhi : b.bytes ≤ 8589934591) : pbRead (pbWrite s l b) l = b := by
  obtain ⟨p, c, d, y⟩ := b
  simp only at hp hc hd hlo hhi
  have hu : ∃ u : Nat, unsigned 34 y = u ∧ u < 2 ^ 34 ∧ signed 34 u = y := by
    refine ⟨_, rfl, ?_, ?_⟩
    · unfold unsigned; omega
    · unfold signed unsigned
      dsimp only
      split <;> omega
  obtain ⟨u, hu, hlt, hsg⟩ := hu
  have hv : p % 64 * 2 ^ 58 + c % 2 ^ 12 * 2 ^ 46 + d % 2 ^ 12 * 2 ^ 34 + u < 256 ^ 8 := by omega
  simp only [pbRead, pbWrite, readPlace_writeRam_leBytes, hu, Nat.mod_eq_of_lt hv]
  have hs : signed 34 (p % 64 * 2 ^ 58 + c % 2 ^ 12 * 2 ^ 46 + d % 2 ^ 12 * 2 ^ 34 + u) = signed 34 u := by
    unfold signed
    dsimp only
    have : (p % 64 * 2 ^ 58 + c % 2 ^ 12 * 2 ^ 46 + d % 2 ^ 12 * 2 ^ 34 + u) % 2 ^ 34 = u % 2 ^ 34 := by omega
    rw [this]
  rw [hs, hsg]
  congr 1 <;> omega

theorem pbWrite_byte (s : State) (l : Nat) (b : Barrier) (k : Nat) (h : k < l ∨ l + 8 ≤ k) : (pbWrite s l b).byte k = s.byte k :=
  writeRam_leBytes_out s l 8 _ k h

/-- Whether the phase of a barrier completes (10 R251). -/
def phaseDone (b : Barrier) : Bool := decide (b.pend = 0) && decide (b.bytes = 0)

theorem phaseDone_iff {b : Barrier} : phaseDone b = true ↔ b.pend = 0 ∧ b.bytes = 0 := by
  simp [phaseDone]

/-- A barrier after its phase has completed. -/
def nextPhase (b : Barrier) : Barrier := { b with phase := (b.phase + 1) % 64, pend := b.count }

theorem pbWrite_harts (s : State) (l : Nat) (b : Barrier) : (pbWrite s l b).harts = s.harts := writeRam_harts s l _

theorem pbWrite_cur (s : State) (l : Nat) (b : Barrier) : (pbWrite s l b).cur = s.cur := writeRam_cur s l _

theorem pbWrite_me (s : State) (l : Nat) (b : Barrier) : (pbWrite s l b).me = s.me := writeRam_me s l _

theorem heldArrival_pbWrite (s : State) (l : Nat) (b : Barrier) (k : Nat) :
    heldArrival (pbWrite s l b) k = heldArrival s k := by
  have h : (pbWrite s l b).requests = s.requests := writeRam_requests s l _
  rw [heldArrival, h, heldArrival]

/-- With no arrival held, settling a barrier completes its phase, if it does, and no more. -/
theorem pbSettle_unheld (n : Nat) (s : State) (l : Nat) (h : heldArrival s l = none) :
    pbSettle (n + 1) s l false
      = if phaseDone (pbRead s l) then pbWrite s l (nextPhase (pbRead s l)) else s := by
  rw [pbSettle]
  by_cases hd : phaseDone (pbRead s l) = true
  · have hd' : (decide ((pbRead s l).pend = 0) && decide ((pbRead s l).bytes = 0)) = true := hd
    have hh : heldArrival (pbWrite s l (nextPhase (pbRead s l))) l = none := by
      rw [heldArrival_pbWrite, h]
    simp only [hd', hd, if_true, Bool.true_or]
    rw [nextPhase] at hh
    rw [hh]
    rfl
  · have hf : (decide ((pbRead s l).pend = 0) && decide ((pbRead s l).bytes = 0)) = false := eq_false_of_ne_true hd
    simp only [hf, if_neg hd, Bool.or_self, Bool.false_eq_true, if_false]

/-- Settles O24. -/
theorem phaseCompletes : Obligations.PhaseCompletes := by
  intro s l b hheld hp hc hd hlo hhi t
  have hr := pbRead_pbWrite s l hp hc hd hlo hhi
  have ht : t = if phaseDone b then pbWrite (pbWrite s l b) l (nextPhase b) else pbWrite s l b := by
    have h := pbSettle_unheld (heldCount s l) (pbWrite s l b) l (by rw [heldArrival_pbWrite, hheld])
    rwa [hr] at h
  rw [ht]
  by_cases hdone : b.pend = 0 ∧ b.bytes = 0
  · rw [if_pos (phaseDone_iff.mpr hdone), if_pos hdone]
    refine ⟨pbRead_pbWrite _ l (Nat.mod_lt _ (by decide)) hc hc hlo hhi, fun k hk => ?_,
      (pbWrite_harts _ _ _).trans (pbWrite_harts _ _ _)⟩
    rw [pbWrite_byte _ _ _ _ hk, pbWrite_byte _ _ _ _ hk]
  · rw [if_neg (fun h => hdone (phaseDone_iff.mp h)), if_neg hdone]
    exact ⟨hr, fun k hk => pbWrite_byte _ _ _ _ hk, pbWrite_harts _ _ _⟩

/-! Barrier instructions (10 R250 to R253). -/

theorem pbEnter_ok {s : State} (hs : free s) {a : Reg} {l : Nat} (h : pbPlace s (s.agent s.cur) (s.me.readS a).toNat = .ok l)
    (k : State → Nat → Res) : pbEnter s a k = k (touch s (s.agent s.cur) .atomic (s.me.readS a).toNat) l := by
  simp only [pbEnter, unchained_free s _ hs, h]

theorem pbEnter_error {s : State} (hs : free s) {a : Reg} {c : Nat}
    (h : pbPlace s (s.agent s.cur) (s.me.readS a).toNat = .error c) (k : State → Nat → Res) :
    pbEnter s a k = .next (trap s c (s.me.readS a)) := by
  simp only [pbEnter, unchained_free s _ hs, h]

theorem barrierInit : Claims.BarrierInit := by
  intro s c a l hs h n
  have hu := touch_onlyCaches s (s.agent s.cur) .atomic (s.me.readS a).toNat
  have hx : exec (.pbinit c a) s = if n = 0 ∨ 4095 < n then
      .next (trap (touch s (s.agent s.cur) .atomic (s.me.readS a).toNat) 0x01 (trapPc s.me))
      else .next (finish (pbWrite (touch s (s.agent s.cur) .atomic (s.me.readS a).toNat) l ⟨0, n, n, 0⟩)) := by
    simp only [exec, execPbinit, pbEnter_ok hs h, illegal, hu.me]
    rfl
  refine ⟨fun h1 h2 => ?_, fun hn => hx.trans (if_pos hn)⟩
  have hn : ¬(n = 0 ∨ 4095 < n) := by omega
  have hp : pbRead (pbWrite (touch s (s.agent s.cur) .atomic (s.me.readS a).toNat) l ⟨0, n, n, 0⟩) l = ⟨0, n, n, 0⟩ :=
    pbRead_pbWrite _ l (by decide : 0 < 64) (by omega : n < 4096) (by omega : n < 4096) (by decide : (-8589934592 : Int) ≤ 0)
      (by decide : (0 : Int) ≤ 8589934591)
  rw [if_neg hn] at hx
  refine ⟨_, hx, hp, fun k hk => (pbWrite_byte _ _ _ _ hk).trans (hu.byte k), (finish_harts ?_ ?_).1, ?_⟩
  · exact (pbWrite_harts _ _ _).trans hu.harts
  · exact (pbWrite_cur _ _ _).trans hu.cur
  · rw [finish_me, pbWrite_me, hu.me]

theorem barrierOperations : Claims.BarrierOperations := by
  intro s d a code l hs hrun h s' b raised
  have hu : OnlyCaches s s' := touch_onlyCaches s (s.agent s.cur) .atomic (s.me.readS a).toNat
  have hme : s'.me = s.me := hu.me
  have harr : exec (.pbarr d a) s = if b.pend = 0 then
      .next (waitAt { s' with requests := s'.requests ++ [⟨l, s'.cur, true, 0⟩] } (.arrival l) 0)
      else .next (pbOperate (finishWith s' fun x => x.writeS d (BitVec.ofNat 64 b.phase)) l { b with pend := b.pend - 1 }) := by
    simp only [exec, execPbarr, hrun, pbEnter_ok hs h]
    rfl
  have hexp : exec (.pbexp d a) s = if 16777216 < (s'.me.readS d).toNat ∨ 8589934591 < b.bytes + ((s'.me.readS d).toNat : Int) then
      .next (illegal s') else .next (pbOperate (finish s') l { b with bytes := b.bytes + ((s'.me.readS d).toNat : Int) }) := by
    simp only [exec, execPbexp, pbEnter_ok hs h]
    rfl
  have hwait : exec (.pbwait d a code) s = if b.phase ≠ ((s'.me.readS d).truncate 6).toNat then .next (finish s')
      else .next (waitAt s' (.barrier l ((s'.me.readS d).truncate 6) false) (s'.me.readS a)) := by
    simp only [exec, execPbwait, hrun, pbEnter_ok hs h]
    rfl
  rw [hme] at hexp hwait
  have hph : ((s.me.readS d).truncate 6).toNat = (s.me.readS d).toNat % 64 := by
    simp [BitVec.truncate]
  rw [hph] at hwait
  refine ⟨fun hp => ?_, fun hp => ?_, fun h1 h2 => ?_, fun h1 => ?_, fun hp => ?_, fun hp => ?_⟩
  · rw [harr, if_neg hp]
  · rw [if_pos hp] at harr
    refine ⟨_, harr, ?_, ?_⟩
    · exact (State.me_setMe _ _).trans (congrArg (fun x : Hart => { x with run := .waiting (.arrival l) 0 }) hme)
    · rw [hu.cur]
      exact congrArg (· ++ _) (by rw [hu.rest])
  · exact hexp.trans (if_neg (by omega))
  · rw [hexp, if_pos h1, illegal, hme]
  · exact hwait.trans (if_pos hp)
  · rw [if_neg (by simpa using hp)] at hwait
    refine ⟨_, hwait, ?_⟩
    rw [waitAt, State.me_setMe, hme]

theorem barrierProblems : Claims.BarrierProblems := by
  intro s d a code c hs hrun h i hi
  simp only [List.mem_cons, List.not_mem_nil, or_false] at hi
  obtain rfl | rfl | rfl | rfl := hi
  · simp only [exec, execPbinit, pbEnter_error hs h]
  · simp only [exec, execPbarr, hrun, pbEnter_error hs h]
  · simp only [exec, execPbexp, pbEnter_error hs h]
  · simp only [exec, execPbwait, hrun, pbEnter_error hs h]

/-- Settles O23. -/
theorem barrierInstructions : Obligations.BarrierInstructions := ⟨barrierInit, barrierOperations, barrierProblems⟩

end Sys2Proof.Machine
end

section
/-! SUPPORT. Vector configuration and gangs (06 R148 to R153). -/

namespace Sys2Proof.Machine

/-! Configuration. -/

/-- A hart of a core without a gang is in none. -/
theorem gang_none {s : State} {h : Nat} (hg : coreGanged s h = false) : (s.hart h).gang = none := by
  obtain he | he := Tab.get_mem_or {} s.harts h
  · rw [State.hart, he]
  · by_contra hn
    refine absurd hg (Bool.not_eq_false _ |>.mpr (List.any_eq_true.mpr ⟨_, he, ?_⟩))
    rw [Bool.and_eq_true]
    exact ⟨beq_self_eq_true _, Option.isSome_iff_ne_none.mpr hn⟩

theorem countOf_eq (c : BitVec 2) : countOf c = 4 * 2 ^ c.toNat := by
  revert c
  decide

/-- The hart that vrel leaves. -/
def unconfigured (x : Hart) : Hart :=
  { x with
    conf := none
    v := []
    m := []
    spoiled := { x.spoiled with v := [], m := [], slots := [] }
    vl := 0
    vrows := 1
    vstart := 0 }

theorem unconfigure_me (s : State) : (unconfigure s s.cur).me = unconfigured s.me := by
  show (State.setHart (releaseSlots s s.cur) s.cur _).hart s.cur = _
  rw [State.hart_setHart_same]
  rfl

theorem unconfigure_other (s : State) (h k : Nat) (n : k ≠ h) : (unconfigure s h).hart k = s.hart k :=
  State.hart_setHart_other (releaseSlots s h) h k _ n

theorem dropOwned_not (h : Nat) (m : SMap (Option Nat)) (k : Nat) : Tab.get none (dropOwned h m) k ≠ some h := by
  obtain he | he := Tab.get_mem_or none (dropOwned h m) k
  · rw [he]
    exact nofun
  · intro e
    rw [e] at he
    simp [dropOwned] at he

/-- The core after its hart has given its slots back. -/
theorem unconfigure_core (s : State) (h : Nat) : (unconfigure s h).core (coreOf h) = { s.core (coreOf h) with
    slotOwner := dropOwned h (s.core (coreOf h)).slotOwner
    slots := (s.core (coreOf h)).slots.filter fun e => Tab.get none (s.core (coreOf h)).slotOwner e.1 != some h } :=
  State.core_setCore_same s _ _

theorem unconfigure_ownsSlot (s : State) (h k : Nat) : ownsSlot (unconfigure s h) h k = false := by
  rw [ownsSlot, unconfigure_core]
  exact beq_eq_false_iff_ne.mpr (dropOwned_not h _ k)

theorem execVrel_configured {s : State} (hs : free s) (hg : s.me.gang = none) (hc : s.me.conf ≠ none) :
    exec .vrel s = .next (finish (unconfigure s s.cur)) := by
  obtain ⟨v, hv⟩ := Option.ne_none_iff_exists'.mp hc
  simp only [exec, execVrel, unchained_free s _ hs, hg, hv]
  rfl

/-- Settles O26. -/
theorem vectorShape : Obligations.VectorShape := by
  intro s d a hs hc hg hn l r
  have hno : ¬(s.me.conf.isNone ∨ coreGanged s s.cur) := by
    rw [hg]
    simpa using hc
  refine ⟨?_, ?_, _, execVrel_configured hs hn hc, ?_, fun k => ?_⟩
  · simp only [exec, execVsetl, unchained_free s _ hs, if_neg hno]
    rfl
  · simp only [exec, execVsetr, unchained_free s _ hs, if_neg hno]
    rfl
  · rw [finish_me, unconfigure_me]
    exact arrive_completes (unconfigured s.me) _
  · exact unconfigure_ownsSlot s s.cur k

/-- The hart's number and shares at the end of its core's queue of requests, where it is not there yet. -/
def queuedShares (s : State) (n : Nat) : List (Nat × Nat) :=
  if (s.core (coreOf s.cur)).shareQueue.any (fun e => e.1 == s.cur) then (s.core (coreOf s.cur)).shareQueue
  else (s.core (coreOf s.cur)).shareQueue ++ [(s.cur, n)]

/-- The core with a queue of requests for shares. -/
def withQueue (s : State) (q : List (Nat × Nat)) : State :=
  s.setCore (coreOf s.cur) { s.core (coreOf s.cur) with shareQueue := q }

/-- vcfg of the hart whose earlier configuration has been given back. -/
def askShares (c : BitVec 2) (n : BitVec 3) (w : BitVec 2) (s : State) : Res :=
  if ((queuedShares s (n.toNat + 1)).head?.map (·.1)) = some s.cur ∧ sharesUsed s (coreOf s.cur) + (n.toNat + 1) ≤ 8 then
    .next (finishWith (withQueue s ((queuedShares s (n.toNat + 1)).drop 1)) fun x =>
      configured x (4 * 2 ^ c.toNat) (n.toNat + 1) w)
  else .next (waitAt (withQueue s (queuedShares s (n.toNat + 1))) .shares 0)

theorem execVcfg_eq {s : State} (hc : s.me.chain = none) (hg : coreGanged s s.cur = false) (c : BitVec 2) (n : BitVec 3)
    (w : BitVec 2) : execVcfg c n w s = askShares c n w (if s.me.conf.isSome then unconfigure s s.cur else s) := by
  simp only [execVcfg, unchained, hc, hg, Bool.false_and, countOf_eq, Bool.false_eq_true, if_false]
  rfl

/-- A request that is the core's first and fits configures the hart. -/
theorem askShares_fits {c : BitVec 2} {n : BitVec 3} {w : BitVec 2} {s : State} {r : List (Nat × Nat)}
    (hq : queuedShares s (n.toNat + 1) = (s.cur, n.toNat + 1) :: r) (hf : sharesUsed s (coreOf s.cur) + (n.toNat + 1) ≤ 8) :
    askShares c n w s
      = .next (finishWith (withQueue s r) fun x => configured x (4 * 2 ^ c.toNat) (n.toNat + 1) w) := by
  rw [askShares, hq, if_pos ⟨rfl, hf⟩]
  rfl

/-- One that does not fit waits, its request queued. -/
theorem askShares_waits {c : BitVec 2} {n : BitVec 3} {w : BitVec 2} {s : State}
    (hf : 8 < sharesUsed s (coreOf s.cur) + (n.toNat + 1)) :
    askShares c n w s = .next (waitAt (withQueue s (queuedShares s (n.toNat + 1))) .shares 0) :=
  if_neg fun h => absurd h.2 (by omega)

theorem queuedShares_empty {s : State} (h : (s.core (coreOf s.cur)).shareQueue = []) (n : Nat) :
    queuedShares s n = [(s.cur, n)] := by
  rw [queuedShares, h]
  rfl

theorem withQueue_core (s : State) (q : List (Nat × Nat)) :
    (withQueue s q).core (coreOf s.cur) = { s.core (coreOf s.cur) with shareQueue := q } := State.core_setCore_same s _ _

/-- A hart that waits for shares behind its queue. -/
theorem waits_shares (s : State) (q : List (Nat × Nat)) :
    (waitAt (withQueue s q) .shares 0).me = { s.me with run := .waiting .shares 0 }
      ∧ ((waitAt (withQueue s q) .shares 0).core (coreOf s.cur)).shareQueue = q :=
  ⟨State.me_setMe _ _, congrArg CoreState.shareQueue (withQueue_core s q)⟩

theorem vectorConfigure : Claims.VectorConfigure := by
  intro s c n w hs hg hc hq
  have hx : exec (.vcfg c n w) s = askShares c n w s := by
    show execVcfg c n w s = _
    rw [execVcfg_eq hs.1 hg, hc]
    rfl
  refine ⟨fun hf => ?_, fun hf => ?_⟩
  · obtain ⟨hothers, hme⟩ := finishWith_harts (s := s) (u := withQueue s []) rfl rfl
      fun x => configured x (4 * 2 ^ c.toNat) (n.toNat + 1) w
    exact ⟨_, hx.trans (askShares_fits (queuedShares_empty hq _) hf), hme, hothers, fun _ => rfl⟩
  · obtain ⟨hme, hcore⟩ := waits_shares s [(s.cur, n.toNat + 1)]
    refine ⟨_, (hx.trans (askShares_waits hf)).trans ?_, hme, hcore⟩
    rw [queuedShares_empty hq]

theorem vectorReconfigure : Claims.VectorReconfigure := by
  intro s c n w hs hg hc hrun hq u
  obtain ⟨v, hv⟩ := Option.ne_none_iff_exists'.mp hc
  have hx : exec (.vcfg c n w) s = askShares c n w u := by
    show execVcfg c n w s = _
    rw [execVcfg_eq hs.1 hg, hv]
    rfl
  have hcore : (u.core (coreOf u.cur)).shareQueue = [] := (congrArg CoreState.shareQueue (unconfigure_core s s.cur)).trans hq
  have hslots (q : List (Nat × Nat)) (k : Nat) : ownsSlot (withQueue u q) s.cur k = false := by
    have ho := unconfigure_ownsSlot s s.cur k
    rw [ownsSlot, show (withQueue u q).core (coreOf s.cur) = _ from withQueue_core u q]
    exact ho
  refine ⟨⟨_, execVrel_configured hs (gang_none hg) hc, ?_, ?_, unconfigure_ownsSlot s s.cur⟩, fun hf => ?_, fun hf => ?_⟩
  · rw [finish_me]
    exact arrive_completes _ _
  · rw [unconfigure_me]
    rfl
  · obtain ⟨hothers, hme⟩ := finishWith_harts (s := u) (u := withQueue u []) rfl rfl
      fun x => configured x (4 * 2 ^ c.toNat) (n.toNat + 1) w
    rw [unconfigure_me] at hme
    exact ⟨_, hx.trans (askShares_fits (queuedShares_empty hcore _) hf), hme, hslots [],
      fun h hh => (hothers h hh).trans (unconfigure_other s s.cur h hh), fun _ => rfl⟩
  · obtain ⟨hme, hqueue⟩ := waits_shares u [(u.cur, n.toNat + 1)]
    refine ⟨_, (hx.trans (askShares_waits hf)).trans ?_, hme, hslots _, hqueue⟩
    rw [queuedShares_empty hcore]

theorem shareGranted : Claims.ShareGranted := by
  intro s h c n w r hq hf hi hch hc hg
  have hcur : queuedShares { s with cur := h } (n.toNat + 1) = (h, n.toNat + 1) :: r := by
    have hq' : (State.core { s with cur := h } (coreOf h)).shareQueue = _ := hq
    rw [queuedShares, hq']
    exact if_pos (by simp)
  have hx : execVcfg c n w { s with cur := h } = _ :=
    (execVcfg_eq (s := { s with cur := h }) hch hg c n w).trans
      ((congrArg (askShares c n w) (if_neg (by rw [show State.me { s with cur := h } = s.hart h from rfl, hc]; simp))).trans
        (askShares_fits (s := { s with cur := h }) hcur hf))
  have he : exec (.shareGrant (coreOf h)) s = asHart s h (execVcfg c n w) := by
    simp only [exec, execShareGrant, hq, if_pos hf, hi]
  obtain ⟨hothers, hme⟩ := finishWith_harts (s := { s with cur := h }) (u := withQueue { s with cur := h } r) rfl rfl
      fun x => configured x (4 * 2 ^ c.toNat) (n.toNat + 1) w
  refine ⟨_, he.trans (asHart_next hx), ?_, ?_, congrArg CoreState.shareQueue (withQueue_core { s with cur := h } r), rfl, hothers⟩
  · exact congrArg Hart.conf hme.1
  · exact congrArg Hart.run hme.1

/-- Settles O25. -/
theorem vectorConfiguration : Obligations.VectorConfiguration := ⟨vectorConfigure, vectorReconfigure, shareGranted⟩

end Sys2Proof.Machine
end

section
/-! SUPPORT. Gangs (06 R152, R153). -/

namespace Sys2Proof.Machine

/-! What an arriving hart keeps. -/

theorem arrive_gang (x : Hart) (pc : Word) : (arrive x pc).gang = x.gang := by
  rw [(arrive_completes x pc).1]

theorem writeS_gang (x : Hart) (d : Reg) (v : Word) : (x.writeS d v).gang = x.gang := by
  unfold Hart.writeS
  split <;> rfl

/-! Leaving and statuses. -/

/-- A fold whose steps each change one hart leaves a hart that it does not reach. -/
theorem foldl_hart_other {α : Type} {f : State → α → State} {key : α → Nat}
    (hf : ∀ s a k, k ≠ key a → (f s a).hart k = s.hart k) (l : List α) (s : State) (k : Nat) (hk : ∀ a ∈ l, key a ≠ k) :
    (l.foldl f s).hart k = s.hart k := by
  induction l generalizing s with
  | nil => rfl
  | cons a l ih =>
    rw [List.foldl_cons, ih _ fun b hb => hk b (List.mem_cons_of_mem _ hb)]
    exact hf s a k fun e => hk a List.mem_cons_self e.symm

/-- Each hart that such a fold reaches once is changed once. -/
theorem foldl_hart_mem {f : State → Nat → State} {g : Hart → Hart} (hf : ∀ s h k, k ≠ h → (f s h).hart k = s.hart k)
    (hg : ∀ s h, (f s h).hart h = g (s.hart h)) {l : List Nat} (hl : l.Nodup) (s : State) {k : Nat} (hk : k ∈ l) :
    (l.foldl f s).hart k = g (s.hart k) := by
  induction l generalizing s with
  | nil => exact nomatch hk
  | cons a l ih =>
    obtain ⟨ha, hl⟩ := List.nodup_cons.mp hl
    rw [List.foldl_cons]
    obtain rfl | hk := List.mem_cons.mp hk
    · rw [foldl_hart_other (key := id) hf l _ k fun b hb e => ha (e ▸ hb), hg]
    · rw [ih hl _ hk, hf s a k fun e => ha (e ▸ hk)]

theorem leaveGang_none {s : State} {h : Nat} (hg : (s.hart h).gang = none) : leaveGang s h = s := by
  rw [leaveGang, hg]

theorem leaveGang_hart {s : State} {h : Nat} (hg : (s.hart h).gang ≠ none) :
    (leaveGang s h).hart h = { s.hart h with gang := none, gangLead := 0, gangFeed := [] } := by
  obtain ⟨m, hm⟩ := Option.ne_none_iff_exists'.mp hg
  simp only [leaveGang, hm]
  rw [foldl_hart_other (key := Prod.fst) (fun s a k n => State.hart_setHart_other _ _ _ _ n)]
  · exact State.hart_setHart_same _ _ _
  · intro a ha
    simp only [List.mem_filter, Bool.and_eq_true, bne_iff_ne] at ha
    exact ha.2.1.1

theorem leaveGang_cur (s : State) (h : Nat) : (leaveGang s h).cur = s.cur := by
  unfold leaveGang
  split
  · rfl
  · dsimp only
    refine foldl_keeps (P := fun t : State => t.cur = s.cur) ?_ ?_ _
    · exact fun _ _ ht => ht
    · rfl

/-- The hart that has been given the status of a gang it waits for. -/
def statused (v : Word) (x : Hart) : Hart :=
  match waitingInstr x with
  | some (.gang d _) => arrive ({ x with run := .running }.writeS d v) (following { x with run := .running })
  | _ => x

theorem statused_of_waiting {v : Word} {x : Hart} {b c : Reg} (h : waitingInstr x = some (.gang b c)) :
    statused v x = arrive ({ x with run := .running }.writeS b v) (following { x with run := .running }) := by
  rw [statused, h]

theorem statused_of_not {v : Word} {x : Hart} (h : ¬∃ b c, waitingInstr x = some (.gang b c)) : statused v x = x := by
  unfold statused
  split
  · next b c e => exact absurd ⟨b, c, e⟩ h
  · rfl

theorem gangStatus_same (s : State) (h : Nat) (v : Word) : (gangStatus s h v).hart h = statused v (s.hart h) := by
  have hh : State.hart { s with gangs := Tab.del h s.gangs } h = s.hart h := rfl
  by_cases hw : ∃ b c, waitingInstr (s.hart h) = some (.gang b c)
  · obtain ⟨b, c, hw⟩ := hw
    rw [statused_of_waiting hw]
    simp only [gangStatus, hh, hw]
    exact State.hart_setHart_same { s with gangs := Tab.del h s.gangs } _ _
  · rw [statused_of_not hw]
    simp only [gangStatus, hh]
    split
    · next b c e => exact absurd ⟨b, c, e⟩ hw
    · rfl

theorem gangStatus_other (s : State) (h k : Nat) (v : Word) (n : k ≠ h) : (gangStatus s h v).hart k = s.hart k := by
  simp only [gangStatus]
  split
  · exact State.hart_setHart_other _ _ _ _ n
  · rfl

theorem statused_gang (v : Word) {x : Hart} : (statused v x).gang = x.gang := by
  unfold statused
  split
  · rw [arrive_gang, writeS_gang]
  · rfl

theorem gangTimeout : Claims.GangTimeout := by
  intro s d a h e hrun hgang hi
  have hx : exec (.gangTimeout h) s = .next (gangStatus s h 4) := by
    simp only [exec, execGangTimeout, hrun, if_neg hgang]
  refine ⟨_, hx, ?_, ?_⟩
  · have hg : (gangStatus s h 4).gangs = Tab.del h s.gangs := by
      simp only [gangStatus]
      split <;> rfl
    rw [hg, Tab.get_del_same]
  · rw [gangStatus_same, statused_of_waiting hi]

/-! Forming. -/

/-- The arrival of a hart of core `i` of a cluster at the gang of the cores of `v`. -/
def arrivalAt (w : State) (v i : Nat) : Option (Nat × Nat) :=
  w.gangs.find? fun e => coreOf e.1 == clusterOf w.cur * 32 + i && decide (e.2 = v)

/-- The cores of a mask. -/
def maskCores (v : Nat) : List Nat := (List.range 32).filter fun i => v.testBit i

/-- The harts that have arrived, by their cores. -/
def gangMembers (w : State) (v : Nat) : List Nat := (maskCores v).filterMap fun i => (arrivalAt w v i).map (·.1)

/-- The state in which the hart has arrived at the gang. -/
def arrivedGang (s : State) (v : Nat) : State := waitAt { s with gangs := Tab.set 0 s.cur v s.gangs } .gang 0

theorem arrivalAt_core {w : State} {v i : Nat} {e : Nat × Nat} (h : arrivalAt w v i = some e) :
    coreOf e.1 = clusterOf w.cur * 32 + i := by
  have hp := List.find?_some h
  simp only [Bool.and_eq_true, beq_iff_eq] at hp
  exact hp.1

theorem gangMembers_nodup (w : State) (v : Nat) : (gangMembers w v).Nodup := by
  refine List.Nodup.filterMap (fun i j b hi hj => ?_) (List.nodup_range.filter _)
  simp only [Option.mem_def, Option.map_eq_some_iff] at hi hj
  obtain ⟨e, he, rfl⟩ := hi
  obtain ⟨f, hf, hfe⟩ := hj
  have h1 := arrivalAt_core he
  have h2 := arrivalAt_core hf
  rw [hfe] at h2
  omega

theorem mem_gangMembers {w : State} {v h : Nat} :
    h ∈ gangMembers w v ↔ ∃ i ∈ maskCores v, ∃ e, arrivalAt w v i = some e ∧ e.1 = h := by
  simp [gangMembers, List.mem_filterMap]

/-- A member of the gang of `v` led by `lead`. -/
def memberOf (v lead : Nat) (x : Hart) : Hart := { x with gang := some (BitVec.ofNat 32 v), gangLead := lead, gangFeed := [] }

/-- Joining harts into the gang of `v` led by `lead`. -/
def joinGang (v lead : Nat) (s : State) (h : Nat) : State :=
  gangStatus (s.setHart h (memberOf v lead (s.hart h))) h 0

theorem joinGang_same (v lead : Nat) (s : State) (h : Nat) : (joinGang v lead s h).hart h
    = statused 0 (memberOf v lead (s.hart h)) := by
  rw [joinGang, gangStatus_same, State.hart_setHart_same]

theorem joinGang_other (v lead : Nat) (s : State) (h k : Nat) (n : k ≠ h) : (joinGang v lead s h).hart k = s.hart k := by
  rw [joinGang, gangStatus_other _ _ _ _ n, State.hart_setHart_other _ _ _ _ n]

/-- gang of a mask that is not refused: the hart has arrived, and the last arrival gangs the harts or tells them. -/
theorem execGang_arrives {s : State} (hs : free s) (hrun : s.me.run = .running) {d a : Reg} (hv : (s.me.readS a).toNat ≠ 0)
    (hc : s.me.conf ≠ none) (hr : gangRefused s (s.me.readS a).toNat = false) :
    let v := (s.me.readS a).toNat
    let w := arrivedGang s v
    ((∃ i ∈ maskCores v, arrivalAt w v i = none) → exec (.gang d a) s = .next w)
    ∧ ((∀ i ∈ maskCores v, ∃ e, arrivalAt w v i = some e ∧ (e.1 = s.cur ∨ gangProblem w e.1 = none)) →
      exec (.gang d a) s = .next (if (gangMembers w v).all fun h => sameShape (w.hart h) w.me then
          (gangMembers w v).foldl (joinGang v ((gangMembers w v).headD s.cur)) w
        else (gangMembers w v).foldl (fun s h => gangStatus s h 3) w)) := by
  intro v w
  obtain ⟨c, hc⟩ := Option.ne_none_iff_exists'.mp hc
  have ha : arrivedAtGang s s.cur = false := by
    have hrun' : (s.hart s.cur).run = .running := hrun
    rw [arrivedAtGang, hrun']
  have hx : exec (.gang d a) s
      = (let arrived := (maskCores v).map (arrivalAt w v)
        if arrived.any (·.isNone) then .next w
        else
          let members := arrived.filterMap fun e => e.map (·.1)
          let lost := members.filterMap fun h => if h = s.cur then none else (gangProblem w h).map fun p => (h, p)
          if !lost.isEmpty then .next (lost.foldl (fun s e => leaveWith s e.1 e.2) w)
          else if members.all fun h => sameShape (w.hart h) w.me then
            .next (members.foldl (joinGang v (members.headD s.cur)) w)
          else .next (members.foldl (fun s h => gangStatus s h 3) w)) := by
    simp only [exec, execGang, unchained_free s _ hs, if_neg hv, hc, hr, ha]
    rfl
  refine ⟨fun ⟨i, hi, hn⟩ => ?_, fun hall => ?_⟩
  · have hany : ((maskCores v).map (arrivalAt w v)).any (·.isNone) = true :=
      List.any_eq_true.mpr ⟨none, List.mem_map.mpr ⟨i, hi, hn⟩, rfl⟩
    rw [hx]
    simp only [hany, if_true]
  · have hany : ((maskCores v).map (arrivalAt w v)).any (·.isNone) = false := by
      refine List.any_eq_false.mpr fun o ho => ?_
      obtain ⟨i, hi, rfl⟩ := List.mem_map.mp ho
      obtain ⟨e, he, -⟩ := hall i hi
      simp [he]
    have hm : (((maskCores v).map (arrivalAt w v)).filterMap fun e => e.map (·.1)) = gangMembers w v := List.filterMap_map
    have hlost : ((gangMembers w v).filterMap fun h => if h = s.cur then none else (gangProblem w h).map fun p => (h, p)) = [] := by
      refine List.filterMap_eq_nil_iff.mpr fun h hh => ?_
      obtain ⟨i, hi, e, he, rfl⟩ := mem_gangMembers.mp hh
      obtain ⟨e', he', hp⟩ := hall i hi
      obtain rfl : e = e' := Option.some.inj (he.symm.trans he')
      obtain hp | hp := hp
      · exact if_pos hp
      · rw [hp]
        split <;> rfl
    rw [hx]
    simp only [hany, hm, hlost, Bool.false_eq_true, if_false, List.isEmpty_nil, Bool.not_true]
    exact (apply_ite Host.Outcome.next _ _ _).symm

theorem gangFormation : Claims.GangFormation := by
  intro s d a hs hrun
  refine ⟨fun hv hg => ?_, fun hv hg => ?_, fun hv hc => ?_, fun hv hc hr => ?_, fun hv hc hr => ?_⟩
  · have hl : leaveGang s s.cur = s := leaveGang_none hg
    simp only [exec, execGang, unchained_free s _ hs, if_pos hv, hl]
  · have hx : exec (.gang d a) s = .next (finishWith (leaveGang s s.cur) fun x => x.writeS d 1) := by
      simp only [exec, execGang, unchained_free s _ hs, if_pos hv]
    refine ⟨_, hx, ?_⟩
    have hm : (leaveGang s s.cur).me = _ := (congrArg (leaveGang s s.cur).hart (leaveGang_cur s s.cur)).trans (leaveGang_hart hg)
    rw [finishWith_me, hm]
    exact arrive_completes _ _
  · simp only [exec, execGang, unchained_free s _ hs, if_neg hv, hc]
    rfl
  · obtain ⟨c, hc⟩ := Option.ne_none_iff_exists'.mp hc
    have ha : arrivedAtGang s s.cur = false := by
      have hrun' : (s.hart s.cur).run = .running := hrun
      rw [arrivedAtGang, hrun']
    have hr' : gangRefused s (s.me.readS a).toNat = true := hr
    simp only [exec, execGang, unchained_free s _ hs, if_neg hv, hc, ha, hr']
    rfl
  · let v := (s.me.readS a).toNat
    obtain ⟨hwait, hlast⟩ := execGang_arrives (d := d) hs hrun hv hc hr
    refine ⟨hwait, fun hall => ?_⟩
    have hx := hlast hall
    intro ends formed
    have hformed : ((gangMembers (arrivedGang s v) v).all fun h => sameShape ((arrivedGang s v).hart h) (arrivedGang s v).me)
        = true ↔ formed := by
      rw [List.all_eq_true]
      refine ⟨fun h i hi e he => h e.1 (mem_gangMembers.mpr ⟨i, hi, e, he, rfl⟩), fun h k hk => ?_⟩
      obtain ⟨i, hi, e, he, rfl⟩ := mem_gangMembers.mp hk
      exact h i hi e he
    refine ⟨fun hf => ?_, fun hf => ?_⟩
    · rw [if_pos (hformed.mpr hf)] at hx
      refine ⟨_, (gangMembers (arrivedGang s v) v).headD s.cur, hx, fun i hi e he => ?_⟩
      have hk := foldl_hart_mem (f := joinGang v ((gangMembers (arrivedGang s v) v).headD s.cur))
        (g := fun x => statused 0 (memberOf v ((gangMembers (arrivedGang s v) v).headD s.cur) x))
        (fun s h k n => joinGang_other _ _ s h k n)
        (fun s h => joinGang_same _ _ s h) (gangMembers_nodup (arrivedGang s v) v) (arrivedGang s v)
        (mem_gangMembers.mpr ⟨i, hi, e, he, rfl⟩)
      refine ⟨?_, fun b c hw => ?_⟩
      · rw [hk, statused_gang]
        rfl
      · have hw' : waitingInstr (memberOf v ((gangMembers (arrivedGang s v) v).headD s.cur) ((arrivedGang s v).hart e.1))
            = some (.gang b c) := hw
        rw [hk, statused_of_waiting hw']
        rfl
    · rw [if_neg fun h => hf (hformed.mp h)] at hx
      refine ⟨_, hx, fun i hi e he b c hw => ?_⟩
      have hk := foldl_hart_mem (f := fun s h => gangStatus s h 3) (g := statused 3)
        (fun s h k n => gangStatus_other s h k 3 n)
        (fun s h => gangStatus_same s h 3) (gangMembers_nodup (arrivedGang s v) v) (arrivedGang s v)
        (mem_gangMembers.mpr ⟨i, hi, e, he, rfl⟩)
      have hw' : waitingInstr ((arrivedGang s v).hart e.1) = some (.gang b c) := hw
      rw [hk, statused_of_waiting hw']
      rfl

/-! What a member may not do, and what it does. -/

theorem coreGanged_of_mem {s : State} {g : BitVec 32} (h : (s.cur, s.me) ∈ s.harts) (hg : s.me.gang = some g) :
    coreGanged s s.cur = true := by
  refine List.any_eq_true.mpr ⟨_, h, ?_⟩
  simp [hg]

theorem ganged_traps {s : State} {c : BitVec 2} {n : BitVec 3} {w : BitVec 2} {d a : Reg} {g : BitVec 32} (hs : free s)
    (hin : (s.cur, s.me) ∈ s.harts) (hg : s.me.gang = some g) (hrun : s.me.run = .running) :
    ∀ i ∈ [Instr.vcfg c n w, .vrel, .vsetl d a, .vsetr d a, .srw a 0x000, .srw a 0x001],
      exec i s = .next (trap s 0x18 (trapPc s.me)) := by
  have hcg := coreGanged_of_mem hin hg
  have hne : s.me.gang ≠ none := by rw [hg]; exact nofun
  have hor : s.me.conf.isNone ∨ coreGanged s s.cur := .inr hcg
  intro i hi
  simp only [List.mem_cons, List.not_mem_nil, or_false] at hi
  obtain rfl | rfl | rfl | rfl | rfl | rfl := hi
  · have hw : awaitsShares s.me = false := by rw [awaitsShares, hrun]
    simp only [exec, execVcfg, unchained_free s _ hs, hcg, hw]
    rfl
  · simp only [exec, execVrel, unchained_free s _ hs, hg]
    rfl
  · simp only [exec, execVsetl, unchained_free s _ hs, if_pos hor]
    rfl
  · simp only [exec, execVsetr, unchained_free s _ hs, if_pos hor]
    rfl
  · exact (vectorLengthWrite s a hs).1 (.inr (.inl hne))
  · exact (vectorRowsAndStartWrite s a hs).1 (.inr (.inl hne))

/-- A result whose next state differs in the executing hart only. -/
def ResOnlyMe (s : State) (r : Res) : Prop := ∀ t, r = .next t → onlyMe s t

theorem ResOnlyMe.of_next {s u : State} (h : onlyMe s u) : ResOnlyMe s (.next u) := fun _ e =>
  Host.Outcome.next.inj e ▸ h

/-- Whether a vector instruction breaks the hart's chain, or needs one where none is open (06 R166). -/
def chainBreaks (x : Hart) (o : VAOps) : Bool :=
  match x.chain with
  | none => o.ci
  | some g => g.lost || !o.ci || (o.co && decide (7 ≤ g.members))

theorem vaEnter_eq (s : State) (o : VAOps) (regs : List Reg) (ok rounds : Bool) (k : Nat → Res) :
    vaEnter s o regs ok rounds k =
      if !vregsOk s.me regs then .next (vconfTrap s)
      else if chainBreaks s.me o then .next (chainTrap s)
      else if !ok then .next (vconfTrap s)
      else if rounds then
        match roundingMode s.me o.rm with
        | none => .next (illegal s)
        | some rm => k rm
      else k 0 := by
  unfold vaEnter chainBreaks
  rfl

/-- What a vector instruction checks first traps, or leaves the rest to the instruction. -/
theorem vaEnter_cases (s : State) (o : VAOps) (regs : List Reg) (ok rounds : Bool) (k : Nat → Res) :
    vaEnter s o regs ok rounds k = .next (vconfTrap s) ∨ vaEnter s o regs ok rounds k = .next (chainTrap s)
      ∨ vaEnter s o regs ok rounds k = .next (illegal s) ∨ ∃ rm, vaEnter s o regs ok rounds k = k rm := by
  rw [vaEnter_eq]
  cases vregsOk s.me regs with
  | false => exact .inl rfl
  | true =>
    cases chainBreaks s.me o with
    | true => exact .inr (.inl rfl)
    | false =>
      cases ok with
      | false => exact .inl rfl
      | true =>
        cases rounds with
        | false => exact .inr (.inr (.inr ⟨0, rfl⟩))
        | true =>
          cases roundingMode s.me o.rm with
          | none => exact .inr (.inr (.inl rfl))
          | some rm => exact .inr (.inr (.inr ⟨rm, rfl⟩))

section
variable {s : State} (hs : free s) (hu : s.me.mode = .user) (hh : (s.context s.me.asid).handler ≠ 0)
include hs hu hh

omit hs in
/-- A trap into the handler changes the hart only. -/
theorem takeTrap_onlyMe (epc : Word) {c : Nat} (hc : c ≠ stackHeld) (e st : Word) (q ch : Bool) :
    onlyMe s (takeTrap s epc c e st q ch) := by
  rw [takeTrap_user s epc c e st q ch hc hu hh]
  exact setMe_onlyMe s _

theorem trap_onlyMe {c : Nat} (hc : c ≠ stackHeld) (e : Word) : onlyMe s (trap s c e) := by
  rw [trap_eq_takeTrap hs]
  exact takeTrap_onlyMe hu hh _ hc _ _ _ _

theorem chainTrap_onlyMe : onlyMe s (chainTrap s) := by
  have hc : s.me.chain = none := hs.1
  simp only [chainTrap, hc]
  exact takeTrap_onlyMe hu hh _ (ne_stackHeld (by decide)) _ _ _ _

theorem vaEnter_onlyMe (o : VAOps) (regs : List Reg) (ok rounds : Bool) {k : Nat → Res} (hk : ∀ rm, ResOnlyMe s (k rm)) :
    ResOnlyMe s (vaEnter s o regs ok rounds k) := by
  obtain h | h | h | ⟨rm, h⟩ := vaEnter_cases s o regs ok rounds k
  · exact h ▸ .of_next (trap_onlyMe hs hu hh (ne_stackHeld (by decide)) _)
  · exact h ▸ .of_next (chainTrap_onlyMe hs hu hh)
  · exact h ▸ .of_next (trap_onlyMe hs hu hh (ne_stackHeld (by decide)) _)
  · exact h ▸ hk rm

omit hs hu hh in
theorem vaFinish_onlyMe (s : State) (o : VAOps) (tile : Bytes) (whole : List Nat) (g : Flags) (marks : List (Nat × Bool)) :
    ResOnlyMe s (vaFinish s o tile whole g marks) := by
  unfold vaFinish
  dsimp only
  split
  · exact .of_next (finishWith_onlyMe s _)
  · exact .of_next (finishWith_onlyMe s _)

theorem maskEnter_onlyMe {k : Hart → Res} (hk : ResOnlyMe s (k s.me)) : ResOnlyMe s (maskEnter s k) := by
  unfold maskEnter
  split
  · exact .of_next (trap_onlyMe hs hu hh (ne_stackHeld (by decide)) _)
  · rw [unchained_free s _ hs]
    exact hk

end

/-- The element-wise functions are one operation. -/
theorem exec_elementFn {i : Instr} {o : VAOps} {vs rounds : Bool} {f : Nat → Nat → Nat → Nat → Nat × Flags}
    (h : elementFn i = some (o, vs, rounds, f)) (s : State) :
    ∃ useZ useW, exec i s = vaElementwise s o vs useZ useW rounds f := by
  cases i with
  | vadd | vsub | vmul | vfma | vfms | vdiv | vsqrt | vrsq | vexp2 | vmin | vmax | vabs | vneg | vand | vor | vxor | vshl
  | vshr | vsra | vclmul | vaddVs | vsubVs | vmulVs | vfmaVs | vfmsVs | vdivVs | vminVs | vmaxVs | vandVs | vorVs | vxorVs
  | vshlVs | vshrVs | vsraVs | vclmulVs =>
    obtain ⟨rfl, rfl, rfl, rfl⟩ := Option.some.inj h
    exact ⟨_, _, rfl⟩
  | _ => exact nomatch h

/-- The selection functions are one operation. -/
theorem exec_selectFn {i : Instr} (h : (selectFn i {}).isSome = true) (s : State) :
    ∃ o regs cross f, exec i s = vcMap s o regs cross f := by
  cases i with
  | vsel | vmv | vbcast | vslide | vperm | viota =>
    simp only [exec, execVsel, execVmv, execVbcast, execVslide, execVperm, execViota]
    exact ⟨_, _, _, _, rfl⟩
  | _ => exact nomatch h

/-- The mask instructions that write a mask are one operation. -/
theorem exec_maskFn {i : Instr} (h : (maskFn i {}).isSome = true) (s : State) : ∃ d f, exec i s = maskWrite s d f := by
  cases i with
  | mand | mor | mxor | mnot | mset | mmov =>
    simp only [exec, execMand, execMor, execMxor, execMnot, execMset, execMmov]
    exact ⟨_, _, rfl⟩
  | _ => exact nomatch h

/-- A vector arithmetic instruction changes its hart alone. -/
theorem vectorArithmetic_onlyMe {s : State} (hs : free s) (hu : s.me.mode = .user)
    (hh : (s.context s.me.asid).handler ≠ 0) {i : Instr} (hi : vectorArithmetic i = true) : ResOnlyMe s (exec i s) := by
  have hva (o : VAOps) (regs : List Reg) (ok rounds : Bool) {k : Nat → Res} (hk : ∀ rm, ResOnlyMe s (k rm)) :=
    vaEnter_onlyMe hs hu hh o regs ok rounds hk
  have hm (d a : Reg) (f : List Nat → Word) : ResOnlyMe s (maskRead s d a f) :=
    maskEnter_onlyMe hs hu hh (.of_next (finishWith_onlyMe s _))
  by_cases he : (elementFn i).isSome = true
  · obtain ⟨⟨o, vs, rounds, f⟩, he⟩ := Option.isSome_iff_exists.mp he
    obtain ⟨useZ, useW, hx⟩ := exec_elementFn he s
    exact hx ▸ hva _ _ _ _ fun rm => vaFinish_onlyMe s _ _ _ _ _
  by_cases hsel : (selectFn i {}).isSome = true
  · obtain ⟨o, regs, cross, f, hx⟩ := exec_selectFn hsel s
    exact hx ▸ hva _ _ _ _ fun rm => vaFinish_onlyMe s _ _ _ _ _
  by_cases hmask : (maskFn i {}).isSome = true
  · obtain ⟨d, f, hx⟩ := exec_maskFn hmask s
    exact hx ▸ maskEnter_onlyMe hs hu hh (.of_next (finishWith_onlyMe s _))
  unfold vectorArithmetic at hi
  rw [eq_false_of_ne_true he, eq_false_of_ne_true hsel, eq_false_of_ne_true hmask] at hi
  cases i with
  | vdot o =>
    simp only [exec, execVdot]
    exact hva _ _ _ _ fun rm => vaFinish_onlyMe s _ _ _ _ _
  | vdotVs o =>
    simp only [exec, execVdotVs]
    exact hva _ _ _ _ fun rm => vaFinish_onlyMe s _ _ _ _ _
  | vhad o =>
    simp only [exec, execVhad]
    exact hva _ _ _ _ fun rm => vaFinish_onlyMe s _ _ _ _ _
  | vcvt o =>
    simp only [exec, execVcvt]
    exact hva _ _ _ _ fun rm => vaFinish_onlyMe s _ _ _ _ _
  | vred o =>
    simp only [exec, execVred]
    exact hva _ _ _ _ fun rm => vaFinish_onlyMe s _ _ _ _ _
  | vcmp o =>
    simp only [exec, execVcmp]
    exact hva _ _ _ _ fun rm => .of_next (finishWith_onlyMe s _)
  | mpop d a =>
    simp only [exec, execMpop]
    exact hm d a _
  | mfirst d a =>
    simp only [exec, execMfirst]
    exact hm d a _
  | _ => exact nomatch hi

theorem gangedConfiguration : Claims.GangedConfiguration :=
  fun _ _ _ _ _ _ _ hs hin hg hrun =>
    ⟨ganged_traps hs hin hg hrun, fun _ t hi hu hh he => vectorArithmetic_onlyMe hs hu hh hi t he⟩

/-- Settles O27. -/
theorem gangsFormAndDissolve : Obligations.GangsFormAndDissolve := ⟨gangFormation, gangTimeout, gangedConfiguration⟩

end Sys2Proof.Machine
end

section
/-! SUPPORT. The data of the vector unit: elements of a register, bits of a mask, and what an arithmetic instruction leaves of
them (06 R154 to R170). -/

namespace Sys2Proof.Machine

/-! Tables written at many keys. -/

theorem Tab.get_sets_append {α : Type} [DecidableEq α] (d : α) (l : List (Nat × α)) (e : Nat × α) (m : SMap α) :
    Tab.sets d (l ++ [e]) m = Tab.set d e.1 e.2 (Tab.sets d l m) := by
  rw [Tab.sets, List.foldl_append]
  rfl

/-- The values of a function written at the keys of a list. -/
theorem Tab.get_sets_map {α : Type} [DecidableEq α] (d : α) (l : List Nat) (f : Nat → α) (m : SMap α) (k : Nat) :
    Tab.get d (Tab.sets d (l.map fun t => (t, f t)) m) k = if k ∈ l then f k else Tab.get d m k := by
  induction l using List.reverseRecOn with
  | nil => rfl
  | append_singleton l a ih =>
    rw [List.map_append, List.map_cons, List.map_nil, Tab.get_sets_append]
    by_cases h : k = a
    · subst h
      simp
    · rw [Tab.get_set_other _ _ _ _ _ h, ih]
      simp [h]

/-! Elements. -/

theorem putBytes_eq_putMem (m : Bytes) (o : Nat) (l : List Byte) : Tab.putBytes m o l = putMem m o l := by
  induction l generalizing m o with
  | nil => rfl
  | cons b r ih => exact ih _ _

/-- The bytes of a table where they were put. -/
theorem bytes_putBytes_same (b : Bytes) (o : Nat) (l : List Byte) : Tab.bytes (Tab.putBytes b o l) o l.length = l := by
  apply List.ext_getElem (by simp [Tab.bytes])
  intro i hi hl
  simp only [Tab.bytes, List.getElem_map, List.getElem_range, putBytes_eq_putMem]
  exact putMem_same b o l i hl

/-- The bytes of a table apart from those that were put. -/
theorem bytes_putBytes_other (b : Bytes) (o : Nat) (l : List Byte) (p n : Nat) (h : p + n ≤ o ∨ o + l.length ≤ p) :
    Tab.bytes (Tab.putBytes b o l) p n = Tab.bytes b p n := by
  apply List.ext_getElem (by simp [Tab.bytes])
  intro i hi hl
  have hin : i < n := by simpa [Tab.bytes] using hi
  simp only [Tab.bytes, List.getElem_map, List.getElem_range, putBytes_eq_putMem]
  exact putMem_other b o l (p + i) (by omega)

theorem elem_setElem_same (b : Bytes) (n t v : Nat) : elem (setElem b n t v) n t = v % 256 ^ n := by
  have h := bytes_putBytes_same b (n * t) (leBytes n v)
  rw [leBytes_length] at h
  rw [elem, setElem, h, leNat_leBytes]

theorem elem_setElem_other (b : Bytes) (n t v u : Nat) (h : u ≠ t) : elem (setElem b n t v) n u = elem b n u := by
  rw [elem, setElem, bytes_putBytes_other, elem]
  rw [leBytes_length]
  obtain h | h : u + 1 ≤ t ∨ t + 1 ≤ u := by omega
  · exact .inl (by simpa [Nat.mul_add] using Nat.mul_le_mul_left n h)
  · exact .inr (by simpa [Nat.mul_add] using Nat.mul_le_mul_left n h)

theorem leNat_zeros (n : Nat) : leNat (List.replicate n 0) = 0 := by
  induction n with
  | zero => rfl
  | succ n ih => rw [List.replicate_succ, leNat, ih]; rfl

theorem elem_nil (n t : Nat) : elem [] n t = 0 := by
  have h : Tab.bytes [] (n * t) n = List.replicate n 0 := by
    simp [Tab.bytes, Tab.get, List.map_const']
  rw [elem, h, leNat_zeros]

/-- What elements written in turn leave. -/
theorem elem_foldl_setElem (n : Nat) (f : Nat → Nat) (l : List Nat) (b : Bytes) (e : Nat) :
    elem (l.foldl (fun b t => setElem b n t (f t)) b) n e = if e ∈ l then f e % 256 ^ n else elem b n e := by
  induction l using List.reverseRecOn with
  | nil => rfl
  | append_singleton l a ih =>
    rw [List.foldl_append, List.foldl_cons, List.foldl_nil]
    by_cases h : e = a
    · subst h
      rw [elem_setElem_same]
      simp
    · rw [elem_setElem_other _ _ _ _ _ h, ih]
      simp [h]

/-! The value of an element put together. -/

/-- The sub-values of one element put together, with their flags (06 R154, R158). -/
def elementOf (p w : Nat) (f : Nat → Nat × Flags) : Nat × Flags :=
  (List.range p).foldl (fun a j => (a.1 + (f j).1 * 2 ^ (w * j), a.2 ||| (f j).2)) (0, 0)

theorem foldl_pair {α β γ : Type} (f : α → γ → α) (g : β → γ → β) (l : List γ) (a : α) (b : β) :
    l.foldl (fun r j => (f r.1 j, g r.2 j)) (a, b) = (l.foldl f a, l.foldl g b) := by
  induction l generalizing a b with
  | nil => rfl
  | cons j l ih => exact ih _ _

theorem elementOf_eq (p w : Nat) (f : Nat → Nat × Flags) :
    elementOf p w f = (packed p w fun j => (f j).1, unionFlags (List.range p) fun j => (f j).2) := by
  rw [elementOf, packed, List.foldl_map, unionFlags]
  exact foldl_pair (fun a j => a + (f j).1 * 2 ^ (w * j)) (fun a j => a ||| (f j).2) _ 0 0

/-- The destination, the flags and the marks of an element-wise function. -/
theorem elementwise_eq (x : Hart) (m w : Nat) (dst : Bytes) (f : Nat → Nat → Nat × Flags) :
    elementwise x m w dst f
      = ((active x m).foldl (fun b t => setElem b (ewBytes x) t (packed (ewBits x / w) w fun j => (f t j).1)) dst,
        unionFlags (active x m) (fun t => unionFlags (List.range (ewBits x / w)) fun j => (f t j).2),
        (active x m).map fun t => (t, marksFlag (unionFlags (List.range (ewBits x / w)) fun j => (f t j).2))) := by
  unfold elementwise
  have hstep (t : Nat) : ((List.range (ewBits x / w)).foldl (fun a j =>
      let v := f t j
      (a.1 + v.1 * 2 ^ (w * j), a.2 ||| v.2)) ((0, 0) : Nat × Flags)) = elementOf (ewBits x / w) w (f t) := rfl
  simp only [hstep, elementOf_eq]
  generalize active x m = l
  induction l using List.reverseRecOn with
  | nil => rfl
  | append_singleton l a ih =>
    rw [List.foldl_append, ih, List.foldl_append, unionFlags, unionFlags, List.foldl_append, List.map_append]
    rfl

/-! Masks. -/

theorem active_mem {x : Hart} {m e : Nat} : e ∈ active x m ↔ (x.vstart ≤ e ∧ e < tiles x) ∧ maskBit x m e = true := by
  simp only [active, List.mem_filter, List.mem_map, List.mem_range]
  constructor
  · rintro ⟨⟨k, hk, rfl⟩, h⟩
    exact ⟨⟨by omega, by omega⟩, h⟩
  · rintro ⟨⟨h1, h2⟩, h⟩
    exact ⟨⟨e - x.vstart, by omega, by omega⟩, h⟩

/-- Under m0 every index from VSTART to T is active, and those of them that a test passes are. -/
theorem active_filter (x : Hart) (p : Nat → Bool) :
    (active x 0).filter p = (List.range (tiles x)).filter fun t => decide (x.vstart ≤ t) && p t := by
  have h0 : active x 0 = (List.range (tiles x - x.vstart)).map (x.vstart + ·) := by
    rw [active]
    exact List.filter_eq_self.mpr fun _ _ => rfl
  rw [h0]
  obtain hle | hlt := Nat.le_total x.vstart (tiles x)
  · obtain ⟨k, hk⟩ := Nat.exists_eq_add_of_le hle
    have hlow : (List.range x.vstart).filter (fun t => decide (x.vstart ≤ t) && p t) = [] := by
      refine List.filter_eq_nil_iff.mpr fun t ht => ?_
      have := List.mem_range.mp ht
      simp [show ¬x.vstart ≤ t by omega]
    rw [hk, List.range_add, List.filter_append, hlow, Nat.add_sub_cancel_left, List.nil_append]
    refine List.filter_congr fun t ht => ?_
    obtain ⟨j, -, rfl⟩ := List.mem_map.mp ht
    simp
  · have hlow : (List.range (tiles x)).filter (fun t => decide (x.vstart ≤ t) && p t) = [] := by
      refine List.filter_eq_nil_iff.mpr fun t ht => ?_
      have := List.mem_range.mp ht
      simp [show ¬x.vstart ≤ t by omega]
    rw [hlow, Nat.sub_eq_zero_of_le hlt]
    rfl

theorem maskBit_congr {x y : Hart} {k : Nat} (h : Tab.get [] y.m k = Tab.get [] x.m k) (e : Nat) :
    maskBit y k e = maskBit x k e := by
  rw [maskBit, h]
  rfl

/-- The bits of a mask register after some have been written. -/
theorem maskBit_setMask (x : Hart) (m : Nat) (l : List Nat) (f : Nat → Bool) (k e : Nat) :
    maskBit (setMask x m (l.map fun t => (t, f t))) k e = if k = m ∧ k ≠ 0 ∧ e ∈ l then f e else maskBit x k e := by
  unfold setMask
  split
  · next h =>
    subst h
    rw [if_neg fun h => h.2.1 h.1]
  · next h =>
    by_cases hk : k = m
    · subst hk
      show (if k = 0 then true else Tab.get false (Tab.get [] (Tab.set [] k _ x.m) k) e) = _
      rw [if_neg h, Tab.get_set_same, Tab.get_sets_map]
      simp [h, maskBit]
    · rw [if_neg fun h => hk h.1]
      exact maskBit_congr (Tab.get_set_other [] m _ x.m k hk) e

/-! What the completion of an instruction keeps. -/

namespace completes

variable {x y : Hart}

theorem v (h : completes x y) : y.v = x.v := by rw [h.1]
theorem m (h : completes x y) : y.m = x.m := by rw [h.1]
theorem f (h : completes x y) : y.f = x.f := by rw [h.1]
theorem vl (h : completes x y) : y.vl = x.vl := by rw [h.1]
theorem vrows (h : completes x y) : y.vrows = x.vrows := by rw [h.1]
theorem vstart (h : completes x y) : y.vstart = x.vstart := by rw [h.1]
theorem conf (h : completes x y) : y.conf = x.conf := by rw [h.1]
theorem fflags (h : completes x y) : y.fflags = x.fflags := by rw [h.1]
theorem chain (h : completes x y) : y.chain = x.chain := by rw [h.1]

theorem maskBit (h : completes x y) (k e : Nat) : maskBit y k e = Machine.maskBit x k e := by
  rw [Machine.maskBit, h.m]
  rfl

theorem vreg (h : completes x y) (r : Nat) : y.vreg r = x.vreg r := by
  rw [Hart.vreg, h.v]
  rfl

end completes

/-- The hart that an instruction which changes its hart leaves. -/
theorem finishWith_completes (s : State) (f : Hart → Hart) : completes (f s.me) (finishWith s f).me := by
  rw [finishWith_me]
  exact arrive_completes _ _


/-! Mask instructions (06 R171). -/

theorem maskEnter_free {s : State} (hs : free s) (hc : s.me.conf ≠ none) (k : Hart → Res) : maskEnter s k = k s.me := by
  obtain ⟨c, hc⟩ := Option.ne_none_iff_exists'.mp hc
  rw [maskEnter, unchained_free s _ hs, hc]
  rfl

theorem exec_maskFn_eq {i : Instr} {s : State} {d : Reg} {f : Nat → Bool} (h : maskFn i s.me = some (d, f)) :
    ∃ g, exec i s = maskWrite s d g ∧ g s.me = f := by
  cases i with
  | mand | mor | mxor | mnot | mset | mmov =>
    obtain ⟨rfl, rfl⟩ := Option.some.inj h
    simp only [exec, execMand, execMor, execMxor, execMnot, execMset, execMmov]
    exact ⟨_, rfl, rfl⟩
  | _ => exact nomatch h

theorem setMask_v (x : Hart) (m : Nat) (l : List (Nat × Bool)) : (setMask x m l).v = x.v := by
  unfold setMask
  split <;> rfl

/-- Settles O33. -/
theorem maskInstructions : Obligations.MaskInstructions := by
  intro s i d f a hs hc
  refine ⟨fun h => ?_, ?_, ?_⟩
  · obtain ⟨g, hx, hg⟩ := exec_maskFn_eq h
    rw [maskWrite, maskEnter_free hs hc] at hx
    have hcomp := finishWith_completes s fun x' =>
      { setMask x' d.toNat ((active s.me 0).map fun t => (t, g s.me t)) with vstart := 0 }
    refine ⟨_, hx, finishWith_onlyMe s _, hcomp.v.trans (setMask_v _ _ _), hcomp.vstart, fun m k => ?_⟩
    rw [hcomp.maskBit]
    refine (maskBit_setMask s.me d.toNat (active s.me 0) (g s.me) m k).trans ?_
    rw [hg]
    have hk : k ∈ active s.me 0 ↔ s.me.vstart ≤ k ∧ k < tiles s.me := active_mem.trans (and_iff_left rfl)
    simp only [hk]
  · simp only [exec, execMpop, maskRead, maskEnter_free hs hc, active_filter, List.countP_eq_length_filter]
  · simp only [exec, execMfirst, maskRead, maskEnter_free hs hc, active_filter, ← List.head?_filter]
    cases (List.range (tiles s.me)).filter fun t => decide (s.me.vstart ≤ t) && maskBit s.me a.toNat t <;> rfl

/-! The end of an arithmetic instruction (06 R166, R170). -/

/-- The masks that the hart's open chain group holds back. -/
def heldOf (x : Hart) : SMap Bits := match x.chain with | some c => c.masks | none => []

/-- Bit `e` of mask register `k` under masks held back. -/
def bitIn (held : SMap Bits) (x : Hart) (k e : Nat) : Bool :=
  if k = 0 then true
  else match held.find? fun b => decide (b.1 = k) with
    | some b => Tab.get false b.2 e
    | none => maskBit x k e

theorem heldBit_eq_bitIn (x : Hart) (c : Chain) (k e : Nat) : heldBit x c k e = bitIn c.masks x k e := rfl

theorem bitIn_nil (x : Hart) (k e : Nat) : bitIn [] x k e = maskBit x k e := by
  by_cases h : k = 0
  · simp [bitIn, maskBit, h]
  · exact if_neg h

/-- A value put at a key is the first found there. -/
theorem find?_put {α : Type} (j : Nat) (v : α) (m : SMap α) (k : Nat) :
    (Tab.put j v m).find? (fun b => decide (b.1 = k)) = if j = k then some (j, v) else m.find? fun b => decide (b.1 = k) := by
  induction m with
  | nil => by_cases h : j = k <;> simp [Tab.put, h]
  | cons e r ih =>
    obtain ⟨i, w⟩ := e
    simp only [Tab.put]
    split
    · by_cases h : j = k <;> simp [h]
    · split
      · next h => by_cases hk : j = k <;> simp [h ▸ hk, hk]
      · next h =>
        rw [List.find?_cons, ih, List.find?_cons]
        by_cases hk : j = k
        · subst hk
          simp [Ne.symm h]
        · simp [hk]

/-- Writing the entries of a table with distinct keys. -/
theorem get_foldl_set {α : Type} [DecidableEq α] (d : α) (held : SMap α) (hr : Tab.rising held = true) (m : SMap α) (k : Nat) :
    Tab.get d (held.foldl (fun m e => Tab.set d e.1 e.2 m) m) k
      = match held.find? fun b => decide (b.1 = k) with | some b => b.2 | none => Tab.get d m k := by
  rw [Tab.rising_iff, List.pairwise_map] at hr
  induction held generalizing m with
  | nil => rfl
  | cons e r ih =>
    obtain ⟨hlt, hr⟩ := List.pairwise_cons.mp hr
    rw [List.foldl_cons, ih hr, List.find?_cons]
    by_cases h : e.1 = k
    · have hno : (r.find? fun b => decide (b.1 = k)) = none := by
        refine List.find?_eq_none.mpr fun b hb => ?_
        have := hlt b hb
        simp only [decide_eq_true_eq]
        omega
      subst h
      simp [hno]
    · simp only [h, decide_false]
      cases r.find? fun b => decide (b.1 = k) with
      | none => exact Tab.get_set_other d e.1 e.2 m k (Ne.symm h)
      | some b => rfl

/-- The masks held back after an instruction that marks indexes in its exception mask. -/
def heldAfter (x : Hart) (o : VAOps) (marks : List (Nat × Bool)) : SMap Bits :=
  if o.xm = 0 then heldOf x
  else Tab.put o.xm.toNat (Tab.sets false marks
    (match (heldOf x).find? fun e => decide (e.1 = o.xm.toNat) with
      | some e => e.2
      | none => Tab.get [] x.m o.xm.toNat)) (heldOf x)

/-- What the instructions of a group have written of their exception masks. -/
def wroteAfter (x : Hart) (o : VAOps) (marks : List (Nat × Bool)) : SMap Bits :=
  let wrote : SMap Bits := match x.chain with | some c => c.wrote | none => []
  if o.xm = 0 then wrote
  else Tab.put o.xm.toNat (Tab.sets false (marks.map fun e => (e.1, true)) (Tab.get [] wrote o.xm.toNat)) wrote

/-- The flags of a group with those of a further member. -/
def flagsAfter (x : Hart) (g : Flags) : Flags := (match x.chain with | some c => c.flags | none => 0) ||| g

/-- The latch of a chain group after a member with CO. -/
def latchedBy (x : Hart) (o : VAOps) (tile : Bytes) (g : Flags) (marks : List (Nat × Bool)) : Chain where
  first := match x.chain with | some c => c.first | none => trapPc x
  members := (match x.chain with | some c => c.members | none => 0) + 1
  latch := tile
  vstart := match x.chain with | some c => c.vstart | none => x.vstart
  masks := heldAfter x o marks
  wrote := wroteAfter x o marks
  flags := flagsAfter x g

/-- The hart after an instruction whose result takes effect. -/
def committedBy (x : Hart) (o : VAOps) (tile : Bytes) (whole : List Nat) (g : Flags) (marks : List (Nat × Bool)) : Hart :=
  { (commitMasks ((x.setVreg o.x.toNat tile).cleanV o.x.toNat whole) (heldAfter x o marks) (wroteAfter x o marks)).raise
      (flagsAfter x g) with
    chain := none
    vstart := 0 }

theorem vaFinish_latches {s : State} {o : VAOps} (h : o.co = true) (tile : Bytes) (whole : List Nat) (g : Flags)
    (marks : List (Nat × Bool)) : vaFinish s o tile whole g marks
      = .next (finishWith s fun x => { x with chain := some (latchedBy s.me o tile g marks), vstart := 0 }) := by
  simp only [vaFinish, h, if_true]
  rfl

theorem vaFinish_commits {s : State} {o : VAOps} (h : o.co = false) (tile : Bytes) (whole : List Nat) (g : Flags)
    (marks : List (Nat × Bool)) : vaFinish s o tile whole g marks
      = .next (finishWith s fun _ => committedBy s.me o tile whole g marks) := by
  simp only [vaFinish, h, Bool.false_eq_true, if_false]
  rfl

theorem rising_heldAfter {x : Hart} (h : Tab.rising (heldOf x) = true) (o : VAOps) (marks : List (Nat × Bool)) :
    Tab.rising (heldAfter x o marks) = true := by
  unfold heldAfter
  split
  · exact h
  · exact Tab.rising_put _ _ _ h

/-- The masks held back after an instruction have its marks in its exception mask. -/
theorem bitIn_heldAfter (x : Hart) (o : VAOps) (l : List Nat) (f : Nat → Bool) (k e : Nat) :
    bitIn (heldAfter x o (l.map fun t => (t, f t))) x k e
      = if k = o.xm.toNat ∧ k ≠ 0 ∧ e ∈ l then f e else bitIn (heldOf x) x k e := by
  by_cases h0 : k = 0
  · rw [if_neg fun h => h.2.1 h0, h0]
    rfl
  by_cases hx : o.xm = 0
  · rw [heldAfter, if_pos hx, if_neg fun h => h0 (h.1.trans (by rw [hx]; rfl))]
  · rw [heldAfter, if_neg hx, bitIn, if_neg h0, find?_put]
    by_cases hk : o.xm.toNat = k
    · rw [if_pos hk]
      simp only [Tab.get_sets_map]
      rw [bitIn, if_neg h0, hk]
      cases (heldOf x).find? fun e => decide (e.1 = k) with
      | none => simp [h0, maskBit]
      | some b => simp [h0]
    · rw [if_neg hk, if_neg fun h => hk h.1.symm, bitIn, if_neg h0]

/-- Committing masks changes the masks and what is poisoned. -/
theorem commitMasks_eq (x : Hart) (held wrote : SMap Bits) :
    commitMasks x held wrote = { x with
      m := held.foldl (fun m e => Tab.set [] e.1 e.2 m) x.m
      spoiled := (commitMasks x held wrote).spoiled } := by
  unfold commitMasks
  refine foldl_keeps (P := fun y : Hart => y = { x with
    m := held.foldl (fun m e => Tab.set [] e.1 e.2 m) x.m, spoiled := y.spoiled }) (fun y e h => ?_) rfl _
  rw [h]
  rfl

section
variable (x : Hart) (o : VAOps) (tile : Bytes) (whole : List Nat) (g : Flags) (marks : List (Nat × Bool))

theorem committedBy_eq : committedBy x o tile whole g marks = { x with
    v := Tab.set [] o.x.toNat tile x.v
    m := (heldAfter x o marks).foldl (fun m e => Tab.set [] e.1 e.2 m) x.m
    spoiled := (committedBy x o tile whole g marks).spoiled
    fflags := x.fflags ||| flagsAfter x g
    chain := none
    vstart := 0 } := by
  have h (c : Hart) (m : SMap Bits) (sp : Spoiled)
      (hc : c = { (x.setVreg o.x.toNat tile).cleanV o.x.toNat whole with m := m, spoiled := sp }) :
      { c.raise (flagsAfter x g) with chain := none, vstart := 0 } = { x with
        v := Tab.set [] o.x.toNat tile x.v
        m := m
        spoiled := sp
        fflags := x.fflags ||| flagsAfter x g
        chain := none
        vstart := 0 } := by
    rw [hc]
    rfl
  exact h _ _ _ (commitMasks_eq _ _ _)

theorem committedBy_vreg_same : (committedBy x o tile whole g marks).vreg o.x.toNat = tile := by
  rw [committedBy_eq]
  exact Tab.get_set_same _ _ _ _

theorem committedBy_vreg_other (r : Nat) (h : r ≠ o.x.toNat) : (committedBy x o tile whole g marks).vreg r = x.vreg r := by
  rw [committedBy_eq]
  exact Tab.get_set_other _ _ _ _ _ h

theorem committedBy_fflags : (committedBy x o tile whole g marks).fflags = x.fflags ||| flagsAfter x g := by
  rw [committedBy_eq]

/-- The masks take effect together with the result. -/
theorem committedBy_maskBit (h : Tab.rising (heldOf x) = true) (k e : Nat) :
    maskBit (committedBy x o tile whole g marks) k e = bitIn (heldAfter x o marks) x k e := by
  rw [committedBy_eq, maskBit, bitIn]
  split
  · rfl
  · next h0 =>
    show Tab.get false (Tab.get [] ((heldAfter x o marks).foldl _ x.m) k) e = _
    rw [get_foldl_set _ _ (rising_heldAfter h o marks)]
    cases (heldAfter x o marks).find? fun b => decide (b.1 = k) with
    | some b => rfl
    | none => exact (if_neg h0).symm

/-- A plain instruction falls through after its result has taken effect. -/
theorem committedBy_arrives (h : plainAt x (following x)) :
    arrive (committedBy x o tile whole g marks) (following (committedBy x o tile whole g marks))
      = { committedBy x o tile whole g marks with pc := following x, qual := false } := by
  have hf : following (committedBy x o tile whole g marks) = following x := by rw [committedBy_eq]; rfl
  rw [hf, arrive_plain]
  rw [committedBy_eq]
  exact h

end

theorem heldOf_none {x : Hart} (h : x.chain = none) : heldOf x = [] := by rw [heldOf, h]

theorem flagsAfter_none {x : Hart} (h : x.chain = none) (g : Flags) : flagsAfter x g = g := by
  rw [flagsAfter, h]
  exact BitVec.zero_or

/-- The state that a committed result leaves. -/
def committed (s : State) (o : VAOps) (tile : Bytes) (whole : List Nat) (g : Flags) (marks : List (Nat × Bool)) : State :=
  finishWith s fun _ => committedBy s.me o tile whole g marks

theorem committed_completes (s : State) (o : VAOps) (tile : Bytes) (whole : List Nat) (g : Flags) (marks : List (Nat × Bool)) :
    completes (committedBy s.me o tile whole g marks) (committed s o tile whole g marks).me := finishWith_completes s _

theorem committed_onlyMe (s : State) (o : VAOps) (tile : Bytes) (whole : List Nat) (g : Flags) (marks : List (Nat × Bool)) :
    onlyMe s (committed s o tile whole g marks) := finishWith_onlyMe s _

/-- The exception mask that an instruction out of a chain group leaves. -/
theorem committed_exceptionMask {s : State} (hc : s.me.chain = none) (o : VAOps) (tile : Bytes) (whole : List Nat) (g : Flags)
    (mask : BitVec 3) (own : Nat → Flags) :
    exceptionMask s (committed s o tile whole g ((active s.me mask.toNat).map fun t => (t, marksFlag (own t)))) o.xm mask own := by
  intro k e
  rw [(committed_completes _ _ _ _ _ _).maskBit, committedBy_maskBit _ _ _ _ _ _ (by rw [heldOf_none hc]; rfl),
    bitIn_heldAfter s.me o _ (fun t => marksFlag (own t)), heldOf_none hc, bitIn_nil]

/-- A plain committed instruction leaves the scalar registers and falls through. -/
theorem committed_plain {s : State} (hp : plainAt s.me (following s.me)) (o : VAOps) (tile : Bytes) (whole : List Nat)
    (g : Flags) (marks : List (Nat × Bool)) :
    (committed s o tile whole g marks).me.s = s.me.s ∧ (committed s o tile whole g marks).me.pc = following s.me
      ∧ (committed s o tile whole g marks).me.m = (committedBy s.me o tile whole g marks).m := by
  rw [committed, finishWith_me, committedBy_arrives _ _ _ _ _ _ hp]
  refine ⟨?_, rfl, rfl⟩
  rw [committedBy_eq]

/-- What a committed result leaves, for an instruction out of a chain group. -/
theorem committed_vectorResult {s : State} (hc : s.me.chain = none) {o : VAOps} {mask : BitVec 3} {f : Nat → Nat}
    {tile : Bytes} (whole : List Nat) (g : Flags) (marks : List (Nat × Bool)) (htile : ∀ e, elem tile (ewBytes s.me) e
      = if e ∈ active s.me mask.toNat then f e % 2 ^ ewBits s.me else elem (s.me.vreg o.x.toNat) (ewBytes s.me) e) :
    vectorResult s (committed s o tile whole g marks) o.x mask f g := by
  have hcomp := committed_completes s o tile whole g marks
  refine ⟨committed_onlyMe _ _ _ _ _ _, fun e he => ?_, fun e he => ?_, fun r hr => ?_, ?_, ?_, ?_, ?_, ?_, ?_, ?_⟩
  · rw [hcomp.vreg, committedBy_vreg_same, htile, if_pos he]
  · rw [hcomp.vreg, committedBy_vreg_same, htile, if_neg he]
  · rw [hcomp.vreg, committedBy_vreg_other _ _ _ _ _ _ r hr]
  · exact hcomp.vstart
  · rw [hcomp.vl, committedBy_eq]
  · rw [hcomp.vrows, committedBy_eq]
  · rw [hcomp.conf, committedBy_eq]
  · rw [hcomp.fflags, committedBy_fflags, flagsAfter_none hc]
  · rw [hcomp.f, committedBy_eq]
  · exact hcomp.chain

/-! Element-wise instructions (06 R156 to R161). -/

theorem ewBits_eq {x : Hart} (h : x.conf ≠ none) : 2 ^ ewBits x = 256 ^ ewBytes x ∧ 8 ≤ ewBits x := by
  obtain ⟨c, hc⟩ := Option.ne_none_iff_exists'.mp h
  have he : ewBits x = 8 * 2 ^ c.ew.toNat := by rw [ewBits, hc]
  have hb : ewBytes x = 2 ^ c.ew.toNat := by rw [ewBytes, he, Nat.mul_div_cancel_left _ (by decide)]
  have h1 : 1 ≤ 2 ^ c.ew.toNat := Nat.one_le_two_pow
  refine ⟨?_, by omega⟩
  rw [he, hb, Nat.pow_mul]

/-- The destination of an element-wise function, element by element. -/
theorem elementwise_elem {x : Hart} (h : x.conf ≠ none) (m w : Nat) (dst : Bytes) (f : Nat → Nat → Nat × Flags) (e : Nat) :
    elem (elementwise x m w dst f).1 (ewBytes x) e
      = if e ∈ active x m then (packed (ewBits x / w) w fun j => (f e j).1) % 2 ^ ewBits x else elem dst (ewBytes x) e := by
  rw [elementwise_eq, (ewBits_eq h).1]
  exact elem_foldl_setElem _ (fun t => packed (ewBits x / w) w fun j => (f t j).1) _ _ _

/-- An instruction whose checks all pass. -/
theorem vaEnter_passes {s : State} {o : VAOps} {regs : List Reg} {ok rounds : Bool} {rm : Nat}
    (hr : vregsOk s.me regs = true) (hb : chainBreaks s.me o = false) (hok : ok = true)
    (hrm : (if rounds then roundingMode s.me o.rm else some 0) = some rm) (k : Nat → Res) :
    vaEnter s o regs ok rounds k = k rm := by
  rw [vaEnter_eq, hr, hb, hok]
  cases rounds with
  | false => exact congrArg k (Option.some.inj hrm)
  | true =>
    have hrm' : roundingMode s.me o.rm = some rm := hrm
    simp only [hrm']
    rfl

theorem chainBreaks_none {x : Hart} {o : VAOps} (h : x.chain = none) : chainBreaks x o = o.ci := by
  rw [chainBreaks, h]

theorem vregsOk_of {x : Hart} (h : x.conf ≠ none) {l : List Reg} (hl : ∀ r ∈ l, r.toNat < vCount x) : vregsOk x l = true := by
  obtain ⟨c, hc⟩ := Option.ne_none_iff_exists'.mp h
  rw [vregsOk, hc]
  exact List.all_eq_true.mpr fun r hr => decide_eq_true (hl r hr)

theorem vaRegs_subset {o : VAOps} {y z w : Bool} {r : Reg} (h : r ∈ vaRegs o y z w) :
    r = o.x ∨ r = o.y ∨ (z = true ∧ r = o.z) ∨ r = o.w := by
  unfold vaRegs at h
  simp only [List.mem_append] at h
  obtain ((h | h) | h) | h := h
  · split at h <;> simp_all
  · split at h <;> simp_all
  · split at h <;> simp_all
  · split at h <;> simp_all

/-- The flags that an element-wise function raises at an element. -/
def ownFlags (x : Hart) (w : Nat) (f : Nat → Nat → Nat × Flags) (e : Nat) : Flags :=
  unionFlags (List.range (ewBits x / w)) fun j => (f e j).2

/-- What committing an element-wise function's result leaves. -/
theorem committed_elementwise {s : State} (hchain : s.me.chain = none) (hconf : s.me.conf ≠ none) (o : VAOps)
    (mask : BitVec 3) (w : Nat) (f : Nat → Nat → Nat × Flags) :
    let r := elementwise s.me mask.toNat w (s.me.vreg o.x.toNat) f
    let t := committed s o r.1 (active s.me mask.toNat) r.2.1 r.2.2
    vectorResult s t o.x mask (fun e => packed (ewBits s.me / w) w fun j => (f e j).1)
        (unionFlags (active s.me mask.toNat) (ownFlags s.me w f))
      ∧ exceptionMask s t o.xm mask (ownFlags s.me w f) := by
  intro r t
  have ht : t = committed s o r.1 (active s.me mask.toNat) (unionFlags (active s.me mask.toNat) (ownFlags s.me w f))
      ((active s.me mask.toNat).map fun t => (t, marksFlag (ownFlags s.me w f t))) := by
    show committed s o r.1 _ (elementwise _ _ _ _ _).2.1 (elementwise _ _ _ _ _).2.2 = _
    rw [elementwise_eq]
    rfl
  rw [ht]
  exact ⟨committed_vectorResult hchain _ _ _ (elementwise_elem hconf _ _ _ _), committed_exceptionMask hchain _ _ _ _ _ _⟩

/-- Settles O28. -/
theorem elementWise : Obligations.ElementWise := by
  intro s i o vs rounds f rm hs hw hf hci hco hconf hregs hz hwidth hrm hp x n w a b v g
  obtain ⟨useZ, useW, hx⟩ := exec_elementFn hf s
  have hchain : s.me.chain = none := hs.1
  have hregs' : vregsOk s.me (vaRegs o true (useZ && !vs) useW) = true := by
    refine vregsOk_of hconf fun r hr => ?_
    obtain rfl | rfl | ⟨hvs, rfl⟩ | rfl := vaRegs_subset hr
    · exact hregs _ (by simp)
    · exact hregs _ (by simp)
    · exact hz (by cases vs <;> simp_all)
    · exact hregs _ (by simp)
  have hx' : exec i s = .next (committed s o (elementwise x o.mask.toNat w (x.vreg o.x.toNat) v).1 (active x o.mask.toNat)
      (elementwise x o.mask.toNat w (x.vreg o.x.toNat) v).2.1 (elementwise x o.mask.toNat w (x.vreg o.x.toNat) v).2.2) := by
    rw [hx, vaElementwise, vaEnter_passes hregs' ((chainBreaks_none hchain).trans hci) (decide_eq_true hwidth) hrm]
    simp only [srcY, hci, dstX, hco, Bool.false_eq_true, if_false]
    exact vaFinish_commits hco _ _ _ _
  obtain ⟨hres, hmask⟩ := committed_elementwise hchain hconf o o.mask w v
  obtain ⟨hscalar, hpc, -⟩ := committed_plain hp o (elementwise x o.mask.toNat w (x.vreg o.x.toNat) v).1
    (active x o.mask.toNat) (elementwise x o.mask.toNat w (x.vreg o.x.toNat) v).2.1
    (elementwise x o.mask.toNat w (x.vreg o.x.toNat) v).2.2
  exact ⟨_, hx', hres, hmask, hscalar, hpc⟩

/-! Selection (06 R157, R167). -/

/-- The whole-width functions of an element are one sub-value. -/
theorem packed_one (w : Nat) (f : Nat → Nat) : packed 1 w f = f 0 := by
  simp [packed]

theorem selectFn_wellFormed {i : Instr} {x : Hart} {o : VAOps} {rs : List Reg} {cross : Bool} {f : Nat → Nat}
    (h : selectFn i x = some (o, rs, cross, f)) (hw : i.wellFormed = true) :
    o.co = false ∧ o.ci = false ∧ o.xm = 0 := by
  have hc : o.cross = true := by
    cases i with
    | vsel | vmv | vbcast | vslide | vperm | viota =>
      obtain ⟨rfl, -, -, -⟩ := Option.some.inj h
      simp only [Instr.wellFormed, Bool.and_eq_true] at hw
      simp only [hw]
    | _ => exact nomatch h
  simp only [VAOps.cross, Bool.and_eq_true, Bool.not_eq_true', decide_eq_true_eq] at hc
  obtain ⟨⟨⟨⟨⟨-, hco⟩, hci⟩, -⟩, -⟩, hxm⟩ := hc
  exact ⟨hco, hci, hxm⟩

/-- A selection is the map of its elements, modulo 2^EW. -/
theorem exec_selectFn_eq {i : Instr} {s : State} {o : VAOps} {rs : List Reg} {cross : Bool} {f : Nat → Nat}
    (h : selectFn i s.me = some (o, rs, cross, f)) (hw : i.wellFormed = true) :
    ∃ g, exec i s = vcMap s o rs cross g ∧ ∀ e, g e % 2 ^ ewBits s.me = f e % 2 ^ ewBits s.me := by
  cases i with
  | vsel =>
    obtain ⟨rfl, rfl, rfl, rfl⟩ := Option.some.inj h
    have hw8 : o.w.toNat % 8 = o.w.toNat := by
      simp only [Instr.wellFormed, Bool.and_eq_true, decide_eq_true_eq] at hw
      exact Nat.mod_eq_of_lt hw.2
    simp only [exec, execVsel, hw8]
    refine ⟨_, rfl, fun e => ?_⟩
    by_cases hm : maskBit s.me o.w.toNat e = true
    · rw [if_pos hm, if_pos hm]
    · rw [if_neg hm, if_neg hm]
  | vmv =>
    obtain ⟨rfl, rfl, rfl, rfl⟩ := Option.some.inj h
    simp only [exec, execVmv]
    exact ⟨_, rfl, fun e => rfl⟩
  | vbcast =>
    obtain ⟨rfl, rfl, rfl, rfl⟩ := Option.some.inj h
    simp only [exec, execVbcast]
    exact ⟨_, rfl, fun e => Nat.mod_mod _ _⟩
  | vslide =>
    obtain ⟨rfl, rfl, rfl, rfl⟩ := Option.some.inj h
    simp only [exec, execVslide]
    exact ⟨_, rfl, fun e => rfl⟩
  | vperm =>
    obtain ⟨rfl, rfl, rfl, rfl⟩ := Option.some.inj h
    simp only [exec, execVperm]
    exact ⟨_, rfl, fun e => rfl⟩
  | viota =>
    obtain ⟨rfl, rfl, rfl, rfl⟩ := Option.some.inj h
    have hy8 : o.y.toNat % 8 = o.y.toNat := by
      simp only [Instr.wellFormed, isMReg, Bool.and_eq_true, decide_eq_true_eq] at hw
      exact Nat.mod_eq_of_lt hw.1.1.2
    simp only [exec, execViota, hy8]
    refine ⟨_, rfl, fun e => ?_⟩
    have hm : e - e / s.me.vl * s.me.vl = e % s.me.vl := by rw [Nat.mod_eq_sub, Nat.mul_comm]
    rw [hm, Nat.mod_mod, List.countP_eq_length_filter]
  | _ => exact nomatch h

/-- Settles O31. -/
theorem vectorSelect : Obligations.VectorSelect := by
  intro s i o rs cross f hs hw hf hconf hregs hwidth hp
  obtain ⟨hco, hci, hxm⟩ := selectFn_wellFormed hf hw
  obtain ⟨g, hx, hg⟩ := exec_selectFn_eq hf hw
  have hchain : s.me.chain = none := hs.1
  have hb : chainBreaks s.me o = false := (chainBreaks_none hchain).trans hci
  have hr : vregsOk s.me (o.x :: rs) = true := vregsOk_of hconf hregs
  have hwhole : wholeWidth s.me o = true := decide_eq_true hwidth
  refine ⟨fun hv => ?_, fun hcross hv => ?_⟩
  · have hok : (wholeWidth s.me o && (!cross || decide (s.me.vstart = 0))) = true := by
      rw [hwhole]
      cases cross with
      | false => rfl
      | true => exact decide_eq_true (hv rfl)
    have hone : ewBits s.me / ewBits s.me = 1 := Nat.div_self (by have := (ewBits_eq hconf).2; omega)
    have hx' : exec i s = .next (committed s o
        (elementwise s.me o.mask.toNat (ewBits s.me) (s.me.vreg o.x.toNat) fun t _ => (g t, 0)).1
        (active s.me o.mask.toNat) 0 []) := by
      rw [hx, vcMap, vaEnter_passes (rm := 0) hr hb hok rfl]
      exact vaFinish_commits hco _ _ _ _
    obtain ⟨hscalar, -, hm⟩ := committed_plain hp o
      (elementwise s.me o.mask.toNat (ewBits s.me) (s.me.vreg o.x.toNat) fun t _ => (g t, 0)).1
      (active s.me o.mask.toNat) 0 []
    refine ⟨_, hx', committed_vectorResult hchain _ _ _ fun e => ?_, hscalar, hm.trans ?_⟩
    · rw [elementwise_elem hconf, hone, packed_one, hg]
    · rw [committedBy_eq, heldAfter, if_pos hxm, heldOf_none hchain]
      rfl
  · have hok : (wholeWidth s.me o && (!cross || decide (s.me.vstart = 0))) = false := by
      rw [hwhole, hcross, decide_eq_false hv]
      rfl
    rw [hx, vcMap, vaEnter_eq, hr, hb, hok]
    rfl

end Sys2Proof.Machine
end

section
/-! SUPPORT. Dot products, butterflies, conversions, comparisons, reductions and integers of the vector unit (06 R159 to R170). -/

namespace Sys2Proof.Machine

/-! Dot products and butterflies (06 R162, R165). -/

theorem unionFlags_one (g : Nat → Flags) : unionFlags (List.range 1) g = g 0 := BitVec.zero_or

/-- A function of whole elements of 32 bits. -/
theorem committed_whole {s : State} (hchain : s.me.chain = none) (hconf : s.me.conf ≠ none) (o : VAOps)
    (mask : BitVec 3) {w : Nat} (hw : ewBits s.me / w = 1) (f : Nat → Nat × Flags) :
    let r := elementwise s.me mask.toNat w (s.me.vreg o.x.toNat) fun t _ => f t
    let t := committed s o r.1 (active s.me mask.toNat) r.2.1 r.2.2
    vectorResult s t o.x mask (fun e => (f e).1) (unionFlags (active s.me mask.toNat) fun e => (f e).2)
      ∧ exceptionMask s t o.xm mask fun e => (f e).2 := by
  have h := committed_elementwise hchain hconf o mask w fun t _ => f t
  have hown : ownFlags s.me w (fun t _ => f t) = fun e => (f e).2 := by
    funext e
    rw [ownFlags, hw, unionFlags_one]
  rw [hown, hw] at h
  simp only [packed_one] at h
  exact h

theorem dotWith_commits {s : State} (hs : free s) {o : VAOps} {rm : Nat} (hci : o.ci = false) (hco : o.co = false)
    (hconf : s.me.conf ≠ none) {vs : Bool} (hregs : ∀ r ∈ vaRegs o true (!vs) true, r.toNat < vCount s.me)
    (hrm : vectorMode s.me o true = some rm) (hew : ewBits s.me = 32) :
    let f (e : Nat) : Nat × Flags := dotElem o rm (elem (s.me.vreg o.y.toNat) 4 e) (elem (s.me.vreg o.z.toNat) 4 e)
      (elem (s.me.vreg o.w.toNat) 4 e) (if vs then some (s.me.readS o.z).toNat else none)
    let r := elementwise s.me o.mask.toNat 32 (s.me.vreg o.x.toNat) fun t _ => f t
    dotWith s o vs = .next (committed s o r.1 (active s.me o.mask.toNat) r.2.1 r.2.2) := by
  intro f r
  have hchain : s.me.chain = none := hs.1
  have hrm' : (if decide (8 ≤ o.ty.toNat) then roundingMode s.me o.rm else some 0) = some rm := hrm
  rw [dotWith, vaEnter_passes (vregsOk_of hconf hregs) ((chainBreaks_none hchain).trans hci) (decide_eq_true hew) hrm']
  simp only [srcY, hci, dstX, hco, Bool.false_eq_true, if_false]
  exact vaFinish_commits hco _ _ _ _

theorem vectorWide : Claims.VectorWide := by
  intro s o rm hs hci hco hconf hregs hrm hp x n w el dot had
  have hchain : s.me.chain = none := hs.1
  have hx : o.x.toNat < vCount s.me := hregs _ (by simp)
  have hy : o.y.toNat < vCount s.me := hregs _ (by simp)
  have h4 (h : ewBits s.me = 32) : n = 4 := by
    show ewBits s.me / 8 = 4
    rw [h]
  refine ⟨fun hew hw hz _ => ?_, fun hew hw _ => ?_, fun hw hv _ => ?_⟩
  · have hr : ∀ r ∈ vaRegs o true (!false) true, r.toNat < vCount s.me := by
      intro r h
      obtain rfl | rfl | ⟨-, rfl⟩ | rfl := vaRegs_subset h <;> assumption
    have hd : dot false = fun e => dotElem o rm (elem (s.me.vreg o.y.toNat) 4 e) (elem (s.me.vreg o.z.toNat) 4 e)
      (elem (s.me.vreg o.w.toNat) 4 e) (if false then some (s.me.readS o.z).toNat else none) := by
      rw [← h4 hew]
    rw [hd]
    exact ⟨_, dotWith_commits hs hci hco hconf hr hrm hew, committed_whole hchain hconf o o.mask (by rw [hew]) _⟩
  · have hr : ∀ r ∈ vaRegs o true (!true) true, r.toNat < vCount s.me := by
      intro r h
      obtain rfl | rfl | ⟨h, -⟩ | rfl := vaRegs_subset h
      · exact hx
      · exact hy
      · exact nomatch h
      · exact hw
    have hd : dot true = fun e => dotElem o rm (elem (s.me.vreg o.y.toNat) 4 e) (elem (s.me.vreg o.z.toNat) 4 e)
      (elem (s.me.vreg o.w.toNat) 4 e) (if true then some (s.me.readS o.z).toNat else none) := by
      rw [← h4 hew]
    rw [hd]
    exact ⟨_, dotWith_commits hs hci hco hconf hr hrm hew, committed_whole hchain hconf o o.mask (by rw [hew]) _⟩
  · have hr : vregsOk s.me (vaRegs o true false false) = true := by
      refine vregsOk_of hconf fun r h => ?_
      unfold vaRegs at h
      simp only [hci, hco, List.mem_append] at h
      simp at h
      obtain rfl | rfl := h
      · exact hx
      · exact hy
    have hok : (decide (tyWidth o.ty.toNat ≤ ewBits s.me) && decide (s.me.vstart = 0)) = true := by
      rw [decide_eq_true hw, decide_eq_true hv]
      rfl
    have hrm' : (if decide (8 ≤ o.ty.toNat) then roundingMode s.me o.rm else some 0) = some rm := hrm
    refine ⟨committed s o (elementwise x 0 w (x.vreg o.x.toNat) had).1 (active x 0)
      (elementwise x 0 w (x.vreg o.x.toNat) had).2.1 (elementwise x 0 w (x.vreg o.x.toNat) had).2.2, ?_,
      committed_elementwise hchain hconf o 0 w had⟩
    simp only [exec, execVhad]
    rw [vaEnter_passes hr ((chainBreaks_none hchain).trans hci) hok hrm']
    simp only [srcY, hci, dstX, hco, Bool.false_eq_true, if_false]
    exact vaFinish_commits hco _ _ _ _

/-! Conversion (06 R164). -/

theorem viewAt_eq_elem (b : Bytes) {w : Nat} (h : 8 ≤ w) (i : Nat) : viewAt b w i = elem b (w / 8) i :=
  if_neg (by omega)

theorem viewAt_setView_same (b : Bytes) {w : Nat} (h : 8 ≤ w) (h8 : w % 8 = 0) (i v : Nat) :
    viewAt (setView b w i v) w i = v % 2 ^ w := by
  have hw : 2 ^ w = 256 ^ (w / 8) := by
    rw [show 256 = 2 ^ 8 by rfl, ← Nat.pow_mul]
    congr 1
    omega
  rw [viewAt_eq_elem _ h, hw]
  exact elem_setElem_same b (w / 8) i v

theorem viewAt_setView_other (b : Bytes) {w : Nat} (h : 8 ≤ w) (i v j : Nat) (n : j ≠ i) :
    viewAt (setView b w i v) w j = viewAt b w j := by
  rw [viewAt_eq_elem _ h, viewAt_eq_elem _ h]
  exact elem_setElem_other b (w / 8) i v j n

/-- The destination, flags and marks of values written by index. -/
def viewsWritten (w : Nat) (f : Nat → Nat × Flags) (l : List Nat) (dst : Bytes) : Bytes × Flags × List (Nat × Bool) :=
  l.foldl (fun r t => (setView r.1 w t (f t).1, r.2.1 ||| (f t).2, r.2.2 ++ [(t, marksFlag (f t).2)])) (dst, 0, [])

theorem viewsWritten_append (w : Nat) (f : Nat → Nat × Flags) (l : List Nat) (a : Nat) (dst : Bytes) :
    viewsWritten w f (l ++ [a]) dst = (setView (viewsWritten w f l dst).1 w a (f a).1, (viewsWritten w f l dst).2.1 ||| (f a).2,
      (viewsWritten w f l dst).2.2 ++ [(a, marksFlag (f a).2)]) := by
  rw [viewsWritten, List.foldl_append]
  rfl

theorem viewsWritten_flags (w : Nat) (f : Nat → Nat × Flags) (l : List Nat) (dst : Bytes) :
    (viewsWritten w f l dst).2 = (unionFlags l fun e => (f e).2, l.map fun t => (t, marksFlag (f t).2)) := by
  induction l using List.reverseRecOn with
  | nil => rfl
  | append_singleton l a ih =>
    rw [viewsWritten_append, ih, unionFlags, unionFlags, List.foldl_append, List.map_append]
    rfl

theorem viewsWritten_view {w : Nat} (h : 8 ≤ w) (h8 : w % 8 = 0) (f : Nat → Nat × Flags) (l : List Nat) (dst : Bytes) (e : Nat) :
    viewAt (viewsWritten w f l dst).1 w e = if e ∈ l then (f e).1 % 2 ^ w else viewAt dst w e := by
  induction l using List.reverseRecOn with
  | nil => rfl
  | append_singleton l a ih =>
    rw [viewsWritten_append]
    by_cases he : e = a
    · subst he
      rw [viewAt_setView_same _ h h8]
      simp
    · rw [viewAt_setView_other _ h _ _ _ he, ih]
      simp [he]

/-- A conversion writes an integer or FP type of whole bytes. -/
theorem vcvtOk_width {o : VAOps} (h : o.vcvtOk = true) : 8 ≤ tyWidth o.ty.toNat ∧ tyWidth o.ty.toNat % 8 = 0 := by
  have hty : o.ty.toNat ≤ 10 := by
    simp only [VAOps.vcvtOk, Bool.and_eq_true, Bool.or_eq_true, isVectorFp, isIntType, decide_eq_true_eq] at h
    obtain ⟨-, h⟩ := h
    omega
  revert hty
  generalize o.ty.toNat = t
  intro ht
  interval_cases t <;> decide

theorem vectorConvert : Claims.VectorConvert := by
  intro s o rm hs hci hco hconf hcvt hregs hrm x src wd hwd hsrc hscale hp rm' v
  obtain ⟨h8, hm8⟩ := vcvtOk_width hcvt
  have hchain : s.me.chain = none := hs.1
  have hr : vregsOk s.me (vaRegs o true (o.w.getLsbD 4) false) = true := by
    refine vregsOk_of hconf fun r h => hregs r ?_
    unfold vaRegs at h
    simp only [hci, hco, List.mem_append] at h
    simp at h
    obtain (rfl | rfl) | ⟨-, rfl⟩ := h <;> simp
  have hok : (decide (tyWidth o.ty.toNat ≤ ewBits s.me) && decide (tyWidth (o.w.toNat % 16) ≤ ewBits s.me)
      && (!o.w.getLsbD 4 || decide (32 ≤ ewBits s.me))) = true := by
    rw [decide_eq_true hwd, decide_eq_true hsrc]
    cases hb : o.w.getLsbD 4 with
    | false => rfl
    | true => exact decide_eq_true (hscale hb)
  have hrm' : (if decide (8 ≤ o.ty.toNat) || decide (8 ≤ o.w.toNat % 16) && decide (o.w.toNat % 16 ≠ 12) then
      roundingMode s.me o.rm else some 0) = some rm' := by
    have hiff : (decide (8 ≤ o.ty.toNat) || decide (8 ≤ o.w.toNat % 16) && decide (o.w.toNat % 16 ≠ 12)) = true
        ↔ (8 ≤ o.ty.toNat ∨ 8 ≤ src ∧ src ≠ 12) := by simp [src]
    simp only [hiff, hrm]
    show _ = some (if _ then rm else 0)
    split <;> rfl
  have hx : exec (.vcvt o) s = .next (committed s o (viewsWritten wd v (active x o.mask.toNat) (x.vreg o.x.toNat)).1
      (if wd = ewBits x then active x o.mask.toNat else [])
      (viewsWritten wd v (active x o.mask.toNat) (x.vreg o.x.toNat)).2.1
      (viewsWritten wd v (active x o.mask.toNat) (x.vreg o.x.toNat)).2.2) := by
    simp only [exec, execVcvt]
    rw [vaEnter_passes hr ((chainBreaks_none hchain).trans hci) hok hrm']
    simp only [srcY, hci, dstX, hco, Bool.false_eq_true, if_false]
    exact vaFinish_commits hco _ _ _ _
  rw [viewsWritten_flags] at hx
  have hcomp := committed_completes s o (viewsWritten wd v (active x o.mask.toNat) (x.vreg o.x.toNat)).1
    (if wd = ewBits x then active x o.mask.toNat else []) (unionFlags (active x o.mask.toNat) fun e => (v e).2)
    ((active x o.mask.toNat).map fun t => (t, marksFlag (v t).2))
  refine ⟨_, hx, committed_onlyMe _ _ _ _ _ _, fun e he => ?_, fun e he => ?_, fun r hne => ?_, hcomp.vstart, ?_,
    committed_exceptionMask hchain _ _ _ _ _ _⟩
  · rw [hcomp.vreg, committedBy_vreg_same, viewsWritten_view h8 hm8, if_pos he]
  · rw [hcomp.vreg, committedBy_vreg_same, viewsWritten_view h8 hm8, if_neg he]
  · rw [hcomp.vreg, committedBy_vreg_other _ _ _ _ _ _ r hne]
  · rw [hcomp.fflags, committedBy_fflags, flagsAfter_none hchain]

/-- Settles O30. -/
theorem dotsAndConversions : Obligations.DotsAndConversions := ⟨vectorWide, vectorConvert⟩

/-! Comparisons and reductions (06 R168, R169). -/

theorem setMask_fflags (x : Hart) (m : Nat) (l : List (Nat × Bool)) : (setMask x m l).fflags = x.fflags := by
  unfold setMask
  split <;> rfl

/-- The hart that vcmp leaves, by its comparison of each index. -/
def comparedBy (x : Hart) (o : VAOps) (v : Nat → Bool × Flags) : Hart :=
  { (setMask (setMask x o.x.toNat ((active x o.mask.toNat).map fun t => (t, (v t).1))) o.xm.toNat
      ((active x o.mask.toNat).map fun t => (t, marksFlag (v t).2))).raise
        (unionFlags (active x o.mask.toNat) fun e => (v e).2) with vstart := 0 }

theorem comparedBy_maskBit (x : Hart) (o : VAOps) (v : Nat → Bool × Flags) (k e : Nat) :
    maskBit (comparedBy x o v) k e
      = if k = o.xm.toNat ∧ k ≠ 0 ∧ e ∈ active x o.mask.toNat then marksFlag (v e).2
        else if k = o.x.toNat ∧ k ≠ 0 ∧ e ∈ active x o.mask.toNat then (v e).1 else maskBit x k e := by
  refine (maskBit_setMask _ _ _ (fun t => marksFlag (v t).2) k e).trans ?_
  rw [maskBit_setMask x o.x.toNat _ (fun t => (v t).1)]

theorem vectorCompare : Claims.VectorCompare := by
  intro s o hs hw hconf hregs hwidth hp x v
  simp only [Instr.wellFormed, Bool.and_eq_true, Bool.or_eq_true, Bool.not_eq_true', decide_eq_true_eq, isMReg] at hw
  obtain ⟨⟨⟨⟨⟨⟨⟨⟨⟨-, hco⟩, hci⟩, -⟩, -⟩, -⟩, hx8⟩, hne⟩, -⟩, -⟩ := hw
  have hx : exec (.vcmp o) s = .next (finishWith s fun _ => comparedBy s.me o v) := by
    simp only [exec, execVcmp]
    have hwhole : wholeWidth s.me o = true := decide_eq_true hwidth
    rw [vaEnter_passes (rounds := false) (rm := 0) (vregsOk_of hconf hregs) ((chainBreaks_none hs.1).trans hci) hwhole rfl]
    simp only [List.map_map, List.foldl_map, Nat.mod_eq_of_lt hx8]
    rfl
  have hcomp := finishWith_completes s fun _ => comparedBy s.me o v
  have hbit (k e : Nat) := (hcomp.maskBit k e).trans (comparedBy_maskBit s.me o v k e)
  have hxm : o.xm ≠ 0 → o.x.toNat ≠ o.xm.toNat := fun h => (hne.resolve_left h).symm
  refine ⟨_, hx, finishWith_onlyMe s _, hcomp.v.trans ?_, hcomp.vstart, fun e h0 => ?_, fun e h0 => ?_, fun k e h1 h2 => ?_,
    hcomp.fflags.trans ?_⟩
  · exact (setMask_v _ _ _).trans (setMask_v _ _ _)
  · have hx0 : o.x.toNat ≠ 0 := fun h => h0 (BitVec.eq_of_toNat_eq h)
    have hno : ¬(o.x.toNat = o.xm.toNat ∧ o.x.toNat ≠ 0 ∧ e ∈ active s.me o.mask.toNat) := by
      rintro ⟨h, -, -⟩
      exact hxm (fun hz => hx0 (h.trans (by rw [hz]; rfl))) h
    rw [hbit, if_neg hno]
    simp only [hx0, ne_eq, not_false_eq_true, true_and]
    rfl
  · have hm0 : o.xm.toNat ≠ 0 := fun h => h0 (BitVec.eq_of_toNat_eq h)
    have hno : ¬(o.xm.toNat = o.x.toNat ∧ o.xm.toNat ≠ 0 ∧ e ∈ active s.me o.mask.toNat) := fun h => hxm h0 h.1.symm
    rw [hbit, if_neg hno]
    simp only [hm0, ne_eq, not_false_eq_true, true_and]
    rfl
  · rw [hbit, if_neg fun h => h2 h.1, if_neg fun h => h1 h.1]
  · exact congrArg (· ||| _) ((setMask_fflags _ _ _).trans (setMask_fflags _ _ _))

/-- The destination and the flags of a reduction, row by row. -/
theorem rowsReduced_eq (n vl : Nat) (row : Nat → Nat × Flags) (rows : List Nat) (b : Bytes) :
    rows.foldl (fun (r : Bytes × Flags) k => (setElem r.1 n (k * vl) (row k).1, r.2 ||| (row k).2)) (b, 0)
      = (rows.foldl (fun b k => setElem b n (k * vl) (row k).1) b, unionFlags rows fun k => (row k).2) :=
  foldl_pair (fun b k => setElem b n (k * vl) (row k).1) (fun a k => a ||| (row k).2) rows b 0

/-- What results written at the first element of each row leave. -/
theorem elem_foldl_rows (n vl : Nat) (hvl : vl ≠ 0) (g : Nat → Nat) (rows : List Nat) (b : Bytes) (e : Nat) :
    elem (rows.foldl (fun b r => setElem b n (r * vl) (g r)) b) n e
      = if e ∈ rows.map (· * vl) then g (e / vl) % 256 ^ n else elem b n e := by
  have h := elem_foldl_setElem n (fun t => g (t / vl)) (rows.map (· * vl)) b e
  rw [List.foldl_map] at h
  simp only [Nat.mul_div_cancel _ (Nat.pos_of_ne_zero hvl)] at h
  exact h

theorem vectorReduce : Claims.VectorReduce := by
  intro s o rm hs hw hconf hregs hwidth hv hvl hrm hp x n row
  simp only [Instr.wellFormed, Bool.and_eq_true, Bool.or_eq_true, Bool.not_eq_true', decide_eq_true_eq] at hw
  obtain ⟨⟨⟨⟨⟨⟨⟨⟨⟨-, hco⟩, hci⟩, -⟩, hxm⟩, -⟩, -⟩, -⟩, -⟩, -⟩ := hw
  have hchain : s.me.chain = none := hs.1
  have hok : (wholeWidth s.me o && decide (s.me.vstart = 0)) = true := by
    rw [decide_eq_true hv, wholeWidth, decide_eq_true hwidth]
    rfl
  have hrm' : (if decide (8 ≤ o.ty.toNat) && decide (o.w.toNat = 0) then roundingMode s.me o.rm else some 0) = some rm := by
    have hz : (o.w == 0) = decide (o.w.toNat = 0) := by
      rw [Bool.eq_iff_iff]
      simp [BitVec.toNat_eq]
    rw [vectorMode, hz, Bool.and_comm] at hrm
    exact hrm
  have hx : exec (.vred o) s = .next (committed s o
      ((List.range x.vrows).foldl (fun b r => setElem b n (r * x.vl) (row r).1) (x.vreg o.x.toNat))
      ((List.range x.vrows).map (· * x.vl)) (unionFlags (List.range x.vrows) fun r => (row r).2) []) := by
    simp only [exec, execVred]
    rw [vaEnter_passes (vregsOk_of hconf hregs) ((chainBreaks_none hchain).trans hci) hok hrm']
    simp only [if_neg hvl, rowsReduced_eq]
    exact vaFinish_commits hco _ _ _ _
  have hcomp := committed_completes s o
    ((List.range x.vrows).foldl (fun b r => setElem b n (r * x.vl) (row r).1) (x.vreg o.x.toNat))
    ((List.range x.vrows).map (· * x.vl)) (unionFlags (List.range x.vrows) fun r => (row r).2) []
  have helem (e : Nat) := elem_foldl_rows n x.vl hvl (fun r => (row r).1) (List.range x.vrows) (x.vreg o.x.toNat) e
  refine ⟨_, hx, committed_onlyMe _ _ _ _ _ _, fun r hr => ?_, fun e he => ?_, fun r hne => ?_, hcomp.vstart, fun k e => ?_, ?_⟩
  · have hin : r * x.vl ∈ (List.range x.vrows).map (· * x.vl) := List.mem_map.mpr ⟨r, List.mem_range.mpr hr, rfl⟩
    rw [hcomp.vreg, committedBy_vreg_same, helem, if_pos hin, Nat.mul_div_cancel _ (Nat.pos_of_ne_zero hvl), (ewBits_eq hconf).1]
  · have hout : e ∉ (List.range x.vrows).map (· * x.vl) := by
      rintro h
      obtain ⟨r, hr, rfl⟩ := List.mem_map.mp h
      exact he ⟨Nat.mul_mod_left _ _, by rw [Nat.mul_div_cancel _ (Nat.pos_of_ne_zero hvl)]; exact List.mem_range.mp hr⟩
    rw [hcomp.vreg, committedBy_vreg_same, helem, if_neg hout]
  · rw [hcomp.vreg, committedBy_vreg_other _ _ _ _ _ _ r hne]
  · rw [hcomp.maskBit, committedBy_maskBit _ _ _ _ _ _ (by rw [heldOf_none hchain]; rfl), heldAfter, if_pos hxm,
      heldOf_none hchain, bitIn_nil]
  · rw [hcomp.fflags, committedBy_fflags, flagsAfter_none hchain]

/-- Settles O32. -/
theorem comparisonsAndReductions : Obligations.ComparisonsAndReductions := ⟨vectorCompare, vectorReduce⟩

/-! Integers of the vector unit (06 R159; 12 R312). -/

theorem unsigned_modEq (w : Nat) (v : Int) : (unsigned w v : Int) ≡ v [ZMOD ((2 ^ w : Nat) : Int)] := by
  have hp : (0 : Int) < ((2 ^ w : Nat) : Int) := by exact_mod_cast Nat.two_pow_pos w
  rw [unsigned, Int.toNat_of_nonneg (Int.emod_nonneg _ hp.ne')]
  exact Int.mod_modEq _ _

theorem unsigned_lt (w : Nat) (v : Int) : unsigned w v < 2 ^ w := by
  have hp : (0 : Int) < ((2 ^ w : Nat) : Int) := by exact_mod_cast Nat.two_pow_pos w
  have h1 := Int.emod_lt_of_pos v hp
  have h2 := Int.emod_nonneg v hp.ne'
  unfold unsigned
  omega

/-- A number that agrees with a natural one is reduced to it. -/
theorem unsigned_of_modEq {w : Nat} {v : Int} {n : Nat} (h : v ≡ (n : Int) [ZMOD ((2 ^ w : Nat) : Int)]) :
    unsigned w v = n % 2 ^ w := by
  have hm : unsigned w v ≡ n [MOD 2 ^ w] := Int.natCast_modEq_iff.mp ((unsigned_modEq w v).trans h)
  rw [← hm, Nat.mod_eq_of_lt (unsigned_lt w v)]

theorem signed_modEq (w v : Nat) : signed w v ≡ (v : Int) [ZMOD ((2 ^ w : Nat) : Int)] := by
  have hm : ((v % 2 ^ w : Nat) : Int) ≡ (v : Int) [ZMOD ((2 ^ w : Nat) : Int)] := Int.natCast_modEq_iff.mpr (Nat.mod_modEq _ _)
  unfold signed
  dsimp only
  split
  · exact hm
  · exact (Int.modEq_iff_dvd.mpr ⟨1, by ring⟩).trans hm

theorem tyWidth_int {t : Nat} (h : t < 8) : tyWidth t = if t < 4 then 8 * 2 ^ t else 8 * 2 ^ (t - 4) := by
  interval_cases t <;> rfl

/-- The integer that a type reads agrees with its bits. -/
theorem intOf_modEq {t : Nat} (h : t < 8) (v : Nat) : intOf t v ≡ (v : Int) [ZMOD ((2 ^ tyWidth t : Nat) : Int)] := by
  rw [tyWidth_int h]
  unfold intOf
  split
  · exact signed_modEq _ v
  · exact Int.natCast_modEq_iff.mpr (Nat.mod_modEq _ _)

/-- A value within a type's bounds is read as it was written. -/
theorem intOf_unsigned {t : Nat} (h : t < 8) {v : Int} (hlo : intLo t ≤ v) (hhi : v ≤ intHi t) :
    intOf t (unsigned (tyWidth t) v) = v := by
  interval_cases t <;> simp [intLo, intHi] at hlo hhi <;> simp [intOf, signed, unsigned, tyWidth] <;> omega

theorem intLo_le_intHi (t : Nat) : intLo t ≤ intHi t := by
  unfold intLo intHi
  have h1 := Nat.two_pow_pos (8 * 2 ^ t - 1)
  have h2 := Nat.two_pow_pos (8 * 2 ^ (t - 4))
  split <;> omega

/-- Saturation gives the nearest bound. -/
theorem intOf_narrow_sat {t : Nat} (h : t < 8) (v : Int) : intOf t (narrow t true v) = max (intLo t) (min (intHi t) v) := by
  have hb := intLo_le_intHi t
  have hc : (if v < intLo t then intLo t else if intHi t < v then intHi t else v) = max (intLo t) (min (intHi t) v) := by
    split
    · omega
    · split <;> omega
  rw [narrow, if_pos rfl, hc]
  exact intOf_unsigned h (by omega) (by omega)

/-- Without saturation the bits are those of the number modulo 2^w. -/
theorem narrow_modEq (t : Nat) (v : Int) : (narrow t false v : Int) ≡ v [ZMOD ((2 ^ tyWidth t : Nat) : Int)] :=
  unsigned_modEq _ v

theorem byType_int {o : VAOps} (h : o.ty.toNat < 8) (i : Int → Int → Int → Int) (f : Fmt → Nat → FP → FP → FP → Nat × Flags)
    (rm a b c : Nat) : (byType o i f rm a b c).1
      = narrow o.ty.toNat o.sat (i (intOf o.ty.toNat a) (intOf o.ty.toNat b) (intOf o.ty.toNat c)) := by
  rw [byType, if_pos h]
  rfl

/-- Settles O29. -/
theorem vectorIntegers : Obligations.VectorIntegers := by
  intro o rm a b c hty w A B C lo hi
  have hA := intOf_modEq hty a
  have hB := intOf_modEq hty b
  have hC := intOf_modEq hty c
  simp only [vaddFn, vsubFn, vmulFn, vfmaFn, vfmsFn, byType_int hty]
  refine ⟨fun hs => ?_, fun hs => ?_⟩
  · rw [hs]
    have hnat {v : Int} {n : Nat} (h : v ≡ (n : Int) [ZMOD ((2 ^ w : Nat) : Int)]) : narrow o.ty.toNat false v = n % 2 ^ w :=
      unsigned_of_modEq h
    have hback {v : Int} {m n : Nat} (h : v + (m : Int) ≡ (n : Int) [ZMOD ((2 ^ w : Nat) : Int)]) :
        (narrow o.ty.toNat false v + m) % 2 ^ w = n % 2 ^ w := by
      refine Int.natCast_modEq_iff.mp (?_ : (_ : Int) ≡ _ [ZMOD _])
      rw [Nat.cast_add]
      exact ((narrow_modEq _ v).add_right _).trans h
    refine ⟨hnat ?_, hnat ?_, hnat ?_, hback ?_, hback ?_⟩
    · rw [Nat.cast_add]
      exact hA.add hB
    · rw [Nat.cast_mul]
      exact hA.mul hB
    · rw [Nat.cast_add, Nat.cast_mul]
      exact (hA.mul hB).add hC
    · simpa using (hA.sub hB).add_right (b : Int)
    · simpa using ((hA.mul hB).sub hC).add_right (c : Int)
  · rw [hs]
    exact ⟨intOf_narrow_sat hty _, intOf_narrow_sat hty _, intOf_narrow_sat hty _, intOf_narrow_sat hty _,
      intOf_narrow_sat hty _⟩

end Sys2Proof.Machine
end

section
/-! SUPPORT. Chain groups (04 R109; 06 R166, R170). -/

namespace Sys2Proof.Machine

/-- The registers that an element-wise instruction does not check are small. -/
theorem exec_elementFn_named {i : Instr} {o : VAOps} {vs rounds : Bool} {f : Nat → Nat → Nat → Nat → Nat × Flags}
    (h : elementFn i = some (o, vs, rounds, f)) (hw : i.wellFormed = true) (s : State) :
    ∃ useZ useW, exec i s = vaElementwise s o vs useZ useW rounds f ∧ (useW = false → o.w.toNat < 4)
      ∧ (useZ = false → vs = false → o.z.toNat < 4) := by
  cases i with
  | vfma | vfms | vfmaVs | vfmsVs =>
    obtain ⟨rfl, rfl, rfl, rfl⟩ := Option.some.inj h
    exact ⟨_, _, rfl, nofun, nofun⟩
  | vadd | vsub | vmul | vdiv | vmin | vmax | vand | vor | vxor | vshl | vshr | vsra | vaddVs | vsubVs | vmulVs | vdivVs
  | vminVs | vmaxVs | vandVs | vorVs | vxorVs | vshlVs | vshrVs | vsraVs =>
    obtain ⟨rfl, rfl, rfl, rfl⟩ := Option.some.inj h
    have hw0 : o.w = 0 := of_decide_eq_true (Bool.and_eq_true_iff.mp hw).2
    exact ⟨_, _, rfl, fun _ => by rw [hw0]; decide, nofun⟩
  | vclmul | vclmulVs =>
    obtain ⟨rfl, rfl, rfl, rfl⟩ := Option.some.inj h
    have hw1 : o.w.toNat ≤ 1 := of_decide_eq_true (Bool.and_eq_true_iff.mp hw).2
    exact ⟨_, _, rfl, fun _ => by omega, nofun⟩
  | vsqrt | vrsq | vexp2 | vabs | vneg =>
    obtain ⟨rfl, rfl, rfl, rfl⟩ := Option.some.inj h
    obtain ⟨hrest, hw0⟩ := Bool.and_eq_true_iff.mp hw
    have hw0 : o.w = 0 := of_decide_eq_true hw0
    have hz0 : o.z = 0 := of_decide_eq_true (Bool.and_eq_true_iff.mp hrest).2
    exact ⟨_, _, rfl, fun _ => by rw [hw0]; decide, fun _ _ => by rw [hz0]; decide⟩
  | _ => exact nomatch h

theorem mem_vaRegs {o : VAOps} {y z w : Bool} {r : Reg} : r ∈ vaRegs o y z w
    ↔ (o.co = false ∧ r = o.x) ∨ (y = true ∧ o.ci = false ∧ r = o.y) ∨ (z = true ∧ r = o.z) ∨ (w = true ∧ r = o.w) := by
  unfold vaRegs
  cases o.co <;> cases o.ci <;> cases y <;> cases z <;> cases w <;> simp

theorem mem_namedRegs {o : VAOps} {vs : Bool} {r : Reg} : r ∈ namedRegs o vs
    ↔ (o.co = false ∧ r = o.x) ∨ (o.ci = false ∧ r = o.y) ∨ (vs = false ∧ r = o.z) ∨ r = o.w := by
  unfold namedRegs
  cases o.co <;> cases o.ci <;> cases vs <;> simp

theorem vregsOk_iff {x : Hart} {l : List Reg} : vregsOk x l = true ↔ x.conf ≠ none ∧ ∀ r ∈ l, r.toNat < vCount x := by
  simp [vregsOk, Option.isSome_iff_ne_none]

theorem elementwise_flags (x : Hart) (m w : Nat) (dst : Bytes) (f : Nat → Nat → Nat × Flags) :
    (elementwise x m w dst f).2.1 = unionFlags (active x m) (ownFlags x w f) := by
  rw [elementwise_eq]
  rfl

theorem elementwise_marks (x : Hart) (m w : Nat) (dst : Bytes) (f : Nat → Nat → Nat × Flags) :
    (elementwise x m w dst f).2.2 = (active x m).map fun t => (t, marksFlag (ownFlags x w f t)) := by
  rw [elementwise_eq]
  rfl

/-- The sub-values of an element-wise instruction, from the latch where it has CI. -/
def elementValue (x : Hart) (o : VAOps) (vs : Bool) (f : Nat → Nat → Nat → Nat → Nat × Flags) (rm : Nat) (e j : Nat) :
    Nat × Flags :=
  f rm (sub (tyWidth o.ty.toNat) j (elem (srcY x o) (ewBytes x) e)) (srcZ x o vs (tyWidth o.ty.toNat) e j)
    (sub (tyWidth o.ty.toNat) j (elem (x.vreg o.w.toNat) (ewBytes x) e))

section
variable {s : State} {i : Instr} {o : VAOps} {vs rounds : Bool} {f : Nat → Nat → Nat → Nat → Nat × Flags}
  (hf : elementFn i = some (o, vs, rounds, f)) (hw : i.wellFormed = true)
include hf hw

/-- An unconfigured hart, or a register at or above the count. -/
theorem element_unchecked (h : s.me.conf = none ∨ 4 ≤ vCount s.me ∧ ∃ r ∈ namedRegs o vs, vCount s.me ≤ r.toNat) :
    exec i s = .next (trap s 0x18 (trapPc s.me)) := by
  obtain ⟨useZ, useW, hx, hw4, hz4⟩ := exec_elementFn_named hf hw s
  have hbad : vregsOk s.me (vaRegs o true (useZ && !vs) useW) = false := by
    rw [← Bool.not_eq_true, vregsOk_iff]
    rintro ⟨hconf, hall⟩
    obtain h | ⟨h4, r, hr, hge⟩ := h
    · exact hconf h
    · have hin : r ∈ vaRegs o true (useZ && !vs) useW := by
        rw [mem_vaRegs]
        obtain h | h | ⟨hvs, rfl⟩ | rfl := mem_namedRegs.mp hr
        · exact .inl h
        · exact .inr (.inl ⟨rfl, h⟩)
        · refine .inr (.inr (.inl ⟨?_, rfl⟩))
          cases useZ with
          | true => rw [hvs]; rfl
          | false => have := hz4 rfl hvs; omega
        · refine .inr (.inr (.inr ⟨?_, rfl⟩))
          cases useW with
          | true => rfl
          | false => have := hw4 rfl; omega
      have := hall r hin
      omega
  rw [hx, vaElementwise, vaEnter_eq, hbad]
  rfl

omit hf hw in
theorem named_checked {useZ useW : Bool} (h : vregsOk s.me (namedRegs o vs) = true) :
    vregsOk s.me (vaRegs o true (useZ && !vs) useW) = true := by
  obtain ⟨hconf, hall⟩ := vregsOk_iff.mp h
  refine vregsOk_of hconf fun r hr => hall r (mem_namedRegs.mpr ?_)
  obtain h | ⟨-, h⟩ | ⟨hz, h⟩ | ⟨-, h⟩ := mem_vaRegs.mp hr
  · exact .inl h
  · exact .inr (.inl h)
  · exact .inr (.inr (.inl ⟨by cases vs <;> simp_all, h⟩))
  · exact .inr (.inr (.inr h))

/-- An instruction that breaks the chain. -/
theorem element_breaks (hr : vregsOk s.me (namedRegs o vs) = true) (hb : chainBreaks s.me o = true) :
    exec i s = .next (chainTrap s) := by
  obtain ⟨useZ, useW, hx, -, -⟩ := exec_elementFn_named hf hw s
  rw [hx, vaElementwise, vaEnter_eq, named_checked hr, hb]
  rfl

/-- An instruction whose checks pass ends with its result. -/
theorem element_runs {rm : Nat} (hr : vregsOk s.me (namedRegs o vs) = true) (hb : chainBreaks s.me o = false)
    (hwidth : tyWidth o.ty.toNat ≤ ewBits s.me) (hrm : vectorMode s.me o rounds = some rm) :
    let r := elementwise s.me o.mask.toNat (tyWidth o.ty.toNat) (dstX s.me o) (elementValue s.me o vs f rm)
    exec i s = vaFinish s o r.1 (active s.me o.mask.toNat) r.2.1 r.2.2 := by
  obtain ⟨useZ, useW, hx, -, -⟩ := exec_elementFn_named hf hw s
  rw [hx, vaElementwise, vaEnter_passes (named_checked hr) hb (decide_eq_true hwidth) hrm]
  rfl

end

/-- The state that an instruction with CO leaves: its result in the latch. -/
def latched (s : State) (o : VAOps) (tile : Bytes) (g : Flags) (marks : List (Nat × Bool)) : State :=
  finishWith s fun x => { x with chain := some (latchedBy s.me o tile g marks), vstart := 0 }

/-- The registers, masks and flags of the hart stand until the last member of its group. -/
theorem latched_stands {s : State} (hp : plainAt s.me (following s.me)) (o : VAOps) (tile : Bytes) (g : Flags)
    (marks : List (Nat × Bool)) :
    let t := latched s o tile g marks
    onlyMe s t ∧ t.me.chain = some (latchedBy s.me o tile g marks) ∧ t.me.v = s.me.v ∧ t.me.m = s.me.m
      ∧ t.me.fflags = s.me.fflags ∧ t.me.s = s.me.s := by
  intro t
  have ht : t.me = { s.me with
      chain := some (latchedBy s.me o tile g marks)
      vstart := 0
      pc := following s.me
      qual := false } := (finishWith_me s _).trans (arrive_plain _ _ hp)
  exact ⟨finishWith_onlyMe s _, by rw [ht], by rw [ht], by rw [ht], by rw [ht], by rw [ht]⟩

section
variable {s : State} {i : Instr} {o : VAOps} {vs rounds : Bool} {f : Nat → Nat → Nat → Nat → Nat × Flags} {rm : Nat}
  (hf : elementFn i = some (o, vs, rounds, f)) (hw : i.wellFormed = true)
  (hr : vregsOk s.me (namedRegs o vs) = true) (hb : chainBreaks s.me o = false)
  (hwidth : tyWidth o.ty.toNat ≤ ewBits s.me) (hrm : vectorMode s.me o rounds = some rm)
include hf hw hr hb hwidth hrm

/-- A member with CO: the latch takes its result, its inactive elements zero, and the marks join those held back. -/
theorem element_latches (hco : o.co = true) (hp : plainAt s.me (following s.me)) :
    let x := s.me
    let n := ewBytes x
    let l := active x o.mask.toNat
    let v := elementValue x o vs f rm
    let own := ownFlags x (tyWidth o.ty.toNat) v
    ∃ t g, exec i s = .next t ∧ onlyMe s t ∧ t.me.chain = some g
      ∧ g.first = (match x.chain with | some c => c.first | none => trapPc x)
      ∧ g.members = (match x.chain with | some c => c.members | none => 0) + 1
      ∧ g.vstart = (match x.chain with | some c => c.vstart | none => x.vstart)
      ∧ g.flags = flagsAfter x (unionFlags l own)
      ∧ (∀ e ∈ l, elem g.latch n e
        = (packed (ewBits x / tyWidth o.ty.toNat) (tyWidth o.ty.toNat) fun j => (v e j).1) % 2 ^ ewBits x)
      ∧ (∀ e, e ∉ l → elem g.latch n e = 0)
      ∧ (∀ k e, heldBit x g k e = if k = o.xm.toNat ∧ k ≠ 0 ∧ e ∈ l then marksFlag (own e) else bitIn (heldOf x) x k e)
      ∧ t.me.v = x.v ∧ t.me.m = x.m ∧ t.me.fflags = x.fflags ∧ t.me.s = x.s := by
  intro x n l v own
  have hconf := (vregsOk_iff.mp hr).1
  have hx := element_runs hf hw hr hb hwidth hrm
  have hd : dstX s.me o = [] := by rw [dstX, hco]; rfl
  rw [hd] at hx
  dsimp only at hx
  rw [elementwise_flags, elementwise_marks] at hx
  have helem := elementwise_elem hconf o.mask.toNat (tyWidth o.ty.toNat) [] v
  have hx' : exec i s = .next (latched s o (elementwise x o.mask.toNat (tyWidth o.ty.toNat) [] v).1 (unionFlags l own)
      (l.map fun t => (t, marksFlag (own t)))) := hx.trans (vaFinish_latches hco _ _ _ _)
  obtain ⟨honly, hchain, hv, hm, hfl, hsc⟩ := latched_stands hp o (elementwise x o.mask.toNat (tyWidth o.ty.toNat) [] v).1
    (unionFlags l own) (l.map fun t => (t, marksFlag (own t)))
  refine ⟨_, _, hx', honly, hchain, rfl, rfl, rfl, rfl, fun e he => ?_, fun e he => ?_, fun k e => ?_, hv, hm, hfl, hsc⟩
  · exact (helem e).trans (if_pos he)
  · exact ((helem e).trans (if_neg he)).trans (elem_nil _ _)
  · exact bitIn_heldAfter x o l (fun t => marksFlag (own t)) k e

/-- A member without CO: its result, the masks and the flags of the group take effect together. -/
theorem element_commits (hco : o.co = false) (hp : plainAt s.me (following s.me)) (hh : Tab.rising (heldOf s.me) = true) :
    let x := s.me
    let n := ewBytes x
    let l := active x o.mask.toNat
    let v := elementValue x o vs f rm
    let own := ownFlags x (tyWidth o.ty.toNat) v
    ∃ t, exec i s = .next t ∧ onlyMe s t ∧ t.me.chain = none ∧ t.me.vstart = 0
      ∧ (∀ e ∈ l, elem (t.me.vreg o.x.toNat) n e
        = (packed (ewBits x / tyWidth o.ty.toNat) (tyWidth o.ty.toNat) fun j => (v e j).1) % 2 ^ ewBits x)
      ∧ (∀ e, e ∉ l → elem (t.me.vreg o.x.toNat) n e = elem (x.vreg o.x.toNat) n e)
      ∧ (∀ r, r ≠ o.x.toNat → t.me.vreg r = x.vreg r)
      ∧ (∀ k e, maskBit t.me k e = if k = o.xm.toNat ∧ k ≠ 0 ∧ e ∈ l then marksFlag (own e) else bitIn (heldOf x) x k e)
      ∧ t.me.fflags = x.fflags ||| flagsAfter x (unionFlags l own) ∧ t.me.s = x.s := by
  intro x n l v own
  have hconf := (vregsOk_iff.mp hr).1
  have hx := element_runs hf hw hr hb hwidth hrm
  have hd : dstX s.me o = s.me.vreg o.x.toNat := by rw [dstX, hco]; rfl
  rw [hd] at hx
  dsimp only at hx
  rw [elementwise_flags, elementwise_marks] at hx
  have helem := elementwise_elem hconf o.mask.toNat (tyWidth o.ty.toNat) (x.vreg o.x.toNat) v
  have hx' : exec i s = .next (committed s o (elementwise x o.mask.toNat (tyWidth o.ty.toNat) (x.vreg o.x.toNat) v).1 l
      (unionFlags l own) (l.map fun t => (t, marksFlag (own t)))) := hx.trans (vaFinish_commits hco _ _ _ _)
  have hcomp := committed_completes s o (elementwise x o.mask.toNat (tyWidth o.ty.toNat) (x.vreg o.x.toNat) v).1 l
      (unionFlags l own) (l.map fun t => (t, marksFlag (own t)))
  refine ⟨_, hx', committed_onlyMe _ _ _ _ _ _, hcomp.chain, hcomp.vstart, fun e he => ?_, fun e he => ?_, fun r hne => ?_,
    fun k e => ?_, ?_, (committed_plain hp _ _ _ _ _).1⟩
  · rw [hcomp.vreg, committedBy_vreg_same]
    exact (helem e).trans (if_pos he)
  · rw [hcomp.vreg, committedBy_vreg_same]
    exact (helem e).trans (if_neg he)
  · rw [hcomp.vreg, committedBy_vreg_other _ _ _ _ _ _ r hne]
  · rw [hcomp.maskBit, committedBy_maskBit _ _ _ _ _ _ hh]
    exact bitIn_heldAfter x o l (fun t => marksFlag (own t)) k e
  · rw [hcomp.fflags, committedBy_fflags]

end

theorem chainEntry : Claims.ChainEntry := by
  intro s i o vs rounds f hs hw hf
  have hchain : s.me.chain = none := hs.1
  have hb := chainBreaks_none (o := o) hchain
  refine ⟨fun hc => element_unchecked hf hw (.inl hc), fun _ h4 hr => element_unchecked hf hw (.inr ⟨h4, hr⟩),
    fun hr hci => element_breaks hf hw hr (hb.trans hci), fun rm hr hci hco hwidth hrm hp => ?_⟩
  have h := element_latches hf hw hr (hb.trans hci) hwidth hrm hco hp
  simp only [hchain, flagsAfter_none hchain, heldOf_none hchain, bitIn_nil] at h
  have hy : srcY s.me o = s.me.vreg o.y.toNat := by rw [srcY, hci]; rfl
  rw [show elementValue s.me o vs f rm = _ from funext fun e => funext fun j => by rw [elementValue, hy]] at h
  exact h

theorem chainMembers : Claims.ChainMembers := by
  intro s c i o vs rounds f rm hc hlost hw hf hci hwidth hrm hp hrise x n w l z v value own flags held
  have hb : chainBreaks s.me o = (o.co && decide (7 ≤ c.members)) := by
    rw [chainBreaks, hc]
    simp [hlost, hci]
  have hheld : heldOf s.me = c.masks := by rw [heldOf, hc]
  have hflags (g : Flags) : flagsAfter s.me g = c.flags ||| g := by rw [flagsAfter, hc]
  have hy : srcY s.me o = c.latch := by rw [srcY, hci, hc]; rfl
  have hv : elementValue s.me o vs f rm = v := funext fun e => funext fun j => by rw [elementValue, hy]; rfl
  refine ⟨fun _ h4 hr => element_unchecked hf hw (.inr ⟨h4, hr⟩), fun hr => ⟨fun hco hm => ?_, fun hco hm => ?_, fun hco => ?_⟩⟩
  · have hb' : chainBreaks s.me o = false := by rw [hb, decide_eq_false (by omega), Bool.and_false]
    have h := element_latches hf hw hr hb' hwidth hrm hco hp
    simp only [hc, hflags, hheld, hv] at h
    exact h
  · exact element_breaks hf hw hr (by rw [hb, hco, decide_eq_true hm]; rfl)
  · have hb' : chainBreaks s.me o = false := by rw [hb, hco, Bool.false_and]
    have h := element_commits hf hw hr hb' hwidth hrm hco hp (hheld ▸ hrise)
    simp only [hflags, hheld, hv] at h
    exact h

/-- Settles O34. -/
theorem vectorChain : Obligations.VectorChain := ⟨chainEntry, chainMembers⟩

end Sys2Proof.Machine
end

section
/-! SUPPORT. The step of a named hart (04 R98 to R102). -/

namespace Sys2Proof.Machine

/-- The step that an agenda gives to hart `h`, on a device that has booted. -/
theorem step_hart {s : State} {h : Nat} {r : List Move} (ha : s.agenda = .hart h :: r) (hb : s.hub.bootCode = 0)
    (hr : s.hub.ready.getLsbD 53 = true) {v : State} (hv : runHart { s with agenda := r } h = .next v) :
    step s = .next (settle { s with agenda := r } v) := by
  have hn : nextMove s = (some (.hart h), { s with agenda := r }) := by
    unfold nextMove
    rw [ha]
  have hg : runMove { s with agenda := r } (.hart h) = runHart { s with agenda := r } h := by
    have hno : ¬((s.hub.bootCode ≠ 0 ∨ !s.hub.ready.getLsbD 53) ∧ !isReset (.hart h)) := by
      rw [hb, hr]
      simp
    show gated { s with agenda := r } (.hart h) = _
    exact if_neg hno
  unfold step
  rw [hn]
  simp only [hg, hv]

/-- A hart that runs, with no suspension of it due, runs its next instruction. -/
theorem runHart_running {s : State} {h : Nat} {r : List Move} (hrun : (s.hart h).run = .running)
    (hh : (s.hart h).halted = false)
    (hq : ∀ e ∈ s.keel.requests, e.1 = h → e.2.isSome = true → requestDue s e = false) :
    runHart { s with agenda := r } h = runBoth { s with agenda := r, cur := h } := by
  have hrun' : (State.hart { s with agenda := r } h).run = .running := hrun
  have hh' : (State.hart { s with agenda := r } h).halted = false := hh
  have hf : (s.keel.requests.find? fun e => decide (e.1 = h) && e.2.isSome && requestDue { s with agenda := r } e) = none := by
    refine List.find?_eq_none.mpr fun e he hc => ?_
    simp only [Bool.and_eq_true, decide_eq_true_eq] at hc
    obtain ⟨⟨h1, h2⟩, h3⟩ := hc
    exact Bool.false_ne_true ((hq e he h1 h2).symm.trans h3)
  unfold runHart
  simp only [hrun', hh', hf]
  rfl

/-- One instruction, then the qualified one, then what follows the hart's step. -/
theorem runBoth_next {s u v : State} (hu : runOne s = .next u)
    (hv : (if (afterStep (some s.cur) false s u).me.qual && (afterStep (some s.cur) false s u).me.run == .running then
      runSlot (afterStep (some s.cur) false s u) else .next (afterStep (some s.cur) false s u)) = .next v) :
    runBoth s = .next (afterHart s
      (if (afterStep (some s.cur) false s u).me.qual && (afterStep (some s.cur) false s u).me.run == .running then
        afterStep (some s.cur) false (afterStep (some s.cur) false s u) v else v)) := by
  have hq : runQualified (afterStep (some s.cur) false s u) = .next v := hv
  simp only [runBoth, hu, hq]

/-- A running hart whose fetch meets no problem runs the instruction in its slot. -/
theorem runOne_fetched {s : State} {l : List Byte} (hrun : s.me.run = .running)
    (hl : fetchLine s s.cur s.me.pc.toNat = .ok l) (hf : lineFormatOk l = true) (h0 : s.me.pc.toNat / 2 % 32 ≠ 0)
    (hc : s.me.pc.toNat / 2 % 32 ≤ lineCount l) :
    runOne s = runSlot ((touch s (s.agent s.cur) .fetch s.me.pc.toNat).setMe { s.me with fetched := l }) := by
  have hp : fetchProblem s = none := by
    have hslot : ¬(s.me.pc.toNat / 2 % 32 = 0 ∨ lineCount l < s.me.pc.toNat / 2 % 32) := by omega
    simp only [fetchProblem, hl, hf, if_neg hslot]
    rfl
  simp only [runOne, hrun, runFetched, fetched, hp, hl]

/-- A running hart whose fetch meets a problem takes its trap. -/
theorem runOne_problem {s : State} {c : Nat} {e : Word} (hrun : s.me.run = .running) (hp : fetchProblem s = some (c, e)) :
    runOne s = .next (trap s c e) := by
  simp only [runOne, hrun, runFetched, fetched, hp, exec, execFetchFault]

/-- Settles O58. -/
theorem stepRunsDecoded : Obligations.StepRunsDecoded := by
  intro s h r ha hrun hh hb hr hq s0 qualified runs pc
  have hruns {u : State} (hu : runOne s0 = .next u) : runs u := fun v hv =>
    step_hart ha hb hr ((runHart_running hrun hh hq).trans (runBoth_next hu hv))
  refine ⟨?_, fun c e hp => hruns (runOne_problem hrun hp)⟩
  intro l i hl hf h0 hc hd _ f
  have hone : runOne s0 = runSlot f := runOne_fetched hrun hl hf h0 hc
  have hi : waitingInstr f.me = some i := by
    have hm : f.me = { s.hart h with fetched := l } := State.me_setMe _ _
    rw [hm]
    show (decodeSlot l (pc.toNat / 2 % 32)).toOption = some i
    rw [hd]
    rfl
  refine ⟨fun hbl => hruns (hone.trans ?_), fun hbl => ⟨fun hsp => hruns (hone.trans ?_), fun hsp u hu => hruns (hone.trans ?_)⟩⟩
  · simp only [runSlot, hi, hbl, if_true]
  · simp only [runSlot, hi, hbl, execChecked, hsp, if_true]
    rfl
  · simp only [runSlot, hi, hbl, execChecked, hsp, Bool.false_eq_true, if_false]
    exact hu

end Sys2Proof.Machine
end

section
/-! SUPPORT. Vector memory (07 R177 to R192). -/

namespace Sys2Proof.Machine

/-- The hart of `twoWindows`, configured for one element of 32 bits. -/
def twoWindowsVector : State :=
  { twoWindows with harts := [(0, { asid := 1, run := .running, conf := some ⟨4, 1, 2⟩, vl := 1, vrows := 1 })] }

/-- The element at address 0 into v1. -/
def elementAtZero : VMOps := { x := 1, y := 0, z := 0, sub := 0, ty := 0, wait := 0, mask := 0, imm := 0 }

/-- The place of address 0. -/
def scalePlace : Nat → Resolved := fun _ => ⟨.derived 0x40000000000, .pma⟩

theorem twoWindowsVector_ready : vmReady twoWindowsVector elementAtZero [elementAtZero.x] := by
  refine ⟨⟨rfl, ⟨rfl, rfl, rfl, rfl, rfl⟩, rfl, rfl, rfl⟩, by decide, by decide, ?_, ?_⟩
  · intro k _ h
    simp [elementAtZero] at h
  · exact ⟨fun h => (nomatch h), fun h => (nomatch h)⟩

/-- The byte that a register holds in the state that a result gives. -/
def byteLeft (r : Res) (d k : Nat) : Byte := match r with | .next t => Tab.get 0 (t.me.vreg d) k | _ => 0

/-- The place of address 0 for the element there, as its load finds it. -/
def elementPlace : { r : Resolved // check twoWindowsVector (twoWindowsVector.agent twoWindowsVector.cur) .load
    (unitAt twoWindowsVector.me elementAtZero 0) (ewBytes twoWindowsVector.me) = .ok r } :=
  ⟨scalePlace 0, by decide +kernel⟩

/-- Refutes O35: noting the bad granule lists the window of key 0 first, so that the last byte of the element at address 0 is
read through that window, and not through the one that it stood in. -/
theorem not_vectorLoads : ¬ Obligations.VectorLoads := by
  rintro ⟨h, -⟩
  obtain ⟨hok, -⟩ := h twoWindowsVector (.vld elementAtZero) elementAtZero _ _ _ (by decide) rfl twoWindowsVector_ready
    (by decide)
  have hone : active twoWindowsVector.me elementAtZero.mask.toNat = [0] := by decide +kernel
  have hchk : check twoWindowsVector (twoWindowsVector.agent twoWindowsVector.cur) .load
      (unitAt twoWindowsVector.me elementAtZero 0) (ewBytes twoWindowsVector.me) = .ok (scalePlace 0) := elementPlace.2
  obtain ⟨t, ht, hel, -⟩ := hok scalePlace (by
    rw [hone]
    rintro e he
    rw [List.mem_singleton.mp he]
    exact hchk)
  have hb : byteLeft (exec (.vld elementAtZero) twoWindowsVector) 1 3 = 0 := by decide +kernel
  rw [ht] at hb
  have h3 := hel 0 (hone ▸ List.mem_singleton_self 0) 3 (by decide)
  exact absurd (h3.symm.trans hb) (by decide +kernel)

/-! What an access meets does not depend on the harts. -/

/-- The state with other harts. -/
def withHarts (s : State) (H : SMap Hart) : State := { s with harts := H }

theorem walkRead_withHarts (s : State) (H : SMap Hart) (c : Option Nat) (a : Nat) :
    walkRead (withHarts s H) c a = walkRead s c a := by rfl

theorem walk_withHarts (s : State) (H : SMap Hart) (c : Option Nat) (k : Access) (top page lv : Nat) (g : Bool) (base : Nat) :
    walk (withHarts s H) c k top page lv g base = walk s c k top page lv g base := by
  induction lv generalizing g base with
  | zero => simp only [walk, walkRead_withHarts]
  | succ lv ih => simp only [walk, walkRead_withHarts, ih]

theorem leafFor_withHarts (s : State) (H : SMap Hart) (a : Agent) (k : Access) (va : Nat) :
    leafFor (withHarts s H) a k va = leafFor s a k va := by
  unfold leafFor
  simp only [walk_withHarts]
  rfl

theorem translate_withHarts (s : State) (H : SMap Hart) (a : Agent) (k : Access) (va : Nat) :
    translate (withHarts s H) a k va = translate s a k va := by
  unfold translate
  simp only [leafFor_withHarts]

theorem restash_withHarts (s : State) (H : SMap Hart) (a : Agent) (e : Stash) (o : Nat) :
    restash (withHarts s H) a e o = restash s a e o := by
  unfold restash
  simp only [translate_withHarts]

theorem scratchPlace_withHarts (s : State) (H : SMap Hart) (a : Agent) (k : Access) (c o n : Nat) :
    scratchPlace (withHarts s H) a k c o n = scratchPlace s a k c o n := by
  unfold scratchPlace
  simp only [restash_withHarts]
  rfl

theorem resolveIn_withHarts (s : State) (H : SMap Hart) (a : Agent) (k : Access) (m : Bool) (va n : Nat) :
    resolveIn (withHarts s H) a k m va n = resolveIn s a k m va n := by
  unfold resolveIn
  simp only [translate_withHarts, scratchPlace_withHarts]
  rfl

theorem check_withHarts (s : State) (H : SMap Hart) (a : Agent) (k : Access) (va n : Nat) :
    check (withHarts s H) a k va n = check s a k va n := by
  unfold check checkIn
  simp only [resolveIn_withHarts]
  rfl

/-! Entry (07 R177, R198). -/

/-- The state in which a vector access begins: its tokens taken. -/
def begun (s : State) (set : BitVec 8) : State := s.setMe (acquireTokens s.me set)

theorem begun_me (s : State) (set : BitVec 8) : (begun s set).me = acquireTokens s.me set := State.me_setMe _ _

theorem begun_other (s : State) (set : BitVec 8) (h : Nat) (n : h ≠ s.cur) : (begun s set).hart h = s.hart h :=
  State.hart_setMe_other _ _ _ n

theorem begun_agent (s : State) (set : BitVec 8) : (begun s set).agent (begun s set).cur = s.agent s.cur := by
  have h : (begun s set).hart (begun s set).cur = acquireTokens s.me set := begun_me s set
  rw [State.agent, h]
  rfl

theorem check_begun (s : State) (set : BitVec 8) (a : Agent) (k : Access) (va n : Nat) :
    check (begun s set) a k va n = check s a k va n := check_withHarts s _ a k va n

theorem pendingTokens_ready {x : Hart} {w : BitVec 8} (h : tokensReady x w) : pendingTokens x w = [] := by
  refine List.filter_eq_nil_iff.mpr fun k hk hp => ?_
  rw [Bool.and_eq_true] at hp
  obtain ⟨hw, hp⟩ := hp
  have hne := h k (List.mem_range.mp hk) hw
  cases ht : x.token k with
  | pending j => exact hne j ht
  | _ => simp [ht] at hp

theorem withTokens_ready {s : State} (hs : free s) {w : BitVec 8} (h : tokensReady s.me w) (k : State → Res) :
    withTokens s w k = k (begun s w) := by
  have ha : (begun s w).ahead = [] := hs.2.1.2.2.2.2
  rw [withTokens, pendingTokens_ready h]
  simp only [List.isEmpty_nil, if_true]
  split
  · rfl
  · exact congrArg k (freshAccess_plain (begun s w) true ha)

/-- A vector memory form that may begin does. -/
theorem vmEnter_ready {s : State} {o : VMOps} {rs : List Reg} (h : vmReady s o rs) {ok : Bool} (hok : ok = true)
    (k : State → Res) : vmEnter s o rs ok k = k (begun s o.wait) := by
  obtain ⟨hs, hc, hr, ht, -⟩ := h
  rw [vmEnter, vregsOk_of hc hr, unchained_free s _ hs, hok]
  exact withTokens_ready hs ht k

/-- A hart that leaves nothing to its queues performs its access in its own step. -/
theorem vectorLater_now {s : State} (hl : s.me.lag = false) (hq : storeQueueHeld s s.cur = false) (k : Access) (l : List Nat) (addr : Nat → Nat)
    (chk : Nat → Except Nat Resolved) (trims : Nat → Bool) (f : Nat → Place → Pending) :
    vectorLater s k l addr chk trims f = none := by
  have h : vectorLags s = false := by rw [vectorLags, lagging, hl, hq]; rfl
  rw [vectorLater, h]
  rfl

theorem caughtUp_now {s : State} (hq : storeQueueHeld s s.cur = false) (hv : s.me.vectorQueue = []) (store : Bool)
    (k : State → Res) : caughtUp s store k = k s := by
  have h : vectorHeld s s.cur = false := by rw [vectorHeld, hq]; rfl
  rw [caughtUp, hq, h, hv]
  rfl

/-- An access whose elements meet no problem is complete. -/
theorem plan_complete (x : Hart) {l : List Nat} {chk : Nat → Except Nat Resolved} (h : ∀ e ∈ l, ∃ r, chk e = .ok r)
    (trims : Nat → Bool) : plan x l chk trims = (l, .complete) := by
  have hp : firstProblem chk l = none := by
    induction l with
    | nil => rfl
    | cons a l ih =>
      obtain ⟨r, hr⟩ := h a List.mem_cons_self
      rw [firstProblem, hr]
      exact ih fun e he => h e (List.mem_cons_of_mem _ he)
  rw [plan, hp]

/-! Element addresses (07 R177). -/

theorem wrap_eq (v : Int) : wrap v = (BitVec.ofInt 64 v).toNat := (BitVec.toNat_ofInt v).symm

theorem ofInt_toNat (a : Word) : BitVec.ofInt 64 (a.toNat : Int) = a := by
  rw [BitVec.ofInt_natCast, BitVec.ofNat_toNat, BitVec.setWidth_eq]

theorem unitAddr_eq (x : Hart) (o : VMOps) (e : Nat) : unitAddr x o e = unitAt x o e := by
  rw [unitAddr, wrap_eq, Nat.cast_add, BitVec.ofInt_add, vmBase, ofInt_toNat, BitVec.ofInt_natCast]
  rfl

theorem stridedAddr_eq (x : Hart) (o : VMOps) (e : Nat) : stridedAddr x o e = stridedAt x o e := by
  rw [stridedAddr, wrap_eq, BitVec.ofInt_add, BitVec.ofInt_mul, vmBase, ofInt_toNat, BitVec.ofInt_natCast, BitVec.ofInt_toInt]
  rfl

theorem indexedAddr_eq (x : Hart) (o : VMOps) (e : Nat) : indexedAddr x o e = indexedAt x o e := by
  rw [indexedAddr, wrap_eq, BitVec.ofInt_add, vmBase, ofInt_toNat]
  rfl

/-- The vector stores are one operation. -/
theorem exec_storeOf {i : Instr} {s : State} {o : VMOps} {rs : List Reg} {addr : Nat → Nat}
    (h : storeOf i s.me = some (o, rs, addr)) :
    ∃ f, exec i s = storeForm s o rs f ∧ ∀ set, f (acquireTokens s.me set) o = addr := by
  cases i with
  | vst =>
    obtain ⟨rfl, rfl, rfl⟩ := Option.some.inj h
    exact ⟨unitAddr, rfl, fun set => funext (unitAddr_eq (acquireTokens s.me set) o)⟩
  | vsts =>
    obtain ⟨rfl, rfl, rfl⟩ := Option.some.inj h
    exact ⟨stridedAddr, rfl, fun set => funext (stridedAddr_eq (acquireTokens s.me set) o)⟩
  | vstx =>
    obtain ⟨rfl, rfl, rfl⟩ := Option.some.inj h
    exact ⟨indexedAddr, rfl, fun set => funext (indexedAddr_eq (acquireTokens s.me set) o)⟩
  | _ => exact nomatch h

/-! Runs of bytes written in turn. -/

/-- Runs of bytes written into memory in turn. -/
def writeRuns (s : State) (w : List (Nat × List Byte)) : State := w.foldl (fun s e => writeRam s e.1 e.2) s

theorem writeRuns_append (s : State) (w : List (Nat × List Byte)) (e : Nat × List Byte) :
    writeRuns s (w ++ [e]) = writeRam (writeRuns s w) e.1 e.2 := by
  rw [writeRuns, List.foldl_append]
  rfl

theorem writeRuns_harts (s : State) (w : List (Nat × List Byte)) : (writeRuns s w).harts = s.harts :=
  foldl_keeps (P := fun t : State => t.harts = s.harts) (fun t _ h => (writeRam_harts t _ _).trans h) rfl w

theorem writeRuns_cur (s : State) (w : List (Nat × List Byte)) : (writeRuns s w).cur = s.cur :=
  foldl_keeps (P := fun t : State => t.cur = s.cur) (fun t _ h => (writeRam_cur t _ _).trans h) rfl w

/-- A byte outside every run stands. -/
theorem writeRuns_out (s : State) (w : List (Nat × List Byte)) (a : Nat) (h : ∀ e ∈ w, a < e.1 ∨ e.1 + e.2.length ≤ a) :
    (writeRuns s w).byte a = s.byte a := by
  induction w using List.reverseRecOn with
  | nil => rfl
  | append_singleton w e ih =>
    rw [writeRuns_append, writeRam_byte_out _ _ _ _ (h e (by simp))]
    exact ih fun f hf => h f (by simp [hf])

/-- Where no later element covers a byte of an element, it ends with that element's byte. -/
theorem writeRuns_in (s : State) {l : List Nat} (hl : l.Pairwise (· < ·)) (pl : Nat → Nat) (bytes : Nat → List Byte) {n : Nat}
    (hn : ∀ e, (bytes e).length = n) {e k : Nat} (he : e ∈ l) (hk : k < n)
    (hlater : ∀ f ∈ l, e < f → pl e + k < pl f ∨ pl f + n ≤ pl e + k) :
    (writeRuns s (l.map fun t => (pl t, bytes t))).byte (pl e + k) = (bytes e)[k]'((hn e).symm ▸ hk) := by
  induction l using List.reverseRecOn with
  | nil => exact nomatch he
  | append_singleton l a ih =>
    obtain ⟨hl, -, hlt⟩ := List.pairwise_append.mp hl
    rw [List.map_append, List.map_cons, List.map_nil, writeRuns_append]
    by_cases h : e = a
    · subst h
      exact writeRam_byte_in _ _ _ _ _
    · have he' : e ∈ l := by simpa [h] using he
      have ha : e < a := hlt e he' a (by simp)
      rw [writeRam_byte_out _ _ _ _ (by rw [hn]; exact hlater a (by simp) ha)]
      exact ih hl he' fun f hf => hlater f (by simp [hf])

theorem active_pairwise (x : Hart) (m : Nat) : (active x m).Pairwise (· < ·) := by
  refine List.Pairwise.filter _ (List.pairwise_map.mpr ?_)
  exact List.pairwise_lt_range.imp fun h => by omega

/-! Stores (07 R179, R183). -/

/-- What the recall of covered sectors leaves. -/
theorem clearCovered_frame (s : State) (runs : List (Nat × Nat)) : clearCovered s runs = { s with taint := (clearCovered s runs).taint } := by
  unfold clearCovered
  split
  · rfl
  · exact foldl_keeps (P := fun t : State => t = { s with taint := t.taint }) (fun t k h => by rw [h]) rfl _

theorem touchAll_onlyCaches (s : State) (k : Access) (addr : Nat → Nat) (l : List Nat) : OnlyCaches s (touchAll s k addr l) := by
  refine foldl_onlyCaches (fun s t => ?_) s l
  dsimp only
  split
  · refine OnlyCaches.trans ?_ (tagAt_onlyCaches _ _ _)
    refine OnlyCaches.trans ?_ (touch_onlyCaches _ _ _ _)
    split
    · exact .refl s
    · exact noteRead_onlyCaches s _
  · exact .refl s

/-- The stores of an access to memory, with nothing performed before its turn. -/
theorem writeOwn_ram {s : State} (ha : s.ahead = []) (l : List Nat) (pl : Nat → Nat) (cl : Nat → PageClass) (bytes : Nat → List Byte) :
    let t := writeOwn s (l.map fun e => ((⟨.ram (pl e), cl e⟩ : Resolved), bytes e))
    t.mem = (writeRuns s (l.map fun e => (pl e, bytes e))).mem ∧ t.harts = s.harts ∧ t.cur = s.cur := by
  have hfold : (l.map fun e => ((.ram (pl e) : Place), bytes e)).foldl (fun s e => storePlace s e.1 e.2) s
      = writeRuns s (l.map fun e => (pl e, bytes e)) := by
    rw [writeRuns, List.foldl_map, List.foldl_map]
    rfl
  have ht : writeOwn s (l.map fun e => ((⟨.ram (pl e), cl e⟩ : Resolved), bytes e))
      = clearCovered (writeRuns s (l.map fun e => (pl e, bytes e)))
        ((l.map fun e => ((.ram (pl e) : Place), bytes e)).filterMap fun e =>
          match e.1 with | .ram k => some (k, e.2.length) | _ => none) := by
    rw [writeOwn, writeAccess_plain _ _ _ ha, if_pos rfl, List.map_map]
    rw [← hfold]
    rfl
  rw [ht, clearCovered_frame]
  exact ⟨rfl, writeRuns_harts _ _, writeRuns_cur _ _⟩

/-- A vector access that begins is at its turn too. -/
theorem begun_atTurn {s : State} (h : atTurn s) (set : BitVec 8) : atTurn (begun s set) := by
  obtain ⟨hl, hq, hv, hb, ha⟩ := h
  refine ⟨?_, ?_, ?_, hb, ha⟩
  · rw [begun_me]
    exact hl
  · rw [begun_me]
    exact hq
  · rw [begun_me]
    exact hv

theorem writeRuns_mem_congr {s u : State} (h : u.mem = s.mem) (w : List (Nat × List Byte)) :
    (writeRuns u w).mem = (writeRuns s w).mem := by
  induction w using List.reverseRecOn with
  | nil => exact h
  | append_singleton w e ih =>
    rw [writeRuns_append, writeRuns_append]
    exact congrArg (putMem · e.1 e.2) ih

theorem bytes_length (v : Bytes) (i n : Nat) : (Tab.bytes v i n).length = n := by rw [Tab.bytes, List.length_map, List.length_range]

theorem bytes_getElem (v : Bytes) (i n k : Nat) (h : k < (Tab.bytes v i n).length) :
    (Tab.bytes v i n)[k] = Tab.get 0 v (i + k) := by
  simp only [Tab.bytes, List.getElem_map, List.getElem_range]

theorem State.me_congr {s u : State} (hh : u.harts = s.harts) (hc : u.cur = s.cur) : u.me = s.me := by
  rw [State.me, State.hart, hc, hh]
  rfl

/-- A vector store whose elements resolve to memory leaves a state with their bytes written, in which its hart falls through. -/
theorem vectorStore_ram {s : State} (ht : atTurn s) {l : List Nat} {n : Nat} {addr pl : Nat → Nat} {cl : Nat → PageClass}
    (h : ∀ e ∈ l, check s (s.agent s.cur) .store (addr e) n = .ok ⟨.ram (pl e), cl e⟩) (bytes : Nat → List Byte)
    (trims : Nat → Bool) :
    ∃ u, vectorStore s l n addr bytes trims = .next (finishWith u fun x => { x with vstart := 0 })
      ∧ (∀ a, u.byte a = (writeRuns s (l.map fun e => (pl e, bytes e))).byte a) ∧ u.harts = s.harts ∧ u.cur = s.cur := by
  obtain ⟨hl, -, hv, hb, ha⟩ := ht
  let v := touchAll s .store addr l
  have hc : OnlyCaches s v := touchAll_onlyCaches s .store addr l
  have hva : v.ahead = [] := hc.ahead.trans ha
  obtain ⟨hm, hh, hcur⟩ := writeOwn_ram hva l pl cl bytes
  have hw : (l.filterMap fun t => match check s (s.agent s.cur) .store (addr t) n with
      | .ok q => some (q, bytes t) | .error _ => none) = l.map fun e => ((⟨.ram (pl e), cl e⟩ : Resolved), bytes e) := by
    rw [← List.filterMap_eq_map]
    refine List.filterMap_congr fun e he => ?_
    rw [h e he]
    rfl
  refine ⟨writeOwn v (l.map fun e => (⟨.ram (pl e), cl e⟩, bytes e)), ?_, fun a => ?_, hh.trans hc.harts, hcur.trans hc.cur⟩
  · unfold vectorStore
    rw [vectorLater_now hl hb, caughtUp_now hb hv, vectorStoreNow, plan_complete s.me fun e he => ⟨_, h e he⟩]
    exact congrArg (fun w => Host.Outcome.next (finishWith (writeOwn v w) fun x => { x with vstart := 0 })) hw
  · exact congrArg (Tab.get 0 · a) (hm.trans (writeRuns_mem_congr hc.mem _))

/-- Settles O36: the bytes are written element after element, and the recalls and marks of the caches are read by no agent. -/
theorem vectorStores : Obligations.VectorStores := by
  rintro s i o rs addr pl cl - hi hr hw l n hchk
  obtain ⟨f, hex, hf⟩ := exec_storeOf hi
  obtain ⟨hs, -, -, -, hp⟩ := id hr
  have hx := begun_me s o.wait
  obtain ⟨u, hu, hbyte, hharts, hcur⟩ := vectorStore_ram (s := begun s o.wait) (begun_atTurn hs.2.1 o.wait) (l := l) (n := n)
    (addr := addr) (pl := pl) (cl := cl) (fun e he => by rw [begun_agent, check_begun]; exact hchk e he)
    (fun t => Tab.bytes (s.me.vreg o.x.toNat) (n * t) n) trimScratch
  have hrun : exec i s = .next (finishWith u fun x => { x with vstart := 0 }) := by
    rw [hex, storeForm, vmEnter_ready hr (ok := vmWidth s.me o) (decide_eq_true hw)]
    dsimp only
    rw [hx, hf]
    exact hu
  have hb : ∀ a, (finishWith u fun x => { x with vstart := 0 }).byte a
      = (writeRuns (begun s o.wait) (l.map fun e => (pl e, Tab.bytes (s.me.vreg o.x.toNat) (n * e) n))).byte a := fun a => by
    rw [finishWith_byte, hbyte]
  obtain ⟨hother, hme⟩ := finishWith_harts hharts hcur fun x => { x with vstart := 0 }
  rw [hx] at hme
  refine ⟨_, hrun, fun e he k hk hlater => ?_, fun a ha => ?_, fun h hne => ?_, ?_, ?_⟩
  · rw [hb, writeRuns_in _ (active_pairwise _ _) pl _ (fun e => bytes_length _ _ _) he hk hlater, bytes_getElem]
  · rw [hb]
    refine writeRuns_out _ _ _ fun e he => ?_
    obtain ⟨e, hel, rfl⟩ := List.mem_map.mp he
    rw [bytes_length]
    exact ha e hel
  · rw [hother h hne]
    exact begun_other s _ h hne
  · have hm : (finishWith u fun x => { x with vstart := 0 }).me
        = { acquireTokens s.me o.wait with vstart := 0, pc := following s.me, qual := false } := by
      rw [finishWith_me, State.me_congr hharts hcur, hx]
      exact arrive_plain _ _ hp
    rw [hm]
    exact ⟨rfl, rfl, rfl, rfl, rfl, rfl, rfl⟩
  · exact hme.v

end Sys2Proof.Machine
end

section
/-! SUPPORT. Vector atomics and locks (07 R189 to R192). -/

namespace Sys2Proof.Machine

/-! Read-modify-writes of words that lie apart. -/

/-- One read-modify-write of the word of element `e`. -/
def swapAt (pl : Nat → Nat) (n : Nat) (f : Nat → Nat → Option Nat) (s : State) (e : Nat) : State :=
  match f e (s.word (pl e) n) with
  | some v => writeRam s (pl e) (leBytes n v)
  | none => s

/-- The read-modify-writes of some elements in turn. -/
def swaps (pl : Nat → Nat) (n : Nat) (f : Nat → Nat → Option Nat) (s : State) (l : List Nat) : State :=
  l.foldl (swapAt pl n f) s

section
variable {pl : Nat → Nat} {n : Nat} {f : Nat → Nat → Option Nat}

theorem swaps_append (s : State) (l : List Nat) (e : Nat) : swaps pl n f s (l ++ [e]) = swapAt pl n f (swaps pl n f s l) e := by
  rw [swaps, List.foldl_append]
  rfl

/-- A field that no write to memory changes stands. -/
theorem swapAt_keeps {β : Type} (p : State → β) (h : ∀ t l b, p (writeRam t l b) = p t) (s : State) (e : Nat) :
    p (swapAt pl n f s e) = p s := by
  unfold swapAt
  split
  · exact h _ _ _
  · rfl

theorem swaps_keeps {β : Type} (p : State → β) (h : ∀ t l b, p (writeRam t l b) = p t) (s : State) (l : List Nat) :
    p (swaps pl n f s l) = p s :=
  foldl_keeps (P := fun t : State => p t = p s) (fun t e i => (swapAt_keeps p h t e).trans i) rfl l

theorem swapAt_byte (s : State) (e a : Nat) (h : a < pl e ∨ pl e + n ≤ a) : (swapAt pl n f s e).byte a = s.byte a := by
  unfold swapAt
  split
  · exact writeRam_leBytes_out s _ n _ a h
  · rfl

theorem swaps_byte (s : State) (l : List Nat) (a : Nat) (h : ∀ e ∈ l, a < pl e ∨ pl e + n ≤ a) :
    (swaps pl n f s l).byte a = s.byte a := by
  induction l using List.reverseRecOn with
  | nil => rfl
  | append_singleton l e ih =>
    rw [swaps_append, swapAt_byte _ _ _ (h e (by simp))]
    exact ih fun d hd => h d (by simp [hd])

theorem word_congr {s t : State} {l n : Nat} (h : ∀ k, k < n → t.byte (l + k) = s.byte (l + k)) : t.word l n = s.word l n := by
  refine congrArg leNat (List.map_congr_left fun k hk => ?_)
  exact h k (List.mem_range.mp hk)

/-- A word that lies apart from the others is read as it stood. -/
theorem swaps_word_apart (s : State) (l : List Nat) (e : Nat) (h : ∀ d ∈ l, pl e + n ≤ pl d ∨ pl d + n ≤ pl e) :
    (swaps pl n f s l).word (pl e) n = s.word (pl e) n := by
  refine word_congr fun k hk => swaps_byte s l _ fun d hd => ?_
  obtain h | h := h d hd
  · exact .inl (by omega)
  · exact .inr (by omega)

theorem swapAt_word (s : State) (e : Nat) :
    (swapAt pl n f s e).word (pl e) n = match f e (s.word (pl e) n) with | some v => v % 256 ^ n | none => s.word (pl e) n := by
  unfold swapAt
  split
  · exact readPlace_writeRam_leBytes s (pl e) n _
  · rfl

/-- Each of the words is swapped once. -/
theorem swaps_word (s : State) {l : List Nat} (hl : l.Nodup) (ha : apart l pl n) {e : Nat} (he : e ∈ l) :
    (swaps pl n f s l).word (pl e) n
      = match f e (s.word (pl e) n) with | some v => v % 256 ^ n | none => s.word (pl e) n := by
  induction l using List.reverseRecOn with
  | nil => exact nomatch he
  | append_singleton l d ih =>
    obtain ⟨hl, -, hd⟩ := List.nodup_append.mp hl
    have hout (c : Nat) (hc : c ∈ l) : pl d + n ≤ pl c ∨ pl c + n ≤ pl d :=
      ha d (by simp) c (by simp [hc]) fun h => hd c hc d (by simp) h.symm
    rw [swaps_append]
    by_cases h : e = d
    · subst h
      rw [swapAt_word, swaps_word_apart s l e hout]
    · have he' : e ∈ l := by simpa [h] using he
      rw [← ih hl (fun a b c d => ha a (by simp [b]) c (by simp [d])) he']
      refine word_congr fun k hk => swapAt_byte _ _ _ ?_
      obtain h | h := hout e he'
      · exact .inr (by omega)
      · exact .inl (by omega)

/-- An atomic access to memory, nothing performed before its turn. -/
theorem atomicAccess_ram {s : State} (ha : s.ahead = []) (e : Nat) (c : PageClass) :
    atomicAccess s ⟨.ram (pl e), c⟩ n (f e) = (s.word (pl e) n, swapAt pl n f s e) := by
  have he : early s s.cur true = [] := by rw [early, ha]; rfl
  rw [atomicAccess, he, freshAccess_plain s true ha]
  rfl

/-- Read-modify-writes in turn, each of which gathers something of the word that it finds. -/
theorem foldl_swaps {α : Type} (g : α → Nat → Nat → α) (F : State × α → Nat → State × α) (s : State) (a : α) {l : List Nat}
    (hl : l.Nodup) (hap : apart l pl n)
    (hF : ∀ t b, ∀ e ∈ l, t.ahead = s.ahead → t.keel = s.keel →
      F (t, b) e = (swapAt pl n f t e, g b e (t.word (pl e) n))) :
    l.foldl F (s, a) = (swaps pl n f s l, l.foldl (fun b e => g b e (s.word (pl e) n)) a) := by
  induction l using List.reverseRecOn with
  | nil => rfl
  | append_singleton l d ih =>
    obtain ⟨hl, -, hd⟩ := List.nodup_append.mp hl
    have hout (c : Nat) (hc : c ∈ l) : pl d + n ≤ pl c ∨ pl c + n ≤ pl d :=
      hap d (by simp) c (by simp [hc]) fun h => hd c hc d (by simp) h.symm
    rw [List.foldl_append, ih hl (fun a b c d => hap a (by simp [b]) c (by simp [d])) fun t b e he => hF t b e (by simp [he])]
    rw [List.foldl_append, swaps_append]
    simp only [List.foldl_cons, List.foldl_nil]
    rw [hF _ _ d (by simp) (swaps_keeps State.ahead (fun _ _ _ => rfl) s l) (swaps_keeps State.keel (fun _ _ _ => rfl) s l),
      swaps_word_apart s l d hout]

end

theorem OnlyCaches.word {s t : State} (h : OnlyCaches s t) (l n : Nat) : t.word l n = s.word l n := congrArg leNat (h.readRam l n)

/-! vamo (07 R189). -/

/-- The value that `vamo` stores for an element. -/
def amoSwap (o : VMOps) (x : Hart) (e old : Nat) : Option Nat :=
  some (atomicOp (o.sub.toNat % 16) (ewBytes x) old (elem (x.vreg o.x.toNat) (ewBytes x) e)).1

/-- What `vamo` gathers of the old values: the register's bytes, and the flags. -/
def amoGather (o : VMOps) (x : Hart) (a : Bytes × Flags) (e old : Nat) : Bytes × Flags :=
  (if o.sub.getLsbD 4 then setElem a.1 (ewBytes x) e old else a.1,
    a.2 ||| (atomicOp (o.sub.toNat % 16) (ewBytes x) old (elem (x.vreg o.x.toNat) (ewBytes x) e)).2)

/-- The hart after `vamo`: the register's bytes and the flags as gathered. -/
def amoLeaves (o : VMOps) (x : Hart) (r : Bytes × Flags) : Hart :=
  ((x.setVreg o.x.toNat r.1).cleanV o.x.toNat (if o.sub.getLsbD 4 then active x o.mask.toNat else [])).raise r.2

theorem active_nodup (x : Hart) (m : Nat) : (active x m).Nodup := (active_pairwise x m).imp Nat.ne_of_lt

/-- `vamo` on words in memory that lie apart. -/
theorem vamoNow_ram {s : State} (o : VMOps) (ha : s.ahead = []) {pl : Nat → Nat} {cl : Nat → PageClass} {l : List Nat} {n : Nat}
    (hl : active s.me o.mask.toNat = l) (hn : ewBytes s.me = n)
    (h : ∀ e ∈ l, check s (s.agent s.cur) .atomic (indexedAddr s.me o e) n = .ok ⟨.ram (pl e), cl e⟩) (hap : apart l pl n) :
    ∃ v : State, OnlyCaches s v ∧ vamoNow o s = .next (finishWith
      ((swaps pl n (amoSwap o s.me) v l).setMe (amoLeaves o s.me
        (l.foldl (fun b e => amoGather o s.me b e (s.word (pl e) n)) (s.me.vreg o.x.toNat, 0))))
      fun x => { x with vstart := 0 }) := by
  subst hl hn
  let v := touchAll s .atomic (indexedAddr s.me o) (active s.me o.mask.toNat)
  have hv : OnlyCaches s v := touchAll_onlyCaches s .atomic _ _
  refine ⟨v, hv, ?_⟩
  unfold vamoNow
  dsimp only
  rw [plan_complete s.me fun e he => ⟨_, h e he⟩]
  dsimp only
  rw [foldl_swaps (pl := pl) (n := ewBytes s.me) (f := amoSwap o s.me) (amoGather o s.me) _ v (s.me.vreg o.x.toNat, 0)
    (active_nodup _ _) hap]
  · have hw : (fun (b : Bytes × Flags) e => amoGather o s.me b e (v.word (pl e) (ewBytes s.me)))
        = fun b e => amoGather o s.me b e (s.word (pl e) (ewBytes s.me)) := by
      funext b e
      rw [hv.word]
    have hm : (swaps pl (ewBytes s.me) (amoSwap o s.me) v (active s.me o.mask.toNat)).me = s.me :=
      State.me_congr ((swaps_keeps State.harts (fun _ _ _ => rfl) _ _).trans hv.harts)
        ((swaps_keeps State.cur (fun _ _ _ => rfl) _ _).trans hv.cur)
    rw [hw, hm]
    rfl
  · rintro t b e he hta -
    dsimp only
    rw [h e he]
    dsimp only
    have ht : t.ahead = [] := hta.trans (hv.ahead.trans ha)
    have hacc := atomicAccess_ram (pl := pl) (n := ewBytes s.me) (f := amoSwap o s.me) ht e (cl e)
    unfold amoSwap at hacc
    rw [hacc]
    rfl

/-- The elements among what `vamo` gathers. -/
theorem amoGather_elem (o : VMOps) (x : Hart) (w : Nat → Nat) (l : List Nat) (b : Bytes) {e : Nat} (he : e ∈ l)
    (hb : elem b (ewBytes x) e = elem (x.vreg o.x.toNat) (ewBytes x) e) :
    elem (l.foldl (fun b e => amoGather o x b e (w e)) (b, 0)).1 (ewBytes x) e
      = if o.sub.getLsbD 4 then w e % 256 ^ ewBytes x else elem (x.vreg o.x.toNat) (ewBytes x) e := by
  unfold amoGather
  rw [foldl_pair (fun b t => if o.sub.getLsbD 4 then setElem b (ewBytes x) t (w t) else b)
    (fun a t => a ||| (atomicOp (o.sub.toNat % 16) (ewBytes x) (w t) (elem (x.vreg o.x.toNat) (ewBytes x) t)).2)]
  split
  · rw [elem_foldl_setElem, if_pos he]
  · rw [List.foldl_fixed]
    exact hb

theorem two_pow_eight (n : Nat) : 2 ^ (8 * n) = 256 ^ n := by rw [Nat.pow_mul]

theorem exec_vamo {s : State} {o : VMOps} (hr : vmReady s o [o.x, o.z]) (hw : tyWidth o.ty.toNat = ewBits s.me) :
    exec (.vamo o) s = vamoNow o (begun s o.wait) := by
  obtain ⟨hlag, -, hvq, hsq, -⟩ := begun_atTurn hr.1.2.1 o.wait
  simp only [exec, execVamo]
  rw [vmEnter_ready hr (decide_eq_true hw)]
  rw [vectorLater_now hlag hsq, caughtUp_now hsq hvq]

theorem vectorAmo : Claims.VectorAmo := by
  rintro s o pl cl - hr hw l n op src hchk hap
  obtain ⟨hs, -, -, -, -⟩ := id hr
  have hx := begun_me s o.wait
  have hpos : (begun s o.wait).ahead = [] := hs.2.1.2.2.2.2
  obtain ⟨v, hv, hrun⟩ := vamoNow_ram (s := begun s o.wait) o hpos (pl := pl) (cl := cl) (l := l) (n := n)
    (by rw [hx]; rfl) (by rw [hx]; rfl)
    (fun e he => by rw [begun_agent, check_begun, hx]; exact (indexedAddr_eq s.me o e).symm ▸ hchk e he) hap
  rw [hx] at hrun
  have hword (e : Nat) : v.word (pl e) n = s.word (pl e) n := hv.word _ _
  refine ⟨_, (exec_vamo hr hw).trans hrun, fun e he => ⟨?_, ?_⟩, fun a ha => ?_, ?_⟩
  · refine (swaps_word v (active_nodup _ _) hap he).trans ?_
    rw [two_pow_eight, hword]
    rfl
  · rw [(finishWith_completes _ _).vreg]
    refine (congrArg (fun b => elem b n e) ?_).trans
      ((amoGather_elem o s.me (fun e => s.word (pl e) n) l (s.me.vreg o.x.toNat) he rfl).trans ?_)
    · rw [State.me_setMe]
      exact Tab.get_set_same _ _ _ _
    · have hlt : s.word (pl e) n % 256 ^ ewBytes s.me = s.word (pl e) n := Nat.mod_eq_of_lt (leNat_readPlace_lt _ _ _)
      rw [hlt]
  · rw [finishWith_byte]
    exact (swaps_byte v l a ha).trans (hv.byte a)
  · rw [(finishWith_completes _ _).vstart]

/-! The order of lock words (07 R191). -/

theorem insertAsc_perm (a : Nat) (l : List Nat) : (insertAsc a l).Perm (a :: l) := by
  induction l with
  | nil => exact .refl _
  | cons b l ih =>
    rw [insertAsc]
    split
    · exact .refl _
    · exact (ih.cons b).trans (.swap a b l)

theorem sortAsc_perm (l : List Nat) : (sortAsc l).Perm l := by
  induction l with
  | nil => exact .refl _
  | cons a l ih => exact (insertAsc_perm a _).trans (ih.cons a)

theorem mem_distinct (l : List Nat) (a : Nat) : a ∈ distinct l ↔ a ∈ l := by
  induction l with
  | nil => rfl
  | cons b l ih =>
    rw [distinct]
    split
    · next h =>
      have hb : b ∈ l := by simpa using h
      rw [ih, List.mem_cons]
      exact ⟨.inr, fun h => h.elim (fun h => h ▸ hb) id⟩
    · rw [List.mem_cons, List.mem_cons, ih]

theorem distinct_nodup (l : List Nat) : (distinct l).Nodup := by
  induction l with
  | nil => exact List.nodup_nil
  | cons b l ih =>
    rw [distinct]
    split
    · exact ih
    · next h => exact List.nodup_cons.mpr ⟨fun hb => h (by simpa using (mem_distinct l b).mp hb), ih⟩

section
variable {addr : Nat → Nat} {l : List Nat} (h : ∀ e ∈ l, ∀ f ∈ l, addr e = addr f → e = f)
include h

/-- Elements that name words of their own are all taken, each once. -/
theorem mem_lockOrder (e : Nat) : e ∈ lockOrder addr l ↔ e ∈ l := by
  rw [lockOrder, List.mem_filterMap]
  constructor
  · rintro ⟨a, -, ha⟩
    exact List.mem_of_find?_eq_some ha
  · intro he
    refine ⟨addr e, (sortAsc_perm _).mem_iff.mpr ((mem_distinct _ _).mpr (List.mem_map_of_mem he)), ?_⟩
    obtain ⟨f, hf⟩ := Option.isSome_iff_exists.mp (List.find?_isSome (p := fun t => decide (addr t = addr e)) |>.mpr
      ⟨e, he, decide_eq_true rfl⟩)
    have hfe : addr f = addr e := of_decide_eq_true (List.find?_some (p := fun t => decide (addr t = addr e)) hf)
    rw [hf, h f (List.mem_of_find?_eq_some hf) e he hfe]

omit h in
theorem lockOrder_nodup : (lockOrder addr l).Nodup := by
  refine List.Nodup.filterMap (fun a b e ha hb => ?_) ((sortAsc_perm _).nodup_iff.mpr (distinct_nodup _))
  have h1 := of_decide_eq_true (List.find?_some (p := fun t => decide (addr t = a)) ha)
  exact h1.symm.trans (of_decide_eq_true (List.find?_some (p := fun t => decide (addr t = b)) hb))

end

/-! vlock and vunlock (07 R190 to R192). -/

/-- The attempt on a lock word: it is taken where nobody holds it. -/
def lockSwap (s : State) (_ w : Nat) : Option Nat := if bitOf w 63 then none else some (lockTaken s w)

/-- What the attempts leave in the two mask registers, element by element. -/
def lockGather (s : State) (a : List (Nat × Bool × Bool)) (e w : Nat) : List (Nat × Bool × Bool) :=
  a ++ [(e, !bitOf w 63 || lockMine s w, !(!bitOf w 63 || lockMine s w) && ownerSuspended s w)]

/-- The hart's mask registers after the attempts `r` on the words of the elements `l`. -/
def lockLeaves (o : VMOps) (x : Hart) (l : List Nat) (r : List (Nat × Bool × Bool)) : Hart :=
  let got (t : Nat) : Bool × Bool := match r.find? fun e => decide (e.1 = t) with | some e => e.2 | none => (false, false)
  setMask (setMask x o.x.toNat (l.map fun t => (t, (got t).1))) (o.sub.toNat % 8) (l.map fun t => (t, (got t).2))

/-- The release of a lock word: it is freed where this hart holds it. -/
def unlockSwap (s : State) (_ w : Nat) : Option Nat := if lockHeldBy s.me.asid s.cur w then some (lockFreed w) else none

theorem vlockNow_ram {s : State} (o : VMOps) (ha : s.ahead = []) {pl : Nat → Nat} {cl : Nat → PageClass} {l k : List Nat}
    (hl : active s.me o.mask.toNat = l) (hk : lockOrder (fun t => elem (s.me.vreg o.z.toNat) 8 t) l = k)
    (h : ∀ e ∈ l, check s (s.agent s.cur) .atomic (elem (s.me.vreg o.z.toNat) 8 e) 8 = .ok ⟨.ram (pl e), cl e⟩)
    (hkl : ∀ e ∈ k, e ∈ l) (hnd : k.Nodup) (hap : apart k pl 8) :
    ∃ v : State, OnlyCaches s v ∧ vlockNow o s = .next (finishWith
      ((swaps pl 8 (lockSwap s) v k).setMe (lockLeaves o s.me l (k.foldl (fun b e => lockGather s b e (s.word (pl e) 8)) [])))
      fun x => { x with vstart := 0 }) := by
  subst hl hk
  let v := touchAll s .atomic (fun t => elem (s.me.vreg o.z.toNat) 8 t) (active s.me o.mask.toNat)
  have hv : OnlyCaches s v := touchAll_onlyCaches s .atomic _ _
  refine ⟨v, hv, ?_⟩
  unfold vlockNow
  dsimp only
  rw [plan_complete s.me fun e he => ⟨_, h e he⟩]
  dsimp only
  rw [foldl_swaps (pl := pl) (n := 8) (f := lockSwap s) (lockGather s) _ v [] hnd hap]
  · have hw : (fun (b : List (Nat × Bool × Bool)) e => lockGather s b e (v.word (pl e) 8))
        = fun b e => lockGather s b e (s.word (pl e) 8) := by
      funext b e
      rw [hv.word]
    have hm (k : List Nat) : (swaps pl 8 (lockSwap s) v k).me = s.me :=
      State.me_congr ((swaps_keeps State.harts (fun _ _ _ => rfl) _ _).trans hv.harts)
        ((swaps_keeps State.cur (fun _ _ _ => rfl) _ _).trans hv.cur)
    rw [hw, hm]
    rfl
  · intro t b e he hta htk
    dsimp only
    rw [h e (hkl e he)]
    dsimp only
    have ht : t.ahead = [] := hta.trans (hv.ahead.trans ha)
    have hacc := atomicAccess_ram (pl := pl) (n := 8) (f := lockSwap s) ht e (cl e)
    unfold lockSwap at hacc
    rw [hacc]
    have hkeel : (swapAt pl 8 (lockSwap s) t e).keel = s.keel :=
      (swapAt_keeps State.keel (fun _ _ _ => rfl) t e).trans (htk.trans hv.keel)
    have hsus : ownerSuspended (swapAt pl 8 (lockSwap s) t e) (t.word (pl e) 8) = ownerSuspended s (t.word (pl e) 8) := by
      rw [ownerSuspended, hkeel]
      rfl
    rw [lockGather, ← hsus]
    rfl

theorem lockGather_foldl (s : State) (w : Nat → Nat) (k : List Nat) (a : List (Nat × Bool × Bool)) :
    k.foldl (fun b e => lockGather s b e (w e)) a
      = a ++ k.map fun e => (e, !bitOf (w e) 63 || lockMine s (w e),
          !(!bitOf (w e) 63 || lockMine s (w e)) && ownerSuspended s (w e)) := by
  induction k generalizing a with
  | nil => exact (List.append_nil a).symm
  | cons e k ih =>
    rw [List.foldl_cons, ih, lockGather, List.append_assoc]
    rfl

theorem find?_map_key {β : Type} (g : Nat → β) (k : List Nat) {e : Nat} (he : e ∈ k) :
    (k.map fun e => (e, g e)).find? (fun d => decide (d.1 = e)) = some (e, g e) := by
  induction k with
  | nil => exact nomatch he
  | cons d k ih =>
    rw [List.map_cons, List.find?_cons]
    by_cases h : d = e
    · rw [h, decide_eq_true rfl]
    · rw [decide_eq_false h]
      exact ih (by simpa [Ne.symm h] using he)

/-- The two mask registers after the attempts on the words of the elements `l`. -/
theorem lockLeaves_maskBit (o : VMOps) (x : Hart) {l k : List Nat} (hkl : ∀ e ∈ l, e ∈ k) (g : Nat → Bool × Bool) {e : Nat}
    (he : e ∈ l) (hs7 : o.sub.toNat % 8 = o.sub.toNat) (hd : o.sub.toNat ≠ o.x.toNat) :
    (o.x ≠ 0 → maskBit (lockLeaves o x l (k.map fun e => (e, g e))) o.x.toNat e = (g e).1)
    ∧ (o.sub ≠ 0 → maskBit (lockLeaves o x l (k.map fun e => (e, g e))) o.sub.toNat e = (g e).2) := by
  have hf := find?_map_key g k (hkl e he)
  unfold lockLeaves
  dsimp only
  rw [hs7]
  constructor
  · intro h0
    rw [maskBit_setMask, if_neg fun h => hd h.1.symm, maskBit_setMask,
      if_pos ⟨rfl, fun h => h0 (BitVec.eq_of_toNat_eq h), he⟩, hf]
  · intro h0
    rw [maskBit_setMask, if_pos ⟨rfl, fun h => h0 (BitVec.eq_of_toNat_eq h), he⟩, hf]

theorem locksLater_now {s : State} (hl : s.me.lag = false) (hq : storeQueueHeld s s.cur = false) (e : Ending)
    (chk : Nat → Except Nat Resolved) (f : Nat → Place → Pending) (l : List Nat) : locksLater s e chk f l = none := by
  have h : vectorLags s = false := by rw [vectorLags, lagging, hl, hq]; rfl
  rw [locksLater, h]
  rfl

theorem foldl_swapAt {pl : Nat → Nat} {n : Nat} {f : Nat → Nat → Option Nat} (s : State) (F : State → Nat → State) (l : List Nat)
    (hF : ∀ t, ∀ e ∈ l, t.ahead = s.ahead → F t e = swapAt pl n f t e) : l.foldl F s = swaps pl n f s l := by
  induction l using List.reverseRecOn with
  | nil => rfl
  | append_singleton l d ih =>
    rw [List.foldl_append, ih fun t e he => hF t e (by simp [he]), swaps_append]
    exact hF _ d (by simp) (swaps_keeps State.ahead (fun _ _ _ => rfl) s l)

theorem exec_vlock {s : State} {o : VMOps} (hr : vmReady s o [o.z]) (hw : ewBits s.me = 64) :
    exec (.vlock o) s = vlockNow o (begun s o.wait) := by
  obtain ⟨hlag, -, hvq, hsq, -⟩ := begun_atTurn hr.1.2.1 o.wait
  simp only [exec, execVlock]
  rw [vmEnter_ready hr (decide_eq_true hw)]
  rw [locksLater_now hlag hsq]
  exact caughtUp_now hsq hvq _ _

theorem vunlock_ram {s : State} {o : VMOps} (hr : vmReady s o [o.z]) (hw : ewBits s.me = 64) {pl : Nat → Nat}
    {cl : Nat → PageClass} {l k : List Nat} (hl : active s.me o.mask.toNat = l)
    (hk : lockOrder (fun t => elem (s.me.vreg o.z.toNat) 8 t) l = k)
    (h : ∀ e ∈ l, check s (s.agent s.cur) .atomic (elem (s.me.vreg o.z.toNat) 8 e) 8 = .ok ⟨.ram (pl e), cl e⟩)
    (hkl : ∀ e ∈ k, e ∈ l) :
    ∃ v : State, OnlyCaches (begun s o.wait) v ∧ exec (.vunlock o) s = .next (finishWith
      (swaps pl 8 (unlockSwap s) v k) fun x => { x with vstart := 0 }) := by
  subst hl hk
  have hx := begun_me s o.wait
  have hq := begun_atTurn hr.1.2.1 o.wait
  let v := touchAll (begun s o.wait) .atomic (fun t => elem (s.me.vreg o.z.toNat) 8 t) (active s.me o.mask.toNat)
  have hv : OnlyCaches (begun s o.wait) v := touchAll_onlyCaches (begun s o.wait) .atomic _ _
  refine ⟨v, hv, ?_⟩
  obtain ⟨hlag, -, hvq, hsq, ha⟩ := hq
  simp only [exec, execVunlock]
  rw [vmEnter_ready hr (decide_eq_true hw)]
  rw [locksLater_now hlag hsq]
  refine (caughtUp_now hsq hvq _ _).trans ?_
  rw [hx]
  rw [plan_complete _ fun e he => ⟨_, by rw [begun_agent, check_begun]; exact h e he⟩]
  refine congrArg (fun u => Host.Outcome.next (finishWith u fun x => { x with vstart := 0 })) ?_
  refine foldl_swapAt v _ _ fun t e he hta => ?_
  rw [begun_agent, check_begun]
  have hchk : check s (s.agent s.cur) .atomic (elem ((acquireTokens s.me o.wait).vreg o.z.toNat) 8 e) 8
    = .ok ⟨.ram (pl e), cl e⟩ := h e (hkl e he)
  rw [hchk]
  have ht : t.ahead = [] := hta.trans (hv.ahead.trans ha)
  have hacc := atomicAccess_ram (pl := pl) (n := 8) (f := unlockSwap s) ht e (cl e)
  exact congrArg Prod.snd hacc

theorem lockHeldBy_eq (s : State) (w : Nat) : lockHeldBy s.me.asid s.cur w = (bitOf w 63 && lockMine s w) := by
  rw [lockHeldBy, lockMine, Bool.and_assoc]

theorem ram_inj {a b : Nat} {c d : PageClass}
    (h : (.ok ⟨.ram a, c⟩ : Except Nat Resolved) = .ok ⟨.ram b, d⟩) : a = b :=
  Place.ram.inj (congrArg Resolved.place (Except.ok.inj h))

theorem endedAccess_maskBit (s : State) (k e : Nat) :
    maskBit (finishWith s fun x => { x with vstart := 0 }).me k e = maskBit s.me k e := by
  rw [(finishWith_completes _ _).maskBit]
  rfl

/-- What the attempt of an element finds: whether this hart holds the word, and whether a suspended owner does. -/
def lockFound (s : State) (w : Nat) : Bool × Bool :=
  (!bitOf w 63 || lockMine s w, !(!bitOf w 63 || lockMine s w) && ownerSuspended s w)

theorem lockMine_begun (s : State) (set : BitVec 8) (w : Nat) : lockMine (begun s set) w = lockMine s w := by
  rw [lockMine, begun_me]
  rfl

theorem lockFound_begun (s : State) (set : BitVec 8) (w : Nat) :
    (lockFound (begun s set) w).2 = (bitOf w 63 && !lockMine s w && ownerSuspended s w) := by
  have h : ownerSuspended (begun s set) w = ownerSuspended s w := by rfl
  rw [lockFound, lockMine_begun, h, Bool.not_or, Bool.not_not]

theorem lockSwap_begun (s : State) (set : BitVec 8) (e w : Nat) :
    (match lockSwap (begun s set) e w with | some v => v % 256 ^ 8 | none => w)
      = if bitOf w 63 then w else lockTaken s w % 2 ^ 64 := by
  have h : lockTaken (begun s set) w = lockTaken s w := by
    rw [lockTaken, begun_me]
    rfl
  rw [lockSwap, h]
  by_cases hb : bitOf w 63
  · rw [if_pos hb, if_pos hb]
  · rw [if_neg hb, if_neg hb]
    exact congrArg (lockTaken s w % ·) (by norm_num : 256 ^ 8 = 2 ^ 64)

theorem lockFreed_lt (w : Nat) : lockFreed w < 2 ^ 64 := by
  rw [lockFreed]
  omega

theorem unlockSwap_word (s : State) (e w : Nat) :
    (match unlockSwap s e w with | some v => v % 256 ^ 8 | none => w)
      = if bitOf w 63 && lockMine s w then lockFreed w else w := by
  rw [unlockSwap, lockHeldBy_eq]
  by_cases hb : bitOf w 63 && lockMine s w
  · rw [if_pos hb, if_pos hb]
    exact Nat.mod_eq_of_lt (lockFreed_lt w)
  · rw [if_neg hb, if_neg hb]

/-- The mask registers of a well-formed `vlock` are two. -/
theorem vlock_masks {o : VMOps} (h : (Instr.vlock o).wellFormed = true) :
    o.sub.toNat % 8 = o.sub.toNat ∧ o.sub.toNat ≠ o.x.toNat := by
  simp only [Instr.wellFormed, isMReg, Bool.and_eq_true, decide_eq_true_eq] at h
  obtain ⟨⟨⟨⟨-, hs⟩, hne⟩, -⟩, -⟩ := h
  exact ⟨Nat.mod_eq_of_lt hs, fun h => hne (BitVec.eq_of_toNat_eq h)⟩

/-- Elements of places that lie apart name distinct lock words. -/
theorem lockWords_distinct {chk : Nat → Except Nat Resolved} {addr pl : Nat → Nat} {cl : Nat → PageClass} {l : List Nat}
    (hchk : ∀ e ∈ l, chk (addr e) = .ok ⟨.ram (pl e), cl e⟩) (hap : apart l pl 8) :
    ∀ e ∈ l, ∀ f ∈ l, addr e = addr f → e = f := fun e he f hf h => by
  by_contra hne
  have hpl : pl e = pl f := ram_inj ((hchk e he).symm.trans ((congrArg chk h).trans (hchk f hf)))
  have := hap e he f hf hne
  omega

section
variable {addr pl : Nat → Nat} {l : List Nat} (hinj : ∀ e ∈ l, ∀ f ∈ l, addr e = addr f → e = f) (hap : apart l pl 8)
  (f : Nat → Nat → Option Nat) (v : State)
include hinj

theorem swaps_lockOrder_byte (a : Nat) (ha : ∀ e ∈ l, a < pl e ∨ pl e + 8 ≤ a) :
    (swaps pl 8 f v (lockOrder addr l)).byte a = v.byte a :=
  swaps_byte v _ a fun e he => ha e ((mem_lockOrder hinj e).mp he)

include hap

theorem apart_lockOrder : apart (lockOrder addr l) pl 8 := fun e he f hf =>
  hap e ((mem_lockOrder hinj e).mp he) f ((mem_lockOrder hinj f).mp hf)

theorem swaps_lockOrder_word {e : Nat} (he : e ∈ l) : (swaps pl 8 f v (lockOrder addr l)).word (pl e) 8
      = match f e (v.word (pl e) 8) with | some v => v % 256 ^ 8 | none => v.word (pl e) 8 :=
  swaps_word v lockOrder_nodup (apart_lockOrder hinj hap) ((mem_lockOrder hinj e).mpr he)

end

section
variable {s : State} {o : VMOps} {pl : Nat → Nat} {cl : Nat → PageClass} (hr : vmReady s o [o.z]) (hw : ewBits s.me = 64)
  (hchk : ∀ e ∈ active s.me o.mask.toNat,
    check s (s.agent s.cur) .atomic (elem (s.me.vreg o.z.toNat) 8 e) 8 = .ok ⟨.ram (pl e), cl e⟩)
  (hap : apart (active s.me o.mask.toNat) pl 8)
include hr hw hchk hap

theorem vlock_takes (hwf : (Instr.vlock o).wellFormed = true) : ∃ t, exec (.vlock o) s = .next t
    ∧ (∀ e ∈ active s.me o.mask.toNat, t.word (pl e) 8
        = if bitOf (s.word (pl e) 8) 63 then s.word (pl e) 8 else lockTaken s (s.word (pl e) 8) % 2 ^ 64)
    ∧ (∀ e ∈ active s.me o.mask.toNat, o.x ≠ 0 →
        maskBit t.me o.x.toNat e = (!bitOf (s.word (pl e) 8) 63 || lockMine s (s.word (pl e) 8)))
    ∧ (∀ e ∈ active s.me o.mask.toNat, o.sub ≠ 0 → maskBit t.me o.sub.toNat e
        = (bitOf (s.word (pl e) 8) 63 && !lockMine s (s.word (pl e) 8) && ownerSuspended s (s.word (pl e) 8)))
    ∧ (∀ a, (∀ e ∈ active s.me o.mask.toNat, a < pl e ∨ pl e + 8 ≤ a) → t.byte a = s.byte a) := by
  have hinj := lockWords_distinct (chk := fun a => check s (s.agent s.cur) .atomic a 8) hchk hap
  have hx := begun_me s o.wait
  have hahead : (begun s o.wait).ahead = [] := (begun_atTurn hr.1.2.1 o.wait).2.2.2.2
  obtain ⟨v, hv, hrun⟩ := vlockNow_ram (s := begun s o.wait) o hahead (pl := pl) (cl := cl)
    (l := active s.me o.mask.toNat) (k := lockOrder (fun t => elem (s.me.vreg o.z.toNat) 8 t) (active s.me o.mask.toNat))
    (by rw [hx]; rfl) (by rw [hx]; rfl) (fun e he => by rw [begun_agent, check_begun, hx]; exact hchk e he)
    (fun e => (mem_lockOrder hinj e).mp) lockOrder_nodup (apart_lockOrder hinj hap)
  rw [lockGather_foldl, List.nil_append, hx] at hrun
  obtain ⟨hs7, hne⟩ := vlock_masks hwf
  have hbits {e : Nat} (he : e ∈ active s.me o.mask.toNat) := lockLeaves_maskBit o (acquireTokens s.me o.wait)
    (fun e => (mem_lockOrder hinj e).mpr) (fun e => lockFound (begun s o.wait) ((begun s o.wait).word (pl e) 8)) he hs7 hne
  refine ⟨_, (exec_vlock hr hw).trans hrun, fun e he => ?_, fun e he h0 => ?_, fun e he h0 => ?_, fun a ha => ?_⟩
  · refine (swaps_lockOrder_word hinj hap (lockSwap (begun s o.wait)) v he).trans ?_
    rw [hv.word]
    exact lockSwap_begun s o.wait e (s.word (pl e) 8)
  · rw [endedAccess_maskBit, State.me_setMe]
    refine ((hbits he).1 h0).trans ?_
    rw [lockFound, lockMine_begun]
    rfl
  · rw [endedAccess_maskBit, State.me_setMe]
    refine ((hbits he).2 h0).trans ?_
    exact lockFound_begun s o.wait (s.word (pl e) 8)
  · rw [finishWith_byte]
    exact (swaps_lockOrder_byte hinj _ v a ha).trans (hv.byte a)

theorem vunlock_frees : ∃ t, exec (.vunlock o) s = .next t
    ∧ (∀ e ∈ active s.me o.mask.toNat, t.word (pl e) 8
        = if bitOf (s.word (pl e) 8) 63 && lockMine s (s.word (pl e) 8) then lockFreed (s.word (pl e) 8) else s.word (pl e) 8)
    ∧ (∀ a, (∀ e ∈ active s.me o.mask.toNat, a < pl e ∨ pl e + 8 ≤ a) → t.byte a = s.byte a) ∧ t.me.m = s.me.m := by
  have hinj := lockWords_distinct (chk := fun a => check s (s.agent s.cur) .atomic a 8) hchk hap
  obtain ⟨v, hv, hrun⟩ := vunlock_ram hr hw (pl := pl) (cl := cl) rfl rfl hchk fun e => (mem_lockOrder hinj e).mp
  refine ⟨_, hrun, fun e he => ?_, fun a ha => ?_, ?_⟩
  · refine (swaps_lockOrder_word hinj hap (unlockSwap s) v he).trans ?_
    rw [hv.word]
    exact unlockSwap_word s e (s.word (pl e) 8)
  · rw [finishWith_byte, swaps_lockOrder_byte hinj _ v a ha, hv.byte]
    rfl
  · rw [(finishWith_completes _ _).m]
    have hm : (swaps pl 8 (unlockSwap s) v (lockOrder (fun t => elem (s.me.vreg o.z.toNat) 8 t) (active s.me o.mask.toNat))).me
        = acquireTokens s.me o.wait :=
      (State.me_congr ((swaps_keeps State.harts (fun _ _ _ => rfl) _ _).trans hv.harts)
        ((swaps_keeps State.cur (fun _ _ _ => rfl) _ _).trans hv.cur)).trans (begun_me s o.wait)
    rw [hm]
    rfl

end

/-- Settles O37. -/
theorem vectorAtomics : Obligations.VectorAtomics :=
  ⟨vectorAmo, fun _ _ _ _ hr hw hchk hap => ⟨vlock_takes hr hw hchk hap, fun _ => vunlock_frees hr hw hchk hap⟩⟩

end Sys2Proof.Machine
end

section
/-! SUPPORT. Stashes (07 R193, R195). -/

namespace Sys2Proof.Machine

/-- A job of hart 8 that a store of its hart waits behind. -/
def storeBehind : Job :=
  { id := 0, hart := 8, asid := 0, token := 0, kind := .copy, pieces := [], moved := 0, total := 0, started := false, reads := [],
    writes := [], status := none, pbar := none, result := 0, packet := 0, desc := [], order := 0,
    behind := [[.store (.ram 0) [0]]] }

/-- A stash of one line, which is dirty. -/
def dirtyStash : Stash := ⟨0, 0, 128, false, [none], [(0, .dirty)]⟩

/-- A running hart whose core has that stash, on a device with that job. -/
def stashBehind : State :=
  { State.reset with harts := [(0, { run := .running })], cores := [(0, { stash := [dirtyStash] })], jobs := [storeBehind] }

/-- An operand that names offset 0. -/
def offsetZero : VMOps := { x := 0, y := 0, z := 0, sub := 0, ty := 0, wait := 0, mask := 0, imm := 0 }

/-- The stashes of core 0 in the state that a result gives. -/
def stashesLeft (r : Res) : List Stash := match r with | .next t => (t.core 0).stash | _ => []

/-- Refutes O38: stwb waits while a store of any hart waits behind a job (09 R218), and leaves the line dirty until then. -/
theorem not_stashesAndTetherLoads : ¬ Obligations.StashesAndTetherLoads := by
  rintro ⟨h, -⟩
  obtain ⟨-, hnamed, -⟩ := h stashBehind offsetZero ⟨rfl, ⟨rfl, rfl, rfl, rfl, rfl⟩, rfl, rfl, rfl⟩
    (by unfold quiet; decide +kernel) (fun k _ h => by simp [offsetZero] at h)
  obtain ⟨⟨t, ht, -, hst⟩, -⟩ := hnamed dirtyStash (by decide +kernel)
  have hleft : stashesLeft (exec (.stwb offsetZero) stashBehind) = [dirtyStash] := by decide +kernel
  rw [ht] at hleft
  exact absurd (hst.symm.trans hleft) (by decide +kernel)

end Sys2Proof.Machine
end

section
/-! SUPPORT. Slots and banks (08 R199 to R204). -/

namespace Sys2Proof.Machine

/-- `twoWindowsVector`, the window of key 0 long enough for a row of 128 bytes, and slot 0 the hart's. -/
def slotWindows : State :=
  { twoWindowsVector with
    windows := [(1, { scl := 0x40000000001, raw := 0x3000, ngran := 1, format := 1 }),
      (0, { scl := 0x40000000000, raw := 0x4000, ngran := 128, format := 1 })]
    cores := [(0, { slotOwner := [(0, some 0)] })] }

/-- Row 0 of slot 0 from address 0. -/
def rowAtZero : VMOps := { x := 0, y := 0, z := 0, sub := 0, ty := 0, wait := 0, mask := 0, imm := 0 }

theorem slotWindows_ready : vmReady slotWindows rowAtZero [] := by
  refine ⟨⟨rfl, ⟨rfl, rfl, rfl, rfl, rfl⟩, rfl, rfl, rfl⟩, nofun, by simp, ?_, ?_⟩
  · intro k _ h
    simp [rowAtZero] at h
  · exact ⟨fun h => (nomatch h), fun h => (nomatch h)⟩

/-- Byte `k` of slot 0 of core 0 in the state that a result gives. -/
def slotLeft (r : Res) (k : Nat) : Byte := match r with | .next t => Tab.get 0 (Tab.get [] (t.core 0).slots 0) k | _ => 0

/-- The place of address 0 for a row there, as its load finds it. -/
def rowPlace : { r : Resolved // check slotWindows (slotWindows.agent slotWindows.cur) .load
    (vectorBase slotWindows.me rowAtZero + BitVec.ofNat 64 0 * slotWindows.me.readS rowAtZero.z).toNat
    (slotShape rowAtZero.ty).2 = .ok r } :=
  ⟨scalePlace 0, by decide +kernel⟩

/-- Refutes O39: noting the bad granule lists the window of key 0 first, so that byte 3 of the row at address 0 is read through
that window, and not through the one that it stood in. -/
theorem not_matrixStorage : ¬ Obligations.MatrixStorage := by
  rintro ⟨-, h⟩
  have hrows : activeRows slotWindows.me rowAtZero.mask.toNat = [0] := by decide +kernel
  have hchk : check slotWindows (slotWindows.agent slotWindows.cur) .load
      (vectorBase slotWindows.me rowAtZero + BitVec.ofNat 64 0 * slotWindows.me.readS rowAtZero.z).toNat
      (slotShape rowAtZero.ty).2 = .ok (scalePlace 0) := rowPlace.2
  obtain ⟨t, ht, hrow, -⟩ := h slotWindows rowAtZero scalePlace (by decide) slotWindows_ready (by decide +kernel) (by decide +kernel)
    (by
      rw [hrows]
      rintro e he
      rw [List.mem_singleton.mp he]
      exact hchk)
  have hb : slotLeft (exec (.oldv rowAtZero) slotWindows) 3 = 0 := by decide +kernel
  rw [ht] at hb
  have h3 := hrow 0 (hrows ▸ List.mem_singleton_self 0) 3 (by decide)
  exact absurd (h3.symm.trans hb) (by decide +kernel)

/-! An image read through windows (08 R211). -/

/-- The window of the larger key, which is listed first. -/
def laterWindow : Window := { scl := 0x40000000001, raw := 0x3000, ngran := 1, format := 1 }

/-- The window of key 0, whose second granule is bad. -/
def firstWindow : Window := { scl := 0x40000000000, raw := 0x4000, ngran := 32, format := 1 }

/-- The hart of `twoWindows`, its scratch window at address 128, behind the scale bytes, and bank 0 its own. -/
def imageWindows : State :=
  { twoWindowsVector with
    windows := [(1, laterWindow), (0, firstWindow)]
    contexts := [(1, { valid := true, root := 1, swbase := 128, cwbase := 0x2000000 })]
    cores := [(0, { bankOwner := [(0, some 0)] })]
    mem := [(0x1000, 0x01), (0x1001, 0x08), (0x2000, 0x53), (0x2005, 0x01), (0x3034, 1), (0x4034, 5), (0x406B, 3)] }

/-- The windows once the bad granule has been noted. -/
def notedWindows : SMap Window := [(0, { firstWindow with badSeen := true }), (1, laterWindow), (0, firstWindow)]

/-- The windows have been listed anew, and memory stands. -/
def Noted (u : State) : Prop := u.windows = notedWindows ∧ u.mem = imageWindows.mem

theorem granule_congr {s u : State} (h : u.mem = s.mem) (w : Window) (g : Nat) : granule u w g = granule s w g := by
  rw [granule, h]
  rfl

/-- Noting a granule of a listed window once more changes nothing. -/
theorem notedWindows_again {u : State} (hu : Noted u) {e : Nat × Window} (he : e ∈ notedWindows) (l : List Nat)
    (h : (l.any fun g => decide (g < e.2.ngran.toNat) && badGranule (granule u e.2 g)) = true) :
    Tab.set {} e.1 { e.2 with badSeen := true } notedWindows = notedWindows := by
  simp only [notedWindows, List.mem_cons, List.not_mem_nil, or_false] at he
  obtain rfl | rfl | rfl := he
  · rfl
  · obtain ⟨g, -, hg⟩ := List.any_eq_true.mp h
    rw [Bool.and_eq_true, decide_eq_true_eq, granule_congr hu.2] at hg
    obtain ⟨h1, hbad⟩ := hg
    obtain rfl : g = 0 := by
      have h1 : g < 1 := h1
      omega
    exact nomatch hbad.symm.trans (show _ = false from rfl)
  · rfl

theorem noteFill_noted {u : State} (hu : Noted u) (pa : Nat) : Noted (noteFill u pa) := by
  refine ⟨?_, (noteFill_onlyCaches u pa).mem.trans hu.2⟩
  have hw := hu.1
  unfold noteFill
  split
  · next i w hfind =>
    have he : (i, w) ∈ notedWindows := hw ▸ List.mem_of_find?_eq_some hfind
    dsimp only
    split
    · next h => 
      rw [hw]
      exact notedWindows_again hu he _ h
    · exact hw
  · split
    · next i w hfind =>
      have he : (i, w) ∈ notedWindows := hw ▸ List.mem_of_find?_eq_some hfind
      dsimp only
      split
      · next h => 
        rw [hw]
        refine notedWindows_again hu he ((List.range 32).map fun k => 32 * ((pa - w.scl.toNat) / 128) + k) ?_
        rw [List.any_map]
        exact h
      · exact hw
    · exact hw

theorem recallSpan_windows (s : State) (c : Option Nat) (p : Place) (n : Nat) : (recallSpan s c p n).windows = s.windows := by
  have hline (t : State) (l : Nat) : (recallLine t c l).windows = t.windows := by
    unfold recallLine
    dsimp only
    split <;> rfl
  have hlines (l n : Nat) : (if noStash s then s
      else (List.range ((l + n - 1) / 128 + 1 - l / 128)).foldl (fun s k => recallLine s c (l + 128 * k)) s).windows = s.windows := by
    split
    · rfl
    · exact foldl_keeps (P := fun t : State => t.windows = s.windows) (fun t k h => (hline t _).trans h) rfl _
  cases p with
  | ram l => exact hlines l n
  | derived a => exact hlines (rawSpan s a n).1 (rawSpan s a n).2
  | _ => rfl

theorem touchStash_windows (s : State) (a : Agent) (k : Access) (c o : Nat) : (touchStash s a k c o).windows = s.windows := by
  unfold touchStash
  split
  · rfl
  · split <;> rfl

theorem noteTlb_windows (s : State) (a : Agent) (k : Access) (va : Nat) : (noteTlb s a k va).windows = s.windows := by
  unfold noteTlb
  split
  · rfl
  · split <;> rfl

theorem touch_windows (s : State) (a : Agent) (k : Access) (va : Nat) : (touch s a k va).windows = s.windows := by
  unfold touch
  split
  · have h := touchStash_windows s a k
    dsimp only
    split
    · exact h _ _
    · split
      · exact (recallSpan_windows _ _ _ _).trans (h _ _)
      · exact h _ _
  · rfl
  · have h := noteTlb_windows s a k va
    dsimp only
    split
    · exact h
    · split
      · split
        · exact (recallSpan_windows _ _ _ _).trans h
        · exact h
      · exact h

theorem tagAt_windows (s : State) (x : Hart) (p : Place) : (tagAt s x p).windows = s.windows := by
  have h (l : Nat) : (tagChain s x l).windows = s.windows := by
    unfold tagChain
    split
    · rfl
    · split <;> rfl
  cases p with
  | ram l => exact h l
  | derived a => exact h a
  | _ => rfl

theorem noteRead_noted {u : State} (hu : Noted u) (r : Except Nat Resolved) : Noted (noteRead u r) := by
  unfold noteRead
  split
  · exact noteFill_noted hu _
  · exact hu

/-- Once the windows have been listed anew, no access lists them otherwise. -/
theorem touchAll_noted {u : State} (hu : Noted u) (addr : Nat → Nat) (l : List Nat) : Noted (touchAll u .load addr l) := by
  refine foldl_keeps (P := Noted) (fun t e ht => ?_) hu l
  dsimp only
  split
  · next r _ =>
    have hn := noteRead_noted ht (.ok r)
    rw [if_neg (by decide)]
    exact ⟨(tagAt_windows _ _ _).trans ((touch_windows _ _ _ _).trans hn.1),
      (tagAt_onlyCaches _ _ _).mem.trans ((touch_onlyCaches _ _ _ _).mem.trans hn.2)⟩
  · exact ht

theorem touchAll_cons (s : State) (k : Access) (addr : Nat → Nat) (e : Nat) (l : List Nat) :
    touchAll s k addr (e :: l) = touchAll (touchAll s k addr [e]) k addr l := by rfl

/-- The image's first sector lists the windows anew. -/
theorem touchImage_noted : Noted (touchImage (begun imageWindows 0) .load 0) := by
  have h0 : (touchAll (begun imageWindows 0) .load (imageAddr 0) [0]).windows = notedWindows := by decide +kernel
  have hm : (touchAll (begun imageWindows 0) .load (imageAddr 0) [0]).mem = imageWindows.mem :=
    (touchAll_onlyCaches (begun imageWindows 0) .load (imageAddr 0) [0]).mem
  rw [touchImage, show List.range 768 = 0 :: (List.range 767).map Nat.succ from List.range_succ_eq_map, touchAll_cons]
  exact touchAll_noted ⟨h0, hm⟩ _ _


/-- The reads of an access, with nothing performed before its turn. -/
theorem readElements_plain {s : State} (ha : s.ahead = []) (n : Nat) {chk : Nat → Except Nat Resolved} {pl : Nat → Resolved}
    {l : List Nat} (h : ∀ e ∈ l, chk e = .ok (pl e)) :
    readElements s n chk l = (l.map fun e => (e, readPlace s (pl e).place n), s) := by
  have hread (r : Resolved) : readAccess s true r n = (readPlace s r.place n, s) := by
    have he : early s s.cur true = [] := by rw [early, ha]; rfl
    rw [readAccess, he, freshAccess_plain s true ha]
    rfl
  induction l using List.reverseRecOn with
  | nil => rfl
  | append_singleton l e ih =>
    have ih := ih fun d hd => h d (by simp [hd])
    unfold readElements at ih ⊢
    rw [List.foldl_append, ih, List.foldl_cons, List.foldl_nil, h e (by simp), List.map_append]
    dsimp only
    rw [hread]
    rfl

/-- The first element of an image, where it is not 0. -/
theorem bankOfImage_first (l : List Byte) (h : (sat48 (signed 48 (field l 0 6))).1 ≠ 0) :
    Tab.get 0 (bankOfImage l).1 0 = BitVec.ofInt 48 (sat48 (signed 48 (field l 0 6))).1 := by
  have hr : List.range 4096 = 0 :: (List.range 4095).map Nat.succ := List.range_succ_eq_map
  rw [bankOfImage, hr, List.foldr_cons]
  dsimp only
  rw [if_neg h]
  rfl

theorem field_append (b l : List Byte) (h : 6 ≤ b.length) : field (b ++ l) 0 6 = leNat (b.take 6) := by
  have hz : 6 - ((b ++ l).length - 0) = 0 := by simp only [List.length_append]; omega
  rw [field, slice, hz, List.drop_zero, List.take_append_of_le_length h, List.replicate_zero, List.append_nil]

/-- Bank 0 of core 0 in the state that a result gives. -/
def bankLeft (r : Res) : BitVec 48 := match r with | .next t => Tab.get 0 (Tab.get [] (t.core 0).banks 0) 0 | _ => 0

/-- A form of the tile array that may begin does (08 R198). -/
theorem matrixEnter_ready {s : State} (hs : free s) {wait : BitVec 8} (ht : tokensReady s.me wait) {cfg ok : Bool} {regs : List Reg}
    (hr : cfg = true → vregsOk s.me regs = true) (hok : ok = true) {slots banks : List Nat}
    (hsl : ∀ i ∈ slots, ownsSlot s s.cur i = true) (hb : ∀ b ∈ banks, ownsBank s s.cur b = true) (k : State → Res) :
    matrixEnter s cfg regs ok slots banks wait k = k (begun s wait) := by
  have hc : (cfg && !vregsOk s.me regs) = false := by
    cases cfg with
    | false => rfl
    | true => simp [hr rfl]
  have hslots : (slots.find? fun i => !ownsSlot s s.cur i) = none :=
    List.find?_eq_none.mpr fun i hi => by simp [hsl i hi]
  have hbanks : (banks.find? fun b => !ownsBank s s.cur b) = none :=
    List.find?_eq_none.mpr fun b hi => by simp [hb b hi]
  rw [matrixEnter, hc, unchained_free s _ hs, hok, hslots, hbanks]
  exact withTokens_ready hs ht k

theorem OnlyCaches.storeQueueHeld {s t : State} (h : OnlyCaches s t) :
    Machine.storeQueueHeld t t.cur = Machine.storeQueueHeld s s.cur := by
  unfold Machine.storeQueueHeld jobBehind
  rw [h.jobs, h.cur]

/-- aload where nothing is left to the queues. -/
theorem exec_aload {s : State} {o : VMOps} (hs : free s) (ht : tokensReady s.me o.wait) (hb : ownsBank s s.cur (o.sub.toNat % 2) = true)
    {l : List Place} (hl : imagePlaces (begun s o.wait) ((begun s o.wait).agent (begun s o.wait).cur) .load ((begun s o.wait).me.readS o.y) = .ok l) :
    let u := touchImage (begun s o.wait) .load ((begun s o.wait).me.readS o.y)
    let r := bankOfImage ((List.range l.length).flatMap fun k => readPlace u (l.getD k (.ram 0)) 32)
    exec (.aload o) s = .next (finishWith (setBank u u.cur (o.sub.toNat % 2) r.1 r.2)
      fun x => { x.cleanBank (o.sub.toNat % 2) (List.range 64) with vstart := 0 }) := by
  intro u r
  have hc : OnlyCaches (begun s o.wait) u := touchAll_onlyCaches _ _ _ _
  obtain ⟨hlag, -, hvq, hsq, ha⟩ := begun_atTurn hs.2.1 o.wait
  have hlags : vectorLags (begun s o.wait) = false := by rw [vectorLags, lagging, hlag, hsq]; rfl
  have hread := readElements_plain (s := u) (hc.ahead.trans ha) 32 (chk := fun k => .ok ⟨l.getD k (.ram 0), .pma⟩)
    (pl := fun k => ⟨l.getD k (.ram 0), .pma⟩) (l := List.range l.length) fun _ _ => rfl
  simp only [exec, execAload]
  rw [matrixEnter_ready hs ht (cfg := false) (by simp) rfl (by simp) (by simpa using hb)]
  rw [hl, hlags]
  have hcu := caughtUp_now (s := u) (hc.storeQueueHeld.trans hsq) (by rw [hc.me]; exact hvq) false
  simp only [Bool.false_and, Bool.false_eq_true, if_false]
  rw [hcu, hread]
  dsimp only
  simp only [List.flatMap_map]
  rfl

/-- Where the first sector stands. -/
def firstPlace : Place := .derived 0x40000000000

/-- Whether the places of the image have been found, the first of them in the window. -/
def firstIs (r : Except (Nat × Nat) (List Place)) : Bool :=
  match r with
  | .ok (p :: _) => decide (p = firstPlace)
  | _ => false

theorem firstIs_iff {r : Except (Nat × Nat) (List Place)} (h : firstIs r = true) : ∃ l, r = .ok (firstPlace :: l) := by
  match r, h with
  | .ok (p :: l), h => exact ⟨l, by rw [of_decide_eq_true h]⟩
  | .ok [], h => exact nomatch h
  | .error _, h => exact nomatch h

theorem imageWindows_free : free imageWindows := ⟨rfl, ⟨rfl, rfl, rfl, rfl, rfl⟩, rfl, rfl, rfl⟩

theorem derivedByte_congr {s u : State} (hw : u.windows = s.windows) (hm : u.mem = s.mem) (a : Nat) :
    derivedByte u a = derivedByte s a := by
  unfold derivedByte decodedWindow scaleWindow
  rw [hw]
  simp only [granule_congr hm]

/-- The bytes of the first sector in a state with the windows listed anew. -/
theorem readPlace_noted {u : State} (hu : Noted u) :
    readPlace u firstPlace 32 = readPlace { imageWindows with windows := notedWindows } firstPlace 32 := by
  refine List.map_congr_left fun k _ => ?_
  exact derivedByte_congr (s := { imageWindows with windows := notedWindows }) hu.1 hu.2 _

theorem bank_of_first (b l : List Byte) (h : 6 ≤ b.length) (h0 : (sat48 (signed 48 (leNat (b.take 6)))).1 ≠ 0) :
    Tab.get 0 (bankOfImage (b ++ l)).1 0 = BitVec.ofInt 48 (sat48 (signed 48 (leNat (b.take 6)))).1 := by
  have hf := field_append b l h
  rw [bankOfImage_first _ (by rw [hf]; exact h0), hf]

theorem imagePlaces_begun (s : State) (set : BitVec 8) (k : Access) (sa : Word) :
    imagePlaces (begun s set) ((begun s set).agent (begun s set).cur) k sa = imagePlaces s (s.agent s.cur) k sa := by
  have h (va : Nat) : imageCheck (begun s set) (s.agent s.cur) k va = imageCheck s (s.agent s.cur) k va := by
    unfold imageCheck checkIn
    rw [show begun s set = withHarts s (begun s set).harts from rfl]
    simp only [resolveIn_withHarts]
    rfl
  rw [begun_agent]
  unfold imagePlaces
  simp only [h]

/-- The bank that a form leaves which writes one. -/
theorem setBank_bank (s : State) (h b : Nat) (m : SMap (BitVec 48)) (ovf : Bool) (f : Hart → Hart) :
    Tab.get [] ((finishWith (setBank s h b m ovf) f).core (coreOf h)).banks b = m := by
  have hc : (finishWith (setBank s h b m ovf) f).core (coreOf h) = (setBank s h b m ovf).core (coreOf h) := by rfl
  rw [hc, setBank, State.core_setCore_same]
  exact Tab.get_set_same _ _ _ _

/-- Refutes O40: reading the image's first sector notes a bad granule, which lists the windows anew, and aload reads the image's
bytes through the windows as they are then. -/
theorem not_matrixBanks : ¬ Obligations.MatrixBanks := by
  rintro ⟨-, h⟩
  have hpl : ∃ l, imagePlaces imageWindows (imageWindows.agent imageWindows.cur) .load 0 = .ok (firstPlace :: l) :=
    firstIs_iff (by decide +kernel)
  obtain ⟨l, hl⟩ := hpl
  have hready : tokensReady imageWindows.me rowAtZero.wait := fun k _ h => by simp [rowAtZero] at h
  obtain ⟨-, -, hload⟩ := h imageWindows rowAtZero 0 (firstPlace :: l) (by decide +kernel)
  obtain ⟨t, ht, hbank, -⟩ := hload imageWindows_free hready hl
  have hrun := exec_aload imageWindows_free hready (by decide +kernel) ((imagePlaces_begun _ _ _ _).trans hl)
  have hnoted : Noted (touchImage (begun imageWindows rowAtZero.wait) .load ((begun imageWindows rowAtZero.wait).me.readS rowAtZero.y)) :=
    touchImage_noted
  have hcur : (touchImage (begun imageWindows rowAtZero.wait) .load ((begun imageWindows rowAtZero.wait).me.readS rowAtZero.y)).cur = 0 :=
    (touchAll_onlyCaches _ _ _ _).cur
  generalize touchImage (begun imageWindows rowAtZero.wait) .load ((begun imageWindows rowAtZero.wait).me.readS rowAtZero.y) = u at *
  dsimp only at hrun hbank
  rw [ht, hcur] at hrun
  rw [Host.Outcome.next.inj hrun] at hbank
  have hleft := (setBank_bank u 0 0 _ _ _).symm.trans hbank
  have h0 := congrArg (Tab.get 0 · 0) hleft
  rw [List.flatMap_cons, bank_of_first _ _ (by rw [readPlace_length]; decide) (by decide +kernel), List.length_cons,
    List.range_succ_eq_map, List.flatMap_cons, List.getD_cons_zero, readPlace_noted hnoted,
    bank_of_first _ _ (by rw [readPlace_length]; decide) (by decide +kernel)] at h0
  exact absurd h0 (by decide +kernel)

end Sys2Proof.Machine
end

section
/-! SUPPORT. Copies (09 R218 to R227). -/

namespace Sys2Proof.Machine

/-- An ALLREDUCE of one word by two devices, whose group table stands at address 0 (09 R225). -/
def reduceDescriptor : List Byte :=
  [2, 0, 2, 0] ++ leBytes 4 0 ++ leBytes 8 0x100000 ++ leBytes 8 0x100040 ++ leBytes 8 4 ++ leBytes 8 0 ++ leBytes 4 2 ++ leBytes 4 0
    ++ leBytes 8 0x100100 ++ List.replicate 8 0

/-- `twoWindows` with that descriptor in the scratchpad, and the first granule of the window of key 0 not 0. -/
def tableWindows : State :=
  { twoWindows with
    harts := [(0, { asid := 1, run := .running, s := [(8, 0x100200)] })]
    mem := putMem (twoWindows.mem ++ [(0x4034, 5)]) (scratchLoc 0 0x200) reduceDescriptor }

/-- The descriptor in s8, token 0. -/
def jobAtS8 : VMOps := { x := 0, y := 8, z := 0, sub := 0, ty := 0, wait := 0, mask := 0, imm := 0 }

/-- The status that the last job of a result's state is refused with. -/
def resultLeft (r : Res) : Option Nat := match r with | .next t => t.jobs.getLast?.map (·.result) | _ => none

theorem tableWindows_free : free tableWindows := ⟨rfl, ⟨rfl, rfl, rfl, rfl, rfl⟩, rfl, rfl, rfl⟩

/-- Refutes O41: reading the group table notes a bad granule, which lists the windows anew, and the rank's entry, compared with
DEVID, is read through the windows as they are then. -/
theorem not_copyIssue : ¬ Obligations.CopyIssue := by
  intro h
  obtain ⟨hidle, -⟩ := h tableWindows jobAtS8 [(.ram (scratchLoc 0 0), 4)] [(.ram (scratchLoc 0 0x40), 4)] [] tableWindows_free
    (fun k _ h => by simp [jobAtS8] at h)
  obtain ⟨-, -, -, hjob⟩ := hidle (by
    have ht : tableWindows.me.token (jobAtS8.sub.toNat % 8) = .idle := by decide +kernel
    intro id hp
    exact nomatch ht.symm.trans hp)
  obtain ⟨t, ht, -, hlast⟩ := hjob (scratchLoc 0 0x200) .pma .pma (.ram (scratchLoc 0 0x100)) [(.derived 0x40000000000, 8)] none
    (by decide +kernel) (by decide +kernel) (by decide +kernel) (by decide +kernel) (by decide +kernel) (by decide +kernel)
    (by decide +kernel)
  have hleft : resultLeft (exec (.vcopyJob jobAtS8) tableWindows) = some 0x60000 := by decide +kernel
  rw [ht] at hleft
  have hres : resultLeft (.next t) = some 0x20008 := by
    have hl := congrArg (Option.map fun p => p.2.2.2.2.1) hlast
    rw [Option.map_map] at hl
    exact hl.trans (by decide +kernel)
  exact absurd (hres.symm.trans hleft) (by decide)

end Sys2Proof.Machine
end

section
/-! SUPPORT. The progress of copy jobs (09 R221, R222, R227). -/

namespace Sys2Proof.Machine

/-! A job among the jobs. -/

theorem jobAt_setJob {s : State} {j k : Job} {id : Nat} (h : jobAt s id = some k) (hj : j.id = id) :
    jobAt (setJob s j) id = some j := by
  have hk : k.id = id := of_decide_eq_true (List.find?_some (p := fun k : Job => decide (k.id = id)) h)
  unfold jobAt setJob at *
  dsimp only
  generalize s.jobs = l at *
  induction l with
  | nil => exact nomatch h
  | cons e l ih =>
    rw [List.map_cons, List.find?_cons]
    by_cases he : e.id = id
    · rw [if_pos (he.trans hj.symm), hj, decide_eq_true rfl]
    · rw [if_neg fun hc => he (hc.trans hj), decide_eq_false he]
      rw [List.find?_cons, decide_eq_false he] at h
      exact ih h

theorem jobAt_ended (l : List Job) (id : Nat) : (l.filter fun e => e.id != id).find? (fun j => decide (j.id = id)) = none := by
  refine List.find?_eq_none.mpr fun e he => ?_
  have h := (List.mem_filter.mp he).2
  simpa using h

/-! What a job's accesses leave. -/

theorem tagJob_onlyCaches (s : State) (id : Nat) (p : Place) (n : Nat) : OnlyCaches s (tagJob s id p n) := by
  unfold tagJob
  dsimp only
  split
  · exact .refl s
  · split
    · exact .refl s
    · split
      · split
        · exact .refl s
        · exact setTags_onlyCaches s _
      · exact setTags_onlyCaches s _
      · exact .refl s

theorem noteSpan_onlyCaches (s : State) (p : Place) (n : Nat) : OnlyCaches s (noteSpan s p n) := by
  unfold noteSpan
  split
  · split
    · exact .refl s
    · exact foldl_onlyCaches noteFill_onlyCaches s _
  · exact .refl s

theorem jobTouch_onlyCaches (s : State) (tag : Nat) (c : Option Nat) (p : Place) (n : Nat) : OnlyCaches s (jobTouch s tag c p n) := by
  unfold jobTouch
  split
  · exact .refl s
  · exact ((noteSpan_onlyCaches s p n).trans (tagJob_onlyCaches _ _ _ _)).trans (recallSpan_onlyCaches _ _ _ _)

/-- Bytes that are not poisoned, as a job carries them. -/
def carriedOf (b : List Byte) : List Carried := b.map fun v => (v, .sound)

theorem carriedOf_sound (b : List Byte) : ((carriedOf b).all fun e => e.2 == .sound) = true := by
  simp [carriedOf]

theorem carriedOf_bytes (b : List Byte) : (carriedOf b).map (·.1) = b := by
  rw [carriedOf, List.map_map]
  exact List.map_id b

/-- Sound bytes that land in memory, of a job without a barrier, are written there. -/
theorem landBytes_ram {s : State} {j : Job} (hp : j.pbar = none) (dst : Nat) (b : List Byte) :
    ∃ u : State, OnlyCaches s u ∧ landBytes s j (.ram dst) (carriedOf b) = writeEach u dst b := by
  refine ⟨jobTouch s j.tag j.core (.ram dst) (carriedOf b).length, jobTouch_onlyCaches _ _ _ _ _, ?_⟩
  unfold landBytes poisonBytes
  rw [hp, carriedOf_sound, carriedOf_bytes]
  rfl

/-- The bytes that a job reads in memory that holds no poison. -/
theorem pieceBytes_ram {s : State} {j : Job} (he : j.early = []) (ht : s.taint = []) (p : Piece) {src : Nat}
    (hp : p.src = some (.ram src)) (i lo n : Nat) :
    pieceBytes s j p i lo n = carriedOf ((List.range n).map fun k => s.byte (src + (lo + k))) := by
  unfold pieceBytes jobView carriedOf
  rw [he, hp, List.map_map]
  refine List.map_congr_left fun k _ => ?_
  have htaint : placeTaint s (.ram src) (lo + k) = .sound := by
    rw [placeTaint, ht]
    rfl
  exact Prod.ext rfl htaint

/-- How many bytes of one run in memory that is ready may move. -/
theorem movable_ready {s : State} {c : Option Nat} {src dst n len : Nat} (hn : n ≤ len)
    (h : ∀ m, m ≤ len → placeReady s c (.ram src) m = true ∧ placeReady s c (.ram dst) m = true) :
    movable s c true [⟨some (.ram src), .ram dst, len⟩] 0 0 n = n := by
  rw [movable]
  by_cases h0 : n = 0
  · rw [if_pos h0, h0]
  · have hlen : ¬len ≤ 0 := by omega
    have hm : min n (len - 0) = n := by omega
    have hp (a : Nat) (hr : placeReady s c (.ram a) n = true) : readyPrefix s c (Place.add (.ram a) 0) n = n := by
      rw [readyPrefix, Place.add, Nat.add_zero, if_pos hr]
    rw [if_neg h0, if_neg hlen]
    dsimp only
    rw [hm, Nat.min_zero, Nat.add_zero, Nat.sub_zero, Nat.zero_add, hp src (h n hn).1, hp dst (h n hn).2, if_pos rfl, Nat.min_self,
      if_neg (Nat.lt_irrefl n), movable, Nat.sub_self, Nat.add_zero]

theorem writeEach_byte_out (s : State) (l : Nat) (b : List Byte) (a : Nat) (h : a < l ∨ l + b.length ≤ a) :
    (writeEach s l b).byte a = s.byte a := writeRam_byte_out s l b a h

theorem writeEach_byte_in (s : State) (l : Nat) (b : List Byte) (k : Nat) (h : k < b.length) :
    (writeEach s l b).byte (l + k) = b[k] := writeRam_byte_in s l b k h

theorem writeEach_taint {s : State} (h : s.taint = []) (l : Nat) (b : List Byte) : (writeEach s l b).taint = [] := by
  unfold writeEach writeRam
  dsimp only
  rw [h]
  rfl

theorem noteLanded_plain {s : State} (h : s.taint = []) (j : Job) (p : Place) (l : List Carried) : noteLanded s j p l = (s, j) := by
  unfold noteLanded
  split
  · rw [h]
    rfl
  · rfl

/-- A local copy of one run moves the bytes that its source holds. -/
theorem moveJob_run {s : State} {j : Job} {src dst n : Nat} (hj : jobAt s j.id = some j) (hp : j.pbar = none) (ha : j.ahead = [])
    (he : j.early = []) (ht : s.taint = []) (hk : j.kind = .copy) (hpc : j.pieces = [⟨some (.ram src), .ram dst, j.total⟩])
    (hm : j.moved = 0) (hn : n ≤ j.total)
    (hr : ∀ m, m ≤ j.total → placeReady s j.core (.ram src) m = true ∧ placeReady s j.core (.ram dst) m = true) :
    jobAt (moveJob s j n) j.id = some { j with moved := n } ∧ (moveJob s j n).harts = s.harts
      ∧ (moveJob s j n).ahead = s.ahead ∧ (∀ k, k < n → (moveJob s j n).byte (dst + k) = s.byte (src + k))
      ∧ ∀ a, a < dst ∨ dst + n ≤ a → (moveJob s j n).byte a = s.byte a := by
  have hmov : movable s j.core true [⟨some (.ram src), .ram dst, j.total⟩] 0 0 n = n := movable_ready hn hr
  have hmin : min n (j.total - 0) = n := by omega
  have hmv : moveJob s j n = movePieces j [⟨some (.ram src), .ram dst, j.total⟩] 0 n s := by
    rw [moveJob, hpc, hm, ha, List.length_nil, hmin, hmov]
  obtain ⟨jn, hjn⟩ : ∃ jn, jn = ({ j with moved := n } : Job) := ⟨_, rfl⟩
  rw [hmv, ← hjn, movePieces]
  by_cases h0 : n = 0
  · subst h0
    rw [if_pos rfl]
    refine ⟨hj.trans ?_, rfl, rfl, fun k hk => (nomatch hk), fun a _ => rfl⟩
    rw [hjn, ← hm]
  · have hlen : ¬j.total ≤ 0 := by omega
    have hland : landSize (Place.add (.ram dst) 0) n (j.total - 0) = n := by
      show min (j.total - 0) n = n
      omega
    rw [if_neg h0, if_neg hlen]
    dsimp only
    rw [hland, ha, List.length_nil, Nat.min_zero, Nat.sub_zero, List.take_nil, List.nil_append]
    have hc := jobTouch_onlyCaches s j.tag j.core (Place.add (.ram src) 0) n
    rw [pieceBytes_ram he (hc.taint.trans ht) _ rfl]
    generalize jobTouch s j.tag j.core (Place.add (.ram src) 0) n = v at *
    obtain ⟨u, hu, hb⟩ := landBytes_ram (s := v) hp dst ((List.range n).map fun k => v.byte (src + (0 + 0 + k)))
    have hd : Place.add (.ram dst) 0 = .ram dst := rfl
    have hz : j.moved + min n 0 = 0 := by rw [hm, Nat.min_zero]
    rw [hk, hd, hb]
    have htaint : (writeEach u dst ((List.range n).map fun k => v.byte (src + (0 + 0 + k)))).taint = [] :=
      writeEach_taint (hu.taint.trans (hc.taint.trans ht)) _ _
    rw [noteLanded_plain htaint, movePieces, hm, List.drop_nil]
    dsimp only
    rw [Nat.zero_add n]
    have hje : ({ j with moved := n, ahead := [] } : Job) = jn := by rw [hjn, ← ha]
    have hid : jn.id = j.id := by rw [hjn]
    rw [hje]
    have hbyte (a : Nat) : u.byte a = s.byte a := (hu.byte a).trans (hc.byte a)
    have hlen : ((List.range n).map fun k => v.byte (src + (0 + 0 + k))).length = n := by simp
    refine ⟨jobAt_setJob (k := j) ?_ hid, ?_, ?_, fun k hk => ?_, fun a hout => ?_⟩
    · show u.jobs.find? _ = some j
      rw [hu.jobs, hc.jobs]
      exact hj
    · exact hu.harts.trans hc.harts
    · exact hu.ahead.trans hc.ahead
    · refine (writeEach_byte_in u dst _ k (by rw [hlen]; exact hk)).trans ?_
      rw [List.getElem_map, List.getElem_range, hc.byte, Nat.add_zero, Nat.zero_add]
    · refine (writeEach_byte_out u dst _ a (by rw [hlen]; exact hout)).trans (hbyte a)

/-! Starting and ending. -/

theorem releaseBehind_plain {j : Job} (h : j.behind = []) (s : State) : releaseBehind s j = s := by
  unfold releaseBehind
  rw [h]
  rfl

theorem dropJobReads_frame (s : State) (asid : Nat) : dropJobReads s asid = { s with ahead := (dropJobReads s asid).ahead } := by
  unfold dropJobReads
  split <;> rfl

/-- The end of a job once its status word is written: its token is done and it is gone. -/
def jobGone (s : State) (j : Job) : State :=
  let s := s.setHart j.hart (tokenDone (s.hart j.hart) j.token j.id j.total)
  { s with
    jobs := s.jobs.filter fun e => e.id != j.id
    keel := { s.keel with saved := s.keel.saved.map (savedTokenDone j) } }

theorem jobGone_token {s : State} {j : Job} (h : (s.hart j.hart).token j.token = .pending j.id) :
    ((jobGone s j).hart j.hart).token j.token = .done j.total := by
  have hh : (jobGone s j).hart j.hart = (s.setHart j.hart (tokenDone (s.hart j.hart) j.token j.id j.total)).hart j.hart := by rfl
  rw [hh, State.hart_setHart_same, tokenDone, if_pos h]
  exact Tab.get_set_same Token.idle j.token (.done j.total) (s.hart j.hart).tokens

theorem jobAt_jobGone (s : State) (j : Job) : jobAt (jobGone s j) j.id = none := jobAt_ended s.jobs j.id

theorem endJob_none {s : State} {j : Job} (hb : j.behind = []) (hs : j.status = none) (status : Nat) :
    endJob s j status = jobGone (dropJobReads s j.asid) j := by
  unfold endJob
  rw [releaseBehind_plain hb, hs]
  rfl

theorem endJob_ram {s : State} {j : Job} {l : Nat} (hb : j.behind = []) (hs : j.status = some (.ram l)) (status : Nat) :
    ∃ u : State, u.harts = s.harts ∧ endJob s j status = jobGone (writeRam u l (leBytes 4 status)) j := by
  have hc := jobTouch_onlyCaches (dropJobReads s j.asid) j.tag j.core (.ram l) 4
  refine ⟨jobTouch (dropJobReads s j.asid) j.tag j.core (.ram l) 4, ?_, ?_⟩
  · rw [hc.harts, dropJobReads_frame]
  · unfold endJob
    rw [releaseBehind_plain hb, hs]
    rfl

/-- A job whose status word is ready ends with it written. -/
theorem completeJob_ram {s : State} {j : Job} {l : Nat} (hb : j.behind = []) (hs : j.status = some (.ram l))
    (hr : placeReady s j.core (.ram l) 4 = true) (ht : (s.hart j.hart).token j.token = .pending j.id) (status : Nat) :
    (completeJob s j status).word l 4 = status % 256 ^ 4
      ∧ ((completeJob s j status).hart j.hart).token j.token = .done j.total ∧ jobAt (completeJob s j status) j.id = none := by
  have hready : statusReady s j = true := by rw [statusReady, hs]; exact hr
  obtain ⟨u, hu, he⟩ := endJob_ram hb hs status
  rw [completeJob, if_pos hready, he]
  refine ⟨?_, jobGone_token ?_, jobAt_jobGone _ _⟩
  · exact readPlace_writeRam_leBytes u l 4 status
  · have hh : (writeRam u l (leBytes 4 status)).hart j.hart = s.hart j.hart := by
      rw [State.hart, writeRam_harts, hu]
      rfl
    rw [hh]
    exact ht

theorem completeJob_none {s : State} {j : Job} (hb : j.behind = []) (hs : j.status = none)
    (ht : (s.hart j.hart).token j.token = .pending j.id) (status : Nat) :
    (completeJob s j status).mem = s.mem
      ∧ ((completeJob s j status).hart j.hart).token j.token = .done j.total ∧ jobAt (completeJob s j status) j.id = none := by
  have hready : statusReady s j = true := by rw [statusReady, hs]
  rw [completeJob, if_pos hready, endJob_none hb hs]
  have hd := dropJobReads_frame s j.asid
  refine ⟨?_, jobGone_token ?_, jobAt_jobGone _ _⟩
  · have hm : (jobGone (dropJobReads s j.asid) j).mem = (dropJobReads s j.asid).mem := by rfl
    rw [hm, hd]
  · rw [hd]
    exact ht

theorem exec_jobStart {s : State} {j : Job} (hj : jobAt s j.id = some j) (hb : j.behind = []) (hc : channelFree s j = true)
    (hk : j.kind = .copy) (hw : jobWaits (setJob s { j with started := true }) { j with started := true } = false) (n : Nat) :
    exec (.jobStart j.id n) s = .next (moveJob (setJob s { j with started := true }) { j with started := true } n) := by
  have ht : takeChannel s j = setJob s { j with started := true } := releaseBehind_plain hb _
  have ha : jobAt (setJob s { j with started := true }) j.id = some { j with started := true } := jobAt_setJob hj rfl
  have he : exec (.jobStart j.id n) s = execJobStart j.id n s := by rfl
  rw [he, execJobStart, hj]
  dsimp only
  rw [hc, Bool.not_true, Bool.and_false, if_neg (by decide), ht, ha]
  dsimp only
  rw [hw, if_neg (by decide)]
  split
  · next h => exact nomatch hk.symm.trans h
  · next h => exact nomatch hk.symm.trans h
  · rfl

theorem exec_jobComplete {s : State} {j : Job} (hj : jobAt s j.id = some j) (hs : j.started = true) (hw : jobWaits s j = false)
    (h0 : j.result = 0) (hk : j.kind = .copy) : exec (.jobComplete j.id) s = .next (finishJob s j) := by
  simp only [exec, execJobComplete, hj, hs, hw, h0, hk]
  simp

theorem jobRemote_of {s : State} {j : Job} (hs : j.started = true) (h0 : j.result = 0) (hw : jobWaits s j = false)
    (hk : j.kind ≠ .copy) (hl : jdLen j.desc ≠ 0) : jobRemote s j = true := by
  rw [jobRemote, hs, h0, hw, decide_eq_true hl]
  simp [hk]

/-- Settles O42. -/
theorem copyProgress : Obligations.CopyProgress := by
  intro s j src dst n hj hall hp ha he hb ht htok
  refine ⟨fun hk h0 hpc hst hapart hready => ⟨fun hns hch hw hm hn => ?_, fun hs hw hm => ?_⟩,
    fun l hl hready hs h0 hw hlen => ⟨fun hk => ?_, fun hk => ?_⟩⟩
  · obtain ⟨hat, -, -, hin, hout⟩ := moveJob_run (s := setJob s { j with started := true }) (j := { j with started := true })
      (jobAt_setJob hj rfl) hp ha he ht hk hpc hm hn hready
    exact ⟨_, exec_jobStart hj hb hch hk hw n, hat, hin, hout⟩
  · obtain ⟨hat, hharts, -, hin, hout⟩ := moveJob_run hj hp ha he ht hk hpc hm (Nat.le_refl j.total) hready
    have hfin : finishJob s j = completeJob (moveJob s j j.total) j 0 := by
      have hbytes : finishBytes s j = moveJob s j j.total := by rw [finishBytes, hk, hm, Nat.sub_zero]
      have hdone : bytesDone (moveJob s j j.total) j.id = true := by
        rw [bytesDone, hat]
        simp [hk]
      rw [finishJob, hbytes, if_pos hdone]
    have hh : ((moveJob s j j.total).hart j.hart).token j.token = .pending j.id := by
      rw [State.hart, hharts]
      exact htok
    obtain ⟨hmem, hdone, hgone⟩ := completeJob_none hb hst hh 0
    refine ⟨_, exec_jobComplete hj hs hw h0 hk, ?_⟩
    rw [hfin]
    refine ⟨hdone, hgone, fun k hk => ?_, fun a ha => ?_⟩
    · exact (congrArg (Tab.get 0 · (dst + k)) hmem).trans (hin k hk)
    · exact (congrArg (Tab.get 0 · a) hmem).trans (hout a ha)
  · refine ⟨completeJob s j 0x30000, ?_, completeJob_ram hb hl hready htok 0x30000⟩
    simp only [exec, execRemoteAccessTimeout, hj, jobRemote_of hs h0 hw hk hlen, if_true]
  · refine ⟨completeJob s j 0x50000, ?_, completeJob_ram hb hl hready htok 0x50000⟩
    have hne : j.kind ≠ .copy := by
      obtain h | h := hk <;> rw [h] <;> exact fun h => nomatch h
    have hr := jobRemote_of hs h0 hw hne hlen
    obtain h | h := hk <;> simp only [exec, execCollectiveJoinTimeout, hj, h, hr, if_true]

end Sys2Proof.Machine
end

section
/-! SUPPORT. Operand streams (09 R231; 11 R281). -/

namespace Sys2Proof.Machine

/-- A packet of one strip of one element of 4 bytes, which it reads at address 0 under handle 0. -/
def onePacket : Packet :=
  { id := 1, lspool := 0, qcb := 0, index := 0, asid := 1, bytes := []
    desc := ⟨0, 1, 1, false, false, [1], 0, [⟨1, false, 4, [], [], []⟩]⟩
    bases := [0], phase := .dispatched, partner := none, producer := false, deleted := [], gen := 0, status := none, sent := 1
    started := [], live := 1, tasks := 0, pendingStatus := false, reported := false }

/-- The hart of `twoWindowsVector` at that packet's strip. -/
def streamWindows : State :=
  { twoWindowsVector with
    harts := [(0, { twoWindowsVector.me with work := .group 1 0 0 0 0 0 })]
    keel := { twoWindowsVector.keel with packets := [onePacket] } }

theorem streamWindows_ready : vmReady streamWindows elementAtZero [elementAtZero.x] := by
  refine ⟨⟨rfl, ⟨rfl, rfl, rfl, rfl, rfl⟩, rfl, rfl, rfl⟩, nofun, by decide, ?_, ?_⟩
  · intro k _ h
    simp [elementAtZero] at h
  · exact ⟨fun h => (nomatch h), fun h => (nomatch h)⟩

/-- The strip of that hart. -/
def oneStrip : Strip := ⟨onePacket, 0, 0, 0, 0, 0, 0, 1, [], 0⟩

/-- The place of the strip's element at address 0, as its load finds it. -/
def stripPlace : { r : Resolved // check streamWindows (streamWindows.agent streamWindows.cur) .load
    (streamAddr oneStrip 0 (Tab.get 0 streamWindows.me.cursors (streamWindows.me.readS elementAtZero.y).toNat + 0))
    (ewBytes streamWindows.me) = .ok r } :=
  ⟨scalePlace 0, by decide +kernel⟩

/-- Refutes O43: noting the bad granule lists the window of key 0 first, so that the last byte of the element at address 0 is
read through that window, and not through the one that it stood in. -/
theorem not_streamsAndRemoteAccess : ¬ Obligations.StreamsAndRemoteAccess := by
  rintro ⟨h, -⟩
  have hslot : streamSlot streamWindows (streamWindows.me.readS elementAtZero.y) 0 = .ok (oneStrip, 0) := by rfl
  obtain ⟨hload, -⟩ := h streamWindows elementAtZero oneStrip 0 streamWindows_ready (by rfl)
  have hone : streamActive streamWindows.me oneStrip (streamWindows.me.readS elementAtZero.y).toNat elementAtZero.mask.toNat = [0] := by
    decide +kernel
  have hchk : check streamWindows (streamWindows.agent streamWindows.cur) .load
      (streamAddr oneStrip 0 (Tab.get 0 streamWindows.me.cursors (streamWindows.me.readS elementAtZero.y).toNat + 0))
      (ewBytes streamWindows.me) = .ok (scalePlace 0) := stripPlace.2
  obtain ⟨t, ht, hel, -⟩ := hload hslot (by rfl) (by rfl) scalePlace (by
    rw [hone]
    rintro e he
    rw [List.mem_singleton.mp he]
    exact hchk)
  have hb : byteLeft (exec (.vstrm elementAtZero) streamWindows) 1 3 = 0 := by decide +kernel
  rw [ht] at hb
  have h3 := hel 0 (hone ▸ List.mem_singleton_self 0) 3 (by decide)
  exact absurd (h3.symm.trans hb) (by decide +kernel)

end Sys2Proof.Machine
end

section
/-! SUPPORT. Tokens and tethers (09 R222, R223, R233 to R238). -/

namespace Sys2Proof.Machine

theorem token_acquireTokens (x : Hart) (set : BitVec 8) (i : Nat) :
    (acquireTokens x set).token i = if set.getLsbD i then .idle else x.token i := by
  refine (Tab.get_filter_key Token.idle (fun k => !set.getLsbD k) x.tokens i).trans ?_
  cases set.getLsbD i <;> rfl

theorem completes.token {x y : Hart} (h : completes x y) (i : Nat) : y.token i = x.token i := by
  obtain ⟨h, -⟩ := h
  rw [Hart.token, h]
  rfl

theorem pendingTokens_not_ready {x : Hart} {w : BitVec 8} (h : ¬tokensReady x w) : (pendingTokens x w).isEmpty = false := by
  by_contra hne
  refine h fun k hk hw j hj => ?_
  have hnil : pendingTokens x w = [] := by simpa using hne
  have hmem : k ∈ pendingTokens x w :=
    List.mem_filter.mpr ⟨List.mem_range.mpr hk, by rw [hw, hj]; rfl⟩
  rw [hnil] at hmem
  exact nomatch hmem

/-! The handles of a core. -/

theorem tetherAt_setTether_same (s : State) (h t : Nat) (v : Option Tether) : tetherAt (setTether s h t v) h t = v := by
  rw [tetherAt, setTether, State.core_setCore_same]
  exact Tab.get_set_same _ _ _ _

theorem tetherAt_setTether_other (s : State) (h t : Nat) (v : Option Tether) (i : Nat) (hi : i ≠ t) :
    tetherAt (setTether s h t v) h i = tetherAt s h i := by
  rw [tetherAt, setTether, State.core_setCore_same]
  exact Tab.get_set_other _ _ _ _ _ hi

theorem OnlyCaches.tetherAt {s u : State} (h : OnlyCaches s u) (k t : Nat) : Machine.tetherAt u k t = Machine.tetherAt s k t := by
  rw [Machine.tetherAt, h.core]
  rfl

theorem ownsTether_iff {s : State} {h t : Nat} : ownsTether s h t = true ↔ ∃ e, tetherAt s h t = some e ∧ e.owner = h := by
  rw [ownsTether]
  cases tetherAt s h t <;> simp

/-- A tether of a row, its state changed from `f` to `g`. -/
def changedTether (row : Nat) (f g : TetherState) (w : Tether) : Tether := if w.row = row ∧ w.st = f then { w with st := g } else w

/-- A core, its tethers changed. -/
def changedCore (row : Nat) (f g : TetherState) (c : Nat × CoreState) : Nat × CoreState :=
  (c.1, { c.2 with tethers := c.2.tethers.map fun e => (e.1, e.2.map (changedTether row f g)) })

/-- The handles as a change of state leaves them. -/
theorem tetherAt_changeTethers (s : State) (row : Nat) (f g : TetherState) (h i : Nat) :
    tetherAt (changeTethers s row f g) h i = (tetherAt s h i).map (changedTether row f g) := by
  have hcore : (changeTethers s row f g).core (coreOf h) = (changedCore row f g (coreOf h, s.core (coreOf h))).2 :=
    Tab.get_map_val ({} : CoreState) (changedCore row f g) s.cores (coreOf h) (fun _ => rfl) rfl
  rw [tetherAt, hcore]
  exact Tab.get_map_val none (fun e => (e.1, e.2.map (changedTether row f g))) (s.core (coreOf h)).tethers i (fun _ => rfl) rfl

theorem OnlyCaches.ownsTether {s u : State} (h : OnlyCaches s u) (k t : Nat) : Machine.ownsTether u k t = Machine.ownsTether s k t := by
  rw [Machine.ownsTether, h.tetherAt]
  rfl

/-- A handle that another hart owns. -/
def foreignHandle (s : State) (h t : Nat) : Bool := (tetherAt s h t).isSome && !ownsTether s h t

theorem foreignHandle_of {s : State} {h t : Nat} (he : ∃ w, tetherAt s h t = some w ∧ w.owner ≠ h) : foreignHandle s h t = true := by
  obtain ⟨w, hw, ho⟩ := he
  simp [foreignHandle, ownsTether, hw, ho]

theorem foreignHandle_not {s : State} {h t : Nat} (he : ∀ w, tetherAt s h t = some w → w.owner = h) : foreignHandle s h t = false := by
  cases hw : tetherAt s h t with
  | none => simp [foreignHandle, hw]
  | some w => simp [foreignHandle, ownsTether, hw, he w hw]

/-- A hart that falls through where memory and the harts stand. -/
theorem finishWith_stands {s u : State} (hm : u.mem = s.mem) (hh : u.harts = s.harts) (hc : u.cur = s.cur) (f : Hart → Hart) :
    memoryStands s (finishWith u f) ∧ completes (f s.me) (finishWith u f).me := by
  obtain ⟨hother, hme⟩ := finishWith_harts hh hc f
  exact ⟨⟨fun a => (finishWith_byte u f a).trans (congrArg (Tab.get 0 · a) hm), hother⟩, hme⟩

/-- What the release of a handle leaves. -/
def Released (s : State) (t : Nat) (u : State) : Prop :=
  ownsTether u s.cur t = false
    ∧ (∀ i, i ≠ t ∨ ownsTether s s.cur t = false → tetherAt u s.cur i = tetherAt s s.cur i)
    ∧ u.mem = s.mem ∧ u.harts = s.harts ∧ u.cur = s.cur

theorem releaseTether_released (s : State) (t : Nat) : Released s t (releaseTether s s.cur t) := by
  unfold releaseTether
  by_cases h : ownsTether s s.cur t = true
  · rw [if_pos h]
    refine ⟨?_, fun i hi => ?_, rfl, rfl, rfl⟩
    · rw [ownsTether, tetherAt_setTether_same]
    · exact tetherAt_setTether_other s s.cur t none i (hi.resolve_right (by rw [h]; decide))
  · rw [if_neg h]
    exact ⟨Bool.eq_false_iff.mpr h, fun _ _ => rfl, rfl, rfl, rfl⟩

theorem exec_topen {s : State} (hs : free s) {d a : Reg} {k : BitVec 3} {r : Nat}
    (hr : tetherRow s (s.agent s.cur) (s.me.readS a).toNat = .ok r) :
    let u := touch s (s.agent s.cur) .load (s.me.readS a).toNat
    let st := rowStatus s.plate (heldRows (setTether u s.cur k.toNat none)) r
    exec (.topen d a k) s =
      if foreignHandle s s.cur k.toNat then .next (finishWith u fun x => x.writeS d 2)
      else if st = 0 then .next (finishWith (setTether (setTether u s.cur k.toNat none) s.cur k.toNat
          (some ⟨s.cur, (s.me.readS a >>> 10) <<< 10, r, .held⟩)) fun x => x.writeS d 0)
      else .next (finishWith u fun x => x.writeS d (BitVec.ofNat 64 st)) := by
  intro u st
  have hu : OnlyCaches s u := touch_onlyCaches _ _ _ _
  have hcur : u.cur = s.cur := hu.cur
  have hplate : u.plate = s.plate := by rw [hu.rest]
  have hf : ((tetherAt u u.cur k.toNat).isSome && !ownsTether u u.cur k.toNat) = foreignHandle s s.cur k.toNat := by
    rw [hu.tetherAt, hu.ownsTether, hcur]
    rfl
  simp only [exec, execTopen, unchained_free s _ hs, hr]
  rw [hf, hcur, hplate]
  rfl

/-- Settles O44. -/
theorem tokensAndTethers : Obligations.TokensAndTethers := by
  intro s set d a k row hs e
  refine ⟨fun ht => ?_, fun ht => ?_, ?_, fun r hr => ⟨fun he => ?_, fun he => ?_⟩, ?_, ?_, ⟨_, rfl, ?_⟩, ⟨_, rfl, ?_⟩⟩
  · have hrun : exec (.waitk set) s = .next (finish (begun s set)) := by
      simp only [exec, execWaitk, unchained_free s _ hs]
      exact withTokens_ready hs ht _
    obtain ⟨hother, hme⟩ := finish_harts (s := begun s set) rfl rfl
    refine ⟨_, hrun, ⟨fun a => finish_byte _ a, fun h hne => ?_⟩, fun i => ?_⟩
    · rw [hother h hne, begun_other s set h hne]
    · rw [hme.token, begun_me, token_acquireTokens]
  · simp only [exec, execWaitk, unchained_free s _ hs]
    rw [withTokens, pendingTokens_not_ready ht]
    rfl
  · simp only [exec, execCwp, unchained_free s _ hs]
    rfl
  · rw [exec_topen hs hr, if_pos (foreignHandle_of he)]
  · have hu : OnlyCaches s (touch s (s.agent s.cur) .load (s.me.readS a).toNat) := touch_onlyCaches _ _ _ _
    rw [exec_topen hs hr, if_neg (by rw [foreignHandle_not he]; decide)]
    generalize touch s (s.agent s.cur) .load (s.me.readS a).toNat = u at *
    generalize rowStatus s.plate (heldRows (setTether u s.cur k.toNat none)) r = st
    by_cases h0 : st = 0
    · rw [if_pos h0, if_pos h0]
      obtain ⟨hstands, hme⟩ := finishWith_stands (s := s) (u := setTether (setTether u s.cur k.toNat none) s.cur k.toNat
        (some ⟨s.cur, (s.me.readS a >>> 10) <<< 10, r, .held⟩)) hu.mem hu.harts hu.cur fun x => x.writeS d 0
      refine ⟨_, rfl, ?_, ?_, hstands⟩
      · exact tetherAt_setTether_same _ _ _ _
      · rw [h0]
        exact hme
    · rw [if_neg h0, if_neg h0]
      obtain ⟨hstands, hme⟩ := finishWith_stands hu.mem hu.harts hu.cur fun x => x.writeS d (BitVec.ofNat 64 st)
      exact ⟨_, rfl, hu.tetherAt _ _, hme, hstands⟩
  · have hrel : Released s k.toNat (releaseTether s s.cur k.toNat) := releaseTether_released s k.toNat
    obtain ⟨hfree, hothers, hmem, hharts, hcur⟩ := hrel
    obtain ⟨hother, -⟩ := finish_harts hharts hcur
    refine ⟨finish (releaseTether s s.cur k.toNat), ?_, hfree, ⟨fun b => ?_, hother⟩, hothers⟩
    · simp only [exec, execTrel, unchained_free s _ hs]
    · exact (finish_byte _ b).trans (congrArg (Tab.get 0 · b) hmem)
  · simp only [exec, execTstat, unchained_free s _ hs]
    rfl
  · exact tetherAt_changeTethers s row _ _
  · exact tetherAt_changeTethers s row _ _

end Sys2Proof.Machine
end

section
/-! SUPPORT. Soft errors in the registers of a hart (16 R418 to R420; 05 R134). -/

namespace Sys2Proof.Machine

/-- A running hart at address 0 whose register s5 is poisoned; a trap goes to its handler. -/
def poisonedCount : State :=
  { State.reset with
    harts := [(0, { asid := 1, run := .running, spoiled := { s := 0x20 } })]
    contexts := [(1, { valid := true, handler := 0x1000 })] }

/-- An END in the line of the loop instruction, below its BODY. -/
def endBelowBody : Target := ⟨0, 0⟩

theorem poisonedCount_free : free poisonedCount := ⟨rfl, ⟨rfl, rfl, rfl, rfl, rfl⟩, rfl, rfl, rfl⟩

/-- Refutes O51: a `loop` whose END is not above its BODY is not legal, and reads no source: it takes trap 0x01 though the
register of its count is poisoned. -/
theorem not_softErrors : ¬ Obligations.SoftErrors := by
  rintro ⟨h, -⟩
  obtain ⟨-, hp⟩ := h poisonedCount 0 5 0 ⟨0, 0, 0, 0, 0, false, false, false, 0, 0, 0⟩ ⟨0, 0, 0, 0, 0, 0, 0, 0⟩ endBelowBody 0 0
  obtain ⟨hs, -⟩ := hp poisonedCount_free (by decide +kernel)
  have ht := hs (by decide) (by decide +kernel) (.loop 0 5 endBelowBody) (by simp)
  have hx : (match execChecked (.loop 0 5 endBelowBody) poisonedCount with | .next t => t.me.ecause | _ => 0) = 0x01 := by
    decide +kernel
  rw [ht] at hx
  exact absurd hx (by decide +kernel)

end Sys2Proof.Machine
end

section
/-! SUPPORT. The translation invalidation spool (15 R383 to R390). -/

namespace Sys2Proof.Machine

/-- A job of context 1 that uses no translation and has a store waiting behind it. -/
def storeBehindJob : Job where
  id := 1
  hart := 0
  asid := 1
  token := 0
  kind := .copy
  pieces := []
  moved := 0
  total := 0
  started := false
  reads := []
  writes := []
  status := none
  pbar := none
  result := 0
  packet := 0
  desc := []
  order := 0
  behind := [[.cover 0]]

/-- A translation invalidation spool at 0x1000 of one element, at 0x2000: a CTXLOAD of context 1, whose descriptor is at 0x40,
with its completion word at 0x3000. -/
def loadWithStoreBehind : State :=
  { State.reset with
    jobs := [storeBehindJob]
    hub := { State.reset.hub with ready := 0x0008000000003FFF, tivqcb := 0x1000 }
    mem := [(0x47, 0x90), (0x5B, 0x02), (0x1008, 0x01), (0x1011, 0x20), (0x1022, 0x20), (0x103E, 0xE2), (0x103F, 0x85),
      (0x2000, 0x03), (0x2002, 0x01), (0x2019, 0x30)] }

/-- The element. -/
def contextLoadElement : List Byte := readPlace loadWithStoreBehind (.ram 0x2000) 32

/-- The context that the descriptor there describes. -/
def describedContext : { c : Context // readContext (readPlace loadWithStoreBehind (.ram 0x40) 64) = some c } :=
  ⟨(readContext (readPlace loadWithStoreBehind (.ram 0x40) 64)).get (by decide +kernel), (Option.some_get _).symm⟩

/-- Refutes O49: a store that waits behind a job of the context keeps a CTXLOAD from ending, though the job itself uses no
translation and the context has no hart. -/
theorem not_faultsAndContexts : ¬ Obligations.FaultsAndContexts := by
  rintro ⟨-, h, -⟩
  obtain ⟨-, -, -, hload, -⟩ := h loadWithStoreBehind 0 contextLoadElement (by decide +kernel) (by decide +kernel)
    (by decide +kernel) (by decide +kernel) (by decide +kernel) (by decide +kernel) (by decide +kernel)
  obtain ⟨c, hc⟩ := describedContext
  obtain ⟨t, ht, -, hd, -⟩ := hload c (by decide +kernel) (by decide +kernel) (by decide +kernel) (by decide +kernel) hc
    (by decide +kernel) (by decide +kernel)
  have hx : (match exec .ctxload loadWithStoreBehind with | .next t => t.word 0x3000 8 | _ => 1) = 0 := by decide +kernel
  rw [ht] at hx
  exact absurd (hx.symm.trans hd) (by decide +kernel)

end Sys2Proof.Machine
end

section
/-! SUPPORT. Packets as the Keel takes them (02 R46 to R51; 11 R280). -/

namespace Sys2Proof.Machine

/-- A packet whose descriptor is at 0x3FFFFFC0 and its argument table at 0x40000000, with its signal word at 0x40000100. -/
def splitPacket : Packet where
  id := 1
  lspool := 0
  qcb := 0
  index := 0
  asid := 1
  bytes := [0xC0, 0xFF, 0xFF, 0x3F, 0, 0, 0, 0, 0, 0, 0, 0x40] ++ List.replicate 76 0 ++ [0, 1, 0, 0x40] ++ List.replicate 36 0
  desc := noDescriptor
  bases := []
  phase := .window
  partner := none
  producer := false
  deleted := []
  gen := 0
  status := none
  sent := 0
  started := []
  live := 0
  tasks := 0
  pendingStatus := false
  reported := false

/-- The first 64 bytes of the packet's descriptor are the first bytes of the scale window of key 0, its others are in memory. A
window of the larger key, listed before it, begins two bytes later and holds a descriptor's header; the second granule of the
window of key 0 is bad. -/
def splitDescriptor : State :=
  { State.reset with
    contexts := [(1, { valid := true, root := 1, swbase := 0x100000000, cwbase := 0x102000000 })]
    hub := { State.reset.hub with ready := 0x3FFF }
    keel := { State.reset.keel with packets := [splitPacket], accepted := 1 }
    windows := [(1, { scl := 0x4003FFFFFC2, raw := 0x3000, ngran := 16, format := 1 }),
      (0, { scl := 0x4003FFFFFC0, raw := 0x4000, ngran := 16, format := 1 })]
    mem := [(0x0000, 1), (0x0002, 1), (0x1000, 0x01), (0x1001, 0x08), (0x2000, 0x53), (0x2005, 0x01), (0x2008, 0xD7),
      (0x306C, 1), (0x30A4, 1), (0x30DC, 1), (0x314C, 1), (0x31BC, 1), (0x322C, 1), (0x406B, 3)] }

/-- What a reading gave. -/
def bytesRead : Except (Nat × Nat) (List Byte) → List Byte
  | .ok l => l
  | .error _ => []

/-- The reading gave bytes that meet a condition. -/
def readsSome (r : Except (Nat × Nat) (List Byte)) (f : List Byte → Bool) : Bool :=
  match r with
  | .ok l => f l
  | .error _ => false

theorem readsSome_bytes {r : Except (Nat × Nat) (List Byte)} {f : List Byte → Bool} (h : readsSome r f = true) :
    r = .ok (bytesRead r) ∧ f (bytesRead r) = true := by
  cases r with
  | ok l => exact ⟨rfl, h⟩
  | error e => exact nomatch h

/-- The bytes are a kernel descriptor that declares a slot. -/
def declaresSlot (d : List Byte) : Bool :=
  (readDescriptor d).isSome && (List.range 8).any fun j => field d (64 + 128 * j) 1 != 0

/-- The packet waits, with no status: its descriptor has met a problem. -/
theorem splitDescriptor_vetted :
    ((vetPacket splitDescriptor 1).packet 1).map (fun p => (p.phase, p.status)) = some (.held, none) := by
  decide +kernel

/-- Refutes O47: reading the first bytes of the descriptor notes the bad granule and lists the window of key 0 first, so that the
header is then read through that window and meets a problem, where the state before read a sound descriptor. -/
theorem not_packetLifecycle : ¬ Obligations.PacketLifecycle := by
  rintro ⟨h, -⟩
  obtain ⟨-, hvet⟩ := h splitDescriptor ⟨0, 0, false, 0, false, [], false⟩ []
  obtain ⟨hd, hk⟩ := readsSome_bytes (r := ownerRead splitDescriptor 1 1088 splitPacket.descVa 1088) (f := declaresSlot)
    (by decide +kernel)
  obtain ⟨ht, -⟩ := readsSome_bytes (r := ownerRead splitDescriptor 1 64 splitPacket.args.toNat 64) (f := fun _ => true)
    (by decide +kernel)
  obtain ⟨hk, hslot⟩ := Bool.and_eq_true_iff.mp hk
  obtain ⟨k, hk⟩ := Option.isSome_iff_exists.mp hk
  obtain ⟨-, hall⟩ := hvet 1 splitPacket _ _ rfl rfl (by decide +kernel)
  obtain ⟨hbad, hgood⟩ := hall rfl hd ht k hk hslot
  have hv := splitDescriptor_vetted
  cases hok : headerOk splitDescriptor { splitPacket with
      desc := k
      bases := (List.range 8).map fun j => BitVec.ofNat 64 (field (bytesRead (ownerRead splitDescriptor 1 64
        splitPacket.args.toNat 64)) (8 * j) 8) } with
  | false =>
    have hs := congrArg (Option.map Prod.snd) hv
    rw [Option.map_map] at hs
    exact nomatch (Option.some.inj ((hbad hok).symm.trans hs))
  | true =>
    rw [hgood hok] at hv
    have hw : some Phase.window = some Phase.held := congrArg (Option.map Prod.fst) hv
    exact nomatch hw

end Sys2Proof.Machine
end

section
/-! SUPPORT. What the steps of a spool's home, stores and queued accesses leave alone: what of the device moves only by steps of the
Keel's own, the harts, and, at a home, the clusters and what sleeps (10 R264, R265; 13 R324; 17 R426, R446). -/

namespace Sys2Proof.Machine

/-- The moves to come, whose turn it is, the units that are ready, the packets and the saved harts stand. -/
structure Steady (s t : State) : Prop where
  agenda : t.agenda = s.agenda
  cur : t.cur = s.cur
  ready : t.hub.ready = s.hub.ready
  packets : t.keel.packets = s.keel.packets
  saved : t.keel.saved = s.keel.saved
  up : t.keel.up = s.keel.up

/-- The harts stand too. -/
structure StoreKeeps (s t : State) : Prop extends Steady s t where
  harts : t.harts = s.harts

/-- And no unit sleeps or wakes. -/
structure HomeKeeps (s t : State) : Prop extends StoreKeeps s t where
  clusters : t.clusters = s.clusters
  wakingDies : t.hub.wakingDies = s.hub.wakingDies

/-- Of the harts, number `h` alone may change. -/
structure AccessKeeps (h : Nat) (s t : State) : Prop extends Steady s t where
  other : ∀ k, k ≠ h → t.hart k = s.hart k

variable {s t u : State}

/-- What moves at a home's step only by the Keel's own. -/
def homeView (s : State) :=
  (s.agenda, s.cur, s.hub.ready, s.keel.packets, s.keel.saved, s.keel.up, s.harts, s.clusters, s.hub.wakingDies)

theorem HomeKeeps.view (h : homeView t = homeView s) : HomeKeeps s t := by
  simp only [homeView, Prod.mk.injEq] at h
  obtain ⟨h1, h2, h3, h4, h5, h6, h7, h8, h9⟩ := h
  exact ⟨⟨⟨h1, h2, h3, h4, h5, h6⟩, h7⟩, h8, h9⟩

/-- What a store leaves of that. -/
def storeView (s : State) := (s.agenda, s.cur, s.hub.ready, s.keel.packets, s.keel.saved, s.keel.up, s.harts)

theorem StoreKeeps.view (h : storeView t = storeView s) : StoreKeeps s t := by
  simp only [storeView, Prod.mk.injEq] at h
  obtain ⟨h1, h2, h3, h4, h5, h6, h7⟩ := h
  exact ⟨⟨h1, h2, h3, h4, h5, h6⟩, h7⟩

theorem Steady.trans (a : Steady s t) (b : Steady t u) : Steady s u where
  agenda := b.agenda.trans a.agenda
  cur := b.cur.trans a.cur
  ready := b.ready.trans a.ready
  packets := b.packets.trans a.packets
  saved := b.saved.trans a.saved
  up := b.up.trans a.up

theorem StoreKeeps.trans (a : StoreKeeps s t) (b : StoreKeeps t u) : StoreKeeps s u where
  toSteady := a.toSteady.trans b.toSteady
  harts := b.harts.trans a.harts

theorem HomeKeeps.trans (a : HomeKeeps s t) (b : HomeKeeps t u) : HomeKeeps s u where
  toStoreKeeps := a.toStoreKeeps.trans b.toStoreKeeps
  clusters := b.clusters.trans a.clusters
  wakingDies := b.wakingDies.trans a.wakingDies

theorem AccessKeeps.trans {h : Nat} (a : AccessKeeps h s t) (b : AccessKeeps h t u) : AccessKeeps h s u where
  toSteady := a.toSteady.trans b.toSteady
  other := fun k hk => (b.other k hk).trans (a.other k hk)

theorem StoreKeeps.hart (a : StoreKeeps s t) (k : Nat) : t.hart k = s.hart k := by
  rw [State.hart, a.harts]
  rfl

theorem StoreKeeps.access (a : StoreKeeps s t) (h : Nat) : AccessKeeps h s t where
  toSteady := a.toSteady
  other := fun k _ => a.hart k

theorem AccessKeeps.view {h : Nat} (e : storeView t = storeView s) : AccessKeeps h s t := (StoreKeeps.view e).access h

theorem HomeKeeps.cluster (a : HomeKeeps s t) (c : Nat) : t.cluster c = s.cluster c := by
  rw [State.cluster, a.clusters]
  rfl

theorem foldl_homeKeeps {α : Type} {f : State → α → State} (hf : ∀ s a, HomeKeeps s (f s a)) (s : State) (l : List α) :
    HomeKeeps s (l.foldl f s) := foldl_keeps (fun t a h => h.trans (hf t a)) (.view rfl) l

theorem foldl_storeKeeps {α : Type} {f : State → α → State} (hf : ∀ s a, StoreKeeps s (f s a)) (s : State) (l : List α) :
    StoreKeeps s (l.foldl f s) := foldl_keeps (fun t a h => h.trans (hf t a)) (.view rfl) l

theorem foldl_accessKeeps {α : Type} {h : Nat} {f : State → α → State} (hf : ∀ s a, AccessKeeps h s (f s a)) (s : State)
    (l : List α) : AccessKeeps h s (l.foldl f s) := foldl_keeps (fun t a k => k.trans (hf t a)) (.view rfl) l

/-! Steps of a spool's home. -/

theorem OnlyCaches.storeKeeps {s t : State} (h : OnlyCaches s t) : StoreKeeps s t where
  agenda := by rw [h.rest]
  cur := h.cur
  ready := by rw [h.rest]
  packets := by rw [h.keel]
  saved := by rw [h.keel]
  up := by rw [h.keel]
  harts := h.harts

theorem recallLine_homeKeeps (s : State) (c : Option Nat) (l : Nat) : HomeKeeps s (recallLine s c l) := by
  unfold recallLine
  split
  · exact .view rfl
  · exact .view rfl

theorem recallSpan_homeKeeps (s : State) (c : Option Nat) (p : Place) (n : Nat) : HomeKeeps s (recallSpan s c p n) := by
  have lines : ∀ l n : Nat, HomeKeeps s (if noStash s then s
      else (List.range ((l + n - 1) / 128 + 1 - l / 128)).foldl (fun s k => recallLine s c (l + 128 * k)) s) := by
    intro l n
    split
    · exact .view rfl
    · exact foldl_homeKeeps (fun s k => recallLine_homeKeeps s c _) s _
  cases p with
  | ram l => exact lines l n
  | derived a => exact lines _ _
  | latch a => exact .view rfl
  | imsic a => exact .view rfl
  | window a => exact .view rfl

theorem homeStore_homeKeeps (s : State) (l : Nat) (b : List Byte) : HomeKeeps s (homeStore s l b) := by
  unfold homeStore
  split
  · exact (recallSpan_homeKeeps s none (.ram l) b.length).trans (.view rfl)
  · exact .view rfl

theorem imsicStore_homeKeeps (s : State) (pa : Nat) (b : List Byte) : HomeKeeps s (imsicStore s pa b) := by
  unfold imsicStore
  split <;> exact .view rfl

theorem sendMsi_homeKeeps (s : State) (addr data : Nat) : HomeKeeps s (sendMsi s addr data) := by
  unfold sendMsi
  split
  · exact .view rfl
  · split
    · exact homeStore_homeKeeps s _ _
    · exact imsicStore_homeKeeps s _ _
    all_goals exact .view rfl

theorem queueMsi_homeKeeps (s : State) (key addr data : Nat) : HomeKeeps s (queueMsi s key addr data) := by
  unfold queueMsi
  split
  · exact .view rfl
  · exact sendMsi_homeKeeps s _ _

theorem qcbWrite_homeKeeps (s : State) (q : Nat) (b : List Byte) : HomeKeeps s (qcbWrite s q b) := .view rfl

theorem notifyThreshold_homeKeeps (s : State) (q : Nat) : HomeKeeps s (notifyThreshold s q) := by
  unfold notifyThreshold
  dsimp only
  split
  · exact (qcbWrite_homeKeeps s q _).trans (queueMsi_homeKeeps _ _ _ _)
  · exact .view rfl

theorem reportSpoiled_homeKeeps (s : State) (q : Nat) : HomeKeeps s (reportSpoiled s q) := by
  unfold reportSpoiled
  split
  · exact .view rfl
  · exact (qcbWrite_homeKeeps s q _).trans (.view rfl)

theorem noteBatch_homeKeeps (s : State) (q lo hi : Nat) : HomeKeeps s (noteBatch s q lo hi) := by
  unfold noteBatch
  split <;> exact .view rfl

theorem applyTail_homeKeeps (s : State) (q v : Nat) : HomeKeeps s (applyTail s q v) := by
  unfold applyTail
  dsimp only
  split
  · exact reportSpoiled_homeKeeps s q
  split
  · exact .view rfl
  split
  · exact .view rfl
  split
  · exact qcbWrite_homeKeeps s q _
  · exact (((noteBatch_homeKeeps s q _ _).trans (recallLine_homeKeeps _ _ _)).trans (qcbWrite_homeKeeps _ _ _)).trans
      (notifyThreshold_homeKeeps _ _)

theorem settleRemoval_homeKeeps (s : State) (q : Nat) : HomeKeeps s (settleRemoval s q) := by
  unfold settleRemoval
  split
  · exact .view rfl
  · dsimp only
    split <;> exact .view rfl

theorem headStore_homeKeeps (s : State) (q v : Nat) : HomeKeeps s (headStore s q v) := by
  refine HomeKeeps.trans (t := applyHead s q v) ?_ (settleRemoval_homeKeeps _ _)
  unfold applyHead
  dsimp only
  split
  · exact reportSpoiled_homeKeeps s q
  split
  · exact .view rfl
  · exact (recallLine_homeKeeps s none q).trans (qcbWrite_homeKeeps _ _ _)

/-- What the latches of a home do once its stack or unit is there. -/
theorem applyLatches_homeKeeps (s : State) (mine : Nat → Bool) : HomeKeeps s (applyLatches s mine) := by
  have hpass : ∀ (tail : Bool) (s : State) (e : Nat × Word), HomeKeeps s (
      let k := e.1 * 8 - 0x20000000000
      let q := k / 16 * 64
      let v := (Tab.get 0 s.hub.latches e.1).toNat
      if !mine q || doorbellHeld s q then s
      else if k % 16 = 0 then
        if tail && (bitOf (qStat (qcbRead s q)) 1 || (lspoolAt s q).isSome) then applyTail s q v else s
      else if !tail && bitOf (qStat (qcbRead s q)) 1 then headStore s q v else s) := by
    intro tail s e
    dsimp only
    split
    · exact .view rfl
    split
    · split
      · exact applyTail_homeKeeps _ _ _
      · exact .view rfl
    split
    · exact headStore_homeKeeps _ _ _
    · exact .view rfl
  exact (foldl_homeKeeps (hpass true) s _).trans (foldl_homeKeeps (hpass false) _ _)

theorem advanceHead_homeKeeps (s : State) (n : Nat) : HomeKeeps s (advanceHead s n) := by
  unfold advanceHead
  split
  · exact .view rfl
  dsimp only
  split
  · exact reportSpoiled_homeKeeps s _
  split
  · exact (qcbWrite_homeKeeps s _ _).trans (settleRemoval_homeKeeps _ _)
  · exact settleRemoval_homeKeeps _ _

/-! Stores. -/

theorem wakeDie_storeKeeps (s : State) (d : Nat) : StoreKeeps s (wakeDie s d) := by
  unfold wakeDie
  split <;> exact .view rfl

theorem wakeCluster_storeKeeps (s : State) (c : Nat) : StoreKeeps s (wakeCluster s c) := by
  unfold wakeCluster
  dsimp only
  split <;> exact .view rfl

theorem wakeFor_storeKeeps (s : State) (q : Nat) : StoreKeeps s (wakeFor s q) := by
  unfold wakeFor
  split
  · exact (wakeDie_storeKeeps s _).trans (wakeCluster_storeKeeps _ _)
  · exact wakeDie_storeKeeps s _

theorem latchStore_storeKeeps (s : State) (pa : Nat) (v : Word) : StoreKeeps s (latchStore s pa v) := by
  have hk : ∀ l, StoreKeeps s { s with hub := { s.hub with latches := l } } := fun _ => .view rfl
  unfold latchStore
  dsimp only
  split
  · exact .view rfl
  split
  · split
    · split
      · exact (hk _).trans (wakeFor_storeKeeps _ _)
      · exact (hk _).trans (applyTail_homeKeeps _ _ _).toStoreKeeps
    · exact hk _
  · split
    · split
      · exact (hk _).trans (wakeFor_storeKeeps _ _)
      · exact (hk _).trans (headStore_homeKeeps _ _ _).toStoreKeeps
    · exact hk _

theorem storePlace_storeKeeps (s : State) (p : Place) (b : List Byte) : StoreKeeps s (storePlace s p b) := by
  unfold storePlace
  split
  · exact .view rfl
  · exact .view rfl
  · split
    · exact latchStore_storeKeeps s _ _
    · exact .view rfl
  · exact (imsicStore_homeKeeps s _ _).toStoreKeeps
  · exact .view rfl

theorem agentStore_storeKeeps (s : State) (p : Place) (b : List Byte) : StoreKeeps s (agentStore s p b) :=
  (recallSpan_homeKeeps s none p b.length).toStoreKeeps.trans (storePlace_storeKeeps _ _ _)

/-! Queued accesses. -/

theorem setHart_accessKeeps (s : State) (h : Nat) (x : Hart) : AccessKeeps h s (s.setHart h x) where
  toSteady := ⟨rfl, rfl, rfl, rfl, rfl, rfl⟩
  other := fun k hk => State.hart_setHart_other s h k x hk

theorem setHart_store (h : Nat) (x : Hart) (a : StoreKeeps s t) : AccessKeeps h s (t.setHart h x) :=
  (a.access h).trans (setHart_accessKeeps t h x)

theorem lockAt_accessKeeps (s : State) (q : Place) (asid h md ms t : Nat) : AccessKeeps h s (lockAt s q asid h md ms t) := by
  refine setHart_store h _ (t := if bitOf (leNat (readPlace s q 8)) 63 then s else _) ?_
  split
  · exact .view rfl
  · exact storePlace_storeKeeps s _ _

theorem landImage_accessKeeps (s : State) (h bank k : Nat) (b : Byte) : AccessKeeps h s (landImage s h bank k b) := by
  unfold landImage
  dsimp only
  split
  · exact .view rfl
  split
  · exact setHart_accessKeeps s h _
  · exact (setHart_accessKeeps s h _).trans (.view rfl)

theorem unlockAt_storeKeeps (s : State) (q : Place) (asid h : Nat) : StoreKeeps s (unlockAt s q asid h) := by
  unfold unlockAt
  dsimp only
  split
  · exact storePlace_storeKeeps s _ _
  · exact .view rfl

theorem commitSlots_homeKeeps (s : State) (q n : Nat) : HomeKeeps s (commitSlots s q n) := by
  unfold commitSlots
  dsimp only
  split
  · exact reportSpoiled_homeKeeps s q
  · exact (qcbWrite_homeKeeps s q _).trans (notifyThreshold_homeKeeps _ _)

theorem freeTaken_homeKeeps (s : State) (q n : Nat) : HomeKeeps s (freeTaken s q n) := by
  unfold freeTaken
  dsimp only
  split
  · exact reportSpoiled_homeKeeps s q
  · exact (qcbWrite_homeKeeps s q _).trans (settleRemoval_homeKeeps _ _)

/-- A queued access of hart `h`. -/
theorem performOne_accessKeeps (s : State) (h : Nat) (v : Bool) (p : Pending) : AccessKeeps h s (performOne s h v p) := by
  unfold performOne
  generalize hu : (if (s.hart h).run = .free then s else s.setHart h ((s.hart h).tick v 1)) = u
  have hk : AccessKeeps h s u := by
    rw [← hu]
    split
    · exact .view rfl
    · exact setHart_accessKeeps s h _
  refine hk.trans ?_
  cases p with
  | store q b => exact (storePlace_storeKeeps u q b).access h
  | atomic q op n v old => exact setHart_store h _ (storePlace_storeKeeps u q _)
  | unlock q asid => exact (unlockAt_storeKeeps u q asid h).access h
  | lock q asid md ms t => exact lockAt_accessKeeps u q asid h md ms t
  | commit q i n => exact (commitSlots_homeKeeps u q n).toStoreKeeps.access h
  | freeSlots q n => exact (freeTaken_homeKeeps u q n).toStoreKeeps.access h
  | toSlot q slot start n => exact (setHart_accessKeeps u h _).trans (.view rfl)
  | toBank q bank k => exact landImage_accessKeeps u h bank k _
  | cover l => exact .view rfl
  | toScalar => exact setHart_accessKeeps u h _
  | toFp => exact setHart_accessKeeps u h _
  | toElement => exact setHart_accessKeeps u h _

theorem performFirst_accessKeeps (s : State) (h : Nat) (v : Bool) (n : Nat) : AccessKeeps h s (performFirst s h v n) := by
  unfold performFirst
  dsimp only
  split
  · exact .view rfl
  · exact (setHart_accessKeeps s h _).trans (foldl_accessKeeps (fun s p => performOne_accessKeeps s h v p) _ _)

theorem performHart_accessKeeps (s : State) (h : Nat) : AccessKeeps h s (performHart s h) :=
  (performFirst_accessKeeps s h false _).trans (performFirst_accessKeeps _ h true _)

/-! Saving a hart (16 R410). -/

theorem leaveBehind_accessKeeps (s : State) (h : Nat) : AccessKeeps h s (leaveBehind s h) := by
  unfold leaveBehind
  dsimp only
  split
  · exact .view rfl
  split
  · exact .view rfl
  · exact (setHart_accessKeeps s h _).trans (.view rfl)

theorem withdraw_storeKeeps (s : State) (h : Nat) : StoreKeeps s (withdraw s h) := by
  refine StoreKeeps.trans (t := leaveSpawners s h) ?_ (.view rfl)
  unfold leaveSpawners
  dsimp only
  split <;> exact .view rfl

theorem dropEarly_storeKeeps (s : State) (h : Nat) (v : Bool) : StoreKeeps s (dropEarly s h v) := by
  unfold dropEarly
  split <;> exact .view rfl

theorem endEarly_storeKeeps (s : State) (h : Nat) : StoreKeeps s (endEarly s h) :=
  (dropEarly_storeKeeps s h false).trans (dropEarly_storeKeeps _ h true)

/-- What saving a hart leaves: its record, its number free, every other hart as it stood. -/
structure SavesHart (h group : Nat) (held : Bool) (s t : State) : Prop where
  own : t.hart h = {}
  other : ∀ k, k ≠ h → t.hart k = s.hart k
  saved : ∃ w, t.keel.saved = s.keel.saved ++ [w] ∧ w.hartid = h ∧ w.held = held ∧ w.group = group
  agenda : t.agenda = s.agenda
  cur : t.cur = s.cur
  ready : t.hub.ready = s.hub.ready
  packets : t.keel.packets = s.keel.packets

theorem saveHart_saves (s : State) (h group : Nat) (held : Bool) (raised : SMap Nat) :
    SavesHart h group held s (saveHart s h group held raised) := by
  have hk : AccessKeeps h s (endEarly (withdraw (leaveBehind (performHart s h) h) h) h) :=
    (((performHart_accessKeeps s h).trans (leaveBehind_accessKeeps _ h)).trans ((withdraw_storeKeeps _ h).access h)).trans
      ((endEarly_storeKeeps _ h).access h)
  generalize hu : endEarly (withdraw (leaveBehind (performHart s h) h) h) h = u at hk
  obtain ⟨w, hid, hheld, hgroup, hsave⟩ : ∃ w : Saved, w.hartid = h ∧ w.held = held ∧ w.group = group
      ∧ saveHart s h group held raised = { (releaseClaims u h).setHart h {} with keel := { u.keel with
          saved := u.keel.saved ++ [w]
          requests := u.keel.requests.filter fun e => e.1 != h
          ids := u.keel.ids + 1 } } := by
    simp only [saveHart, hu]
    exact ⟨_, rfl, rfl, rfl, rfl⟩
  rw [hsave]
  exact {
    own := State.hart_setHart_same (releaseClaims u h) h {}
    other := fun k hne => (State.hart_setHart_other (releaseClaims u h) h k {} hne).trans (hk.other k hne)
    saved := ⟨w, congrArg (· ++ [w]) hk.saved, hid, hheld, hgroup⟩
    agenda := hk.agenda
    cur := hk.cur
    ready := hk.ready
    packets := hk.packets }

end Sys2Proof.Machine
end

section
/-! SUPPORT. Tasks, jobs and the ends of bodies (10 R267 to R274; 02 R45). -/

namespace Sys2Proof.Machine

/-! Tasks. -/

theorem awake_running {s : State} (h : s.me.run = .running) : (awake s).me = s.me := by
  rw [awake, State.me_setMe, ← h]

/-- A task of the present generation joins the task spool. -/
theorem acceptTask_accepts {s : State} {k : Task} (h : k.gen ≤ s.me.gen) :
    let t := acceptTask s k
    (t.cluster (clusterOf s.cur)).tasks = (s.cluster (clusterOf s.cur)).tasks ++ [k]
      ∧ t.mem = s.mem ∧ t.harts = s.harts ∧ t.cur = s.cur := by
  intro t
  have ht : t = (s.mapPacket k.packet fun p => { p with tasks := p.tasks + 1 }).setCluster (clusterOf s.cur)
      { s.cluster (clusterOf s.cur) with tasks := (s.cluster (clusterOf s.cur)).tasks ++ [k] } :=
    if_neg (Nat.not_lt.mpr h)
  rw [ht]
  exact ⟨by rw [State.cluster_setCluster_same], rfl, rfl, rfl⟩

theorem OnlyCaches.spawnBlocked {s u : State} (h : OnlyCaches s u) : Machine.spawnBlocked u = Machine.spawnBlocked s := by
  simp only [Machine.spawnBlocked, h.cur]
  rw [h.cluster]

theorem spawnBlocked_iff (s : State) :
    spawnBlocked s = true ↔ 4096 ≤ (s.cluster (clusterOf s.cur)).tasks.length
      ∨ ∃ h, (s.cluster (clusterOf s.cur)).spawners.head? = some h ∧ h ≠ s.cur := by
  simp [spawnBlocked, Option.any_eq_true]

/-- A spawn that waits is among the spawners of its cluster. -/
theorem spawnWait_waits (s : State) :
    let t := spawnWait s
    t.me = { s.me with run := .waiting .spawn 0 } ∧ memoryStands s t ∧ s.cur ∈ (t.cluster (clusterOf s.cur)).spawners := by
  intro t
  cases hc : (s.cluster (clusterOf s.cur)).spawners.contains s.cur with
  | true =>
    have ht : t = waitAt s .spawn 0 := congrArg (waitAt · .spawn 0) (if_pos hc)
    rw [ht]
    exact ⟨State.me_setMe _ _, ⟨fun _ => rfl, fun h hne => State.hart_setMe_other _ _ _ hne⟩, List.contains_iff_mem.mp hc⟩
  | false =>
    have ht : t = waitAt (s.setCluster (clusterOf s.cur) { s.cluster (clusterOf s.cur) with
        spawners := (s.cluster (clusterOf s.cur)).spawners ++ [s.cur] }) .spawn 0 :=
      congrArg (waitAt · .spawn 0) (if_neg (by rw [hc]; decide))
    rw [ht]
    refine ⟨State.me_setMe _ _, ⟨fun _ => rfl, fun h hne => State.hart_setMe_other _ _ _ hne⟩, ?_⟩
    have hs := State.cluster_setCluster_same s (clusterOf s.cur) { s.cluster (clusterOf s.cur) with
      spawners := (s.cluster (clusterOf s.cur)).spawners ++ [s.cur] }
    exact (congrArg (fun c => s.cur ∈ c.spawners) hs).mpr (List.mem_append_right _ List.mem_cons_self)

/-- What `spawn` does with a record that is task `k`, read before state `u`, and a join counter in memory. -/
theorem exec_spawn {s u : State} (hs : free s) (hp : spliced s s.me = false) {r : Reg} {p : Resolved} {k : Task}
    (hr : waitCheck s (s.agent s.cur) (s.me.readS r).toNat 32 = .ok p) (hk : taskOf s (readPlace s p.place 32) = k)
    (hu : tagAt (touch (noteRead s (.ok p)) (s.agent s.cur) .load (s.me.readS r).toNat) s.me p.place = u) {j : Nat}
    {c : PageClass} (hj : check u (s.agent s.cur) .atomic k.join.toNat 8 = .ok ⟨.ram j, c⟩) (hn : s.word j 8 < 2 ^ 32 - 1) :
    exec (.spawn r) s = if spawnBlocked s then .next (spawnWait u)
      else .next (finish (awake (acceptTask (writeRam (tagAt (touch u (s.agent s.cur) .atomic k.join.toNat) u.me (.ram j)) j
        (leBytes 8 (s.word j 8 + 1))) k))) := by
  have ho : OnlyCaches s u :=
    hu ▸ ((noteRead_onlyCaches s _).trans (touch_onlyCaches _ _ _ _)).trans (tagAt_onlyCaches _ _ _)
  have hsp : (u.cluster (clusterOf u.cur)).spawners.contains u.cur = false := by
    rw [ho.cur, ho.cluster]
    exact hs.2.2.1
  have hw : leNat (readPlace u (.ram j) 8) = s.word j 8 := ho.word j 8
  simp only [exec, execSpawn, unchained_free s _ hs, hp, hr]
  simp only [Bool.false_eq_true, if_false, hk, hu, hj, hw, leaveSpawners_plain u u.cur hsp, ho.spawnBlocked,
    if_neg (Nat.not_le.mpr hn), storePlace]

/-- What `joinw` does with a word in memory, read before state `u`. -/
theorem exec_joinw {s u : State} (hs : free s) (hrun : s.me.run = .running) {r : Reg} {l : Nat} {c : PageClass}
    (hl : waitCheck s (s.agent s.cur) (s.me.readS r).toNat 8 = .ok ⟨.ram l, c⟩)
    (hu : tagAt (touch (noteRead s (.ok ⟨.ram l, c⟩)) (s.agent s.cur) .load (s.me.readS r).toNat) s.me (.ram l) = u) :
    exec (.joinw r) s
      = if armedWord u l 8 = 0 then .next (finish u) else .next (waitAt u (.join l false) (s.me.readS r)) := by
  simp only [exec, execJoinw, unchained_free s _ hs, hrun, hl, hu, locOf, Place.loc]

/-- The tasks of a hart (10 R267 to R269). -/
theorem tasks : Claims.Tasks := by
  intro s r p hs hrun a va
  refine ⟨fun hsp hr j c => ?_, spawnBlocked_iff s, fun l c hl hd => ?_⟩
  · intro k s' hj hn hg
    have hx := exec_spawn hs hsp hr rfl rfl hj hn
    have hu : OnlyCaches s s' := ((noteRead_onlyCaches s _).trans (touch_onlyCaches _ _ _ _)).trans (tagAt_onlyCaches _ _ _)
    refine ⟨fun hb => ?_, fun hb => ?_⟩
    · rw [hb, if_neg Bool.false_ne_true] at hx
      refine ⟨_, hx, ?_⟩
      have hv : OnlyCaches s (tagAt (touch s' (s.agent s.cur) .atomic k.join.toNat) s'.me (.ram j)) :=
        (hu.trans (touch_onlyCaches _ _ _ _)).trans (tagAt_onlyCaches _ _ _)
      generalize tagAt (touch s' (s.agent s.cur) .atomic k.join.toNat) s'.me (.ram j) = v at hv ⊢
      have hw : (writeRam v j (leBytes 8 (s.word j 8 + 1))).me = s.me := hv.me
      obtain ⟨htasks, hmem, hharts, hcur⟩ := acceptTask_accepts (s := writeRam v j (leBytes 8 (s.word j 8 + 1))) (hw ▸ hg)
      have hc : (acceptTask (writeRam v j (leBytes 8 (s.word j 8 + 1))) k).cur = s.cur := hcur.trans hv.cur
      have hh : (acceptTask (writeRam v j (leBytes 8 (s.word j 8 + 1))) k).harts = s.harts := hharts.trans hv.harts
      have hm : (acceptTask (writeRam v j (leBytes 8 (s.word j 8 + 1))) k).me = s.me := State.me_congr hh hc
      generalize acceptTask (writeRam v j (leBytes 8 (s.word j 8 + 1))) k = y at *
      have hbyte : ∀ b, (finish (awake y)).byte b = (writeRam v j (leBytes 8 (s.word j 8 + 1))).byte b := fun b =>
        congrArg (Tab.get 0 · b) hmem
      refine ⟨?_, ?_, fun b hb => ?_, ?_, fun h hne => ?_⟩
      · rw [show (writeRam v j (leBytes 8 (s.word j 8 + 1))).cur = s.cur from hv.cur] at htasks
        exact htasks.trans (congrArg (·.tasks ++ [k]) (hv.cluster _))
      · rw [word_congr (s := writeRam v j (leBytes 8 (s.word j 8 + 1))) fun i _ => hbyte (j + i)]
        exact (readPlace_writeRam_leBytes v j 8 _).trans (Nat.mod_eq_of_lt (by omega))
      · rw [hbyte, writeRam_leBytes_out v j 8 _ b hb]
        exact hv.byte b
      · rw [finish_me, awake_running (hm ▸ hrun), hm]
      · rw [finish, State.hart_setMe_other _ _ _ (by rw [show (awake y).cur = y.cur from rfl, hc]; exact hne), awake,
          State.hart_setMe_other _ _ _ (hc ▸ hne), State.hart, hh]
        rfl
    · rw [hb, if_pos rfl] at hx
      refine ⟨_, hx, ?_⟩
      obtain ⟨hme, ⟨hbyte, hother⟩, hin⟩ := spawnWait_waits s'
      rw [hu.me] at hme
      rw [hu.cur] at hin hother
      exact ⟨hme, ⟨fun b => (hbyte b).trans (hu.byte b), fun h hne => (hother h hne).trans (hu.hart h)⟩, hin⟩
  · have hu : OnlyCaches s (tagAt (touch (noteRead s (.ok ⟨.ram l, c⟩)) a .load va) s.me (.ram l)) :=
      ((noteRead_onlyCaches s _).trans (touch_onlyCaches _ _ _ _)).trans (tagAt_onlyCaches _ _ _)
    have hx := exec_joinw hs hrun hl rfl
    generalize tagAt (touch (noteRead s (.ok ⟨.ram l, c⟩)) a .load va) s.me (.ram l) = u at hu hx
    have hw : armedWord u l 8 = s.word l 8 := by
      rw [armedWord, armedPlace_ram hd]
      exact hu.word l 8
    by_cases h0 : s.word l 8 = 0
    · simp only [hw, h0, if_true] at hx
      obtain ⟨hother, -⟩ := finish_harts hu.harts hu.cur
      refine ⟨_, hx, ⟨fun b => hu.byte b, hother⟩, ?_⟩
      rw [if_pos h0, finish_me, hu.me]
    · simp only [hw, if_neg h0] at hx
      refine ⟨_, hx, ⟨fun b => hu.byte b, fun h hne => ?_⟩, ?_⟩
      · rw [waitAt, State.hart_setMe_other _ _ _ (hu.cur ▸ hne), hu.hart]
      · rw [if_neg h0, waitAt, State.me_setMe, hu.me]

/-! Packets. -/

/-- A change of a packet that keeps its place in acceptance order. -/
theorem packet_mapPacket {s : State} {id : Nat} {f : Packet → Packet} (hf : ∀ p, (f p).id = p.id) :
    (s.mapPacket id f).packet id = (s.packet id).map f := by
  have hmap : ∀ l : List Packet, (l.map fun p => if p.id = id then f p else p).find? (fun p => decide (p.id = id))
      = (l.find? fun p => decide (p.id = id)).map f := by
    intro l
    induction l with
    | nil => rfl
    | cons p r ih =>
      by_cases h : p.id = id
      · simp [h, hf]
      · simp [h, ih]
  exact hmap s.keel.packets

theorem touchJob_onlyCaches (s : State) (q : Reg) : OnlyCaches s (touchJob s q) := by
  unfold touchJob
  split
  · exact OnlyCaches.refl s
  · exact touch_onlyCaches _ _ _ _

theorem OnlyCaches.packet {s u : State} (h : OnlyCaches s u) (id : Nat) : u.packet id = s.packet id := by
  rw [State.packet, h.keel]
  rfl

theorem useWords_onlyCaches (s : State) (k : Access) (w va : Nat) (l : List Place) : OnlyCaches s (useWords s k w va l) := by
  refine foldl_onlyCaches (fun s e => ?_) s _
  dsimp only
  split
  · exact ((touch_onlyCaches _ _ _ _).trans (noteRead_onlyCaches _ _)).trans (tagAt_onlyCaches _ _ _)
  · exact (touch_onlyCaches _ _ _ _).trans (tagAt_onlyCaches _ _ _)

/-- A packet that waits in the window, as its cancellation leaves it. -/
def withdrawn (p : Packet) : Packet :=
  { p with
    gen := p.gen + 1
    phase := if p.hasWords then .completing else .done
    status := if p.status = none ∨ p.status = some 0x10011 then some 0x30000 else p.status
    reported := false
    partner := none
    producer := false
    deleted := [] }

theorem cancelPacket_window {s : State} {k : Packet} (h : s.packet k.id = some k) (hw : k.phase = .window)
    (hp : k.partner = none) :
    let t := cancelPacket s k.id
    t.packet k.id = some (withdrawn k) ∧ t.harts = s.harts ∧ t.cur = s.cur := by
  intro t
  have ht : t = advanceHead (s.mapPacket k.id withdrawn) k.lspool := by
    simp only [t, cancelPacket, h, hw, cancelWaiting, hp]
    rfl
  have hk := advanceHead_homeKeeps (s.mapPacket k.id withdrawn) k.lspool
  rw [ht]
  refine ⟨?_, hk.harts, hk.cur⟩
  rw [State.packet, hk.packets]
  refine (packet_mapPacket (s := s) (id := k.id) (f := withdrawn) fun _ => rfl).trans ?_
  rw [h]
  rfl

/-- What `launch` does with the words of its packet, read before state `u`, and a block that passes its checks, before `v`. -/
theorem exec_launch {s u v : State} (hs : free s) (hp : spliced s s.me = false) {d q p : Reg} {l : List Place} {k : Nat}
    (hl : wordPlaces s (s.agent s.cur) .load 64 (s.me.readS p).toNat 2 = .ok l)
    (hu : useWords s .load 64 (s.me.readS p).toNat l = u) (hk : spoolBlock u (s.me.readS q).toNat = .ok k)
    (hv : touch u (s.agent s.cur) .store (s.me.readS q).toNat = v) :
    exec (.launch d q p) s =
      if !canReserve v k 1 then .next (finishWith v fun x => x.writeS d (BitVec.allOnes 64))
      else if slotsHeld v k .store (qTail (qcbRead v k)) 1 then .next (waitAt v .stack 0)
      else match (enqueue v k [slice (readWords s l 64) 0 (qEsize (qcbRead v k))]).2 with
        | .error e => .next (trap (enqueue v k [slice (readWords s l 64) 0 (qEsize (qcbRead v k))]).1 0x0D (BitVec.ofNat 64 e))
        | .ok i => .next (finishWith (enqueue v k [slice (readWords s l 64) 0 (qEsize (qcbRead v k))]).1 fun x =>
            x.writeS d (BitVec.ofNat 64 i)) := by
  have hme : u.me = s.me := by rw [← hu]; exact (useWords_onlyCaches s _ _ _ l).me
  simp only [exec, execLaunch, unchained_free s _ hs, hp, hl, hu, hme, hk, hv, Bool.false_eq_true, if_false, launchElement] <;> rfl

/-- Packets launched, asked for and cancelled (10 R270 to R272). -/
theorem jobs : Claims.Jobs := by
  intro s d q p hs a
  refine ⟨fun l k hsp hl => ?_, fun j hj => ⟨?_, fun hn => ?_, fun k hk => ?_⟩⟩
  · intro s1 hk s2
    have hx := exec_launch (d := d) hs hsp hl rfl hk rfl
    refine ⟨fun hc => ?_, fun t i hc hh he => ?_⟩
    · rw [hx, hc]
      rfl
    · rw [hx, hc, hh, he]
      rfl
  · simp only [exec, execJstat, unchained_free s _ hs, hj]
  · subst hn
    simp only [exec, execCancel, unchained_free s _ hs, hj]
    exact ⟨rfl, trivial⟩
  · subst hk
    have hx : exec (.cancel q p) s = .next (finish (cancelPacket (touchJob s q) k.id)) := by
      simp only [exec, execCancel, unchained_free s _ hs, hj]
    have hpk : (touchJob s q).packet k.id = s.packet k.id := (touchJob_onlyCaches s q).packet k.id
    refine ⟨fun hw hg => ?_, fun hw hg => ?_, fun hw ho hg hst => ?_, fun hw hself => ?_, fun hw hp hst hself => ?_⟩
    · simp [jstatWord, hw, hg]
    · simp [jstatWord, hw, hg]
    · simp [jstatWord, hw, ho, hg, hst]
    · rw [hx]
      unfold cancelPacket
      rw [hpk, hself]
      obtain h | h := hw <;> simp only [h]
    · obtain ⟨hpacket, hharts, hcur⟩ := cancelPacket_window (hpk.trans hself) hw hp
      obtain ⟨hother, -⟩ := finish_harts (hharts.trans (touchJob_onlyCaches s q).harts) (hcur.trans (touchJob_onlyCaches s q).cur)
      refine ⟨_, hx, hother, ?_⟩
      refine (congrArg (Option.map _) hpacket).trans ?_
      simp [withdrawn, hst]

/-! The ends of bodies. -/

theorem exec_next_group {s : State} (hs : free s) {p : Packet} {id g2 g3 g4 g5 k : Nat}
    (hw : s.me.work = .group id g2 g3 g4 g5 k) (hp : s.packet id = some p) (hn : p.partner = none) :
    exec .next s = if !stoppedAt s (clusterOf s.cur) id && decide (k + 1 < p.ext 1)
      then .next (enterStrip s p g2 g3 g4 g5 (k + 1)) else .next (retireNext s) := by
  simp only [exec, execNext, unchained_free s _ hs, hw, hp, hn, Option.bind_none]

theorem packet_id {s : State} {id : Nat} {p : Packet} (h : s.packet id = some p) : p.id = id := by
  have := List.find?_some h
  simpa using this

/-- The hart at the entry of strip `k`. -/
def stripHart (x : Hart) (p : Packet) (g2 g3 g4 g5 k : Nat) : Hart :=
  { x with
    lc0 := { x.lc0 with busy := false }
    lc1 := { x.lc1 with busy := false }
    mode := .user
    wid := p.wid [0, k, g2, g3, g4, g5]
    work := .group p.id g2 g3 g4 g5 k
    pc := p.desc.entry
    cursors := []
    qual := false }

theorem enterStrip_eq (s : State) (p : Packet) (g2 g3 g4 g5 k : Nat) :
    enterStrip s p g2 g3 g4 g5 k = s.setMe (((stripHart s.me p g2 g3 g4 g5 k).writeS 1 (p.wid [0, k, g2, g3, g4, g5])).writeS 2
      (BitVec.ofNat 64 (p.stripCount k))) := rfl

/-- The following strip of a hart group. -/
theorem nextStrip {s : State} (hs : free s) {p : Packet} {id g2 g3 g4 g5 k : Nat}
    (hw : s.me.work = .group id g2 g3 g4 g5 k) (hp : s.packet id = some p) (hn : p.partner = none)
    (hst : stoppedAt s (clusterOf s.cur) id = false) (hk : k + 1 < p.ext 1) :
    let w := p.wid [0, k + 1, g2, g3, g4, g5]
    ∃ t, exec .next s = .next t ∧ onlyMe s t ∧ t.me.pc = p.desc.entry ∧ t.me.wid = w ∧ t.me.readS 1 = w
      ∧ t.me.readS 2 = BitVec.ofNat 64 (p.stripCount (k + 1)) ∧ (∀ r : Reg, r ≠ 1 → r ≠ 2 → t.me.readS r = s.me.readS r)
      ∧ t.me.f = s.me.f ∧ t.me.v = s.me.v ∧ t.me.lc0.busy = false ∧ t.me.lc1.busy = false
      ∧ t.me.work = .group id g2 g3 g4 g5 (k + 1) := by
  intro w
  have hx := exec_next_group hs hw hp hn
  rw [hst, decide_eq_true hk, if_pos (by rfl), enterStrip_eq] at hx
  refine ⟨_, hx, setMe_onlyMe _ _, ?_⟩
  rw [State.me_setMe]
  refine ⟨rfl, rfl, ?_, Hart.readS_writeS_same _ _ _ (by decide), fun r h1 h2 => ?_, rfl, rfl, rfl, rfl, ?_⟩
  · rw [Hart.readS_writeS_other _ _ _ _ (by decide), Hart.readS_writeS_same _ _ _ (by decide)]
  · rw [Hart.readS_writeS_other _ _ _ _ h2, Hart.readS_writeS_other _ _ _ _ h1]
    rfl
  · exact congrArg (Work.group · g2 g3 g4 g5 (k + 1)) (packet_id hp)

theorem leaveGang_harts (s : State) (h : Nat) : ∃ l, leaveGang s h = { s with harts := l } := by
  unfold leaveGang
  split
  · exact ⟨_, rfl⟩
  · dsimp only
    refine foldl_keeps (P := fun u => ∃ l, u = { s with harts := l }) (fun u e hu => ?_) ?_ _
    · obtain ⟨l, rfl⟩ := hu
      exact ⟨_, rfl⟩
    · exact ⟨_, rfl⟩

theorem releaseClaims_core (s : State) (h : Nat) :
    ((releaseClaims s h).core (coreOf h)).slotOwner = dropOwned h (s.core (coreOf h)).slotOwner
      ∧ ((releaseClaims s h).core (coreOf h)).tethers = dropTethers h (s.core (coreOf h)).tethers := by
  have hslots : (releaseSlots s h).core (coreOf h) = { s.core (coreOf h) with
      slotOwner := dropOwned h (s.core (coreOf h)).slotOwner
      slots := (s.core (coreOf h)).slots.filter fun e => Tab.get none (s.core (coreOf h)).slotOwner e.1 != some h } :=
    State.core_setCore_same s _ _
  rw [releaseClaims, State.core_setCore_same, hslots]
  exact ⟨rfl, rfl⟩

theorem dropTethers_not (h : Nat) (m : SMap (Option Tether)) (k : Nat) (w : Tether) (hw : Tab.get none (dropTethers h m) k = some w) :
    w.owner ≠ h := by
  obtain he | he := Tab.get_mem_or none (dropTethers h m) k
  · exact nomatch hw.symm.trans he
  · rw [hw] at he
    simpa [dropTethers] using (List.mem_filter.mp he).2

theorem retireHart_retires {s : State} (hs : free s) {id g2 g3 g4 g5 k : Nat} (hw : s.me.work = .group id g2 g3 g4 g5 k) :
    let t := retireHart s s.cur
    t.hart s.cur = {} ∧ (t.cluster (clusterOf t.cur)).reports ++ (t.cluster (clusterOf t.cur)).outbox
        = (s.cluster (clusterOf s.cur)).reports ++ (s.cluster (clusterOf s.cur)).outbox ++ [.retired id]
      ∧ (∀ i, ownsSlot t s.cur i = false ∧ (∀ w, tetherAt t s.cur i = some w → w.owner ≠ s.cur))
      ∧ ∀ a, t.byte a = s.byte a := by
  intro t
  obtain ⟨-, ⟨-, hsq, hvq, -, ha⟩, -⟩ := hs
  obtain ⟨l, hl⟩ := leaveGang_harts s s.cur
  have ht : t = sendReport { (releaseClaims { s with harts := l } s.cur).setHart s.cur {} with
      keel := { s.keel with requests := s.keel.requests.filter fun e => e.1 != s.cur } } (clusterOf s.cur) (.retired id) := by
    have hwork : (s.hart s.cur).work = .group id g2 g3 g4 g5 k := hw
    simp only [t, retireHart, performHart_empty hsq hvq, leaveBehind_plain s s.cur hvq, endEarly_plain s s.cur ha, hl, hwork]
    rfl
  have hcore : ∀ c, t.core c = (releaseClaims { s with harts := l } s.cur).core c := fun c => by
    rw [ht]
    rfl
  obtain ⟨hslots, htethers⟩ := releaseClaims_core { s with harts := l } s.cur
  refine ⟨?_, ?_, fun i => ⟨?_, fun w hw => ?_⟩, fun a => ?_⟩
  · rw [ht]
    exact State.hart_setHart_same (releaseClaims { s with harts := l } s.cur) s.cur {}
  · have hc : t.cur = s.cur := by
      rw [ht]
      rfl
    rw [hc, ht]
    exact sendReport_told _ _ _
  · rw [ownsSlot, hcore, hslots]
    exact beq_eq_false_iff_ne.mpr (dropOwned_not _ _ i)
  · rw [tetherAt, hcore, htethers] at hw
    exact dropTethers_not _ _ i w hw
  · rw [ht]
    rfl

theorem exec_yield_alone {s : State} (hs : free s) (hq : (s.cluster (clusterOf s.cur)).queue = [])
    (ht : (s.cluster (clusterOf s.cur)).tasks = []) : exec .yield s = .next (finish s) := by
  have hheads : waitingHeads s (clusterOf s.cur) = [] := by
    simp only [waitingHeads, headPlacement, headTask, hq, ht]
    rfl
  simp only [exec, execYield, unchained_free s _ hs, hheads, List.find?_nil]
  split <;> rfl

/-- The ends of bodies (02 R45; 10 R273). -/
theorem bodies : Claims.Bodies := by
  intro s p id g2 g3 g4 g5 k hs
  refine ⟨fun hw hp hn => ⟨fun hst hk => nextStrip hs hw hp hn hst hk, fun hk hg hj hsq hvq => ?_, fun hk hj => ?_⟩,
    fun hq ht => exec_yield_alone hs hq ht⟩
  · have hx := exec_next_group hs hw hp hn
    rw [decide_eq_false (Nat.not_lt.mpr hk), Bool.and_false, if_neg Bool.false_ne_true] at hx
    have hr : retireNext s = retireHart s s.cur := by
      simp only [retireNext, hw, hp, hg, hj, Bool.or_true, List.isEmpty_nil, Bool.and_self, if_true]
    rw [hr] at hx
    exact ⟨_, hx, retireHart_retires hs hw⟩
  · have hx := exec_next_group hs hw hp hn
    rw [decide_eq_false (Nat.not_lt.mpr hk), Bool.and_false, if_neg Bool.false_ne_true] at hx
    have hr : retireNext s = waitAt s .drain 0 := by
      have he : (jobsOf s s.cur).isEmpty = false := by
        cases hl : jobsOf s s.cur with
        | nil => exact absurd hl hj
        | cons j r => rfl
      simp only [retireNext, he, Bool.and_false, Bool.false_eq_true, if_false]
    rw [hr] at hx
    exact ⟨_, hx, State.me_setMe _ _, fun _ => rfl, fun h hne => State.hart_setMe_other _ _ _ hne⟩

/-- Settles O46. -/
theorem tasksAndJobs : Obligations.TasksAndJobs := ⟨tasks, jobs, bodies⟩

end Sys2Proof.Machine
end

section
/-! SUPPORT. Pre-emption and resumption (16 R410 to R413; 14 R359, R376). -/

namespace Sys2Proof.Machine

/-! Messages to Gondolas (01 R29). -/

/-- A message joins those on their way to its Gondola. -/
theorem sendCommand_underway (s : State) (cl k : Nat) (m : Command) :
    ((sendCommand s cl m).cluster k).underway = (s.cluster k).underway ++ if k = cl then [m] else [] := by
  unfold sendCommand
  dsimp only
  by_cases hk : k = cl
  · subst hk
    rw [State.cluster_setCluster_same, if_pos rfl]
    split
    · simp [Cluster.underway]
    · next h =>
      have hb : (s.cluster k).backlog = [] := by simpa using (not_or.mp h).2
      simp [Cluster.underway, hb]
  · rw [State.cluster_setCluster_other _ _ _ _ hk, if_neg hk, List.append_nil]

/-- One message to each Gondola of a list. -/
theorem sendCommands_underway (f : Nat → Command) {l : List Nat} (hl : l.Nodup) (s : State) (k : Nat) :
    ((l.foldl (fun s cl => sendCommand s cl (f cl)) s).cluster k).underway
      = (s.cluster k).underway ++ if k ∈ l then [f k] else [] := by
  induction l generalizing s with
  | nil => simp
  | cons a r ih =>
    obtain ⟨ha, hr⟩ := List.nodup_cons.mp hl
    rw [List.foldl_cons, ih hr, sendCommand_underway]
    by_cases hk : k = a
    · subst hk
      simp [ha]
    · simp [hk]

theorem sendCommands_harts (f : Nat → Command) (l : List Nat) (s : State) :
    (l.foldl (fun s cl => sendCommand s cl (f cl)) s).harts = s.harts :=
  foldl_keeps (P := fun u : State => u.harts = s.harts) (f := fun s cl => sendCommand s cl (f cl)) (fun _ _ h => h) rfl l

/-- The messages that ask for the suspension of the harts of `l`. -/
theorem suspendAll_sends (s : State) (l : List Nat) :
    (suspendAll s l).harts = s.harts ∧ ∀ cl, ((suspendAll s l).cluster cl).underway = (s.cluster cl).underway
      ++ (if (toSuspend s l).filter (fun e => decide (clusterOf e.1 = cl)) = [] then []
        else [.suspend s.keel.ids ((toSuspend s l).filter fun e => decide (clusterOf e.1 = cl))]) := by
  unfold suspendAll
  dsimp only
  generalize toSuspend s l = m
  cases hm : m.isEmpty with
  | true =>
    rw [List.isEmpty_iff.mp hm]
    exact ⟨rfl, fun cl => (List.append_nil _).symm⟩
  | false =>
    rw [if_neg Bool.false_ne_true]
    refine ⟨sendCommands_harts _ _ _, fun cl => (sendCommands_underway _ (distinct_nodup _) _ cl).trans ?_⟩
    have hin : cl ∈ distinct (m.map fun e => clusterOf e.1) ↔ m.filter (fun e => decide (clusterOf e.1 = cl)) ≠ [] := by
      rw [mem_distinct, ne_eq, List.filter_eq_nil_iff]
      simp
    by_cases h : m.filter (fun e => decide (clusterOf e.1 = cl)) = []
    · rw [if_pos h, if_neg fun hc => hin.mp hc h]
      rfl
    · rw [if_neg h, if_pos (hin.mpr h)]
      rfl

/-! A Gondola that copies a suspension. -/

/-- Hart `k` is saved in group `g`, and its number is free. -/
def savedIn (g k : Nat) (s : State) : Prop :=
  s.hart k = {} ∧ ∃ w ∈ s.keel.saved, w.hartid = k ∧ w.held = false ∧ w.group = g

theorem suspendHart_savedIn {s : State} {g h : Nat} (hm : midGroup (s.hart h) = false) : savedIn g h (suspendHart s h g) := by
  unfold suspendHart
  rw [hm, if_neg Bool.false_ne_true]
  have hs := saveHart_saves s h g false (s.hart h).raised
  obtain ⟨w, hw, hid, hheld, hgroup⟩ := hs.saved
  exact ⟨hs.own, w, hw ▸ List.mem_append_right _ List.mem_cons_self, hid, hheld, hgroup⟩

theorem suspendHart_other (s : State) (h g k : Nat) (hk : k ≠ h) : (suspendHart s h g).hart k = s.hart k := by
  unfold suspendHart
  split
  · rfl
  · exact (saveHart_saves s h g false _).other k hk

theorem suspendHart_keeps (s : State) (h g k : Nat) (hk : savedIn g k s) : savedIn g k (suspendHart s h g) := by
  obtain ⟨hhart, w, hw, hrest⟩ := hk
  by_cases he : k = h
  · subst he
    exact suspendHart_savedIn (by rw [hhart]; rfl)
  · refine ⟨(suspendHart_other s h g k he).trans hhart, w, ?_, hrest⟩
    unfold suspendHart
    split
    · exact hw
    · obtain ⟨v, hv, -⟩ := (saveHart_saves s h g false (s.hart h).raised).saved
      rw [hv]
      exact List.mem_append_left _ hw

/-- Every hart of the list outside a chain group is saved. -/
theorem suspendHarts_savedIn {g k : Nat} {l : List (Nat × Nat)} (hl : ∃ e ∈ l, e.1 = k) {s : State}
    (hm : midGroup (s.hart k) = false) : savedIn g k (l.foldl (fun s e => suspendHart s e.1 g) s) := by
  induction l generalizing s with
  | nil => simp at hl
  | cons a r ih =>
    rw [List.foldl_cons]
    by_cases ha : a.1 = k
    · have hk : savedIn g k (suspendHart s a.1 g) := by
        rw [ha]
        exact suspendHart_savedIn hm
      generalize suspendHart s a.1 g = u at hk ⊢
      exact foldl_keeps (f := fun s e => suspendHart s e.1 g) (fun s e h => suspendHart_keeps s e.1 g k h) hk r
    · obtain ⟨e, he, hek⟩ := hl
      have her : e ∈ r := (List.mem_cons.mp he).resolve_left fun hh => ha (hh ▸ hek)
      have hother := suspendHart_other s a.1 g k (Ne.symm ha)
      generalize suspendHart s a.1 g = u at hother ⊢
      exact ih ⟨e, her, hek⟩ (hother ▸ hm)

theorem copySuspension {s : State} {cl g : Nat} {m : List (Nat × Nat)} {r : List Command}
    (hl : (s.cluster cl).link = .suspend g m :: r) : ∃ t, exec (.gondolaCopyMessage cl) s = .next t ∧ ∀ e ∈ m,
      clusterOf e.1 = cl → (s.hart e.1).run ≠ .free → (s.hart e.1).placed = e.2 → midGroup (s.hart e.1) = false →
      t.hart e.1 = {} ∧ ∃ w ∈ t.keel.saved, w.hartid = e.1 ∧ w.held = false ∧ w.group = g := by
  have hx : exec (.gondolaCopyMessage cl) s = .next (suspendHere (s.setCluster cl (s.cluster cl).copied) cl g m) := by
    simp only [exec, execGondolaCopyMessage, copyCommand, hl, heedCommand]
  refine ⟨_, hx, fun e he hc hrun hp hm => suspendHarts_savedIn ⟨e, List.mem_filter.mpr ⟨he, ?_⟩, rfl⟩ hm⟩
  simp only [hc, decide_true, Bool.true_and, Bool.and_eq_true, bne_iff_ne, decide_eq_true_eq]
  exact ⟨hrun, hp⟩

/-! Resumption (16 R413). -/

theorem performAll_saved (s : State) : (performAll s).keel.saved = s.keel.saved := by
  unfold performAll
  refine foldl_keeps (P := fun u : State => u.keel.saved = s.keel.saved) (fun u e h => ?_) rfl s.harts
  exact (performHart_accessKeeps u e.1).saved.trans h

theorem dropReads_keel (s : State) (c : Nat) : (dropReads s c).keel = s.keel := by
  unfold dropReads
  dsimp only
  split <;> rfl

theorem stashSpill_keel (s : State) (c : Nat) (e : Stash) : (stashSpill s c e).keel = s.keel := by
  unfold stashSpill
  refine foldl_keeps (P := fun u : State => u.keel = s.keel) (fun u l h => ?_) rfl _
  dsimp only
  split <;> exact h

theorem spillStashes_keel (s : State) (c : Nat) (p : Stash → Bool) : (spillStashes s c p).keel = s.keel :=
  foldl_keeps (P := fun u : State => u.keel = s.keel) (f := fun s e => stashSpill s c e)
    (fun u e h => (stashSpill_keel u c e).trans h) rfl _

theorem switchCore_saved (s : State) (c asid : Nat) : (switchCore s c asid).keel.saved = s.keel.saved := by
  unfold switchCore
  split
  · rfl
  · have hu : (spillStashes (rearm (dropReads (performAll s) c) c) c fun _ => true).keel.saved = s.keel.saved := by
      rw [spillStashes_keel, show (rearm (dropReads (performAll s) c) c).keel = (dropReads (performAll s) c).keel from rfl,
        dropReads_keel, performAll_saved]
    generalize (spillStashes (rearm (dropReads (performAll s) c) c) c fun _ => true) = u at hu
    dsimp only
    split <;> exact hu

/-- A hart with no loop that ends at its PC goes on there. -/
theorem goOn_plain (s : State) (h : Nat) (x : Hart) (hp : plainAt x x.pc) : goOn s h x = s.setHart h (arrive x x.pc) := by
  have he : endProblem s h x (arrive x x.pc) = none := by
    rw [arrive_plain x x.pc hp]
    simp [endProblem]
  simp only [goOn, he]

theorem reopens_stand (s : State) (h : Nat) (l : SMap (Option Tether)) :
    let t := l.foldl (fun s e => match e.2 with | some t => reopen s h e.1 (s.agent h) t | none => s) s
    t.harts = s.harts ∧ t.keel = s.keel := by
  intro t
  refine foldl_keeps (P := fun u : State => u.harts = s.harts ∧ u.keel = s.keel) (fun u e hu => ?_) ⟨rfl, rfl⟩ l
  split <;> exact hu

/-- What a token of a saved hart stands for once it is restored. -/
def restoredToken (s : State) (r : Saved) (k : Nat) (t : Token) : Token :=
  match t with
  | .pending j => (match s.jobs.find? fun e => decide (e.id = j) with | some _ => t | none => Tab.get t r.hart.tokens k)
  | t => t

/-- The hart that is restored. -/
def restoredHart (s : State) (r : Saved) : Hart :=
  { r.hart with tokens := r.hart.tokens.map fun e => (e.1, restoredToken s r e.1 e.2) }

theorem restoreHart_goesOn (s : State) (r : Saved) : ∃ u, restoreHart s r = goOn u r.hartid (u.hart r.hartid)
    ∧ u.harts = (s.setHart r.hartid (restoredHart s r)).harts
    ∧ u.keel.saved = s.keel.saved.filter fun e => e.id != r.id := by
  refine ⟨_, rfl, ?_, ?_⟩
  · exact (reopens_stand _ _ _).1
  · exact congrArg (fun k : Keel => k.saved.filter fun e => e.id != r.id) (reopens_stand _ _ _).2

/-- What a saved hart that is restored leaves. -/
theorem restoreHart_restores (s : State) (r : Saved) (hp : plainAt r.hart r.hart.pc) :
    let t := restoreHart s r
    (∃ k, t.hart r.hartid = arrive { r.hart with tokens := k } r.hart.pc) ∧ (∀ h, h ≠ r.hartid → t.hart h = s.hart h)
      ∧ t.keel.saved = s.keel.saved.filter fun e => e.id != r.id := by
  intro t
  obtain ⟨u, ht, hharts, hsaved⟩ := restoreHart_goesOn s r
  have hhart : ∀ h, u.hart h = (s.setHart r.hartid (restoredHart s r)).hart h := fun h => by
    rw [State.hart, hharts]
    rfl
  have hown : u.hart r.hartid = restoredHart s r := (hhart _).trans (State.hart_setHart_same _ _ _)
  have ht' : t = u.setHart r.hartid (arrive (restoredHart s r) r.hart.pc) := by
    rw [show t = _ from ht, hown]
    exact goOn_plain u r.hartid (restoredHart s r) hp
  rw [ht']
  refine ⟨⟨_, State.hart_setHart_same _ _ _⟩, fun h hne => ?_, hsaved⟩
  rw [State.hart_setHart_other _ _ _ _ hne, hhart, State.hart_setHart_other _ _ _ _ hne]

/-- A saved hart as its group's resumption restores it. -/
def resumed (raised : Saved → SMap Nat) (s : State) (r : Saved) : Saved :=
  { r with hart := { r.hart with raised := raised r, placed := s.keel.ids } }

/-- What the restoring of harts of different numbers leaves. -/
theorem restoreHarts_restore (raised : Saved → SMap Nat) {l : List Saved} (hn : (l.map (·.hartid)).Nodup)
    (hp : ∀ r ∈ l, plainAt r.hart r.hart.pc) (s : State) :
    let t := l.foldl (fun s r => restoreHart s (resumed raised s r)) s
    (∀ r ∈ l, ∃ k m n, t.hart r.hartid = arrive { r.hart with tokens := k, raised := m, placed := n } r.hart.pc)
      ∧ (∀ h, h ∉ l.map (·.hartid) → t.hart h = s.hart h)
      ∧ ∀ w ∈ t.keel.saved, w ∈ s.keel.saved ∧ ∀ r ∈ l, w.id ≠ r.id := by
  induction l generalizing s with
  | nil => exact ⟨by simp, fun _ _ => rfl, fun w hw => ⟨hw, by simp⟩⟩
  | cons a r ih =>
    intro t
    rw [List.map_cons] at hn
    obtain ⟨ha, hr⟩ := List.nodup_cons.mp hn
    obtain ⟨⟨k, hown⟩, hother, hsaved⟩ := restoreHart_restores s (resumed raised s a) (hp a List.mem_cons_self)
    obtain ⟨hall, hothers, hleft⟩ := ih hr (fun r hr => hp r (List.mem_cons_of_mem _ hr)) (restoreHart s (resumed raised s a))
    have ht : t = r.foldl (fun s r => restoreHart s (resumed raised s r)) (restoreHart s (resumed raised s a)) := rfl
    rw [← ht] at hall hothers hleft
    refine ⟨fun b hb => ?_, fun h hh => ?_, fun w hw => ?_⟩
    · obtain rfl | hb := List.mem_cons.mp hb
      · exact ⟨k, raised b, s.keel.ids, (hothers b.hartid ha).trans hown⟩
      · exact hall b hb
    · rw [List.map_cons, List.mem_cons, not_or] at hh
      exact (hothers h hh.2).trans (hother h hh.1)
    · obtain ⟨hw, hne⟩ := hleft w hw
      rw [hsaved, List.mem_filter] at hw
      refine ⟨hw.1, fun b hb => ?_⟩
      obtain rfl | hb := List.mem_cons.mp hb
      · exact bne_iff_ne.mp hw.2
      · exact hne b hb


theorem resumeGroup {s : State} {g : Nat} (hg : groupResumable s g = true)
    (hn : ((s.keel.saved.filter fun r => decide (r.group = g)).map (·.hartid)).Nodup)
    (hp : ∀ r ∈ s.keel.saved.filter (fun r => decide (r.group = g)), plainAt r.hart r.hart.pc)
    (hb : ∀ r ∈ s.keel.saved.filter (fun r => decide (r.group = g)), resumeBehind s (clusterOf r.hartid) g
      (waitingPrio s (.resume g)) (((s.keel.saved.filter fun r => decide (r.group = g)).head?.bind fun r =>
        jobPacket r.hart).getD 0) = false) :
    ∃ t, exec (.resumeHartGroup g) s = .next t ∧ (∀ r ∈ t.keel.saved, r.group ≠ g)
      ∧ ∀ r ∈ s.keel.saved, r.group = g → ∃ k m n,
        t.hart r.hartid = arrive { r.hart with tokens := k, raised := m, placed := n } r.hart.pc := by
  have hin : ∀ r, r ∈ s.keel.saved.filter (fun r => decide (r.group = g)) ↔ r ∈ s.keel.saved ∧ r.group = g := fun r => by
    rw [List.mem_filter, decide_eq_true_eq]
  generalize hl : (s.keel.saved.filter fun r => decide (r.group = g)) = l at hn hp hb hin
  have hany : (l.any fun r => resumeBehind s (clusterOf r.hartid) g (waitingPrio s (.resume g))
      ((l.head?.bind fun r => jobPacket r.hart).getD 0)) = false :=
    List.any_eq_false.mpr fun r hr => by rw [hb r hr]; decide
  obtain ⟨u, raised, hu, hx⟩ : ∃ u raised, u.keel.saved = s.keel.saved ∧ exec (.resumeHartGroup g) s
      = (let v := l.foldl (fun s r => restoreHart s (resumed raised s r)) u
        .next { v with keel := { v.keel with ids := v.keel.ids + 1 } }) := by
    refine ⟨l.foldl (fun s r => switchCore s (coreOf r.hartid) r.hart.asid) s, fun r => r.raised.filter fun e =>
      decide (((l.foldl (fun s r => switchCore s (coreOf r.hartid) r.hart.asid) s).context r.hart.asid).prio < e.2), ?_, ?_⟩
    · exact foldl_keeps (P := fun u : State => u.keel.saved = s.keel.saved)
        (f := fun s r => switchCore s (coreOf r.hartid) r.hart.asid)
        (fun u r h => (switchCore_saved u (coreOf r.hartid) r.hart.asid).trans h) rfl l
    · simp only [exec, execResumeHartGroup, hl, hg, hany]
      rfl
  obtain ⟨hall, -, hleft⟩ := restoreHarts_restore raised hn hp u
  refine ⟨_, hx, fun w hw hgw => ?_, fun r hr hgr => hall r ((hin r).mpr ⟨hr, hgr⟩)⟩
  obtain ⟨hw, hne⟩ := hleft w hw
  exact hne w ((hin w).mpr ⟨hu ▸ hw, hgw⟩) rfl

/-! Requests for suspension. -/

theorem byPrio_single (s : State) (w : Waiting) : byPrio s [w] = [w] := by
  have hall : ∀ k, k ≤ 7 → ((List.range 8).reverse).flatMap (fun p => [w].filter fun _ => decide (k = p)) = [w] := by
    intro k hk
    interval_cases k <;> rfl
  exact hall (min 7 (waitingPrio s w)) (Nat.min_le_left _ _)

theorem makeRoom_canStart {cl : Nat} {w : Waiting} {l : List Nat} {s : State} {room : List (List Nat)}
    (h : makeRoom s cl w l = some room) : canStart (room.foldl freedBy s) cl w = true := by
  induction l generalizing s room with
  | nil => exact nomatch h
  | cons a r ih =>
    rw [makeRoom] at h
    dsimp only at h
    split at h
    · exact ih h
    split at h
    · exact nomatch h
    split at h
    · next hc =>
      obtain rfl := Option.some.inj h
      exact hc
    · obtain ⟨rest, hr, rfl⟩ := Option.map_eq_some_iff.mp h
      have hstart := ih hr
      exact hstart

/-- Settles the half of O48 about pre-emption and resumption. -/
theorem preemption : Claims.Preemption := by
  intro s h g l sent
  refine ⟨fun hrun hup => ?_, fun hrun hup hroom => ?_, fun cl m r hl => copySuspension hl, fun hg => ?_,
    fun e room he hs hc hup hroom => ?_⟩
  · have hx : exec (.preemptRequest h) s = .next { s with keel := { s.keel with
        requests := s.keel.requests.filter (fun e => e != (h, none)) ++ [(h, none)] } } := by
      simp only [exec, execPreemptRequest, if_neg hrun, hup]
      rfl
    exact ⟨_, hx, rfl, List.mem_append_right _ List.mem_cons_self⟩
  · have hx : exec (.preemptRequest h) s = .next (suspendAll s l) := by
      simp only [exec, execPreemptRequest, requestSuspension, hup, hrun]
      simp [l, hroom]
    obtain ⟨hharts, hsent⟩ := suspendAll_sends s l
    exact ⟨_, hx, hharts, hsent⟩
  · intro mine hn hp hb
    exact resumeGroup hg hn hp hb
  · have hx : exec (.preemptStarvation g) s = .next (room.foldl suspendAll s) := by
      simp only [exec, execPreemptStarvation, he, hs, Option.toList_some, List.map_cons, List.map_nil, List.append_nil,
        byPrio_single, List.filter_cons, hc, Bool.not_false, if_true, List.filter_nil, List.findSome?_cons]
      rw [show itemClusters s g (.group e) = [g] from rfl, show waitingPrio s (.group e) = placementPrio s e from rfl, hroom]
      simp only [hup, if_true]
    exact ⟨_, hx, rfl, makeRoom_canStart hroom⟩

/-! The Keel's restart and power (14 R373, R374; 17 R444 to R447). -/

/-- A cluster that wakes. -/
def awoken (c : Nat) (s : State) : Prop := (s.cluster c).gated = false ∧ (s.cluster c).waking = true

theorem wakeCluster_same {s : State} {c : Nat} (h : (s.cluster c).gated = true) : awoken c (wakeCluster s c) := by
  unfold awoken wakeCluster
  simp only [h, if_true, State.cluster_setCluster_same, and_self]

theorem wakeCluster_other (s : State) {c k : Nat} (h : k ≠ c) : (wakeCluster s c).cluster k = s.cluster k := by
  unfold wakeCluster
  dsimp only
  split
  · exact State.cluster_setCluster_other s c k _ h
  · rfl

theorem wakeCluster_keeps (s : State) (c k : Nat) (h : awoken k s) : awoken k (wakeCluster s c) := by
  by_cases hk : k = c
  · subst hk
    have hs : wakeCluster s k = s := by
      unfold wakeCluster
      dsimp only
      rw [h.1, if_neg Bool.false_ne_true]
    rwa [hs]
  · exact (congrArg (fun x : Cluster => x.gated = false ∧ x.waking = true) (wakeCluster_other s hk)).mpr h

/-- Every gated cluster of a table wakes. -/
theorem wakeClusters_wake {c : Nat} {l : List (Nat × Cluster)} (hl : ∃ e ∈ l, e.1 = c) {s : State}
    (h : (s.cluster c).gated = true) : awoken c (l.foldl (fun s e => wakeCluster s e.1) s) := by
  induction l generalizing s with
  | nil => simp at hl
  | cons a r ih =>
    rw [List.foldl_cons]
    by_cases ha : a.1 = c
    · have hk : awoken c (wakeCluster s a.1) := ha.symm ▸ wakeCluster_same h
      exact foldl_keeps (f := fun s e => wakeCluster s e.1) (fun s e h => wakeCluster_keeps s e.1 c h) hk r
    · obtain ⟨e, he, hec⟩ := hl
      have her : e ∈ r := (List.mem_cons.mp he).resolve_left fun hh => ha (hh ▸ hec)
      exact ih ⟨e, her, hec⟩ (by rw [wakeCluster_other s (Ne.symm ha)]; exact h)

theorem wakeClusters_hub (l : List (Nat × Cluster)) (s : State) : (l.foldl (fun s e => wakeCluster s e.1) s).hub = s.hub := by
  refine foldl_keeps (P := fun u : State => u.hub = s.hub) (fun u e h => ?_) rfl l
  unfold wakeCluster
  dsimp only
  split <;> exact h

/-- What the waking of dies leaves. -/
theorem wakeDies_wake (l : List Nat) (s : State) :
    let t := l.foldl wakeDie s
    t.clusters = s.clusters ∧ t.hub.gateClusters = s.hub.gateClusters ∧ t.hub.gateDies = s.hub.gateDies
      ∧ ∀ d ∈ t.hub.gatedDies, d ∈ s.hub.gatedDies ∧ d ∉ l := by
  induction l generalizing s with
  | nil => exact ⟨rfl, rfl, rfl, fun d hd => ⟨hd, List.not_mem_nil⟩⟩
  | cons a r ih =>
    intro t
    have hone : (wakeDie s a).clusters = s.clusters ∧ (wakeDie s a).hub.gateClusters = s.hub.gateClusters
        ∧ (wakeDie s a).hub.gateDies = s.hub.gateDies
        ∧ ∀ d ∈ (wakeDie s a).hub.gatedDies, d ∈ s.hub.gatedDies ∧ d ≠ a := by
      unfold wakeDie
      split
      · exact ⟨rfl, rfl, rfl, fun d hd => ⟨(List.mem_filter.mp hd).1, bne_iff_ne.mp (List.mem_filter.mp hd).2⟩⟩
      · next hn => exact ⟨rfl, rfl, rfl, fun d hd => ⟨hd, fun h => hn (List.contains_iff_mem.mpr (h ▸ hd))⟩⟩
    obtain ⟨hc, hgc, hgd, hleft⟩ := ih (wakeDie s a)
    refine ⟨hc.trans hone.1, hgc.trans hone.2.1, hgd.trans hone.2.2.1, fun d hd => ?_⟩
    obtain ⟨hin, hr⟩ := hleft d hd
    obtain ⟨hs, ha⟩ := hone.2.2.2 d hin
    exact ⟨hs, by simp [ha, hr]⟩

theorem gatectl (s : State) (c : Nat) (v : Word) : ∃ t, exec (.gatectlWrite v) s = .next t
    ∧ t.hub.gateClusters = v.getLsbD 0 ∧ t.hub.gateDies = v.getLsbD 1
    ∧ (v.getLsbD 0 = false → (s.cluster c).gated = true → (t.cluster c).gated = false ∧ (t.cluster c).waking = true)
    ∧ (v.getLsbD 1 = false → t.hub.gatedDies = []) := by
  obtain ⟨u, hu⟩ : ∃ u, u = (let s := { s with hub := { s.hub with gateClusters := v.getLsbD 0, gateDies := v.getLsbD 1 } }
    if v.getLsbD 0 then s else s.clusters.foldl (fun s e => wakeCluster s e.1) s) := ⟨_, rfl⟩
  have hx : exec (.gatectlWrite v) s = .next (if v.getLsbD 1 then u else u.hub.gatedDies.foldl wakeDie u) := by
    rw [hu]
    rfl
  have hhub : u.hub.gateClusters = v.getLsbD 0 ∧ u.hub.gateDies = v.getLsbD 1 := by
    rw [hu]
    dsimp only
    split
    · exact ⟨rfl, rfl⟩
    · rw [wakeClusters_hub]
      exact ⟨rfl, rfl⟩
  have hwake : v.getLsbD 0 = false → (s.cluster c).gated = true → awoken c u := by
    intro h0 hg
    rw [hu, h0]
    obtain he | he := Tab.get_mem_or ({} : Cluster) s.clusters c
    · rw [State.cluster, he] at hg
      exact nomatch hg
    · exact wakeClusters_wake ⟨_, he, rfl⟩ hg
  obtain ⟨hc, hgc, hgd, hleft⟩ := wakeDies_wake u.hub.gatedDies u
  refine ⟨_, hx, ?_, ?_, fun h0 hg => ?_, fun h1 => ?_⟩
  · split
    · exact hhub.1
    · exact hgc.trans hhub.1
  · split
    · exact hhub.2
    · exact hgd.trans hhub.2
  · have hk := hwake h0 hg
    split
    · exact hk
    · rw [State.cluster, hc]
      exact hk
  · rw [h1, if_neg Bool.false_ne_true]
    exact List.eq_nil_iff_forall_not_mem.mpr fun d hd => (hleft d hd).2 (hleft d hd).1

theorem thermalStep (s : State) (r : ThermalReading) : ∃ t, exec (.thermalStepEval r) s = .next t ∧ t.hub.power = r.power
    ∧ ((∃ w ∈ r.temps.take 52, (s.hub.tlimit : Int) * 16 ≤ sensorTemp (w &&& 0x0000FFFFFFFFFFFF)) →
      t.hub.thermal = min 8 (s.hub.thermal + 1) ∧ (s.hub.thermal = 8 → t.hub.hot = true)) := by
  refine ⟨_, rfl, ?_, fun hw => ?_⟩
  · split <;> rfl
  · have hhot : ((((r.temps.take 53).map fun w => w &&& 0x0000FFFFFFFFFFFF).take 52).map sensorTemp).any
        (fun t => decide ((s.hub.tlimit : Int) * 16 ≤ t)) = true := by
      obtain ⟨w, hw, hle⟩ := hw
      refine List.any_eq_true.mpr ⟨sensorTemp (w &&& 0x0000FFFFFFFFFFFF), ?_, decide_eq_true hle⟩
      rw [← List.map_take, List.take_take]
      exact List.mem_map_of_mem (List.mem_map_of_mem hw)
    simp only [hhot, Bool.true_or, Bool.true_and, if_true]
    refine ⟨?_, fun h8 => ?_⟩
    · split <;> rfl
    · simp only [h8, decide_true, if_true]
      exact Bool.or_true _

/-- A packet that a restarted Keel takes again. -/
def takenAgain (p : Packet) : Bool := (p.phase == .window || p.phase == .held) && !p.old

theorem takenAgain_false_iff (p : Packet) :
    takenAgain p = false ↔ p.old = true ∨ p.phase = .dispatched ∨ p.phase = .completing ∨ p.phase = .done := by
  unfold takenAgain
  cases p.phase <;> cases p.old <;> decide

theorem exec_keelRestartComplete {s : State} (h : s.keel.up = false) : ∃ u f, exec .keelRestartComplete s = .next (applyLatches u f)
    ∧ u.keel.up = true ∧ u.keel.saved = s.keel.saved ∧ u.keel.packets = s.keel.packets.filter fun p => !takenAgain p := by
  simp only [exec, execKeelRestartComplete, h]
  exact ⟨_, _, rfl, rfl, rfl, rfl⟩

/-- Settles the half of O48 about the Keel's restart and power. -/
theorem keelAndPower : Claims.KeelAndPower := by
  intro s c d
  refine ⟨rfl, rfl, fun hup => ?_, fun hw => ?_, fun hd hch => ?_, fun hk hg hc hw hi => ?_, fun hk hg hm hall hd hw => ?_,
    fun v => ?_, fun r => ?_⟩
  · obtain ⟨u, f, hx, hu, hsaved, hpackets⟩ := exec_keelRestartComplete hup
    have hk := applyLatches_homeKeeps u f
    refine ⟨_, hx, hk.up.trans hu, hk.saved.trans hsaved, fun p => ?_⟩
    rw [hk.packets, hpackets, List.mem_filter, Bool.not_eq_true', takenAgain_false_iff]
  · have hx : exec (.wakeComplete (.cluster c)) s = .next (applyLatches (s.setCluster c { s.cluster c with waking := false })
        fun q => decide (Config.doorbellCluster q = c)) := by
      simp only [exec, execWakeComplete, hw, if_true]
    refine ⟨_, hx, ?_⟩
    rw [(applyLatches_homeKeeps _ _).cluster, State.cluster_setCluster_same]
  · have hx : exec (.wakeComplete (.die d)) s = .next (applyLatches { s with hub := { s.hub with
        wakingDies := s.hub.wakingDies.filter fun e => e != d } } fun q => decide (dieOf q = d)) := by
      have ha : (s.hub.checking.all fun k => k / 3 != d) = true := List.all_eq_true.mpr fun k hk => bne_iff_ne.mpr (hch k hk)
      simp only [exec, execWakeComplete, List.contains_iff_mem.mpr hd, ha, Bool.and_self, if_true]
    exact ⟨_, hx, (applyLatches_homeKeeps _ _).wakingDies⟩
  · simp only [exec, execGateCluster, hk, hg, hw, hi, decide_eq_true hc, Bool.not_false, Bool.and_self, if_true]
  · have hx : exec (.gateDie d) s = .next { s with hub := { s.hub with gatedDies := sortAsc (d :: s.hub.gatedDies) } } := by
      obtain ⟨e, he, hed⟩ := hm
      have hne : (s.plate.clusters.filter fun e => decide (e.1 = d)).isEmpty = false := by
        cases hl : s.plate.clusters.filter fun e => decide (e.1 = d) with
        | nil => exact absurd (decide_eq_true hed) (List.filter_eq_nil_iff.mp hl e he)
        | cons a r => rfl
      have hgated : ((s.plate.clusters.filter fun e => decide (e.1 = d)).all fun e => (s.cluster (16 * d + e.2.1)).gated) = true :=
        List.all_eq_true.mpr fun e he => hall e (List.mem_filter.mp he).1 (of_decide_eq_true (List.mem_filter.mp he).2)
      have hgd : s.hub.gatedDies.contains d = false := Bool.eq_false_iff.mpr fun h => hd (List.contains_iff_mem.mp h)
      have hwd : s.hub.wakingDies.contains d = false := Bool.eq_false_iff.mpr fun h => hw (List.contains_iff_mem.mp h)
      simp only [exec, execGateDie, hk, hg, hne, hgated, hgd, hwd, Bool.not_false, Bool.and_self, if_true]
    exact ⟨_, hx, (sortAsc_perm _).mem_iff.mpr List.mem_cons_self⟩
  · exact gatectl s c v
  · exact thermalStep s r

/-- Settles O48. -/
theorem preemptionAndPower : Obligations.PreemptionAndPower := ⟨preemption, keelAndPower⟩

end Sys2Proof.Machine
end

section
/-! SUPPORT. Resets and the management interface (16 R414, R416, R417, R421, R422). -/

namespace Sys2Proof.Machine

/-! A trap leaves the moves to come. -/

theorem suspendHart_agenda (s : State) (h g : Nat) : (suspendHart s h g).agenda = s.agenda := by
  unfold suspendHart
  split
  · rfl
  · exact (saveHart_saves s h g false _).agenda

theorem suspendHarts_agenda (l : List Nat) (g : Nat) (s : State) :
    (l.foldl (fun s h => suspendHart s h g) s).agenda = s.agenda :=
  foldl_keeps (P := fun u : State => u.agenda = s.agenda) (f := fun s h => suspendHart s h g)
    (fun u h hu => (suspendHart_agenda u h g).trans hu) rfl l

theorem reportFault_agenda (s : State) (cl : Nat) (r : FaultRecord) : (reportFault s cl r).agenda = s.agenda := rfl

theorem forwardTrap_agenda (s : State) (epc : Word) (c : Nat) (e st : Word) (ch : Bool) :
    (forwardTrap s epc c e st ch).agenda = s.agenda := by
  unfold forwardTrap
  dsimp only
  rw [suspendHarts_agenda, reportFault_agenda, (saveHart_saves _ _ _ _ _).agenda]
  rfl

theorem takeTrap_agenda (s : State) (epc : Word) (c : Nat) (e st : Word) (q ch : Bool) :
    (takeTrap s epc c e st q ch).agenda = s.agenda := by
  unfold takeTrap
  dsimp only
  split
  · rfl
  split
  · rfl
  · exact forwardTrap_agenda _ _ _ _ _ _

theorem trap_agenda (s : State) (c : Nat) (e : Word) : (trap s c e).agenda = s.agenda := by
  unfold trap
  dsimp only
  split
  · exact takeTrap_agenda _ _ _ _ _ _ _
  split
  · rfl
  · refine (takeTrap_agenda _ _ _ _ _ _ _).trans ?_
    unfold dropChain
    split <;> rfl

/-! The management interface. -/

theorem letRun_running {s : State} {h : Nat} (steps : Bool) (hr : (s.hart h).run = .running) :
    let x := { s.hart h with halted := false, stepping := steps }
    (letRun s h steps).agenda = s.agenda
      ∧ (endProblem s h x (arrive x x.pc) = none → (letRun s h steps).hart h = arrive x x.pc) := by
  intro x
  have hl : letRun s h steps = goOn s h x := if_pos hr
  rw [hl, goOn]
  refine ⟨?_, fun he => ?_⟩
  · dsimp only
    split
    · exact trap_agenda _ _ _
    · rfl
  · simp only [he]
    exact State.hart_setHart_same _ _ _

/-- The hart that a halt leaves at its suspension point. -/
def haltedHart (x : Hart) : Hart := { rollback x with halted := true, stepping := false }

theorem completeResults_idle {s : State} {h : Nat} (hs : (s.hart h).scalarQueue = []) (hv : (s.hart h).vectorQueue = []) :
    completeResults s h = s := by
  simp only [completeResults, performQueue_empty (v := false) hs]
  exact performFirst_empty (v := true) hv

/-- What a halt makes of a hart that waits for no access. -/
def haltOne (x : Hart) : Hart :=
  if x.run = .free then x else if midGroup x then { x with stepping := true } else haltedHart x

theorem haltOne_twice (x : Hart) : haltOne (haltOne x) = haltOne x := by
  by_cases hf : x.run = .free
  · simp only [haltOne, if_pos hf]
  · by_cases hm : midGroup x = true
    · have h : haltOne x = { x with stepping := true } := by rw [haltOne, if_neg hf, if_pos hm]
      rw [h, haltOne, if_neg (show ¬({ x with stepping := true } : Hart).run = .free from hf),
        if_pos (show midGroup { x with stepping := true } = true from hm)]
    · have h : haltOne x = haltedHart x := by rw [haltOne, if_neg hf, if_neg hm]
      rw [h]
      rfl

theorem haltOne_queues (x : Hart) : (haltOne x).scalarQueue = x.scalarQueue ∧ (haltOne x).vectorQueue = x.vectorQueue := by
  unfold haltOne
  split
  · exact ⟨rfl, rfl⟩
  split <;> exact ⟨rfl, rfl⟩

/-- A hart with nothing queued. -/
def idleHart (x : Hart) : Prop := x.scalarQueue = [] ∧ x.vectorQueue = []

theorem haltHart_hart {s : State} {h : Nat} (hi : idleHart (s.hart h)) (k : Nat) :
    (haltHart s h).hart k = if k = h then haltOne (s.hart h) else s.hart k := by
  obtain ⟨hs, hv⟩ := hi
  have hset : ∀ (u : State) (x : Hart), u.harts = s.harts → (u.setHart h x).hart k = if k = h then x else s.hart k := by
    intro u x hu
    split
    · next hk => rw [hk, State.hart_setHart_same]
    · next hk =>
      rw [State.hart_setHart_other _ _ _ _ hk, State.hart, hu]
      rfl
  unfold haltHart haltOne
  dsimp only
  split
  · split
    · next hk => rw [hk]
    · rfl
  split
  · exact hset s _ rfl
  · rw [haltNow, completeResults_idle hs hv]
    dsimp only
    rw [show (withdraw s h).hart h = s.hart h from (withdraw_storeKeeps s h).hart h]
    exact hset _ _ (withdraw_harts s h)

theorem haltHarts_hart {l : List Nat} {s : State} (hi : ∀ h ∈ l, idleHart (s.hart h)) (k : Nat) :
    (l.foldl haltHart s).hart k = if k ∈ l then haltOne (s.hart k) else s.hart k := by
  induction l generalizing s with
  | nil => simp
  | cons a r ih =>
    have ha := haltHart_hart (hi a List.mem_cons_self)
    have hr : ∀ h ∈ r, idleHart ((haltHart s a).hart h) := by
      intro h hh
      obtain ⟨hsq, hvq⟩ := hi h (List.mem_cons_of_mem _ hh)
      rw [ha]
      split
      · next he =>
        subst he
        exact ⟨(haltOne_queues _).1.trans hsq, (haltOne_queues _).2.trans hvq⟩
      · exact ⟨hsq, hvq⟩
    rw [List.foldl_cons, ih hr, ha]
    by_cases hk : k = a
    · subst hk
      simp [haltOne_twice]
    · simp [hk]

theorem halts (s : State) (u : UnitName) (hi : ∀ k, unitHolds u k = true → idleHart (s.hart k)) :
    ∃ t, exec (.mgmtHalt u) s = .next t ∧ ∀ k, t.hart k = if unitHolds u k = true then haltOne (s.hart k) else s.hart k := by
  have hx : exec (.mgmtHalt u) s = .next (((s.harts.filter fun e => unitHolds u e.1).map (·.1)).foldl haltHart s) := by
    rw [List.foldl_map]
    rfl
  refine ⟨_, hx, fun k => (haltHarts_hart (fun h hh => ?_) k).trans ?_⟩
  · obtain ⟨e, he, rfl⟩ := List.mem_map.mp hh
    exact hi _ (List.mem_filter.mp he).2
  · by_cases hu : unitHolds u k = true
    · rw [if_pos hu]
      split
      · rfl
      · next hn =>
        obtain he | he := Tab.get_mem_or ({} : Hart) s.harts k
        · rw [State.hart, he]
          rfl
        · exact absurd (List.mem_map.mpr ⟨_, List.mem_filter.mpr ⟨he, hu⟩, rfl⟩) hn
    · rw [if_neg hu, if_neg]
      intro hk
      obtain ⟨e, he, rfl⟩ := List.mem_map.mp hk
      exact hu (List.mem_filter.mp he).2

/-! Words that the interface writes. -/

theorem writesFixed {s : State} {h : Nat} (hh : (s.hart h).halted = true) {o : Nat} (v : Word) (ho : o % 8 = 0) (hlt : o < 0x1000)
    (hn : o ∉ [0x1B8, 0x1C0, 0x1C8, 0x1D0, 0x1E8]) (ht : o < 0x288 ∨ 0x2C8 ≤ o) :
    ∃ t, exec (.mgmtWriteState h o v) s = .next t ∧ t.hart h = putFixed (s.hart h) o v := by
  simp only [List.mem_cons, List.not_mem_nil, or_false, not_or] at hn
  obtain ⟨h1, h2, h3, h4, h5⟩ := hn
  refine ⟨s.setHart h (putFixed (s.hart h) o v), ?_, State.hart_setHart_same _ _ _⟩
  have ht' : ¬(0x288 ≤ o ∧ o < 0x2C8) := by omega
  simp only [exec, execMgmtWriteState, hh, ho, h1, h2, h3, h4, h5, ht', hlt, Bool.not_true, Bool.false_or, ne_eq,
    not_true_eq_false, decide_false, Bool.false_eq_true, if_false, if_true]

theorem recordWrites_putFixed (x : Hart) (v : Word) : ∀ e ∈ recordWrites x v, putFixed x e.1 v = e.2 := by
  simp only [recordWrites, List.forall_mem_cons]
  exact ⟨rfl, rfl, rfl, rfl, rfl, rfl, rfl, rfl, rfl, rfl, rfl, rfl, rfl, rfl, rfl, rfl, rfl, rfl, rfl, rfl, rfl, rfl, rfl, rfl,
    rfl, List.forall_mem_nil _⟩

/-- Offset of a word that the interface writes to a hart alone. -/
def fixedWord (o : Nat) : Bool :=
  o % 8 == 0 && decide (o < 0x1000) && !([0x1B8, 0x1C0, 0x1C8, 0x1D0, 0x1E8].contains o) && (decide (o < 0x288) || decide (0x2C8 ≤ o))

theorem recordWrites_fixedWord (x : Hart) (v : Word) : ∀ e ∈ recordWrites x v, fixedWord e.1 = true := by
  simp only [recordWrites, List.forall_mem_cons]
  decide

theorem writesWord {s : State} {h : Nat} (hh : (s.hart h).halted = true) {o : Nat} (v : Word) (ho : fixedWord o = true) :
    ∃ t, exec (.mgmtWriteState h o v) s = .next t ∧ t.hart h = putFixed (s.hart h) o v := by
  simp only [fixedWord, Bool.and_eq_true, Bool.or_eq_true, beq_iff_eq, decide_eq_true_eq, Bool.not_eq_true',
    List.contains_eq_mem, decide_eq_false_iff_not] at ho
  obtain ⟨⟨⟨ho, hlt⟩, hn⟩, ht⟩ := ho
  exact writesFixed hh v ho hlt hn ht

theorem putFixed_register (x : Hart) (r : Reg) (v : Word) : putFixed x (8 * r.toNat) v = x.writeS r v := by
  have hr : 8 * r.toNat < 0x100 := by omega
  rw [putFixed, if_pos hr, Nat.mul_div_cancel_left _ (by decide), BitVec.ofNat_toNat, BitVec.setWidth_eq]

theorem fixedWord_register (r : Reg) : fixedWord (8 * r.toNat) = true := by
  have hr : r.toNat < 32 := r.isLt
  generalize r.toNat = k at hr
  interval_cases k <;> rfl

/-- The management interface (16 R416, R417). -/
theorem management : Claims.Management := by
  intro s h r v x
  refine ⟨fun u hi => ?_, fun hm hq => ?_, fun hh => ⟨fun hr steps => ?_, ?_, fun e he => ?_⟩⟩
  · obtain ⟨t, hx, ht⟩ := halts s u hi
    refine ⟨t, hx, fun k => ⟨fun hu hf hm => ?_, fun hu hf hm => ?_, fun hu => ?_⟩⟩
    · rw [ht, if_pos hu, haltOne, if_neg hf, if_neg (by rw [hm]; decide)]
      rfl
    · rw [ht, if_pos hu, haltOne, if_neg hf, if_pos hm]
    · rw [ht, if_neg (by rw [hu]; decide)]
  · have hc : x.chain = none := by
      rw [midGroup, Bool.or_eq_false_iff] at hm
      simpa using hm.1
    simp only [rollback, hc, hq, Bool.false_eq_true, if_false]
  · obtain ⟨ha, hg⟩ := letRun_running steps hr
    cases steps with
    | false => exact ⟨_, if_pos hh, ha, hg⟩
    | true => exact ⟨_, if_pos hh, rfl, hg⟩
  · obtain ⟨t, hx, ht⟩ := writesWord hh v (fixedWord_register r)
    exact ⟨t, hx, ht.trans (putFixed_register _ r v)⟩
  · obtain ⟨t, hx, ht⟩ := writesWord hh v (recordWrites_fixedWord x v e he)
    exact ⟨t, hx, ht.trans (recordWrites_putFixed x v e he)⟩

/-! The layout of a hart record (16 R414): blocks of one length, one behind another. -/

section
variable {α : Type} {f : α → List Byte} {m : Nat}

theorem length_blocks (hf : ∀ a, (f a).length = m) (l : List α) : (l.flatMap f).length = l.length * m := by
  simp [List.length_flatMap, hf]

theorem field_append_right (a b : List Byte) (o n : Nat) : field (a ++ b) (a.length + o) n = field b o n := by
  simp [field, slice, Nat.add_sub_add_left]

theorem field_whole (a b : List Byte) : field (a ++ b) 0 a.length = leNat a := by
  simp [field, slice]

/-- Block `i` of a list of blocks is read at `i` times their length. -/
theorem field_block (hf : ∀ a, (f a).length = m) (r : List Byte) :
    ∀ (l : List α) (i : Nat) (h : i < l.length), field (l.flatMap f ++ r) (m * i) m = leNat (f l[i])
  | a :: l, 0, _ => by
    have hw := field_whole (f a) (l.flatMap f ++ r)
    rw [hf] at hw
    simpa [List.append_assoc] using hw
  | a :: l, i + 1, h => by
    have hr := field_append_right (f a) (l.flatMap f ++ r) (m * i) m
    rw [hf, Nat.add_comm, ← Nat.mul_succ] at hr
    rw [List.flatMap_cons, List.append_assoc, hr, field_block hf r l i (by simpa using h)]
    rfl

theorem getD_block (hf : ∀ a, (f a).length = m) (r : List Byte) (d : Byte) {k : Nat} (hk : k < m) :
    ∀ (l : List α) (i : Nat) (h : i < l.length), (l.flatMap f ++ r).getD (i * m + k) d = (f l[i]).getD k d
  | a :: l, 0, _ => by
    rw [List.flatMap_cons, List.append_assoc, Nat.zero_mul, Nat.zero_add, List.getD_append _ _ _ _ (by rw [hf]; exact hk)]
    rfl
  | a :: l, i + 1, h => by
    have he : (i + 1) * m + k = (f a).length + (i * m + k) := by rw [hf, Nat.succ_mul]; omega
    rw [List.flatMap_cons, List.append_assoc, he, List.getD_append_right _ _ _ _ (Nat.le_add_right ..),
      Nat.add_sub_cancel_left, getD_block hf r d hk l i (by simpa using h)]
    rfl

end

/-- The words with which a hart record begins, before the cursors. -/
def recordWords (s : State) (h : Nat) : List Word :=
  let x := s.hart h
  let tok (k : Nat) : Word := match x.token k with | .pending j => BitVec.ofNat 64 j | _ => 0
  (List.range 32).map (fun r => x.readS (BitVec.ofNat 5 r)) ++ ((List.range 16).map (fun r => x.readF (BitVec.ofNat 5 r))
    ++ ([x.pc, BitVec.ofNat 64 x.vl, BitVec.ofNat 64 x.vrows, BitVec.ofNat 64 x.vstart, x.frm.zeroExtend 64,
        x.fflags.zeroExtend 64, x.pred.zeroExtend 64, accst s h, vconfWord x, tokstWord x, oslotsWord s h, x.wid, hstatWord s h,
        (x.gang.getD 0).zeroExtend 64, BitVec.ofNat 64 x.scalarTime, BitVec.ofNat 64 x.vectorTime, x.epc,
        x.ecause.zeroExtend 64, x.eval, x.estat, (s.context x.asid).handler, x.escratch,
        lcWord x.lc0, x.lc0.body, x.lc0.fin,
        BitVec.ofNat 64 (x.lc0.total * 2 ^ 32 + (if x.lc0.mode = .system then 16 else 0) + (if x.lc0.modulo then 8 else 0)
          + x.lc0.stages % 8), BitVec.ofNat 64 x.lc0.index,
        lcWord x.lc1, x.lc1.body, x.lc1.fin,
        BitVec.ofNat 64 (x.lc1.total * 2 ^ 32 + (if x.lc1.mode = .system then 16 else 0) + (if x.lc1.modulo then 8 else 0)
          + x.lc1.stages % 8), BitVec.ofNat 64 x.lc1.index, flag x.seg]
      ++ ((List.range 8).map (tstatWord s h) ++ (List.range 8).map tok)))

/-- The cursors of a hart record. -/
def recordCursors (s : State) (h : Nat) : List Byte :=
  (List.range 64).flatMap fun n => leBytes 4 (Tab.get 0 (s.hart h).cursors n)

section
variable (s : State) (h : Nat)

theorem recordWords_length : (recordWords s h).length = 97 := by
  simp [recordWords]

theorem recordCursors_length : (recordCursors s h).length = 256 :=
  length_blocks (fun _ => leBytes_length _ _) _

theorem wordBytes_length (l : List Word) : (wordBytes l).length = l.length * 8 :=
  length_blocks (fun _ => leBytes_length _ _) l

/-- A hart record: its words, its cursors, zeros, and what depends on the hart's configuration. -/
theorem hartRecord_parts : hartRecord s h
    = wordBytes (recordWords s h) ++ (recordCursors s h ++ (List.replicate 3064 0 ++ variableBytes s h)) := by
  simp only [hartRecord, fixedBytes, loopBytes, wordBytes, recordWords, recordCursors, List.flatMap_append, List.append_assoc,
    List.flatMap_cons, List.flatMap_nil, List.append_nil] <;> rfl

theorem hartRecord_word {i : Nat} (hi : i < 97) :
    field (hartRecord s h) (8 * i) 8 = ((recordWords s h)[i]'(by rw [recordWords_length]; exact hi)).toNat := by
  rw [hartRecord_parts, wordBytes, field_block (fun _ => leBytes_length _ _), leNat_leBytes]
  exact Nat.mod_eq_of_lt (BitVec.isLt _)

theorem hartRecord_cursor {k : Nat} (hk : k < 64) :
    field (hartRecord s h) (0x308 + 4 * k) 4 = Tab.get 0 (s.hart h).cursors k % 2 ^ 32 := by
  have hl : (wordBytes (recordWords s h)).length = 0x308 := by rw [wordBytes_length, recordWords_length]
  rw [hartRecord_parts, ← hl, field_append_right, recordCursors,
    field_block (fun _ => leBytes_length _ _) _ _ _ (by simpa using hk), leNat_leBytes, List.getElem_range]
  rfl

theorem hartRecord_zero {k : Nat} (hl : 0x408 ≤ k) (hk : k < 0x1000) : (hartRecord s h).getD k 1 = 0 := by
  have hw : (wordBytes (recordWords s h) ++ recordCursors s h).length = 0x408 := by
    rw [List.length_append, wordBytes_length, recordWords_length, recordCursors_length]
  rw [hartRecord_parts, ← List.append_assoc, List.getD_append_right _ _ _ _ (by rw [hw]; exact hl), hw,
    List.getD_append _ _ _ _ (by rw [List.length_replicate]; omega),
    List.getD_eq_getElem _ _ (by rw [List.length_replicate]; omega), List.getElem_replicate]

theorem fixedBytes_length : (wordBytes (recordWords s h) ++ (recordCursors s h ++ List.replicate 3064 (0 : Byte))).length = 0x1000 := by
  rw [List.length_append, List.length_append, wordBytes_length, recordWords_length, recordCursors_length, List.length_replicate]

theorem hartRecord_vreg {f : VConf} {r k : Nat} (hf : (s.hart h).conf = some f) (hr : r < f.count)
    (hk : k < f.shares * 32768 / f.count) :
    (hartRecord s h).getD (0x1000 + r * (f.shares * 32768 / f.count) + k) 0 = Tab.get 0 ((s.hart h).vreg r) k := by
  rw [hartRecord_parts, ← List.append_assoc (recordCursors s h), ← List.append_assoc, Nat.add_assoc,
    List.getD_append_right _ _ _ _ (by rw [fixedBytes_length]; exact Nat.le_add_right ..), fixedBytes_length,
    Nat.add_sub_cancel_left]
  simp only [variableBytes, hf, List.append_assoc]
  rw [getD_block (m := f.shares * 32768 / f.count) (fun _ => by simp [Tab.bytes]) _ _ hk _ r (by simpa using hr)]
  simp [Tab.bytes, hk]

end

theorem record_registers (s : State) (h : Nat) (r : Reg) :
    field (hartRecord s h) (8 * r.toNat) 8 = ((s.hart h).readS r).toNat
    ∧ (r.toNat < 16 → field (hartRecord s h) (0x100 + 8 * r.toNat) 8 = ((s.hart h).readF r).toNat) := by
  have hr := r.isLt
  constructor
  · rw [hartRecord_word s h (by omega)]
    simp only [recordWords]
    rw [List.getElem_append_left (by simpa using hr)]
    simp
  · intro h16
    rw [show 0x100 + 8 * r.toNat = 8 * (32 + r.toNat) by omega, hartRecord_word s h (by omega)]
    simp only [recordWords]
    rw [List.getElem_append_right (by simp), List.getElem_append_left (by simpa using h16)]
    simp

theorem record_tether (s : State) (h k : Nat) (hk : k < 8) :
    field (hartRecord s h) (0x288 + 8 * k) 8 = (tstatWord s h k).toNat := by
  rw [show 0x288 + 8 * k = 8 * (81 + k) by omega, hartRecord_word s h (by omega)]
  interval_cases k <;> rfl

theorem record_token (s : State) (h k : Nat) (hk : k < 8) :
    field (hartRecord s h) (0x2C8 + 8 * k) 8 = (match (s.hart h).token k with | .pending j => j % 2 ^ 64 | _ => 0) := by
  have hw : field (hartRecord s h) (0x2C8 + 8 * k) 8
      = (match (s.hart h).token k with | .pending j => BitVec.ofNat 64 j | _ => 0 : Word).toNat := by
    rw [show 0x2C8 + 8 * k = 8 * (89 + k) by omega, hartRecord_word s h (by omega)]
    interval_cases k <;> rfl
  rw [hw]
  cases (s.hart h).token k <;> rfl

theorem hartRecords : Claims.HartRecord := by
  intro s h x word
  refine ⟨record_registers s h, ?_, fun k hk => ⟨record_tether s h k hk, record_token s h k hk⟩,
    fun k hk => hartRecord_cursor s h hk, fun k hl hk => hartRecord_zero s h hl hk,
    fun f r k hf hr hk => hartRecord_vreg s h hf hr hk⟩
  have hw (i : Nat) (hi : i < 97) (w : Word) (hv : (recordWords s h)[i]'(by rw [recordWords_length]; exact hi) = w) :
      word (8 * i) = w.toNat := by
    rw [← hv]
    exact hartRecord_word s h hi
  simp only [List.forall_mem_cons, List.not_mem_nil, false_imp_iff, implies_true, and_true]
  exact ⟨hw 48 (by decide) _ rfl, hw 49 (by decide) _ rfl, hw 50 (by decide) _ rfl, hw 51 (by decide) _ rfl,
    hw 52 (by decide) _ rfl, hw 53 (by decide) _ rfl, hw 54 (by decide) _ rfl, hw 55 (by decide) _ rfl,
    hw 56 (by decide) _ rfl, hw 57 (by decide) _ rfl, hw 58 (by decide) _ rfl, hw 59 (by decide) _ rfl,
    hw 60 (by decide) _ rfl, hw 61 (by decide) _ rfl, hw 62 (by decide) _ rfl, hw 63 (by decide) _ rfl,
    hw 64 (by decide) _ rfl, hw 65 (by decide) _ rfl, hw 66 (by decide) _ rfl, hw 67 (by decide) _ rfl,
    hw 68 (by decide) _ rfl, hw 69 (by decide) _ rfl, hw 70 (by decide) _ rfl, hw 71 (by decide) _ rfl,
    hw 72 (by decide) _ rfl, hw 74 (by decide) _ rfl, hw 75 (by decide) _ rfl, hw 76 (by decide) _ rfl,
    hw 77 (by decide) _ rfl, hw 79 (by decide) _ rfl, hw 80 (by decide) _ rfl⟩

/-! Boot and the resets (16 R421, R422). -/

/-- A state after the draw of random bytes with which its boot begins. -/
def seeded (s : State) : State := { s with sec := { s.sec with nonceSeed := s.n }, n := s.n + 1 }

theorem boot_eq_bootAfter {find : (Nat → Bool) → List Nat → Option Nat} (h : find = List.find?) (s : State) :
    boot s = bootAfter find (seeded s) := by
  have hb (f : State → State) (hf : f = boot) : f s = bootAfter find (seeded s) := by
    delta boot at hf
    rw [← h] at hf
    rw [hf]
    rfl
  exact hb boot rfl
/-- A boot changes the hub, its keys and the counter of free values alone. -/
structure Booted (s t : State) : Prop where
  mem : t.mem = s.mem
  taint : t.taint = s.taint
  harts : t.harts = s.harts
  contexts : t.contexts = s.contexts
  jobs : t.jobs = s.jobs
  time : t.time = s.time
  keel : t.keel = s.keel
  windows : t.windows = s.windows
  plate : t.plate = s.plate
  ctxbase : t.hub.ctxbase = s.hub.ctxbase

theorem bootAfter_booted (find : (Nat → Bool) → List Nat → Option Nat) (s : State) : Booted s (bootAfter find (seeded s)) := by
  unfold bootAfter
  generalize find _ bootStages = o
  cases o with
  | none => exact ⟨rfl, rfl, rfl, rfl, rfl, rfl, rfl, rfl, rfl, rfl⟩
  | some i => exact ⟨rfl, rfl, rfl, rfl, rfl, rfl, rfl, rfl, rfl, rfl⟩

theorem boot_booted (s : State) : Booted s (boot s) := by
  rw [boot_eq_bootAfter rfl]
  exact bootAfter_booted _ s

theorem stageVerifies_congr {s t : State} (h : t.plate = s.plate) (i : Nat) : stageVerifies t i = stageVerifies s i := by
  simp only [stageVerifies, h]

theorem bootAfter_ready {find : (Nat → Bool) → List Nat → Option Nat} {s : State}
    (h : find (fun i => !stageVerifies s i) bootStages = none) : (bootAfter find s).hub.ready = bootReady := by
  simp only [bootAfter, h]

theorem boot_ready (s : State) (h : ∀ i ∈ bootStages, stageVerifies (boot s) i = true) : (boot s).hub.ready = bootReady := by
  rw [boot_eq_bootAfter rfl]
  refine bootAfter_ready (List.find?_eq_none.mpr fun i hi => ?_)
  have hs := h i hi
  rw [stageVerifies_congr (boot_booted s).plate] at hs
  have hu : stageVerifies (seeded s) i = stageVerifies s i := stageVerifies_congr rfl i
  rw [hu, hs]
  exact Bool.false_ne_true

theorem foldl_set_other {α β : Type} [DecidableEq α] (d : α) (key : β → Nat) (v : β → α) (a : Nat) :
    ∀ (l : List β) (m : SMap α), (∀ x ∈ l, key x ≠ a) →
      Tab.get d (l.foldl (fun m x => Tab.set d (key x) (v x) m) m) a = Tab.get d m a
  | [], _, _ => rfl
  | x :: l, m, h => by
    rw [List.foldl_cons, foldl_set_other d key v a l _ fun y hy => h y (List.mem_cons_of_mem _ hy),
      Tab.get_set_other _ _ _ _ _ (h x List.mem_cons_self).symm]

/-- The bytes of DRAM that a warm reset leaves. -/
def warmMem (s : State) (orderly : Bool) : SMap Byte :=
  (lostBytes s orderly).foldl (fun m a => Tab.set 0 a (Config.lostByte s.n a) m)
    (s.mem.filter fun e => decide (e.1 < 0x1000000000000))

/-- The condition of the sectors of DRAM that a warm reset leaves. -/
def warmTaint (s : State) (orderly : Bool) : SMap Taint :=
  (distinct ((lostBytes s orderly).map (· / 32))).foldl
    (fun m k => (List.range 32).foldl (fun m i => Tab.set .sound (32 * k + i) (Config.lostTaint s.n k) m) m) (keptTaint s)

theorem warmMem_kept {s : State} {orderly : Bool} {a : Nat} (h : a ∉ lostBytes s orderly) :
    Tab.get 0 (warmMem s orderly) a = Tab.get 0 (s.mem.filter fun e => decide (e.1 < 0x1000000000000)) a :=
  foldl_set_other 0 (fun x => x) (Config.lostByte s.n) a _ _ fun _ hx hxa => h (hxa ▸ hx)

theorem foldl_sector_other (m : SMap Taint) (v : Taint) {k a : Nat} (h : k ≠ a / 32) :
    Tab.get .sound ((List.range 32).foldl (fun m i => Tab.set .sound (32 * k + i) v m) m) a = Tab.get .sound m a :=
  foldl_set_other .sound (fun i => 32 * k + i) (fun _ => v) a _ _ fun i hi hia => h (by
    have := List.mem_range.mp hi
    omega)

theorem foldl_sectors_other (v : Nat → Taint) (a : Nat) : ∀ (l : List Nat) (m : SMap Taint), (∀ k ∈ l, k ≠ a / 32) →
    Tab.get .sound (l.foldl (fun m k => (List.range 32).foldl (fun m i => Tab.set .sound (32 * k + i) (v k) m) m) m) a
      = Tab.get .sound m a
  | [], _, _ => rfl
  | k :: l, m, h => by
    rw [List.foldl_cons, foldl_sectors_other v a l _ fun y hy => h y (List.mem_cons_of_mem _ hy),
      foldl_sector_other m (v k) (h k List.mem_cons_self)]

theorem warmTaint_kept {s : State} {orderly : Bool} {a : Nat} (h : ∀ x ∈ lostBytes s orderly, x / 32 ≠ a / 32) :
    Tab.get .sound (warmTaint s orderly) a = Tab.get .sound (keptTaint s) a := by
  refine foldl_sectors_other (Config.lostTaint s.n) a _ _ fun k hk => ?_
  obtain ⟨x, hx, rfl⟩ := List.mem_map.mp ((mem_distinct _ _).mp hk)
  exact h x hx

/-- What a warm reset keeps, and what it clears. -/
structure WarmReset (s : State) (orderly : Bool) (t : State) : Prop where
  mem : t.mem = warmMem s orderly
  taint : t.taint = warmTaint s orderly
  harts : t.harts = []
  contexts : t.contexts = []
  time : t.time = s.time
  keel : t.keel = {}
  plate : t.plate = s.plate
  ctxbase : t.hub.ctxbase = s.hub.ctxbase

theorem Booted.warmReset {s u t : State} {orderly : Bool} (b : Booted u t) (hm : u.mem = warmMem s orderly)
    (ht : u.taint = warmTaint s orderly) (hh : u.harts = []) (hc : u.contexts = []) (hn : u.time = s.time) (hk : u.keel = {})
    (hp : u.plate = s.plate) (hx : u.hub.ctxbase = s.hub.ctxbase) : WarmReset s orderly t :=
  ⟨b.mem.trans hm, b.taint.trans ht, b.harts.trans hh, b.contexts.trans hc, b.time.trans hn, b.keel.trans hk, b.plate.trans hp,
    b.ctxbase.trans hx⟩

theorem warmReset_spec (s : State) (orderly : Bool) : WarmReset s orderly (warmReset s orderly) := by
  unfold Machine.warmReset
  exact (boot_booted _).warmReset rfl rfl rfl rfl rfl rfl rfl rfl

theorem lostBytes_orderly {s : State} {a : Nat} (h : a ∈ lostBytes s true) :
    ∃ r ∈ stashDirty s, r.1 ≤ a ∧ a < r.1 + r.2 := by
  obtain ⟨-, ha⟩ := List.mem_filter.mp h
  obtain ⟨r, hr, hin⟩ := List.any_eq_true.mp ha
  exact ⟨r, hr, by simpa using hin⟩

theorem lostBytes_dirty {s : State} {a : Nat} (h : a ∈ lostBytes s false) : ∃ e ∈ s.dirty, e.1 = a :=
  List.mem_map.mp h

theorem warmReset_orderly {s t : State} (w : WarmReset s true t) (h : stashDirty s = []) :
    t.taint = keptTaint s ∧ t.mem = s.mem.filter fun e => decide (e.1 < 0x1000000000000) := by
  have hl : lostBytes s true = [] := by
    refine List.eq_nil_iff_forall_not_mem.mpr fun a ha => ?_
    obtain ⟨r, hr, -⟩ := lostBytes_orderly ha
    rw [h] at hr
    exact List.not_mem_nil hr
  rw [w.taint, w.mem, warmTaint, warmMem, hl]
  exact ⟨rfl, rfl⟩

theorem resets : Claims.Resets := by
  intro s
  refine ⟨⟨_, rfl, ?_⟩, ?_, ?_⟩
  · have b := boot_booted { State.reset with plate := coldPlate s.plate, agenda := s.agenda, n := s.n }
    exact ⟨b.mem, b.harts, b.contexts, b.jobs, b.time, b.keel, b.windows, boot_ready _⟩
  · have hw : ∃ t, (Host.Outcome.next (warmReset s true) : Res) = .next t ∧ t.time = s.time ∧ t.plate = s.plate
        ∧ t.harts = [] ∧ t.contexts = [] ∧ t.keel = {} ∧ t.hub.ctxbase = s.hub.ctxbase
        ∧ (stashDirty s = [] → t.taint = keptTaint s
          ∧ t.mem = s.mem.filter fun e => decide (e.1 < 0x1000000000000))
        ∧ (∀ a, (∀ x ∈ lostBytes s true, x / 32 ≠ a / 32) → Tab.get .sound t.taint a = Tab.get .sound (keptTaint s) a)
        ∧ ∀ a, a < 0x1000000000000 → (∀ r ∈ stashDirty s, a < r.1 ∨ r.1 + r.2 ≤ a) → t.byte a
          = Tab.get 0 (s.mem.filter fun e => decide (e.1 < 0x1000000000000)) a := by
      have w := warmReset_spec s true
      refine ⟨_, rfl, w.time, w.plate, w.harts, w.contexts, w.keel, w.ctxbase, warmReset_orderly w, fun a ha => ?_,
        fun a _ ha => ?_⟩
      · rw [w.taint, warmTaint_kept ha]
      · rw [State.byte, w.mem]
        refine warmMem_kept fun hl => ?_
        obtain ⟨r, hr, hin⟩ := lostBytes_orderly hl
        have := ha r hr
        omega
    intro i hi
    obtain rfl | rfl : i = .resetOrderlyWarm ∨ i = .mgmtWarmReset true := by simpa using hi
    · exact hw
    · exact hw
  · have hw : ∃ t, (Host.Outcome.next (warmReset s false) : Res) = .next t ∧ t.time = s.time ∧ t.plate = s.plate
        ∧ t.harts = [] ∧ t.keel = {}
        ∧ ∀ a, a < 0x1000000000000 → (∀ e ∈ s.dirty, e.1 ≠ a) → t.byte a
          = Tab.get 0 (s.mem.filter fun e => decide (e.1 < 0x1000000000000)) a := by
      have w := warmReset_spec s false
      refine ⟨_, rfl, w.time, w.plate, w.harts, w.keel, fun a _ ha => ?_⟩
      rw [State.byte, w.mem]
      refine warmMem_kept fun hl => ?_
      obtain ⟨e, he, hea⟩ := lostBytes_dirty hl
      exact ha e he hea
    intro i hi
    obtain rfl | rfl : i = .resetWarm ∨ i = .mgmtWarmReset false := by simpa using hi
    · exact hw
    · exact hw

/-- Settles O52: a boot changes the hub alone; a warm reset writes the lost bytes and sectors over those kept; a hart record is
a list of blocks of one length. -/
theorem resetsAndManagement : Obligations.ResetsAndManagement := ⟨resets, hartRecords, management⟩

end Sys2Proof.Machine
end

section
/-! SUPPORT. Accesses left to the queues of a hart's streams, and what performing them gives (13 R323, R324; log 4). -/

namespace Sys2Proof.Machine

theorem unchained_none {s : State} (h : s.me.chain = none) (k : State → Res) : unchained s k = k s := by
  rw [unchained, h]

theorem storeQueueHeld_congr {s t : State} (h : t.jobs = s.jobs) (k : Nat) : storeQueueHeld t k = storeQueueHeld s k := by
  simp only [storeQueueHeld, jobBehind, h]

theorem plainAt_idle {x : Hart} (h0 : x.lc0.busy = false) (h1 : x.lc1.busy = false) (pc : Word) : plainAt x pc := by
  refine ⟨fun h => ?_, fun h => ?_⟩
  · rw [h0] at h
    exact nomatch h
  · rw [h1] at h
    exact nomatch h

/-- A state that has the memory of `s`, the same running hart, and its registers. -/
structure SameRegisters (s t : State) : Prop where
  mem : t.mem = s.mem
  cur : t.cur = s.cur
  vregs : t.me.v = s.me.v
  sregs : t.me.s = s.me.s
  fregs : t.me.f = s.me.f

theorem SameRegisters.setMe (s : State) {y : Hart} (hv : y.v = s.me.v) (hs : y.s = s.me.s) (hf : y.f = s.me.f) :
    SameRegisters s (s.setMe y) := by
  have hm : (s.setMe y).me = y := State.me_setMe s y
  refine ⟨rfl, rfl, ?_, ?_, ?_⟩ <;> rw [hm]
  · exact hv
  · exact hs
  · exact hf

theorem SameRegisters.trans {s t u : State} (a : SameRegisters s t) (b : SameRegisters t u) : SameRegisters s u :=
  ⟨b.mem.trans a.mem, b.cur.trans a.cur, b.vregs.trans a.vregs, b.sregs.trans a.sregs, b.fregs.trans a.fregs⟩

/-- The state in which a queued access of the running hart is performed: its stream's time risen. -/
def ticked (s : State) (v : Bool) : State :=
  if (s.hart s.cur).run = .free then s else s.setHart s.cur ((s.hart s.cur).tick v 1)

theorem ticked_same (s : State) (v : Bool) : SameRegisters s (ticked s v) := by
  unfold ticked
  split
  · exact ⟨rfl, rfl, rfl, rfl, rfl⟩
  · cases v with
    | false => exact .setMe s rfl rfl rfl
    | true => exact .setMe s rfl rfl rfl

/-- Performing a queue is performing its accesses one by one. -/
theorem performQueue_fold (s : State) (v : Bool) :
    ∃ u, SameRegisters s u ∧ performQueue s s.cur v = (s.me.queue v).flatten.foldl (fun t p => performOne t s.cur v p) u := by
  have ht : (s.me.queue v).take (s.me.queue v).length = s.me.queue v := List.take_length
  unfold performQueue performFirst
  dsimp only
  split
  next h =>
    have hl : (s.me.queue v).flatten = [] := List.isEmpty_iff.mp (ht ▸ h)
    exact ⟨s, ⟨rfl, rfl, rfl, rfl, rfl⟩, by rw [hl]; rfl⟩
  next h =>
    refine ⟨s.setMe (s.me.setQueue v ((s.me.queue v).drop (s.me.queue v).length)), ?_, ?_⟩
    · cases v with
      | false => exact .setMe s rfl rfl rfl
      | true => exact .setMe s rfl rfl rfl
    · exact congrArg (fun q : List (List Pending) => q.flatten.foldl (fun t p => performOne t s.cur v p)
        (s.setMe (s.me.setQueue v ((s.me.queue v).drop (s.me.queue v).length)))) ht

/-! Scalar loads and stores. -/

theorem scalarLags_lags {s : State} (h : lags s) : scalarLags s = true := by
  obtain ⟨-, hl, -, -, -, -, -, -, ha⟩ := h
  rw [scalarLags, hl, early_plain s s.cur false ha]
  rfl

theorem vectorLags_lag {s : State} (hl : s.me.lag = true) (ha : s.ahead = []) : vectorLags s = true := by
  rw [vectorLags, lagging, hl, early_plain s s.cur true ha]
  rfl

/-- A hart outside any loop that queues a scalar access and falls through. -/
structure QueuedOne (s : State) (p : Pending) (t : State) : Prop where
  stands : memoryStands s t
  mem : t.mem = s.mem
  cur : t.cur = s.cur
  me : t.me = { s.me with scalarQueue := [[p]], pc := following s.me, qual := false }

theorem finish_enqueue {s u : State} (h : lags s) (hc : OnlyCaches s u) (p : Pending) :
    QueuedOne s p (finish (enqueueAccess u false [p])) := by
  obtain ⟨-, -, hq, -, h0, h1, -⟩ := h
  have hm : u.me = s.me := hc.me
  have he : enqueueAccess u false [p] = u.setMe { s.me with scalarQueue := [[p]] } := by
    rw [enqueueAccess, if_neg (by exact Bool.false_ne_true), hm, Hart.queue, hq]
    rfl
  have hme : (finish (enqueueAccess u false [p])).me = { s.me with scalarQueue := [[p]], pc := following s.me, qual := false } := by
    rw [finish_me, he, State.me_setMe]
    exact arrive_plain _ _ (plainAt_idle h0 h1 _)
  refine ⟨⟨fun a => ?_, fun k hk => ?_⟩, ?_, ?_, hme⟩
  · rw [finish_byte, he]
    exact hc.byte a
  · rw [finish, he, State.hart_setMe_other _ _ _ (by rw [State.cur_setMe_eq, hc.cur]; exact hk),
      State.hart_setMe_other _ _ _ (by rw [hc.cur]; exact hk), hc.hart]
  · rw [he]
    exact hc.mem
  · rw [he]
    exact hc.cur

/-- Performing the queue performs the one access in it, on the bytes of memory as they stood. -/
theorem QueuedOne.performed {s t : State} {p : Pending} (h : QueuedOne s p t) :
    ∃ u, SameRegisters s u ∧ performQueue t s.cur false = performOne u s.cur false p := by
  obtain ⟨u, hu, hp⟩ := performQueue_fold t false
  have hs : SameRegisters s t := ⟨h.mem, h.cur, (congrArg Hart.v h.me).trans rfl, (congrArg Hart.s h.me).trans rfl,
    (congrArg Hart.f h.me).trans rfl⟩
  refine ⟨u, hs.trans hu, ?_⟩
  rw [← h.cur, hp, show t.me.queue false = [[p]] from congrArg Hart.scalarQueue h.me]
  rfl

theorem readPlace_ram_congr {s t : State} (h : t.mem = s.mem) (l n : Nat) : readPlace t (.ram l) n = readPlace s (.ram l) n := by
  have hb : placeByte t (.ram l) = placeByte s (.ram l) := by
    funext i
    rw [placeByte_ram, placeByte_ram, h]
  rw [readPlace, readPlace, hb]

/-- A queued load performed leaves its hart with the bytes landed. -/
theorem performed_load {s u : State} (h : SameRegisters s u) (v : Bool) (p : Pending)
    (hp : performOne u s.cur v p
      = (ticked u v).setHart s.cur (landLoad ((ticked u v).hart s.cur) p (readPlace (ticked u v) (p.source.getD (.ram 0)) p.span.2)))
    {l : Nat} (hl : p.source = some (.ram l)) :
    (performOne u s.cur v p).me = landLoad (ticked u v).me p (readPlace s (.ram l) p.span.2)
    ∧ (performOne u s.cur v p).mem = s.mem ∧ (performOne u s.cur v p).cur = s.cur := by
  have ht := h.trans (ticked_same u v)
  rw [hp, hl]
  have hc : (ticked u v).cur = s.cur := ht.cur
  refine ⟨?_, ht.mem, hc⟩
  rw [← hc]
  exact (State.me_setMe _ _).trans (congrArg (landLoad _ p) (readPlace_ram_congr ht.mem l _))

/-- A boxed value: its upper bits, and its own below them. -/
theorem box_or (f : Fmt) (hw : f.width ≤ 64) (v : Nat) (hv : v < 2 ^ f.width) : box f 0 ||| BitVec.ofNat 64 v = box f v := by
  apply BitVec.eq_of_toNat_eq
  have hv64 : v < 2 ^ 64 := hv.trans_le (Nat.pow_le_pow_right (by decide) hw)
  have hor : (2 ^ (64 - f.width) - 1) * 2 ^ f.width ||| v = (2 ^ (64 - f.width) - 1) * 2 ^ f.width + v := by
    rw [Nat.mul_comm, Nat.two_pow_add_eq_or_of_lt hv]
  have hp : 2 ^ (64 - f.width) * 2 ^ f.width = 2 ^ 64 := by rw [← Nat.pow_add, Nat.sub_add_cancel hw]
  have hsum : (2 ^ (64 - f.width) - 1) * 2 ^ f.width + v < 2 ^ 64 := by
    rw [Nat.sub_mul, Nat.one_mul, hp]
    have : 2 ^ f.width ≤ 2 ^ 64 := Nat.pow_le_pow_right (by decide) hw
    omega
  rw [BitVec.toNat_or, box, box, BitVec.toNat_ofNat, BitVec.toNat_ofNat, BitVec.toNat_ofNat, Nat.add_zero,
    Nat.mod_eq_of_lt hsum, Nat.mod_eq_of_lt hv64, Nat.mod_eq_of_lt (by omega), hor]

/-- What a queued load writes is what the load would have written. -/
theorem landLoad_queuedLoad (x : Hart) (o : SMOps) (p : Place) {b : List Byte} (hb : b.length = widthBytes o.width) :
    landLoad x (queuedLoad o p) b = if (loadValue o b).1 then x.writeF o.x (loadValue o b).2 else x.writeS o.x (loadValue o b).2 := by
  have hlt := leNat_lt b
  rw [hb] at hlt
  unfold queuedLoad loadValue
  cases o.fr with
  | false =>
    simp only [Bool.false_eq_true, if_false, landLoad, decide_eq_true_eq]
    rfl
  | true =>
    simp only [if_true, landLoad]
    by_cases h5 : o.width = 5
    · rw [h5] at hlt ⊢
      exact congrArg (x.writeF o.x) (box_or (fmtOf 8) (by decide) _ hlt)
    · by_cases h6 : o.width = 6
      · rw [h6] at hlt ⊢
        exact congrArg (x.writeF o.x) (box_or (fmtOf 10) (by decide) _ hlt)
      · have n5 : o.width.toNat ≠ 5 := fun e => h5 (BitVec.eq_of_toNat_eq e)
        have n6 : o.width.toNat ≠ 6 := fun e => h6 (BitVec.eq_of_toNat_eq e)
        simp only [h5, h6, if_false]
        exact congrArg (x.writeF o.x) BitVec.zero_or

theorem rotates_idle {s : State} (h : lags s) (o : SMOps) : rotates s.me o = false := by
  obtain ⟨-, -, -, -, h0, h1, -⟩ := h
  rw [rotates, h0, h1]
  simp

theorem load_ram {s : State} (ha : s.ahead = []) {va : Word} {n l : Nat} {c : PageClass}
    (h : check s (s.agent s.cur) .load va.toNat n = .ok ⟨.ram l, c⟩) :
    ∃ u, OnlyCaches s u ∧ load s va n = .ok (readPlace s (.ram l) n, u) := by
  have hu := ((noteRead_onlyCaches s (.ok ⟨.ram l, c⟩)).trans (touch_onlyCaches _ (s.agent s.cur) .load va.toNat)).trans
    (tagAt_onlyCaches _ s.me (.ram l))
  refine ⟨_, hu, ?_⟩
  simp only [load, h, readAccess_plain _ false _ _ (hu.ahead.trans ha)]
  rw [hu.readRam]

theorem exec_ld_queued {s : State} (h : lags s) {o : SMOps} {l : Nat} {c : PageClass}
    (hc : check s (s.agent s.cur) .load (smAddr s.me o).toNat (widthBytes o.width) = .ok ⟨.ram l, c⟩) :
    ∃ t, exec (.ld o) s = .next t ∧ QueuedOne s (queuedLoad o (.ram l)) t := by
  obtain ⟨u, hu, hl⟩ := load_ram h.2.2.2.2.2.2.2.2 hc
  refine ⟨_, ?_, finish_enqueue h hu _⟩
  have hs : exec (.ld o) s = loadLater o s := by
    simp only [exec, execLd, unchained_none h.1, scalarLags_lags h, if_true]
  rw [hs, loadLater]
  simp only [hc, queueable, hl, rotates_idle h o, Bool.false_eq_true, if_false]

theorem queuedLoad_source (o : SMOps) (l : Nat) : (queuedLoad o (.ram l)).source = some (.ram l) := by
  unfold queuedLoad
  split <;> rfl

theorem queuedLoad_span (o : SMOps) (l : Nat) : (queuedLoad o (.ram l)).span.2 = widthBytes o.width := by
  unfold queuedLoad
  split <;> rfl

theorem performOne_queuedLoad (u : State) (o : SMOps) (l : Nat) :
    performOne u u.cur false (queuedLoad o (.ram l)) = (ticked u false).setHart u.cur
      (landLoad ((ticked u false).hart u.cur) (queuedLoad o (.ram l))
        (readPlace (ticked u false) ((queuedLoad o (.ram l)).source.getD (.ram 0)) (queuedLoad o (.ram l)).span.2)) := by
  unfold queuedLoad
  split <;> rfl

theorem performOne_store (u : State) (v : Bool) (l : Nat) (b : List Byte) :
    performOne u u.cur v (.store (.ram l) b) = writeRam (ticked u v) l b := rfl

theorem exec_st_queued {s : State} (h : lags s) {o : SMOps} {l : Nat} {c : PageClass}
    (hc : check s (s.agent s.cur) .store (smAddr s.me o).toNat (widthBytes o.width) = .ok ⟨.ram l, c⟩) :
    ∃ t, exec (.st o) s = .next t ∧ QueuedOne s (.store (.ram l) (storeBytes s.me o)) t := by
  have ha : s.ahead = [] := h.2.2.2.2.2.2.2.2
  have hu := (touch_onlyCaches s (s.agent s.cur) .store (smAddr s.me o).toNat).trans (tagAt_onlyCaches _ s.me (.ram l))
  refine ⟨_, ?_, finish_enqueue h hu _⟩
  have hs : exec (.st o) s = storeLater o s := by
    simp only [exec, execSt, unchained_none h.1, scalarLags_lags h, if_true]
  rw [hs, storeLater]
  simp only [hc, queueable, freshAccess_plain _ false (hu.ahead.trans ha)]

theorem queuedScalar : Claims.QueuedScalar := by
  intro s o l c h _ va
  constructor
  · intro _ hc v
    obtain ⟨t, ht, hq⟩ := exec_ld_queued h (o := o) hc
    obtain ⟨u, hu, hp⟩ := hq.performed
    have hone := performOne_queuedLoad u o l
    rw [hu.cur] at hone
    obtain ⟨hme, -, -⟩ := performed_load hu false _ hone (queuedLoad_source o l)
    rw [← hp, queuedLoad_span, landLoad_queuedLoad _ _ _ (readPlace_length _ _ _)] at hme
    have hv : loadValue o (readPlace s (.ram l) (widthBytes o.width)) = v := rfl
    rw [hv] at hme
    refine ⟨t, ht, hq.stands, (congrArg Hart.s hq.me).trans rfl, (congrArg Hart.f hq.me).trans rfl,
      (congrArg Hart.pc hq.me).trans rfl, by rw [(congrArg Hart.scalarQueue hq.me)]; rfl, fun h1 => ?_, fun h0 hx => ?_⟩
    · rw [hme, h1, if_pos rfl, Hart.readF_writeF_same]
    · rw [hme, h0, if_neg Bool.false_ne_true, Hart.readS_writeS_same _ _ _ hx]
  · intro hw hc v
    have hle : o.width.toNat ≤ 3 := by
      simp only [Instr.wellFormed, Bool.and_eq_true, decide_eq_true_eq] at hw
      exact hw.1
    have hn : widthBytes o.width = 2 ^ o.width.toNat := by rw [widthBytes, Nat.mod_eq_of_lt (by omega)]
    obtain ⟨t, ht, hq⟩ := exec_st_queued h (o := o) (l := l) (c := c) (by rw [hn]; exact hc)
    obtain ⟨u, hu, hp⟩ := hq.performed
    have hmem : (performQueue t s.cur false).mem = (writeRam s l (leBytes (2 ^ o.width.toNat) v.toNat)).mem := by
      rw [hp, ← hn, ← hu.cur, performOne_store]
      exact congrArg (putMem · l (storeBytes s.me o)) (hu.trans (ticked_same u false)).mem
    have hb (a : Nat) : (performQueue t s.cur false).byte a = (writeRam s l (leBytes (2 ^ o.width.toNat) v.toNat)).byte a :=
      congrArg (Tab.get 0 · a) hmem
    refine ⟨t, ht, hq.stands, (congrArg Hart.s hq.me).trans rfl, (congrArg Hart.pc hq.me).trans rfl,
      by rw [(congrArg Hart.scalarQueue hq.me)]; rfl, fun k hk => ?_, fun a ha => ?_⟩
    · rw [hb, writeRam_leBytes _ _ _ _ _ hk]
    · rw [hb, writeRam_leBytes_out _ _ _ _ _ ha]

/-! Vector loads and stores. -/

/-- Accesses put behind those in the vector queue of the running hart: its queue alone changes. -/
structure Enqueued (s : State) (q : List Pending) (t : State) : Prop where
  mem : t.mem = s.mem
  cur : t.cur = s.cur
  other : ∀ h, h ≠ s.cur → t.hart h = s.hart h
  me : ∃ w, t.me = { s.me with vectorQueue := w } ∧ w.flatten = s.me.vectorQueue.flatten ++ q

theorem Enqueued.trans {s t u : State} {p q : List Pending} (a : Enqueued s p t) (b : Enqueued t q u) :
    Enqueued s (p ++ q) u := by
  obtain ⟨w, hw, hf⟩ := a.me
  obtain ⟨w', hw', hf'⟩ := b.me
  have hq : t.me.vectorQueue = w := (congrArg Hart.vectorQueue hw).trans rfl
  refine ⟨b.mem.trans a.mem, b.cur.trans a.cur, fun h n => (b.other h (by rwa [a.cur])).trans (a.other h n), w', ?_, ?_⟩
  · rw [hw', hw]
  · rw [hf', hq, hf, List.append_assoc]

theorem enqueueAccess_enqueued (s : State) (l : List Pending) : Enqueued s l (enqueueAccess s true l) := by
  unfold enqueueAccess
  cases l with
  | nil => exact ⟨rfl, rfl, fun _ _ => rfl, s.me.vectorQueue, rfl, (List.append_nil _).symm⟩
  | cons p l =>
    refine ⟨rfl, rfl, fun h n => State.hart_setMe_other _ _ _ n, s.me.vectorQueue ++ [p :: l], State.me_setMe _ _, ?_⟩
    rw [List.flatten_append, List.flatten_singleton]

theorem enqueueEach_enqueued (s : State) (q : List (List Pending)) : Enqueued s q.flatten (enqueueEach s q) := by
  induction q generalizing s with
  | nil => exact ⟨rfl, rfl, fun _ _ => rfl, s.me.vectorQueue, rfl, (List.append_nil _).symm⟩
  | cons l q ih =>
    rw [List.flatten_cons]
    exact (enqueueAccess_enqueued s l).trans (ih (enqueueAccess s true l))

theorem withCovers_plain {s : State} (ht : s.taint = []) (hq : storeQueueHeld s s.cur = false) (q : List (List Pending)) :
    withCovers s q = q := by
  rw [withCovers, ht, hq]
  rfl

/-- The accesses of an instruction whose elements resolve to memory. -/
theorem queuedElements_ram {l : List Nat} {chk : Nat → Except Nat Resolved} {pl : Nat → Nat} {cl : Nat → PageClass}
    (h : ∀ e ∈ l, chk e = .ok ⟨.ram (pl e), cl e⟩) (f : Nat → Place → Pending) :
    ∃ q, queuedElements chk f l = some q ∧ q.flatten = l.map fun e => f e (.ram (pl e)) := by
  have hall : (l.all fun t => (queueable (chk t)).isSome) = true := by
    rw [List.all_eq_true]
    intro e he
    rw [h e he]
    rfl
  have hps : (l.filterMap fun t => (queueable (chk t)).map (f t)) = l.map fun e => f e (.ram (pl e)) := by
    rw [← List.filterMap_eq_map]
    refine List.filterMap_congr fun e he => ?_
    rw [h e he]
    rfl
  rw [queuedElements, if_pos hall, hps]
  refine ⟨_, rfl, ?_⟩
  split
  · rw [← List.flatMap_def]
    exact List.flatMap_singleton' _
  · rw [List.flatten_singleton]

/-- The state in which a queued vector access leaves its hart. -/
structure QueuedMany (s : State) (q : List Pending) (t : State) : Prop where
  stands : memoryStands s t
  same : SameRegisters s t
  queue : t.me.vectorQueue.flatten = q

theorem vectorLater_queued {s : State} (hl : s.me.lag = true) (ha : s.ahead = []) (ht : s.taint = [])
    (hh : storeQueueHeld s s.cur = false) (hv : s.me.vectorQueue = []) (h0 : s.me.lc0.busy = false) (h1 : s.me.lc1.busy = false)
    {l : List Nat} {k : Access} {addr pl : Nat → Nat} {cl : Nat → PageClass} {n : Nat}
    (h : ∀ e ∈ l, check s (s.agent s.cur) k (addr e) n = .ok ⟨.ram (pl e), cl e⟩) (trims : Nat → Bool)
    (f : Nat → Place → Pending) :
    ∃ t, vectorLater s k l addr (fun e => check s (s.agent s.cur) k (addr e) n) trims f = some (.next t)
      ∧ QueuedMany s (l.map fun e => f e (.ram (pl e))) t := by
  obtain ⟨q, hq, hf⟩ := queuedElements_ram (chk := fun e => check s (s.agent s.cur) k (addr e) n) h f
  have hp := plan_complete s.me (chk := fun e => check s (s.agent s.cur) k (addr e) n) (fun e he => ⟨_, h e he⟩) trims
  have hm : mayQueue s q = true := by simp [mayQueue, hh]
  have hc := touchAll_onlyCaches s k addr l
  have hcov : withCovers (touchAll s k addr l) q = q :=
    withCovers_plain (hc.taint.trans ht) ((storeQueueHeld_congr hc.jobs _).trans (by rw [hc.cur]; exact hh)) q
  have he := enqueueEach_enqueued (touchAll s k addr l) q
  obtain ⟨w, hw, hfl⟩ := he.me
  refine ⟨finishWith (enqueueAll (touchAll s k addr l) q) fun x => { x with vstart := 0 }, ?_, ?_⟩
  · rw [vectorLater, vectorLags_lag hl ha, hp]
    simp only [hq, hm, freshAccess_plain s true ha, endAccess]
    rfl
  · rw [enqueueAll, hcov]
    have hme : (finishWith (enqueueEach (touchAll s k addr l) q) fun x => { x with vstart := 0 }).me
        = { s.me with vectorQueue := w, vstart := 0, pc := following s.me, qual := false } := by
      rw [finishWith_me, hw, hc.me]
      exact arrive_plain _ _ (plainAt_idle h0 h1 _)
    refine ⟨⟨fun a => ?_, fun j hj => ?_⟩, ⟨?_, ?_, (congrArg Hart.v hme).trans rfl, (congrArg Hart.s hme).trans rfl,
      (congrArg Hart.f hme).trans rfl⟩, ?_⟩
    · rw [finishWith_byte, State.byte, he.mem]
      exact hc.byte a
    · have hj' : j ≠ (enqueueEach (touchAll s k addr l) q).cur := by rw [he.cur, hc.cur]; exact hj
      rw [(finishWith_onlyMe _ _).2.1 j hj', he.other j (by rw [hc.cur]; exact hj), hc.hart]
    · exact he.mem.trans hc.mem
    · exact he.cur.trans hc.cur
    · rw [(congrArg Hart.vectorQueue hme).trans rfl, hfl, hf, hc.me, hv]
      rfl

theorem QueuedMany.performed {s t : State} {q : List Pending} (h : QueuedMany s q t) :
    ∃ u, SameRegisters s u ∧ performQueue t s.cur true = q.foldl (fun t p => performOne t s.cur true p) u := by
  obtain ⟨u, hu, hp⟩ := performQueue_fold t true
  refine ⟨u, h.same.trans hu, ?_⟩
  rw [← h.same.cur, hp, show (t.me.queue true).flatten = q from h.queue]

/-- The tile of a register in which the bytes of elements are put in turn. -/
def putElements (n : Nat) (bytes : Nat → List Byte) (l : List Nat) (m : Bytes) : Bytes :=
  l.foldl (fun m e => Tab.putBytes m (n * e) (bytes e)) m

section
variable {n : Nat} {bytes : Nat → List Byte} (hb : ∀ e, (bytes e).length = n)
include hb

theorem putElements_out (l : List Nat) (m : Bytes) {k : Nat} (h : ∀ e ∈ l, k < n * e ∨ n * e + n ≤ k) :
    Tab.get 0 (putElements n bytes l m) k = Tab.get 0 m k := by
  induction l generalizing m with
  | nil => rfl
  | cons a l ih =>
    have ha := h a List.mem_cons_self
    exact (ih (Tab.putBytes m (n * a) (bytes a)) fun e he => h e (List.mem_cons_of_mem _ he)).trans (by
      rw [putBytes_eq_putMem, putMem_other _ _ _ _ (by rw [hb]; exact ha)])

theorem putElements_in {l : List Nat} (hl : l.Nodup) (m : Bytes) {e k : Nat} (he : e ∈ l) (hk : k < n) :
    Tab.get 0 (putElements n bytes l m) (n * e + k) = (bytes e)[k]'((hb e).symm ▸ hk) := by
  induction l generalizing m with
  | nil => exact nomatch he
  | cons a l ih =>
    obtain ⟨ha, hl⟩ := List.nodup_cons.mp hl
    by_cases h : e ∈ l
    · exact ih hl _ h
    · obtain rfl : e = a := by simpa [h] using he
      refine (putElements_out hb l (Tab.putBytes m (n * e) (bytes e)) fun f hf => ?_).trans ?_
      · have hne : e ≠ f := fun hef => ha (hef ▸ hf)
        obtain hlt | hlt := Nat.lt_or_gt_of_ne hne
        · have := Nat.mul_le_mul_left n hlt
          rw [Nat.mul_succ] at this
          omega
        · have := Nat.mul_le_mul_left n hlt
          rw [Nat.mul_succ] at this
          omega
      · rw [putBytes_eq_putMem]
        exact putMem_same _ _ _ _ _

end

/-- The loads of elements performed in turn put their bytes in their register. -/
theorem performed_elements (s : State) (d n : Nat) (pl : Nat → Nat) (l : List Nat) (u : State) (hm : u.mem = s.mem)
    (hc : u.cur = s.cur) :
    let t := (l.map fun e => Pending.toElement (.ram (pl e)) d e n).foldl (fun t p => performOne t s.cur true p) u
    t.me.vreg d = putElements n (fun e => readPlace s (.ram (pl e)) n) l (u.me.vreg d)
    ∧ ∀ r, r ≠ d → t.me.vreg r = u.me.vreg r := by
  induction l generalizing u with
  | nil => exact ⟨rfl, fun _ _ => rfl⟩
  | cons e l ih =>
    have ht := ticked_same u true
    let p := Pending.toElement (.ram (pl e)) d e n
    obtain ⟨hme, hmem, hcur⟩ := performed_load (s := u) ⟨rfl, rfl, rfl, rfl, rfl⟩ true p rfl (l := pl e) rfl
    rw [hc] at hme hmem hcur
    have hv : (performOne u s.cur true p).me.v
        = Tab.set [] d (Tab.putBytes (u.me.vreg d) (n * e) (readPlace s (.ram (pl e)) n)) u.me.v := by
      rw [hme, ← readPlace_ram_congr hm]
      exact congrArg (fun v => Tab.set [] d (Tab.putBytes (Tab.get [] v d) (n * e) (readPlace u (.ram (pl e)) n)) v) ht.vregs
    obtain ⟨hin, hout⟩ := ih (performOne u s.cur true p) (hmem.trans hm) hcur
    refine ⟨hin.trans ?_, fun r hr => (hout r hr).trans ?_⟩
    · rw [Hart.vreg, hv, Tab.get_set_same]
      rfl
    · rw [Hart.vreg, hv, Tab.get_set_other _ _ _ _ _ hr]
      rfl

/-- The stores of elements performed in turn write their bytes to memory. -/
theorem performed_stores (h : Nat) (pl : Nat → Nat) (bytes : Nat → List Byte) (l : List Nat) (s u : State) (hm : u.mem = s.mem)
    (hc : u.cur = h) :
    ((l.map fun e => Pending.store (.ram (pl e)) (bytes e)).foldl (fun t p => performOne t h true p) u).mem
      = (writeRuns s (l.map fun e => (pl e, bytes e))).mem := by
  induction l generalizing s u with
  | nil => exact hm
  | cons e l ih =>
    have hone : performOne u h true (.store (.ram (pl e)) (bytes e)) = writeRam (ticked u true) (pl e) (bytes e) := by rw [← hc]; rfl
    have ht := ticked_same u true
    rw [List.map_cons, List.foldl_cons, hone]
    exact ih (writeRam s (pl e) (bytes e)) _ (congrArg (putMem · (pl e) (bytes e)) (ht.mem.trans hm))
      ((writeRam_cur _ _ _).trans (ht.cur.trans hc))

/-- The vector loads are one operation. -/
theorem exec_loadOf {i : Instr} {s : State} {o : VMOps} {rs : List Reg} {addr : Nat → Nat} {trims : Nat → Bool}
    (h : loadOf i s.me = some (o, rs, addr, trims)) :
    ∃ f g, exec i s = loadForm s o rs f g ∧ ∀ set, f (acquireTokens s.me set) o = addr := by
  cases i with
  | vld =>
    obtain ⟨rfl, rfl, rfl, -⟩ := Option.some.inj h
    exact ⟨unitAddr, trimScratch, rfl, fun set => funext (unitAddr_eq (acquireTokens s.me set) o)⟩
  | vlds =>
    obtain ⟨rfl, rfl, rfl, -⟩ := Option.some.inj h
    exact ⟨stridedAddr, trimScratch, rfl, fun set => funext (stridedAddr_eq (acquireTokens s.me set) o)⟩
  | vldx =>
    obtain ⟨rfl, rfl, rfl, -⟩ := Option.some.inj h
    exact ⟨indexedAddr, trimScratch, rfl, fun set => funext (indexedAddr_eq (acquireTokens s.me set) o)⟩
  | vldff =>
    obtain ⟨rfl, rfl, rfl, -⟩ := Option.some.inj h
    exact ⟨unitAddr, trimFirst, rfl, fun set => funext (unitAddr_eq (acquireTokens s.me set) o)⟩
  | _ => exact nomatch h

theorem vmEnter_idle {s : State} (hch : s.me.chain = none) (ha : s.ahead = []) {o : VMOps} {rs : List Reg}
    (hc : s.me.conf ≠ none) (hr : ∀ r ∈ rs, r.toNat < vCount s.me) (ht : tokensReady s.me o.wait) {ok : Bool} (hok : ok = true)
    (k : State → Res) : vmEnter s o rs ok k = k (begun s o.wait) := by
  have hfresh : freshAccess (begun s o.wait) true = begun s o.wait := freshAccess_plain _ _ ha
  rw [vmEnter, vregsOk_of hc hr, unchained_none hch, hok]
  change withTokens s o.wait k = _
  rw [withTokens, pendingTokens_ready ht]
  simp only [List.isEmpty_nil, if_true]
  split
  · rfl
  · exact congrArg k hfresh

/-- What a hart that begins a vector access outside any loop keeps of `lags`. -/
theorem begun_queued {s : State} (h : lags s) (set : BitVec 8) {l : List Nat} {k : Access} {addr pl : Nat → Nat}
    {cl : Nat → PageClass} {n : Nat} (hc : ∀ e ∈ l, check s (s.agent s.cur) k (addr e) n = .ok ⟨.ram (pl e), cl e⟩)
    (trims : Nat → Bool) (f : Nat → Place → Pending) :
    ∃ t, vectorLater (begun s set) k l addr
        (fun e => check (begun s set) ((begun s set).agent (begun s set).cur) k (addr e) n) trims f = some (.next t)
      ∧ QueuedMany s (l.map fun e => f e (.ram (pl e))) t := by
  obtain ⟨-, hl, -, hv, h0, h1, ht, hq, ha⟩ := h
  have hm := begun_me s set
  obtain ⟨t, he, hst, hsame, hqueue⟩ := vectorLater_queued (s := begun s set) (by rw [hm]; exact hl) ha ht hq (by rw [hm]; exact hv)
    (by rw [hm]; exact h0) (by rw [hm]; exact h1) (l := l) (k := k) (addr := addr) (pl := pl) (cl := cl) (n := n)
    (fun e he => by rw [begun_agent, check_begun]; exact hc e he) trims f
  have hb : SameRegisters s (begun s set) := .setMe s rfl rfl rfl
  exact ⟨t, he, ⟨hst.1, fun j hj => (hst.2 j hj).trans (begun_other s set j hj)⟩, hb.trans hsame, hqueue⟩

theorem vectorLoad_later {s : State} {d : Nat} {l : List Nat} {n : Nat} {addr : Nat → Nat} {trims : Nat → Bool} {r : Res}
    (h : vectorLater s .load l addr (fun e => check s (s.agent s.cur) .load (addr e) n) trims
      (fun e p => .toElement p d e n) = some r) : vectorLoad s d l n addr trims = r := by
  rw [vectorLoad, h]

theorem vectorStore_later {s : State} {l : List Nat} {n : Nat} {addr : Nat → Nat} {bytes : Nat → List Byte} {trims : Nat → Bool}
    {r : Res} (h : vectorLater s .store l addr (fun e => check s (s.agent s.cur) .store (addr e) n) trims
      (fun e p => .store p (bytes e)) = some r) : vectorStore s l n addr bytes trims = r := by
  rw [vectorStore, h]

theorem queuedVector : Claims.QueuedVector := by
  intro s i o rs addr pl cl h hi hconf hr htok hw l n _
  have hchain : s.me.chain = none := h.1
  have ha : s.ahead = [] := h.2.2.2.2.2.2.2.2
  have hx := begun_me s o.wait
  constructor
  · intro trims hload hchk
    obtain ⟨f, g, hex, hf⟩ := exec_loadOf hload
    obtain ⟨t, ht, hq⟩ := begun_queued h o.wait hchk g fun e p => .toElement p o.x.toNat e n
    obtain ⟨u, hu, hp⟩ := hq.performed
    obtain ⟨hin, hout⟩ := performed_elements s o.x.toNat n pl l u hu.mem hu.cur
    rw [← hp] at hin hout
    have hlen : ∀ e, (readPlace s (.ram (pl e)) n).length = n := fun e => readPlace_length _ _ _
    have hnd : l.Nodup := (active_pairwise s.me o.mask.toNat).imp fun hlt => Nat.ne_of_lt hlt
    refine ⟨t, ?_, hq.stands, hq.same.vregs, by rw [hq.queue, List.length_map], fun e he k hk => ?_, fun k hk => ?_, fun r hr => ?_⟩
    · rw [hex, loadForm, vmEnter_idle hchain ha hconf hr htok (ok := vmWidth s.me o) (decide_eq_true hw)]
      rw [hx, hf]
      exact vectorLoad_later ht
    · rw [hin, putElements_in hlen hnd _ he hk]
      simp [readPlace]
    · rw [hin, putElements_out hlen l _ hk]
      exact congrArg (fun v => Tab.get 0 (Tab.get [] v o.x.toNat) k) hu.vregs
    · exact (hout r hr).trans (congrArg (fun v => Tab.get [] v r) hu.vregs)
  · intro hstore hchk
    obtain ⟨f, hex, hf⟩ := exec_storeOf hstore
    obtain ⟨t, ht, hq⟩ := begun_queued h o.wait hchk trimScratch fun e p => .store p (Tab.bytes (s.me.vreg o.x.toNat) (n * e) n)
    obtain ⟨u, hu, hp⟩ := hq.performed
    have hmem := performed_stores s.cur pl (fun e => Tab.bytes (s.me.vreg o.x.toNat) (n * e) n) l s u hu.mem hu.cur
    rw [← hp] at hmem
    have hb (a : Nat) : (performQueue t s.cur true).byte a
        = (writeRuns s (l.map fun e => (pl e, Tab.bytes (s.me.vreg o.x.toNat) (n * e) n))).byte a :=
      congrArg (Tab.get 0 · a) hmem
    refine ⟨t, ?_, hq.stands, hq.same.vregs, by rw [hq.queue, List.length_map], fun e he k hk hlater => ?_, fun a ha => ?_⟩
    · rw [hex, storeForm, vmEnter_idle hchain ha hconf hr htok (ok := vmWidth s.me o) (decide_eq_true hw)]
      dsimp only
      rw [hx, hf]
      exact vectorStore_later ht
    · rw [hb, writeRuns_in s (active_pairwise _ _) pl _ (fun e => bytes_length _ _ _) he hk hlater, bytes_getElem]
    · rw [hb]
      refine writeRuns_out _ _ _ fun e he => ?_
      obtain ⟨e, hel, rfl⟩ := List.mem_map.mp he
      rw [bytes_length]
      exact ha e hel

/-- Settles O21: the accesses of an instruction go to its hart's queue as they stand, and performing the queue performs them in
that order on the bytes of memory. -/
theorem streamQueues : Obligations.StreamQueues := ⟨queuedScalar, queuedVector⟩

end Sys2Proof.Machine
end

section
/-! SUPPORT. The fields of a spool's control block (10 R254 to R257). -/

namespace Sys2Proof.Machine

/-! Fields of a list of bytes. -/

theorem slice_eq (l : List Byte) (o n : Nat) : slice l o n = (List.range n).map fun i => l.getD (o + i) 0 := by
  apply List.ext_getElem
  · simp only [slice, List.length_append, List.length_take, List.length_drop, List.length_replicate, List.length_map,
      List.length_range]
    omega
  · intro i hi hn
    have hlt : i < n := by simpa using hn
    rw [List.getElem_map, List.getElem_range, List.getD_eq_getElem?_getD]
    simp only [slice, List.getElem_append, List.getElem_take, List.getElem_drop, List.getElem_replicate, List.length_take,
      List.length_drop]
    split
    next h => rw [List.getElem?_eq_getElem (by omega), Option.getD_some]
    next h => rw [List.getElem?_eq_none (by omega), Option.getD_none]

theorem slice_length (l : List Byte) (o n : Nat) : (slice l o n).length = n := by
  rw [slice_eq, List.length_map, List.length_range]

theorem field_lt (l : List Byte) (o n : Nat) : field l o n < 256 ^ n := by
  have h := leNat_lt (slice l o n)
  rwa [slice_length] at h

theorem field_congr {l m : List Byte} {o p n : Nat} (h : ∀ i, i < n → l.getD (o + i) 0 = m.getD (p + i) 0) :
    field l o n = field m p n := by
  rw [field, field, slice_eq, slice_eq]
  exact congrArg leNat (List.map_congr_left fun i hi => h i (List.mem_range.mp hi))

section
variable {l : List Byte} {o n : Nat} (v : Nat) (h : o + n ≤ l.length)
include h

theorem setField_length : (setField l o n v).length = l.length := by
  simp only [setField, List.length_append, List.length_take, List.length_drop, leBytes_length]
  omega

theorem setField_getD_in {i : Nat} (hi : i < n) : (setField l o n v).getD (o + i) 0 = (leBytes n v).getD i 0 := by
  have ht : (l.take o).length = o := by rw [List.length_take]; omega
  rw [setField, List.append_assoc, List.getD_append_right _ _ _ _ (by omega), ht, Nat.add_sub_cancel_left,
    List.getD_append _ _ _ _ (by rwa [leBytes_length])]

theorem setField_getD_out {i : Nat} (hi : i < o ∨ o + n ≤ i) : (setField l o n v).getD i 0 = l.getD i 0 := by
  have ht : (l.take o).length = o := by rw [List.length_take]; omega
  rw [setField, List.append_assoc]
  obtain hi | hi := hi
  · rw [List.getD_append _ _ _ _ (by omega), List.getD_eq_getElem?_getD, List.getD_eq_getElem?_getD, List.getElem?_take,
      if_pos hi]
  · rw [List.getD_append_right _ _ _ _ (by omega), ht, List.getD_append_right _ _ _ _ (by rw [leBytes_length]; omega),
      leBytes_length, List.getD_eq_getElem?_getD, List.getD_eq_getElem?_getD, List.getElem?_drop]
    congr 2
    omega

theorem field_setField_same : field (setField l o n v) o n = v % 256 ^ n := by
  rw [field, slice_eq, ← leNat_leBytes n v]
  congr 1
  apply List.ext_getElem
  · rw [List.length_map, List.length_range, leBytes_length]
  · intro i hi hn
    rw [List.getElem_map, List.getElem_range, setField_getD_in v h (by simpa using hi), List.getD_eq_getElem _ _ hn]

theorem field_setField_other {p m : Nat} (hp : p + m ≤ o ∨ o + n ≤ p) : field (setField l o n v) p m = field l p m :=
  field_congr fun i hi => setField_getD_out v h (by omega)

end

/-! Fields of a control block, which has 64 bytes. -/

section
variable {b : List Byte} {o n : Nat} {v : Nat} (hb : b.length = 64) (h : o + n ≤ 64)
include hb h

theorem set_length : (setField b o n v).length = 64 := (setField_length v (hb ▸ h)).trans hb

theorem field_set_same : field (setField b o n v) o n = v % 256 ^ n := field_setField_same v (hb ▸ h)

theorem field_set_other {p m : Nat} (hp : p + m ≤ o ∨ o + n ≤ p) : field (setField b o n v) p m = field b p m :=
  field_setField_other v (hb ▸ h) hp

end

/-! The check and its seal. -/

theorem qcbCheck_setField {b : List Byte} (v : Nat) (h : b.length = 64) : qcbCheck (setField b 62 2 v) = qcbCheck b := by
  unfold qcbCheck
  refine List.foldl_ext _ _ _ fun x i hi => ?_
  have := List.mem_range.mp hi
  rw [field_setField_other v (by omega) (by omega)]

theorem qcbCheck_lt (b : List Byte) : qcbCheck b < 2 ^ 16 :=
  foldl_keeps (P := fun x => x < 2 ^ 16) (f := fun x i => x ^^^ field b (2 * i) 2)
    (fun x i hx => Nat.xor_lt_two_pow hx (field_lt b _ 2)) (by decide) _

theorem qcbSeal_length {b : List Byte} (h : b.length = 64) : (qcbSeal b).length = 64 := by
  rw [qcbSeal, setField_length _ (by omega), h]

theorem field_qcbSeal {b : List Byte} (h : b.length = 64) {p m : Nat} (hp : p + m ≤ 62) : field (qcbSeal b) p m = field b p m :=
  field_setField_other _ (by omega) (.inl hp)

theorem field_qcbSeal_check {b : List Byte} (h : b.length = 64) : field (qcbSeal b) 62 2 = qcbCheck (qcbSeal b) := by
  rw [qcbSeal, qcbCheck_setField _ h, field_setField_same _ (by omega)]
  exact Nat.mod_eq_of_lt (qcbCheck_lt b)

/-! Reading and writing a block. -/

theorem qcbRead_length (s : State) (q : Nat) : (qcbRead s q).length = 64 := readPlace_length _ _ _

theorem qcbRead_congr {s t : State} {q : Nat} (h : ∀ i, i < 64 → t.byte (q + i) = s.byte (q + i)) : qcbRead t q = qcbRead s q :=
  List.map_congr_left fun i hi => h i (List.mem_range.mp hi)

theorem qcbRead_mem {s t : State} (h : t.mem = s.mem) (q : Nat) : qcbRead t q = qcbRead s q :=
  readPlace_ram_congr h q 64

theorem qcbRead_qcbWrite (s : State) (q : Nat) {b : List Byte} (h : b.length = 64) : qcbRead (qcbWrite s q b) q = qcbSeal b := by
  have hr := readPlace_writeRam s q (qcbSeal b)
  rw [qcbSeal_length h] at hr
  exact hr

theorem qcbWrite_byte_out (s : State) (q : Nat) {b : List Byte} (h : b.length = 64) {a : Nat} (ha : a < q ∨ q + 64 ≤ a) :
    (qcbWrite s q b).byte a = s.byte a :=
  writeRam_byte_out s q _ a (by rwa [qcbSeal_length h])

theorem foldl_worse_sound (f : Nat → Taint) (l : List Nat) :
    l.foldl (fun t i => worse t (f i)) .sound = .sound ↔ ∀ i ∈ l, f i = .sound := by
  induction l using List.reverseRecOn with
  | nil => simp
  | append_singleton l a ih =>
    have hw (x y : Taint) : worse x y = .sound ↔ x = .sound ∧ y = .sound := by cases x <;> cases y <;> simp [worse]
    simp only [List.foldl_append, List.foldl_cons, List.foldl_nil, hw, ih, List.mem_append, List.mem_singleton]
    exact ⟨fun ⟨h, ha⟩ i hi => hi.elim (h i) fun e => e ▸ ha, fun h => ⟨fun i hi => h i (.inl hi), h a (.inr rfl)⟩⟩

/-- A block whose bytes are all sound is not spoiled. -/
theorem qcbSpoiled_iff (s : State) (q : Nat) : qcbSpoiled s q = false ↔ ∀ i, i < 64 → Tab.get .sound s.taint (q + i) = .sound := by
  have hs : qcbSpoiled s q = false ↔ taintPlace s (.ram q) 64 = .sound := by simp [qcbSpoiled]
  rw [hs, taintPlace]
  split
  next h => simp [List.isEmpty_iff.mp h, Tab.get]
  next => rw [foldl_worse_sound]; simp [placeTaint]

theorem qcbSpoiled_taint {s t : State} (h : t.taint = s.taint) (q : Nat) : qcbSpoiled t q = qcbSpoiled s q := by
  have hi : qcbSpoiled t q = false ↔ qcbSpoiled s q = false := by rw [qcbSpoiled_iff, qcbSpoiled_iff, h]
  exact Bool.eq_iff_iff.mpr (by simpa using not_congr hi)

theorem writeRam_sound {s : State} {a : Nat} (h : Tab.get .sound s.taint a = .sound) (l : Nat) (b : List Byte) :
    Tab.get .sound (writeRam s l b).taint a = .sound := by
  refine (Tab.get_filter_key .sound (fun k => !(decide (l ≤ k / 32 * 32) && decide (k / 32 * 32 + 32 ≤ l + b.length)))
    s.taint a).trans ?_
  rw [h]
  split <;> rfl

theorem writeRuns_unspoiled {s : State} {q : Nat} (h : qcbSpoiled s q = false) (w : List (Nat × List Byte)) :
    qcbSpoiled (writeRuns s w) q = false :=
  foldl_keeps (P := fun u : State => qcbSpoiled u q = false)
    (fun u _ hu => (qcbSpoiled_iff _ q).mpr fun i hi => writeRam_sound ((qcbSpoiled_iff u q).mp hu i hi) _ _) h w

/-! Elements in and out (10 R259). -/

/-- Words at places in memory written in turn are runs of four bytes. -/
theorem writeWords_ram (s : State) (pl : Nat → Nat) (m : Nat) (b : List Byte) :
    writeWords s ((List.range m).map fun k => .ram (pl k)) 4 b
      = writeRuns s ((List.range m).map fun k => (pl k, slice b (4 * k) 4)) := by
  have hz : (List.range m).zip ((List.range m).map fun k => Place.ram (pl k)) = (List.range m).map fun k => (k, .ram (pl k)) := by
    exact List.map_prod_left_eq_zip.symm
  rw [writeWords, List.length_map, List.length_range, hz, writeRuns, List.foldl_map, List.foldl_map]
  rfl

theorem flatMap_words {α : Type} (g : Nat → Nat → α) (m : Nat) :
    ((List.range m).flatMap fun k => (List.range 4).map (g k)) = (List.range (4 * m)).map fun j => g (j / 4) (j % 4) := by
  induction m with
  | zero => rfl
  | succ m ih =>
    rw [List.range_succ (n := m), List.flatMap_append, ih, Nat.mul_succ, List.range_add, List.map_append, List.map_map]
    refine congrArg _ ?_
    rw [List.flatMap_singleton]
    refine List.map_congr_left fun i hi => ?_
    have h4 := List.mem_range.mp hi
    rw [Function.comp, show (4 * m + i) / 4 = m by omega, show (4 * m + i) % 4 = i by omega]

/-- What `qcbOk` says of the size of an element. -/
theorem qcbOk_esize {b : List Byte} (h : qcbOk b = true) : qEsize b % 4 = 0 ∧ 4 ≤ qEsize b := by
  simp only [qcbOk, Bool.and_eq_true, decide_eq_true_eq] at h
  exact ⟨h.1.1.2, h.1.2⟩

/-- The fields of a block in which one more element is reserved. -/
structure Reserved (b c : List Byte) : Prop where
  length : c.length = 64
  tail : qTail c = (qTail b + 1) % 2 ^ 64
  head : qHead c = qHead b
  free : qFree c = (qFree b - 1) % 2 ^ 32
  resvd : qResvd c = (qResvd b + 1) % 2 ^ 32
  unnot : qUnnot c = qUnnot b
  threshold : field c 38 2 = field b 38 2

theorem reserved_spec {b : List Byte} (hb : b.length = 64) : Reserved b (reserved b 1) := by
  have h1 : (setField b 8 8 (qTail b + 1)).length = 64 := set_length hb (by decide)
  have h2 : (setField (setField b 8 8 (qTail b + 1)) 24 4 (qFree b - 1)).length = 64 := set_length h1 (by decide)
  have keep {p m : Nat} (ht : p + m ≤ 8 ∨ 8 + 8 ≤ p) (hf : p + m ≤ 24 ∨ 24 + 4 ≤ p) (hr : p + m ≤ 28 ∨ 28 + 4 ≤ p) :
      field (reserved b 1) p m = field b p m :=
    (field_set_other h2 (by decide) hr).trans ((field_set_other h1 (by decide) hf).trans (field_set_other hb (by decide) ht))
  exact ⟨set_length h2 (by decide),
    (field_set_other h2 (by decide) (.inl (by decide))).trans
      ((field_set_other h1 (by decide) (.inl (by decide))).trans (field_set_same hb (by decide))),
    keep (by decide) (by decide) (by decide),
    (field_set_other h2 (by decide) (.inl (by decide))).trans (field_set_same h1 (by decide)),
    field_set_same h2 (by decide), keep (by decide) (by decide) (by decide), keep (by decide) (by decide) (by decide)⟩

/-- The block that a commit of one slot writes. -/
def oneCommitted (b : List Byte) : List Byte := setField (setField b 28 4 (qResvd b - 1)) 56 4 (qUnnot b + 1)

theorem oneCommitted_length {b : List Byte} (hb : b.length = 64) : (oneCommitted b).length = 64 :=
  set_length (o := 56) (n := 4) (set_length hb (o := 28) (n := 4) (by decide)) (by decide)

theorem oneCommitted_other {b : List Byte} (hb : b.length = 64) {p m : Nat} (hr : p + m ≤ 28 ∨ 28 + 4 ≤ p)
    (hu : p + m ≤ 56 ∨ 56 + 4 ≤ p) : field (oneCommitted b) p m = field b p m :=
  (field_set_other (o := 56) (n := 4) (set_length hb (o := 28) (n := 4) (by decide)) (by decide) hu).trans (field_set_other hb (by decide) hr)

theorem oneCommitted_resvd {b : List Byte} (hb : b.length = 64) : qResvd (oneCommitted b) = (qResvd b - 1) % 2 ^ 32 :=
  (field_set_other (o := 56) (n := 4) (set_length hb (o := 28) (n := 4) (by decide)) (by decide) (.inl (by decide))).trans (field_set_same hb (by decide))

theorem oneCommitted_unnot {b : List Byte} (hb : b.length = 64) : qUnnot (oneCommitted b) = (qUnnot b + 1) % 2 ^ 32 :=
  field_set_same (o := 56) (n := 4) (set_length hb (o := 28) (n := 4) (by decide)) (by decide)

/-- The commit of one slot in a block without a threshold. -/
theorem commitSlots_plain {s : State} {q : Nat} (hs : qcbSpoiled s q = false) (hn : field (qcbRead s q) 38 2 = 0) :
    commitSlots s q 1 = qcbWrite s q (oneCommitted (qcbRead s q)) := by
  have hb := qcbRead_length s q
  have ht : field (qcbRead (qcbWrite s q (oneCommitted (qcbRead s q))) q) 38 2 = 0 := by
    rw [qcbRead_qcbWrite _ _ (oneCommitted_length hb), field_qcbSeal (oneCommitted_length hb) (by decide),
      oneCommitted_other hb (by decide) (by decide), hn]
  have hc : commitSlots s q 1 = notifyThreshold (qcbWrite s q (oneCommitted (qcbRead s q))) q := by
    rw [commitSlots, hs, if_neg Bool.false_ne_true]
    rfl
  rw [hc, notifyThreshold, ht]
  rfl

/-- Runs of four bytes apart from a block leave it as it stands. -/
theorem writeRuns_qcbRead (s : State) {q : Nat} (pl : Nat → Nat) (m : Nat) (bytes : Nat → List Byte)
    (hl : ∀ k, (bytes k).length = 4) (h : ∀ k, k < m → pl k + 4 ≤ q ∨ q + 64 ≤ pl k) :
    qcbRead (writeRuns s ((List.range m).map fun k => (pl k, bytes k))) q = qcbRead s q := by
  refine qcbRead_congr fun i hi => writeRuns_out _ _ _ fun e he => ?_
  obtain ⟨k, hk, rfl⟩ := List.mem_map.mp he
  have := h k (List.mem_range.mp hk)
  rw [hl]
  omega

theorem slice_getElem (l : List Byte) (o n k : Nat) (h : k < (slice l o n).length) : (slice l o n)[k] = l.getD (o + k) 0 := by
  simp only [slice_eq, List.getElem_map, List.getElem_range]

theorem enqueue_one {s : State} {q : Nat} {e : List Byte} {pl : Nat → Nat} (hok : qcbOk (qcbRead s q) = true)
    (hs : qcbSpoiled s q = false) (hapart : apart (List.range (qEsize (qcbRead s q) / 4)) pl 4)
    (hq : ∀ k, k < qEsize (qcbRead s q) / 4 → pl k + 4 ≤ q ∨ q + 64 ≤ pl k) (hfree : 1 ≤ qFree (qcbRead s q))
    (hresvd : qResvd (qcbRead s q) < 2 ^ 32 - 1) (hunnot : qUnnot (qcbRead s q) < 2 ^ 32 - 1) (hno : field (qcbRead s q) 38 2 = 0)
    (hpl : slotPlaces (qcbWrite s q (reserved (qcbRead s q) 1)) (qcbRead s q) .store (qTail (qcbRead s q))
      = .ok ((List.range (qEsize (qcbRead s q) / 4)).map fun k => .ram (pl k))) :
    ∃ t, enqueue s q [e] = (t, .ok (qTail (qcbRead s q)))
      ∧ qTail (qcbRead t q) = (qTail (qcbRead s q) + 1) % 2 ^ 64 ∧ qHead (qcbRead t q) = qHead (qcbRead s q)
      ∧ qFree (qcbRead t q) = qFree (qcbRead s q) - 1 ∧ qResvd (qcbRead t q) = qResvd (qcbRead s q)
      ∧ qUnnot (qcbRead t q) = qUnnot (qcbRead s q) + 1
      ∧ field (qcbRead t q) 62 2 = qcbCheck (qcbRead t q)
      ∧ (∀ k, k < qEsize (qcbRead s q) → t.byte (pl (k / 4) + k % 4) = e.getD k 0)
      ∧ ∀ a, (a < q ∨ q + 64 ≤ a) → (∀ k, k < qEsize (qcbRead s q) / 4 → a < pl k ∨ pl k + 4 ≤ a) → t.byte a = s.byte a := by
  have hb := qcbRead_length s q
  obtain ⟨hmul, -⟩ := qcbOk_esize hok
  have hf : qFree (qcbRead s q) < 2 ^ 32 := field_lt (qcbRead s q) 24 4
  generalize hbe : qcbRead s q = b at *
  have r := reserved_spec hb
  let m := qEsize b / 4
  let bytes (k : Nat) : List Byte := slice e (4 * k) 4
  have hlen (k : Nat) : (bytes k).length = 4 := slice_length _ _ _
  let s1 := qcbWrite s q (reserved b 1)
  let u := useWords s1 .store 4 (slotVa b (qTail b)) ((List.range m).map fun k => .ram (pl k))
  have hu : OnlyCaches s1 u := useWords_onlyCaches _ _ _ _ _
  let w := writeRuns u ((List.range m).map fun k => (pl k, bytes k))
  have hw : qcbRead w q = qcbSeal (reserved b 1) := by
    rw [writeRuns_qcbRead u pl m bytes hlen hq, qcbRead_mem hu.mem]
    exact qcbRead_qcbWrite s q r.length
  have hws : qcbSpoiled w q = false := writeRuns_unspoiled ((qcbSpoiled_taint (s := s) hu.taint q).trans hs) _
  have hseal {p k : Nat} (hp : p + k ≤ 62) : field (qcbSeal (reserved b 1)) p k = field (reserved b 1) p k :=
    field_qcbSeal r.length hp
  have hsl : (qcbSeal (reserved b 1)).length = 64 := qcbSeal_length r.length
  let t := qcbWrite w q (oneCommitted (qcbSeal (reserved b 1)))
  have ht : qcbRead t q = qcbSeal (oneCommitted (qcbSeal (reserved b 1))) := qcbRead_qcbWrite w q (oneCommitted_length hsl)
  have hkeep {p k : Nat} (hr : p + k ≤ 28 ∨ 28 + 4 ≤ p) (hn : p + k ≤ 56) :
      field (qcbRead t q) p k = field (reserved b 1) p k := by
    rw [ht, field_qcbSeal (oneCommitted_length hsl) (by omega), oneCommitted_other hsl hr (.inl hn), hseal (by omega)]
  have hcommit : commitSlots w q 1 = t := by
    have h0 : field (qcbRead w q) 38 2 = 0 := by rw [hw, hseal (by decide), r.threshold, hno]
    rw [commitSlots_plain hws h0, hw]
  have hout (a : Nat) (ha : a < q ∨ q + 64 ≤ a) : t.byte a = w.byte a := qcbWrite_byte_out w q (oneCommitted_length hsl) ha
  refine ⟨t, ?_, ?_, ?_, ?_, ?_, ?_, ?_, fun k hk => ?_, fun a ha hap => ?_⟩
  · rw [enqueue, hbe]
    dsimp only [List.length_singleton]
    rw [writeSlots, hpl]
    dsimp only
    rw [writeSlots, writeWords_ram]
    exact congrArg (·, Except.ok (qTail b)) hcommit
  · exact (hkeep (by decide) (by decide)).trans r.tail
  · exact (hkeep (by decide) (by decide)).trans r.head
  · rw [show qFree (qcbRead t q) = qFree (reserved b 1) from hkeep (by decide) (by decide), r.free]
    exact Nat.mod_eq_of_lt (by omega)
  · have hr : qResvd (qcbRead t q) = (qResvd (qcbSeal (reserved b 1)) - 1) % 2 ^ 32 := by
      rw [ht]
      exact (field_qcbSeal (oneCommitted_length hsl) (by decide)).trans (oneCommitted_resvd hsl)
    rw [hr, show qResvd (qcbSeal (reserved b 1)) = qResvd (reserved b 1) from hseal (by decide), r.resvd]
    omega
  · have hn : qUnnot (qcbRead t q) = (qUnnot (qcbSeal (reserved b 1)) + 1) % 2 ^ 32 := by
      rw [ht]
      exact (field_qcbSeal (oneCommitted_length hsl) (by decide)).trans (oneCommitted_unnot hsl)
    rw [hn, show qUnnot (qcbSeal (reserved b 1)) = qUnnot (reserved b 1) from hseal (by decide), r.unnot]
    omega
  · rw [ht]
    exact field_qcbSeal_check (oneCommitted_length hsl)
  · have hk4 : k / 4 < m := by show k / 4 < qEsize b / 4; omega
    rw [hout _ (by have := hq (k / 4) hk4; omega),
      writeRuns_in u List.pairwise_lt_range pl bytes hlen (List.mem_range.mpr hk4) (Nat.mod_lt k (by decide)) fun f hf hlt => by
        have := hapart (k / 4) (List.mem_range.mpr hk4) f hf (Nat.ne_of_lt hlt)
        omega,
      slice_getElem, Nat.div_add_mod]
  · rw [hout a ha, writeRuns_out _ _ _ fun x hx => by
      obtain ⟨k, hk, rfl⟩ := List.mem_map.mp hx
      rw [hlen]
      exact hap k (List.mem_range.mp hk), hu.byte]
    exact qcbWrite_byte_out s q r.length ha

theorem useSlots_onlyCaches (s : State) (b : List Byte) (i n : Nat) : OnlyCaches s (useSlots s b i n) := by
  refine foldl_onlyCaches (fun s k => ?_) s _
  split
  · exact useWords_onlyCaches _ _ _ _ _
  · exact .refl s

theorem dequeue_one {s : State} {q : Nat} {pl : Nat → Nat} (hok : qcbOk (qcbRead s q) = true) (hs : qcbSpoiled s q = false)
    (hq : ∀ k, k < qEsize (qcbRead s q) / 4 → pl k + 4 ≤ q ∨ q + 64 ≤ pl k) (hfree : qFree (qcbRead s q) < 2 ^ 32 - 1)
    (hpl : slotPlaces (qcbWrite s q (setField (qcbRead s q) 0 8 (qHead (qcbRead s q) + 1))) (qcbRead s q) .load (qHead (qcbRead s q))
      = .ok ((List.range (qEsize (qcbRead s q) / 4)).map fun k => .ram (pl k))) :
    ∃ t, dequeue s q 1 = (t, .ok [(List.range (qEsize (qcbRead s q))).map fun k => s.byte (pl (k / 4) + k % 4)])
      ∧ qHead (qcbRead t q) = (qHead (qcbRead s q) + 1) % 2 ^ 64 ∧ qTail (qcbRead t q) = qTail (qcbRead s q)
      ∧ qFree (qcbRead t q) = qFree (qcbRead s q) + 1 ∧ ∀ a, a < q ∨ q + 64 ≤ a → t.byte a = s.byte a := by
  have hb := qcbRead_length s q
  obtain ⟨hmul, -⟩ := qcbOk_esize hok
  generalize hbe : qcbRead s q = b at *
  let m := qEsize b / 4
  let c := setField b 0 8 (qHead b + 1)
  have hc : c.length = 64 := set_length hb (by decide)
  let s1 := qcbWrite s q c
  have hs1 : qcbRead s1 q = qcbSeal c := qcbRead_qcbWrite s q hc
  let u := useSlots s1 b (qHead b) 1
  have hu : OnlyCaches s1 u := useSlots_onlyCaches _ _ _ _
  have hur : qcbRead u q = qcbSeal c := (qcbRead_mem hu.mem q).trans hs1
  have hus : qcbSpoiled u q = false := (qcbSpoiled_taint (s := s) hu.taint q).trans hs
  have hsl : (qcbSeal c).length = 64 := qcbSeal_length hc
  let d := setField (qcbSeal c) 24 4 (qFree (qcbSeal c) + 1)
  have hd : d.length = 64 := set_length hsl (by decide)
  let t := settleRemoval (qcbWrite u q d) q
  have ht : qcbRead t q = qcbSeal d := (qcbRead_mem (settleRemoval_mem _ _) q).trans (qcbRead_qcbWrite u q hd)
  have hfreed : freeTaken u q 1 = t := by
    rw [freeTaken, hus, if_neg Bool.false_ne_true, hur]
  have hkeep {p k : Nat} (hf : p + k ≤ 24 ∨ 24 + 4 ≤ p) (hn : p + k ≤ 62) : field (qcbRead t q) p k = field c p k := by
    rw [ht, field_qcbSeal hd hn, field_set_other hsl (by decide) hf, field_qcbSeal hc hn]
  have hout (a : Nat) (ha : a < q ∨ q + 64 ≤ a) : s1.byte a = s.byte a := qcbWrite_byte_out s q hc ha
  have hbytes : readWords s1 ((List.range m).map fun k => .ram (pl k)) 4
      = (List.range (qEsize b)).map fun k => s.byte (pl (k / 4) + k % 4) := by
    have hw : readWords s1 ((List.range m).map fun k => Place.ram (pl k)) 4
        = (List.range m).flatMap fun k => (List.range 4).map fun i => s.byte (pl k + i) := by
      rw [readWords, List.flatMap_map]
      refine List.flatMap_congr fun k hk => List.map_congr_left fun i hi => hout _ ?_
      have := hq k (List.mem_range.mp hk)
      have := List.mem_range.mp hi
      omega
    rw [hw, flatMap_words, show 4 * m = qEsize b by show 4 * (qEsize b / 4) = qEsize b; omega]
  refine ⟨t, ?_, ?_, ?_, ?_, fun a ha => ?_⟩
  · rw [dequeue, hbe]
    rw [readSlots, hpl]
    dsimp only
    rw [readSlots, hbytes]
    exact congrArg (·, Except.ok _) hfreed
  · exact (hkeep (by decide) (by decide)).trans (field_set_same hb (by decide))
  · exact (hkeep (by decide) (by decide)).trans (field_set_other hb (by decide) (by decide))
  · have hf : qFree (qcbRead t q) = (qFree (qcbSeal c) + 1) % 2 ^ 32 := by
      rw [ht]
      exact (field_qcbSeal hd (by decide)).trans (field_set_same hsl (by decide))
    have hcf : qFree (qcbSeal c) = qFree b := (field_qcbSeal hc (by decide)).trans (field_set_other hb (by decide) (by decide))
    rw [hf, hcf]
    omega
  · have hm : t.byte a = (qcbWrite u q d).byte a := congrArg (Tab.get 0 · a) (settleRemoval_mem _ _)
    rw [hm, qcbWrite_byte_out u q hd ha, hu.byte, hout a ha]

theorem spoolQueue : Claims.SpoolQueue := by
  intro s q e pl b n l hok hs _ hapart hq
  exact ⟨fun hfree hresvd hunnot hno hpl => enqueue_one hok hs hapart hq hfree hresvd hunnot hno hpl,
    fun hpl hfree => dequeue_one hok hs hq hfree hpl⟩

end Sys2Proof.Machine
end

section
/-! SUPPORT. The spool instructions and the steps of a spool's home (10 R257 to R265; 17 R426). -/

namespace Sys2Proof.Machine

theorem vregsOk_one {x : Hart} {v : Reg} (hc : x.conf ≠ none) (hv : v.toNat < vCount x) : vregsOk x [v] = true :=
  vregsOk_of hc fun r hr => by rwa [List.mem_singleton.mp hr]

/-- A spool instruction on a block that passes its checks. -/
theorem spoolEnter_ok {s : State} {a : Reg} {q : Nat} (h : spoolBlock s (s.me.readS a).toNat = .ok q) (k : State → Nat → Res) :
    spoolEnter s a k = k (touch s (s.agent s.cur) .store (s.me.readS a).toNat) q := by
  rw [spoolEnter, h]

section
variable {s : State} {q : Nat} {v d z : Reg} {wait : State → Res} {done : Hart → Hart}

theorem enqRun_done {e : List Byte} {t : State} {i : Nat} (he : enqElement s q v z = .ok e) (hc : canReserve s q 1 = true)
    (hh : slotsHeld s q .store (qTail (qcbRead s q)) 1 = false) (hq : enqueue (elementUsed s .load q z) q [e] = (t, .ok i)) :
    enqRun s q v z wait done = .next (finishWith (served t) done) := by
  simp only [enqRun, he, hc, hh, hq, Bool.not_true, Bool.false_eq_true, if_false]

theorem enqRun_waits {e : List Byte} (he : enqElement s q v z = .ok e) (hc : canReserve s q 1 = false) :
    enqRun s q v z wait done = wait s := by
  simp only [enqRun, he, hc, Bool.not_false, if_true]

theorem deqRun_done {l : List Place} {t : State} {e : List (List Byte)} (hl : deqPlaces s q z = .ok l) (hc : canTake s q 1 = true)
    (hh : slotsHeld s q .load (qHead (qcbRead s q)) 1 = false) (hq : dequeue (elementUsed s .store q z) q 1 = (t, .ok e)) :
    deqRun s q d z wait done = if qEsize (qcbRead s q) ≤ 8
      then .next (finishWith (served t) fun x => done (x.writeS d (leWord (e.headD []))))
      else .next (finishWith (served (writeWords t l 4 (e.headD []))) done) := by
  simp only [deqRun, hl, hc, hh, hq, Bool.not_true, Bool.false_eq_true, if_false, decide_eq_true_eq]

theorem deqRun_waits {l : List Place} (hl : deqPlaces s q z = .ok l) (hc : canTake s q 1 = false) :
    deqRun s q d z wait done = wait s := by
  simp only [deqRun, hl, hc, Bool.not_false, if_true]

end

/-- A hart that waits at a spool, its request behind the earlier ones, leaves memory and the other harts. -/
theorem spoolWait_waits {s u : State} (h : OnlyCaches s u) (q : Nat) (taking : Bool) (n : Nat) (va : Word) :
    ∃ t, spoolWait u q taking n va = .next t ∧ memoryStands s t ∧ t.me = { s.me with run := .waiting (.spool q) va } := by
  obtain ⟨w, hw, hharts, hcur, hmem⟩ : ∃ w, spoolWait u q taking n va = .next (waitAt w (.spool q) va)
      ∧ w.harts = u.harts ∧ w.cur = u.cur ∧ w.mem = u.mem := by
    unfold spoolWait
    split
    · exact ⟨_, rfl, rfl, rfl, rfl⟩
    · exact ⟨_, rfl, rfl, rfl, rfl⟩
  have hme : w.me = s.me := State.me_congr (hharts.trans h.harts) (hcur.trans h.cur)
  refine ⟨_, hw, ⟨fun a => ?_, fun k hk => ?_⟩, ?_⟩
  · exact (congrArg (Tab.get 0 · a) hmem).trans (h.byte a)
  · rw [waitAt, State.hart_setMe_other _ _ _ (by rw [hcur, h.cur]; exact hk), State.hart, hharts, h.harts]
    rfl
  · rw [waitAt, State.me_setMe, hme]

/-! The scalar forms. -/

section
variable {s : State} {v d a z : Reg} {p : BitVec 3} {code : BitVec 4} {q : Nat}

theorem exec_enq (hs : s.me.chain = none) (h : spoolBlock s (s.me.readS a).toNat = .ok q) :
    execEnq v a z code s = enqRun (touch s (s.agent s.cur) .store (s.me.readS a).toNat) q v z
      (fun u => spoolWait u q false 1 (u.me.readS a)) id := by
  rw [execEnq, unchained_none hs, spoolEnter_ok h]

theorem exec_deq (hs : s.me.chain = none) (h : spoolBlock s (s.me.readS a).toNat = .ok q) :
    execDeq d a z code s = deqRun (touch s (s.agent s.cur) .store (s.me.readS a).toNat) q d z
      (fun u => spoolWait u q true 1 (u.me.readS a)) id := by
  rw [execDeq, unchained_none hs, spoolEnter_ok h]

theorem exec_enqt (hs : s.me.chain = none) (h : spoolBlock s (s.me.readS a).toNat = .ok q) (ht : tryAllowed s = true) :
    execEnqt v a z p s = enqRun (touch s (s.agent s.cur) .store (s.me.readS a).toNat) q v z
      (fun u => .next (finishWith u fun x => setPred x p false)) fun x => setPred x p true := by
  rw [execEnqt, unchained_none hs, ht, Bool.not_true, if_neg Bool.false_ne_true, spoolEnter_ok h]

theorem exec_deqt (hs : s.me.chain = none) (h : spoolBlock s (s.me.readS a).toNat = .ok q) (ht : tryAllowed s = true) :
    execDeqt d a z p s = deqRun (touch s (s.agent s.cur) .store (s.me.readS a).toNat) q d z
      (fun u => .next (finishWith u fun x => setPred x p false)) fun x => setPred x p true := by
  rw [execDeqt, unchained_none hs, ht, Bool.not_true, if_neg Bool.false_ne_true, spoolEnter_ok h]

end

/-! The vector forms. -/

section
variable {s : State} {v a : Reg} {m : BitVec 3} {code : BitVec 4} {q : Nat}

theorem vspoolEnter_ok (hs : s.me.chain = none) (hv : vregsOk s.me [v] = true) (h : spoolBlock s (s.me.readS a).toNat = .ok q)
    {u : State} (hu : touch s (s.agent s.cur) .store (s.me.readS a).toNat = u) (hm : u.me = s.me)
    (he : qEsize (qcbRead u q) = ewBytes s.me) (hl : active s.me m.toNat ≠ [])
    (hc : (active s.me m.toNat).length ≤ qCap (qcbRead u q)) (k : State → Nat → List Nat → Res) :
    vspoolEnter s v a m k = k u q (active s.me m.toNat) := by
  have hne : (active s.me m.toNat).isEmpty = false := by simpa using hl
  have hok : ¬ (qEsize (qcbRead u q) ≠ ewBytes u.me ∨ qCap (qcbRead u q) < (active u.me m.toNat).length) := by
    rw [hm]
    omega
  rw [vspoolEnter, hv, Bool.not_true, if_neg Bool.false_ne_true, unchained_none hs, spoolEnter_ok h, hu]
  dsimp only
  rw [if_neg hok, hm, hne, if_neg Bool.false_ne_true]

theorem venq_now {u : State} {l : List Nat} (hlag : u.me.lag = false) (hq : storeQueueHeld u u.cur = false) (n : Nat)
    (e : List (List Byte)) : venqQueue u q n e = none ∧ vdeqQueue u q n v l = none := by
  have h : vectorLags u = false := by rw [vectorLags, lagging, hlag, hq]; rfl
  rw [venqQueue, vdeqQueue, h]
  exact ⟨rfl, rfl⟩

end

theorem venqNow_done {s t : State} {q i : Nat} {e : List (List Byte)} (h : enqueue s q e = (t, .ok i)) :
    venqNow s q e = .next (finishWith (served t) fun x => { x with vstart := 0 }) := by
  rw [venqNow, h]

theorem vdeqNow_done {s t : State} {q : Nat} {d : Reg} {l : List Nat} {e : List (List Byte)}
    (h : dequeue s q l.length = (t, .ok e)) :
    vdeqNow s q d l = .next (finishWith (served t) fun x =>
      { (x.setVreg d.toNat ((List.zip l e).foldl (fun y f => Tab.putBytes y (ewBytes s.me * f.1) f.2)
        (s.me.vreg d.toNat))).cleanV d.toNat l with vstart := 0 }) := by
  rw [vdeqNow, h]

section
variable {s u : State} {v a : Reg} {m : BitVec 3} {code : BitVec 4} {q : Nat} {l : List Nat}
  (henter : ∀ k, vspoolEnter s v a m k = k u q l)
include henter

theorem execVenq_waits (hr : canReserve u q l.length = false) :
    execVenq v a m code s = spoolWait u q false l.length (u.me.readS a) := by
  rw [execVenq, henter]
  simp only [hr, Bool.not_false, if_true]

theorem execVdeq_waits (hr : canTake u q l.length = false) :
    execVdeq v a m code s = spoolWait u q true l.length (u.me.readS a) := by
  rw [execVdeq, henter]
  simp only [hr, Bool.not_false, if_true]

variable (hlag : u.me.lag = false) (hheld : storeQueueHeld u u.cur = false) (hvq : u.me.vectorQueue = [])
include hlag hheld hvq

theorem execVenq_done {t : State} {i : Nat} (hr : canReserve u q l.length = true)
    (hh : slotsHeld u q .store (qTail (qcbRead u q)) l.length = false)
    (ht : enqueue u q (l.map fun e => Tab.bytes (u.me.vreg v.toNat) (ewBytes u.me * e) (ewBytes u.me)) = (t, .ok i)) :
    execVenq v a m code s = .next (finishWith (served t) fun x => { x with vstart := 0 }) := by
  rw [execVenq, henter]
  simp only [hr, hh, Bool.not_true, Bool.false_eq_true, if_false, (venq_now (v := v) (l := l) hlag hheld _ _).1,
    caughtUp_now hheld hvq, venqNow_done ht]

theorem execVdeq_done {t : State} {e : List (List Byte)} (hr : canTake u q l.length = true)
    (hh : slotsHeld u q .load (qHead (qcbRead u q)) l.length = false) (ht : dequeue u q l.length = (t, .ok e)) :
    execVdeq v a m code s = .next (finishWith (served t) fun x =>
      { (x.setVreg v.toNat ((List.zip l e).foldl (fun y f => Tab.putBytes y (ewBytes u.me * f.1) f.2)
        (u.me.vreg v.toNat))).cleanV v.toNat l with vstart := 0 }) := by
  rw [execVdeq, henter]
  simp only [hr, hh, Bool.not_true, Bool.false_eq_true, if_false, (venq_now (v := v) (l := l) hlag hheld _ []).2,
    caughtUp_now hheld hvq, vdeqNow_done ht]

end

theorem spoolInstructions : Claims.SpoolInstructions := by
  intro s v d a z p m code q hs h s' waits
  have hc : OnlyCaches s s' := touch_onlyCaches _ _ _ _
  have hch : s.me.chain = none := hs.1
  have hva : s'.me.readS a = s.me.readS a := by rw [hc.me]
  have hwait (taking : Bool) (n : Nat) : ∃ t, spoolWait s' q taking n (s'.me.readS a) = .next t ∧ memoryStands s t
      ∧ t.me = { s.me with run := .waiting (.spool q) (s.me.readS a) } := by
    rw [hva]
    exact spoolWait_waits hc q taking n _
  refine ⟨fun e he => ⟨fun hr hh t i ht => ⟨?_, fun htry => ?_⟩, fun hr => ⟨?_, fun htry => ?_⟩⟩,
    fun l hl => ⟨fun hr hh t e ht => ⟨fun h8 => ⟨?_, fun htry => ?_⟩, fun h8 => ⟨?_, fun htry => ?_⟩⟩, fun hr => ⟨?_, fun htry => ?_⟩⟩,
    ?_⟩
  · exact (exec_enq (code := code) hch h).trans (enqRun_done he hr hh ht)
  · exact (exec_enqt hch h htry).trans (enqRun_done he hr hh ht)
  · obtain ⟨t, ht, hst⟩ := hwait false 1
    exact ⟨t, ((exec_enq (code := code) hch h).trans (enqRun_waits he hr)).trans ht, hst⟩
  · exact (exec_enqt hch h htry).trans (enqRun_waits he hr)
  · exact ((exec_deq (code := code) hch h).trans (deqRun_done hl hr hh ht)).trans (if_pos h8)
  · exact ((exec_deqt hch h htry).trans (deqRun_done hl hr hh ht)).trans (if_pos h8)
  · exact ((exec_deq (code := code) hch h).trans (deqRun_done hl hr hh ht)).trans (if_neg (Nat.not_le.mpr h8))
  · exact ((exec_deqt hch h htry).trans (deqRun_done hl hr hh ht)).trans (if_neg (Nat.not_le.mpr h8))
  · obtain ⟨t, ht, hst⟩ := hwait true 1
    exact ⟨t, ((exec_deq (code := code) hch h).trans (deqRun_waits hl hr)).trans ht, hst⟩
  · exact (exec_deqt hch h htry).trans (deqRun_waits hl hr)
  · intro hconf hv hsize l hne hcap
    obtain ⟨-, ⟨hlag, -, hvq, hheld, -⟩, -⟩ := id hs
    have hheld' : storeQueueHeld s' s'.cur = false := (storeQueueHeld_congr hc.jobs _).trans (by rw [hc.cur]; exact hheld)
    have hlag' : s'.me.lag = false := by rw [hc.me]; exact hlag
    have hvq' : s'.me.vectorQueue = [] := by rw [hc.me]; exact hvq
    have henter := vspoolEnter_ok (v := v) (m := m) hch (vregsOk_one hconf hv) h (u := s') rfl hc.me hsize hne hcap
    refine ⟨fun hr hh t i ht => ?_, fun hr hh t e ht => ?_, fun hr => ?_, fun hr => ?_⟩
    · exact execVenq_done (code := code) henter hlag' hheld' hvq' hr hh (by rw [hc.me]; exact ht)
    · have hdone := execVdeq_done (code := code) henter hlag' hheld' hvq' hr hh ht
      rw [hc.me] at hdone
      exact hdone
    · obtain ⟨t, ht, hst⟩ := hwait false l.length
      exact ⟨t, (execVenq_waits (code := code) henter hr).trans ht, hst⟩
    · obtain ⟨t, ht, hst⟩ := hwait true l.length
      exact ⟨t, (execVdeq_waits (code := code) henter hr).trans ht, hst⟩

/-! Blocks made and read (10 R257, R263). -/

/-- A removal that settles changes the Keel's records alone, and adds no spool. -/
theorem settleRemoval_frame (s : State) (q : Nat) :
    (settleRemoval s q).harts = s.harts ∧ (settleRemoval s q).cur = s.cur ∧ (settleRemoval s q).hub = s.hub
    ∧ ∀ e ∈ (settleRemoval s q).keel.spools, e ∈ s.keel.spools := by
  unfold settleRemoval
  split
  · exact ⟨rfl, rfl, rfl, fun _ h => h⟩
  · dsimp only
    split
    · exact ⟨rfl, rfl, rfl, fun _ h => (List.mem_filter.mp h).1⟩
    · exact ⟨rfl, rfl, rfl, fun _ h => h⟩

/-- A state in which a block is written anew, its latches 0 and its spool at its first element. -/
def blankBlock (s : State) (q : Nat) (c : List Byte) : State :=
  { writeRam s q (qcbSeal c) with
    hub := { s.hub with latches := Tab.set 0 (latchKey q + 1) 0 (Tab.set 0 (latchKey q) 0 s.hub.latches) }
    keel := { s.keel with
      spools := s.keel.spools.map fun e =>
        if e.qcb = q then { e with next := 0, stopped := false, batches := [], unread := false } else e
      packets := s.keel.packets.map fun e => if e.qcb = q then { e with old := true } else e } }

/-- What `qinit` does once its template and its addresses are found sound. -/
def initBlock (s : State) (q : Nat) (c : List Byte) : State := settleRemoval (blankBlock s q c) q

theorem freshBlock_length (b : List Byte) (asid : Nat) : (freshBlock b asid).length = 64 := by
  simp only [freshBlock, List.length_append, leBytes_length, slice_length]

section
variable (s : State) (q : Nat) (c : List Byte)

theorem initBlock_mem : (initBlock s q c).mem = (writeRam s q (qcbSeal c)).mem := by
  rw [initBlock, settleRemoval_mem, blankBlock]

theorem initBlock_harts : (initBlock s q c).harts = s.harts ∧ (initBlock s q c).cur = s.cur := by
  obtain ⟨hh, hc, -, -⟩ := settleRemoval_frame (blankBlock s q c) q
  exact ⟨hh, hc⟩

theorem initBlock_latches :
    (initBlock s q c).hub.latches = Tab.set 0 (latchKey q + 1) 0 (Tab.set 0 (latchKey q) 0 s.hub.latches) := by
  obtain ⟨-, -, hh, -⟩ := settleRemoval_frame (blankBlock s q c) q
  rw [initBlock, hh, blankBlock]

theorem initBlock_spools : ∀ e ∈ (initBlock s q c).keel.spools, e.qcb = q → e.next = 0 ∧ e.stopped = false := by
  intro e he hq
  obtain ⟨-, -, -, hs⟩ := settleRemoval_frame (blankBlock s q c) q
  obtain ⟨l, -, hl⟩ := List.mem_map.mp (hs e he)
  split at hl
  · rw [← hl]
    exact ⟨rfl, rfl⟩
  next hn => exact absurd (hl ▸ hq) hn

end

section
variable {s : State} {a t d : Reg} {q : Nat} (hs : free s) (hq : spoolAddress s (s.me.readS a).toNat = .ok q)
include hs hq

theorem exec_qinit {l : List Place} {w : State} (hl : wordPlaces s (s.agent s.cur) .load 8 (s.me.readS t).toNat 8 = .ok l)
    (hw : useWords (touch s (s.agent s.cur) .store (s.me.readS a).toNat) .load 8 (s.me.readS t).toNat l = w)
    (hok : templateOk (readWords s l 8) = true) :
    exec (.qinit a t) s = .next (finish (initBlock w q (freshBlock (readWords s l 8) w.me.asid))) := by
  simp only [exec, execQinit, unchained_free s _ hs, hq, hl, hok, hw, Bool.not_true, Bool.false_eq_true, if_false]
  rfl

theorem exec_qinit_bad {l : List Place} (hl : wordPlaces s (s.agent s.cur) .load 8 (s.me.readS t).toNat 8 = .ok l)
    (hok : templateOk (readWords s l 8) = false) : exec (.qinit a t) s = .next (Machine.trap s 0x0D (s.me.readS a)) := by
  simp only [exec, execQinit, unchained_free s _ hs, hq, hl, hok, Bool.not_false, if_true]

theorem exec_qstat {w : State} (hw : touch s (s.agent s.cur) .store (s.me.readS a).toNat = w) (hsp : qcbSpoiled w q = false)
    (ho : qOwner (qcbRead w q) = w.me.asid) (hok : qcbOk (qcbRead w q) = true) :
    exec (.qstat d a) s = .next (finishWith w fun x => x.writeS d (flag (bitOf (qStat (qcbRead w q)) 0) <<< 63
      ||| BitVec.ofNat 64 (qFree (qcbRead w q) % 2 ^ 25 * 2 ^ 32 + qFill (qcbRead w q) % 2 ^ 25))) := by
  simp only [exec, execQstat, unchained_free s _ hs, hq, hw, hsp, ho, hok, Bool.false_eq_true, if_false, if_true, ne_eq,
    not_true_eq_false]

end

theorem qcbOk_stat {b : List Byte} (h : qcbOk b = true) : bitOf (qStat b) 0 = false := by
  simp only [qcbOk, Bool.and_eq_true, Bool.not_eq_true'] at h
  exact h.1.1.1.1.1.1

theorem spoolBlocks : Claims.SpoolBlocks := by
  intro s d a t q hs hq
  refine ⟨fun l hl => ⟨fun hok => ?_, fun hok => exec_qinit_bad hs hq hl hok⟩, fun hsp ho hok => ?_⟩
  · obtain ⟨w, hw⟩ : ∃ w, useWords (touch s (s.agent s.cur) .store (s.me.readS a).toNat) .load 8 (s.me.readS t).toNat l = w :=
      ⟨_, rfl⟩
    have hc : OnlyCaches s w := hw ▸ (touch_onlyCaches _ _ _ _).trans (useWords_onlyCaches _ _ _ _ _)
    obtain ⟨b, hb⟩ : ∃ b, readWords s l 8 = b := ⟨_, rfl⟩
    have hlen := freshBlock_length b s.me.asid
    have he : exec (.qinit a t) s = .next (finish (initBlock w q (freshBlock b s.me.asid))) := by
      rw [exec_qinit hs hq hl hw hok, hb, hc.me]
    have hm := initBlock_mem w q (freshBlock b s.me.asid)
    have hlat := initBlock_latches w q (freshBlock b s.me.asid)
    have hspools := initBlock_spools w q (freshBlock b s.me.asid)
    obtain ⟨hharts, hcur⟩ := initBlock_harts w q (freshBlock b s.me.asid)
    generalize initBlock w q (freshBlock b s.me.asid) = u at he hm hlat hspools hharts hcur
    refine ⟨finish u, he, ?_, fun k hk => ?_, ?_, ?_, hspools, ?_⟩
    · rw [hb, qcbRead_mem (t := finish u) hm]
      have hr := readPlace_writeRam w q (qcbSeal (freshBlock b s.me.asid))
      rw [qcbSeal_length hlen] at hr
      exact hr
    · have hk' : k < q ∨ q + (qcbSeal (freshBlock b s.me.asid)).length ≤ k := by rw [qcbSeal_length hlen]; exact hk
      exact (congrArg (Tab.get 0 · k) hm).trans ((writeRam_byte_out w q _ k hk').trans (hc.byte k))
    · rw [show (finish u).hub.latches = _ from hlat, Tab.get_set_other _ _ _ _ _ (by omega), Tab.get_set_same]
    · rw [show (finish u).hub.latches = _ from hlat, Tab.get_set_same]
    · rw [finish_me, State.me_congr (hharts.trans hc.harts) (hcur.trans hc.cur)]
  · obtain ⟨w, hw⟩ : ∃ w, touch s (s.agent s.cur) .store (s.me.readS a).toNat = w := ⟨_, rfl⟩
    have hc : OnlyCaches s w := hw ▸ touch_onlyCaches _ _ _ _
    have hr : qcbRead w q = qcbRead s q := qcbRead_mem hc.mem q
    have he := exec_qstat (d := d) hs hq hw ((qcbSpoiled_taint hc.taint q).trans hsp) (by rw [hr, hc.me]; exact ho)
      (by rw [hr]; exact hok)
    rw [hr, qcbOk_stat hok] at he
    have hz (v : Word) : flag false <<< 63 ||| v = v := by simp [flag]
    rw [hz] at he
    obtain ⟨hother, hme⟩ := finishWith_harts hc.harts hc.cur fun x => x.writeS d
      (BitVec.ofNat 64 (qFree (qcbRead s q) % 2 ^ 25 * 2 ^ 32 + qFill (qcbRead s q) % 2 ^ 25))
    exact ⟨_, he, ⟨fun k => (finishWith_byte _ _ k).trans (hc.byte k), hother⟩, hme⟩

/-! The steps of a spool's home (10 R259, R264, R265). -/

theorem examine_enq {s : State} {q : Nat} {r : SpoolReq} {v a z : Reg} {code : BitVec 4}
    (hr : s.requests.filter (fun r => decide (r.loc = q) && r.taking == false && r.count != 0) = [r])
    (hi : waitingInstr (s.hart r.hart) = some (.enq v a z code)) :
    examine s q false = asHart s r.hart (execEnq v a z code) := by
  rw [examine, hr]
  simp only [List.foldl_cons, List.foldl_nil, hi]

theorem examine_deq {s : State} {q : Nat} {r : SpoolReq} {d a z : Reg} {code : BitVec 4}
    (hr : s.requests.filter (fun r => decide (r.loc = q) && r.taking == true && r.count != 0) = [r])
    (hi : waitingInstr (s.hart r.hart) = some (.deq d a z code)) :
    examine s q true = asHart s r.hart (execDeq d a z code) := by
  rw [examine, hr]
  simp only [List.foldl_cons, List.foldl_nil, hi]

/-- A state with the value of a doorbell latch. -/
def latchTo (s : State) (pa : Nat) (top : Nat) : State :=
  { s with hub := { s.hub with latches := Tab.set 0 (pa / 8) (BitVec.ofNat 64 top) s.hub.latches } }

/-- The location of the block behind a doorbell. -/
def blockOf (pa : Nat) : Nat := (pa - 0x20000000000) / 16 * 64

/-- The greatest value that a latch has taken, with `w` stored. -/
def topOf (s : State) (pa : Nat) (w : Word) : Nat := max (Tab.get 0 s.hub.latches (pa / 8)).toNat w.toNat

section
variable {s : State} {pa : Nat} {w : Word} (hlo : 0x20000000000 ≤ pa) (hhi : pa < 0x23000000000)
  (hok : qcbOk (qcbRead s (blockOf pa)) = true) (hheld : doorbellHeld s (blockOf pa) = false)
include hlo hhi hok hheld

theorem exec_doorbellStore (h0 : pa % 16 = 0)
    (hd : bitOf (qStat (qcbRead s (blockOf pa))) 1 = true ∨ (lspoolAt s (blockOf pa)).isSome = true) :
    exec (.doorbellStore pa w) s = .next (applyTail (latchTo s pa (topOf s pa w)) (blockOf pa) (topOf s pa w)) := by
  have h16 : (pa - 0x20000000000) % 16 = 0 := by omega
  have hor : (bitOf (qStat (qcbRead s (blockOf pa))) 1 || (lspoolAt s (blockOf pa)).isSome) = true := by simpa using hd
  have hor' : (bitOf (qStat (qcbRead s (blockOf pa))) 1 || (lspoolAt (latchTo s pa (topOf s pa w)) (blockOf pa)).isSome) = true := hor
  have hheld' : doorbellHeld (latchTo s pa (topOf s pa w)) (blockOf pa) = false := hheld
  have hl : latchStore s pa w = applyTail (latchTo s pa (topOf s pa w)) (blockOf pa) (topOf s pa w) := by
    unfold latchStore
    dsimp only
    rw [show (pa - 0x20000000000) / 16 * 64 = blockOf pa from rfl, qcbOk_stat hok, Bool.and_false, if_neg Bool.false_ne_true,
      if_pos h16]
    exact (if_pos hor').trans ((congrArg (fun c : Bool => if c = true then _ else _) hheld').trans (if_neg Bool.false_ne_true))
  change execDoorbellStore pa w s = _
  rw [execDoorbellStore, if_pos ⟨hlo, hhi, h0⟩, hl]

theorem exec_headLatchStore (h8 : pa % 16 = 8) (hd : bitOf (qStat (qcbRead s (blockOf pa))) 1 = true) :
    exec (.headLatchStore pa w) s = .next (headStore (latchTo s pa (topOf s pa w)) (blockOf pa) w.toNat) := by
  have h16 : ¬ (pa - 0x20000000000) % 16 = 0 := by omega
  have hheld' : doorbellHeld (latchTo s pa (topOf s pa w)) (blockOf pa) = false := hheld
  have hl : latchStore s pa w = headStore (latchTo s pa (topOf s pa w)) (blockOf pa) w.toNat := by
    unfold latchStore
    dsimp only
    rw [show (pa - 0x20000000000) / 16 * 64 = blockOf pa from rfl, qcbOk_stat hok, Bool.and_false, if_neg Bool.false_ne_true,
      if_neg h16]
    exact (if_pos hd).trans ((congrArg (fun c : Bool => if c = true then _ else _) hheld').trans (if_neg Bool.false_ne_true))
  change execHeadLatchStore pa w s = _
  rw [execHeadLatchStore, if_pos ⟨hlo, hhi, h8⟩, hl]

end

/-- The block with TAIL raised to `v` by a tail latch store. -/
def tailRaised (b : List Byte) (v : Nat) : List Byte :=
  let b := setField b 24 4 (qFree b + 2 ^ 32 - (v - qTail b))
  let b := setField b 56 4 (qUnnot b + (v - qTail b))
  let b := setField b 28 4 0
  setField b 8 8 v

/-- What the raised block holds. -/
structure TailRaised (b : List Byte) (v : Nat) (c : List Byte) : Prop where
  length : c.length = 64
  tail : qTail c = v % 2 ^ 64
  free : qFree c = (qFree b + 2 ^ 32 - (v - qTail b)) % 2 ^ 32
  unnot : qUnnot c = (qUnnot b + (v - qTail b)) % 2 ^ 32
  threshold : field c 38 2 = field b 38 2

theorem tailRaised_spec {b : List Byte} (hb : b.length = 64) (v : Nat) : TailRaised b v (tailRaised b v) := by
  obtain ⟨b1, h1⟩ : ∃ c, setField b 24 4 (qFree b + 2 ^ 32 - (v - qTail b)) = c := ⟨_, rfl⟩
  have l1 : b1.length = 64 := h1 ▸ set_length hb (by decide)
  have hu : qUnnot b1 = qUnnot b := h1 ▸ field_set_other hb (by decide) (by decide)
  have ht : qTail b1 = qTail b := h1 ▸ field_set_other hb (by decide) (by decide)
  obtain ⟨b2, h2⟩ : ∃ c, setField b1 56 4 (qUnnot b + (v - qTail b)) = c := ⟨_, rfl⟩
  have l2 : b2.length = 64 := h2 ▸ set_length l1 (by decide)
  obtain ⟨b3, h3⟩ : ∃ c, setField b2 28 4 0 = c := ⟨_, rfl⟩
  have l3 : b3.length = 64 := h3 ▸ set_length l2 (by decide)
  have hc : tailRaised b v = setField b3 8 8 v := by
    rw [← h3, ← h2, ← hu, ← ht, ← h1]
    rfl
  rw [hc]
  refine ⟨set_length l3 (by decide), field_set_same l3 (by decide), ?_, ?_, ?_⟩
  · refine (field_set_other l3 (by decide) (by decide)).trans ?_
    rw [← h3]
    refine (field_set_other l2 (by decide) (by decide)).trans ?_
    rw [← h2]
    refine (field_set_other l1 (by decide) (by decide)).trans ?_
    rw [← h1]
    exact field_set_same hb (by decide)
  · refine (field_set_other l3 (by decide) (by decide)).trans ?_
    rw [← h3]
    refine (field_set_other l2 (by decide) (by decide)).trans ?_
    rw [← h2]
    exact field_set_same l1 (by decide)
  · rw [field_set_other l3 (by decide) (by decide), ← h3, field_set_other l2 (by decide) (by decide), ← h2,
      field_set_other l1 (by decide) (by decide), ← h1, field_set_other hb (by decide) (by decide)]

theorem recallLine_hub (s : State) (c : Option Nat) (l : Nat) : (recallLine s c l).hub = s.hub := by
  unfold recallLine
  dsimp only
  split <;> rfl

theorem noteBatch_hub (s : State) (q lo hi : Nat) : (noteBatch s q lo hi).hub = s.hub := by
  unfold noteBatch
  split <;> rfl

theorem qcbWrite_hub (s : State) (q : Nat) (b : List Byte) : (qcbWrite s q b).hub = s.hub := rfl

/-- A rising tail without a threshold writes the raised block and nothing else in memory. -/
theorem applyTail_raises {s : State} {q v : Nat} (hok : qcbOk (qcbRead s q) = true) (hs : qcbSpoiled s q = false)
    (hv : qTail (qcbRead s q) < v) (hcap : v ≤ qCap (qcbRead s q) + qHead (qcbRead s q)) (hn : field (qcbRead s q) 38 2 = 0) :
    qcbRead (applyTail s q v) q = qcbSeal (tailRaised (qcbRead s q) v) ∧ (applyTail s q v).hub = s.hub
    ∧ ∀ k, k < q ∨ q + 64 ≤ k → (applyTail s q v).byte k = s.byte k := by
  have r := tailRaised_spec (qcbRead_length s q) v
  obtain ⟨u, hu⟩ : ∃ u, recallLine (noteBatch s q (qTail (qcbRead s q)) v) none q = u := ⟨_, rfl⟩
  have hm : u.mem = s.mem := by
    rw [← hu, recallLine_mem, noteBatch_mem]
  have hh : u.hub = s.hub := by
    rw [← hu, recallLine_hub, noteBatch_hub]
  have hw : qcbRead (qcbWrite u q (tailRaised (qcbRead s q) v)) q = qcbSeal (tailRaised (qcbRead s q) v) :=
    qcbRead_qcbWrite u q r.length
  have ha : applyTail s q v = qcbWrite u q (tailRaised (qcbRead s q) v) := by
    have hcap' : ¬ qCap (qcbRead s q) < v - qHead (qcbRead s q) := by omega
    have hnt : notifyThreshold (qcbWrite u q (tailRaised (qcbRead s q) v)) q = qcbWrite u q (tailRaised (qcbRead s q) v) := by
      rw [notifyThreshold, hw, field_qcbSeal r.length (by decide), r.threshold, hn]
      rfl
    simp only [applyTail, hs, hok, Bool.not_true, Bool.false_eq_true, if_false, if_neg (Nat.not_le.mpr hv), if_neg hcap', hu]
    exact hnt
  rw [ha, qcbWrite_hub]
  refine ⟨hw, hh, fun k hk => ?_⟩
  rw [qcbWrite_byte_out u q r.length hk, State.byte, hm]
  rfl

/-- The block with HEAD raised by a head latch store. -/
def headRaised (b : List Byte) (h : Nat) : List Byte := setField (setField b 24 4 (qFree b + (h - qHead b))) 0 8 h

theorem headRaised_length {b : List Byte} (hb : b.length = 64) (h : Nat) : (headRaised b h).length = 64 :=
  set_length (o := 0) (n := 8) (set_length (o := 24) (n := 4) hb (by decide)) (by decide)

theorem headRaised_head {b : List Byte} (hb : b.length = 64) (h : Nat) : qHead (headRaised b h) = h % 2 ^ 64 :=
  field_set_same (o := 0) (n := 8) (set_length (o := 24) (n := 4) hb (by decide)) (by decide)

theorem headRaised_tail {b : List Byte} (hb : b.length = 64) (h : Nat) : qTail (headRaised b h) = qTail b :=
  (field_set_other (o := 0) (n := 8) (set_length (o := 24) (n := 4) hb (by decide)) (by decide) (by decide)).trans
    (field_set_other (o := 24) (n := 4) hb (by decide) (by decide))

theorem headStore_raises {s : State} {q v : Nat} (hok : qcbOk (qcbRead s q) = true) (hs : qcbSpoiled s q = false) :
    qcbRead (headStore s q v) q
      = qcbSeal (headRaised (qcbRead s q) (max (qHead (qcbRead s q)) (min v (qTail (qcbRead s q)))))
    ∧ (headStore s q v).hub = s.hub ∧ ∀ k, k < q ∨ q + 64 ≤ k → (headStore s q v).byte k = s.byte k := by
  obtain ⟨h, hh⟩ : ∃ h, max (qHead (qcbRead s q)) (min v (qTail (qcbRead s q))) = h := ⟨_, rfl⟩
  have hl := headRaised_length (qcbRead_length s q) h
  have ha : applyHead s q v = qcbWrite (recallLine s none q) q (headRaised (qcbRead s q) h) := by
    simp only [applyHead, hs, hok, Bool.not_true, Bool.false_eq_true, if_false, hh]
    rfl
  have hm : (headStore s q v).mem = (qcbWrite (recallLine s none q) q (headRaised (qcbRead s q) h)).mem := by
    rw [headStore, settleRemoval_mem, ha]
  rw [hh]
  refine ⟨(qcbRead_mem hm q).trans (qcbRead_qcbWrite _ q hl), ?_, fun k hk => ?_⟩
  · obtain ⟨-, -, hhub, -⟩ := settleRemoval_frame (applyHead s q v) q
    rw [headStore, hhub, ha, qcbWrite_hub]
    exact recallLine_hub s none q
  · refine (congrArg (Tab.get 0 · k) hm).trans ((qcbWrite_byte_out _ q hl hk).trans ?_)
    rw [State.byte, recallLine_mem]
    rfl

theorem placeOf_ram {s : State} {pa l : Nat} (h : placeOf s pa = some (.ram l)) : l = pa := by
  unfold placeOf at h
  split at h
  · cases h
    rfl
  · split_ifs at h <;> cases h

/-- The MSI that a spool has delayed is stored at its address. -/
theorem notifyNow_ram {s : State} {q l : Nat} (hlag : s.hub.msiLag = false) (hmsi : ∀ m ∈ s.hub.msis, m.1 ≠ q)
    (h4 : field (qcbRead s q) 48 8 % 4 = 0) (hpl : placeOf s (field (qcbRead s q) 48 8) = some (.ram l))
    (hr : stackReady s l = true) :
    ∃ u, u.mem = (qcbWrite s q (setField (qcbRead s q) 56 4 0)).mem
      ∧ notifyNow s q = writeRam u l (leBytes 4 (field (qcbRead s q) 44 4)) := by
  obtain ⟨b, hb⟩ : ∃ b, qcbRead s q = b := ⟨_, rfl⟩
  rw [hb] at h4 hpl ⊢
  obtain ⟨v, hv⟩ : ∃ v, qcbWrite s q (setField b 56 4 0) = v := ⟨_, rfl⟩
  have hhub : v.hub = s.hub := hv ▸ rfl
  have hplv : placeOf v (field b 48 8) = some (.ram l) := hv ▸ hpl
  have hl : l = field b 48 8 := placeOf_ram hpl
  have hready : ramReady v none l 4 = true := by
    have h1 : (l + 4 - 1) / 1024 + 1 - l / 1024 = 1 := by omega
    rw [stackReady, Bool.and_eq_true] at hr
    have hup : stackUp v l = true := hv ▸ hr.1
    have hlink : Machine.linkUp v none l = true := hv ▸ hr.2
    rw [ramReady, h1, hlink]
    simp [hup]
  have hany : (v.hub.msis.any fun m => m.1 == q) = false := by
    rw [hhub, List.any_eq_false]
    intro m hm
    simpa using hmsi m hm
  refine ⟨recallSpan v none (.ram l) (leBytes 4 (field b 44 4)).length, ?_, ?_⟩
  · rw [hv, recallSpan_mem]
  · have hmr : msiReady v (field b 48 8) = true := by
      simp only [msiReady, hplv, hready, Bool.or_true]
    rw [notifyNow, hb]
    rw [hv, queueMsi, hhub, hlag, ← hhub, hany, hmr, Bool.or_false, Bool.not_true, Bool.or_false, if_neg Bool.false_ne_true,
      sendMsi, if_neg (by omega), hplv]
    dsimp only
    rw [homeStore, leBytes_length, hready, if_pos rfl]

theorem spoolHome : Claims.SpoolHome := by
  intro s q h pa w b s0 new
  have hb : b.length = 64 := qcbRead_length s q
  refine ⟨fun v a z code r e t i hr hrh hi hch hq he hcan hheld ht => ?_, fun d a z code r e t hr hrh hi hch hq h8 hcan hheld ht => ?_,
    fun hlo hhi hqe hok hs hdb => ⟨fun h0 hd hlt hcap hfree hunnot hno => ?_, fun h8 hd => ?_⟩,
    fun l hcheck hs hdelay hun h4 hlag hmsi hpl hready hapart => ?_⟩
  · have hc : OnlyCaches s0 (touch s0 (s0.agent h) .store (s0.me.readS a).toNat) := touch_onlyCaches _ _ _ _
    have hrun : execEnq v a z code s0 = .next (finishWith (served t) id) :=
      (exec_enq (s := s0) (code := code) hch hq).trans (enqRun_done he hcan (by rw [qcbRead_mem hc.mem]; exact hheld) ht)
    rw [← hrh] at hi
    have hex : exec (.spoolReservationGrant q) s = asHart s r.hart (execEnq v a z code) := examine_enq hr hi
    rw [hex, hrh]
    exact asHart_next hrun
  · have hc : OnlyCaches s0 (touch s0 (s0.agent h) .store (s0.me.readS a).toNat) := touch_onlyCaches _ _ _ _
    have hl : deqPlaces (touch s0 (s0.agent h) .store (s0.me.readS a).toNat) q z = .ok [] := by rw [deqPlaces, if_pos h8]
    have hrun : execDeq d a z code s0 = .next (finishWith (served t) fun x => x.writeS d (leWord (e.headD []))) :=
      ((exec_deq (s := s0) (code := code) hch hq).trans (deqRun_done hl hcan (by rw [qcbRead_mem hc.mem]; exact hheld) ht)).trans (if_pos h8)
    rw [← hrh] at hi
    have hex : exec (.spoolTakingGrant q) s = asHart s r.hart (execDeq d a z code) := examine_deq hr hi
    rw [hex, hrh]
    exact asHart_next hrun
  · obtain rfl : q = blockOf pa := hqe
    obtain ⟨hread, hhub, hout⟩ := applyTail_raises (s := latchTo s pa new) (v := new) hok hs hlt hcap hno
    have r := tailRaised_spec hb new
    have hnew : new < 2 ^ 64 := max_lt (BitVec.isLt _) (BitVec.isLt _)
    have hf : qFree b < 2 ^ 32 := field_lt b 24 4
    refine ⟨_, exec_doorbellStore hlo hhi hok hdb h0 hd, ?_, ?_, ?_, ?_, hout⟩
    · rw [show topOf s pa w = new from rfl, hread]
      exact ((field_qcbSeal r.length (by decide)).trans r.tail).trans (Nat.mod_eq_of_lt hnew)
    · rw [show topOf s pa w = new from rfl, hread]
      refine ((field_qcbSeal r.length (by decide)).trans r.free).trans ?_
      omega
    · rw [show topOf s pa w = new from rfl, hread]
      exact ((field_qcbSeal r.length (by decide)).trans r.unnot).trans (Nat.mod_eq_of_lt hunnot)
    · rw [show topOf s pa w = new from rfl, hhub]
      exact Tab.get_set_same _ _ _ _
  · obtain rfl : q = blockOf pa := hqe
    obtain ⟨hread, hhub, hout⟩ := headStore_raises (s := latchTo s pa new) (v := w.toNat) hok hs
    have hl := headRaised_length hb (max (qHead b) (min w.toNat (qTail b)))
    have hlt : max (qHead b) (min w.toNat (qTail b)) < 2 ^ 64 := by
      have h1 : qHead b < 2 ^ 64 := field_lt b 0 8
      have h2 : w.toNat < 2 ^ 64 := w.isLt
      omega
    refine ⟨_, exec_headLatchStore hlo hhi hok hdb h8 hd, ?_, ?_, ?_, hout⟩
    · rw [show topOf s pa w = new from rfl, hread]
      exact ((field_qcbSeal hl (by decide)).trans (headRaised_head hb _)).trans (Nat.mod_eq_of_lt hlt)
    · rw [show topOf s pa w = new from rfl, hread]
      exact (field_qcbSeal hl (by decide)).trans (headRaised_tail hb _)
    · rw [show topOf s pa w = new from rfl, hhub]
      exact Tab.get_set_same _ _ _ _
  · obtain ⟨u, hu, hn⟩ := notifyNow_ram hlag hmsi h4 hpl hready
    have hl : (setField b 56 4 0).length = 64 := set_length hb (by decide)
    refine ⟨writeRam u l (leBytes 4 (field b 44 4)), ?_, ?_, ?_⟩
    · change execSpoolNotifyDelay q s = _
      rw [execSpoolNotifyDelay, if_pos ⟨by rw [hs]; rfl, hcheck, hdelay, hun⟩, hn]
    · have hq : qcbRead (writeRam u l (leBytes 4 (field b 44 4))) q = qcbSeal (setField b 56 4 0) := by
        rw [← qcbRead_qcbWrite s q hl, ← qcbRead_mem hu]
        exact qcbRead_congr fun k hk => writeRam_leBytes_out _ _ _ _ _ (by omega)
      rw [hq]
      exact (field_qcbSeal hl (by decide)).trans (field_set_same hb (by decide))
    · rw [State.word, readPlace_writeRam_leBytes]
      exact Nat.mod_eq_of_lt (field_lt b 44 4)

/-- Settles O45: an element reserved, written and committed, and one taken, go through the fields of their block one by one; the
instructions and the steps of the home are these operations once the block has passed its checks. -/
theorem spoolElementsInAndOut : Obligations.SpoolElementsInAndOut := ⟨spoolQueue, spoolInstructions, spoolBlocks, spoolHome⟩

end Sys2Proof.Machine
end

section
/-! SUPPORT. The ready bits of the hub (17 R448): no step of a home, of the Keel or of a reply changes them. -/

namespace Sys2Proof.Machine

/-- Steps over a list that keep the ready bits. -/
theorem foldl_ready {α : Type} {f : State → α → State} (hf : ∀ s a, (f s a).hub.ready = s.hub.ready) (s : State) (l : List α) :
    (l.foldl f s).hub.ready = s.hub.ready :=
  foldl_keeps (P := fun t : State => t.hub.ready = s.hub.ready) (fun t a h => (hf t a).trans h) rfl l

@[simp] theorem homeStore_ready (s : State) (l : Nat) (b : List Byte) : (homeStore s l b).hub.ready = s.hub.ready :=
  (homeStore_homeKeeps s l b).ready

@[simp] theorem agentStore_ready (s : State) (p : Place) (b : List Byte) : (agentStore s p b).hub.ready = s.hub.ready :=
  (agentStore_storeKeeps s p b).ready

@[simp] theorem advanceHead_ready (s : State) (num : Nat) : (advanceHead s num).hub.ready = s.hub.ready :=
  (advanceHead_homeKeeps s num).ready

@[simp] theorem sendReport_ready (s : State) (cl : Nat) (r : Report) : (sendReport s cl r).hub.ready = s.hub.ready := rfl

@[simp] theorem reportFault_ready (s : State) (cl : Nat) (r : FaultRecord) : (reportFault s cl r).hub.ready = s.hub.ready := rfl

@[simp] theorem mapPacket_ready (s : State) (id : Nat) (f : Packet → Packet) : (s.mapPacket id f).hub.ready = s.hub.ready := rfl

@[simp] theorem mapSpool_ready (s : State) (num : Nat) (f : LaunchSpool → LaunchSpool) :
    (s.mapSpool num f).hub.ready = s.hub.ready := rfl

@[simp] theorem packetRecord_ready (s : State) (p : Packet) (kind cause : Nat) (eval : Word) (subject : Subject) :
    (packetRecord s p kind cause eval subject).hub.ready = s.hub.ready := rfl

@[simp] theorem joinDecrement_ready (s : State) (t : Task) : (joinDecrement s t).hub.ready = s.hub.ready := by
  unfold joinDecrement
  split
  · simp
  · split
    · rfl
    · simp

@[simp] theorem writeStatus_ready (s : State) (q : Packet) (v : Nat) : (writeStatus s q v).hub.ready = s.hub.ready := by
  unfold writeStatus
  split <;> simp

@[simp] theorem writeSignal_ready (s : State) (q : Packet) : (writeSignal s q).hub.ready = s.hub.ready := by
  unfold writeSignal
  split
  · rw [agentStore_ready]
    split <;> rfl
  · rfl

@[simp] theorem endChain_ready (s : State) (p : Packet) : (endChain s p).hub.ready = s.hub.ready := by
  unfold endChain
  dsimp only
  split <;> rfl

@[simp] theorem dropJobReads_ready (s : State) (asid : Nat) : (dropJobReads s asid).hub.ready = s.hub.ready := by
  unfold dropJobReads
  split <;> rfl

@[simp] theorem forgetStops_ready (s : State) (id : Nat) : (forgetStops s id).hub.ready = s.hub.ready := rfl

theorem jobTouch_ready (s : State) (asid : Nat) (core : Option Nat) (p : Place) (n : Nat) :
    (jobTouch s asid core p n).hub.ready = s.hub.ready := (jobTouch_onlyCaches s asid core p n).storeKeeps.ready

@[simp] theorem completeWords_ready (s : State) (p : Packet) (force : Bool) : (completeWords s p force).hub.ready = s.hub.ready := by
  unfold completeWords
  split
  · rfl
  · split
    · simp
    · simp

@[simp] theorem evaluateWindow_ready (s : State) (num : Nat) : (evaluateWindow s num).hub.ready = s.hub.ready := by
  unfold evaluateWindow
  exact (foldl_ready (fun s e => by rfl) _ _).trans (foldl_ready (fun s p => by rfl) s _)

@[simp] theorem refusePacket_ready (s : State) (id status : Nat) : (refusePacket s id status).hub.ready = s.hub.ready := rfl

@[simp] theorem ownerFills_ready (s : State) (asid fuel va n : Nat) : (ownerFills s asid fuel va n).hub.ready = s.hub.ready := by
  induction fuel generalizing s va n with
  | zero => rfl
  | succ fuel ih =>
    simp only [ownerFills]
    split
    · rfl
    · split
      · rfl
      · split
        · rw [ih, jobTouch_ready]
        · rw [jobTouch_ready]

@[simp] theorem vetPacket_ready (s : State) (id : Nat) : (vetPacket s id).hub.ready = s.hub.ready := by
  unfold vetPacket
  dsimp only
  (repeat' split) <;> simp

@[simp] theorem dropFromGang_ready (s : State) (r : Saved) : (dropFromGang s r).hub.ready = s.hub.ready := by
  unfold dropFromGang
  split <;> rfl

@[simp] theorem discardSaved_ready (s : State) (r : Saved) : (discardSaved s r).hub.ready = s.hub.ready := by
  unfold discardSaved
  split <;> simp

@[simp] theorem sendCommand_ready (s : State) (cl : Nat) (c : Command) : (sendCommand s cl c).hub.ready = s.hub.ready := by
  unfold sendCommand
  dsimp only
  split <;> rfl

@[simp] theorem stopEverywhere_ready (s : State) (id gen : Nat) : (stopEverywhere s id gen).hub.ready = s.hub.ready :=
  foldl_ready (fun s cl => sendCommand_ready s cl _) s _

@[simp] theorem fatal_ready (s : State) (q : Packet) (cause : Nat) : (fatal s q cause).hub.ready = s.hub.ready := by
  unfold fatal
  dsimp only
  generalize (if q.phase = .dispatched then q.partner.bind s.packet else none) = c
  split
  · rfl
  · cases c with
    | none => rfl
    | some c => exact stopEverywhere_ready _ _ _

@[simp] theorem heedReport_ready (s : State) (r : Report) : (heedReport s r).hub.ready = s.hub.ready := by
  cases r <;> rfl

@[simp] theorem forgetWalks_ready (s : State) (c asid : Nat) : (forgetWalks s c asid).hub.ready = s.hub.ready := rfl

theorem killSubject_ready (s : State) (r : FaultRecord) : (killSubject s r).hub.ready = s.hub.ready := by
  unfold killSubject
  (repeat' split) <;> simp

theorem resumeSubject_ready (s : State) (r : FaultRecord) : (resumeSubject s r).hub.ready = s.hub.ready := by
  unfold resumeSubject
  (repeat' split) <;> simp

theorem performReply_ready (s : State) (index : Nat) (kill : Bool) : (performReply s index kill).hub.ready = s.hub.ready := by
  unfold performReply
  split
  · rfl
  · dsimp only
    split
    · exact killSubject_ready _ _
    · exact resumeSubject_ready _ _

/-- What stores, joins and replies that waited for a stack do leaves the ready bits. -/
theorem releaseHeld_ready (s : State) : (releaseHeld s).hub.ready = s.hub.ready := by
  have hreplies (u : State) : (serveReplies u).hub.ready = u.hub.ready := foldl_ready (fun u e => by
    dsimp only
    split
    · exact performReply_ready _ _ _
    · rfl) u _
  have hjoins (u : State) : (releaseJoins u).hub.ready = u.hub.ready :=
    foldl_ready joinDecrement_ready { u with keel := { u.keel with joins := [] } } _
  have hstores (u : State) : (releaseStores u).hub.ready = u.hub.ready :=
    foldl_ready (fun u e => homeStore_ready u _ _) { u with hub := { u.hub with heldStores := [] } } _
  rw [releaseHeld, hreplies, hjoins, hstores]

/-! Training (17 R448). -/

theorem setReady_get (s : State) {b k : Nat} (h : s.hub.ready.getLsbD k = true) : (setReady s b).hub.ready.getLsbD k = true := by
  rw [show (setReady s b).hub.ready = s.hub.ready ||| BitVec.ofNat 64 (2 ^ b) from rfl, BitVec.getLsbD_or, h, Bool.true_or]

theorem setReady_get_same (s : State) {b : Nat} (h : b < 64) : (setReady s b).hub.ready.getLsbD b = true := by
  rw [show (setReady s b).hub.ready = s.hub.ready ||| BitVec.ofNat 64 (2 ^ b) from rfl, BitVec.getLsbD_or, BitVec.getLsbD_ofNat,
    decide_eq_true h, Nat.testBit_two_pow_self]
  simp

theorem settleDies_get (s : State) {k : Nat} (h : s.hub.ready.getLsbD k = true) : (settleDies s).hub.ready.getLsbD k = true :=
  foldl_keeps (P := fun t : State => t.hub.ready.getLsbD k = true) (fun t d ht => by
    split
    · exact setReady_get t ht
    · exact ht) h _

/-! Links (17 R435, R443). -/

theorem mem_sortAsc (a : Nat) (l : List Nat) : a ∈ sortAsc l ↔ a ∈ l := (sortAsc_perm l).mem_iff

theorem raiseAplic_pending (s : State) (n : Nat) : n ∈ (raiseAplic s n).hub.aplic := by
  have h : (raiseAplic s n).hub.aplic = if s.hub.aplic.contains n then s.hub.aplic else sortAsc (n :: s.hub.aplic) := rfl
  rw [h]
  split
  next hc => simpa using hc
  next => exact (mem_sortAsc n _).mpr List.mem_cons_self

theorem fabricBit {n : Nat} (h : n < 16) : (BitVec.ofNat 16 (2 ^ (n % 16))).getLsbD n = true := by
  rw [BitVec.getLsbD_ofNat, decide_eq_true h, Nat.mod_eq_of_lt h, Nat.testBit_two_pow_self]
  rfl

theorem exec_linkUp {s : State} {n : Nat} (h : n < 16) (hr : s.hub.ready.getLsbD (31 + n) = true) :
    ∃ t, exec (.linkUp (.fabric n)) s = .next t ∧ t.hub.fabstat.getLsbD n = true ∧ 3 ∈ t.hub.aplic := by
  have hl : linkReady s (.fabric n) = true := by rw [linkReady, hr, decide_eq_true h]; rfl
  refine ⟨raiseAplic { s with hub := setLink s.hub (.fabric n) true } 3, ?_, ?_, raiseAplic_pending _ _⟩
  · change execLinkUp (.fabric n) s = _
    rw [execLinkUp, if_pos hl]
    rfl
  · change (s.hub.fabstat ||| BitVec.ofNat 16 (2 ^ (n % 16))).getLsbD n = true
    rw [BitVec.getLsbD_or, fabricBit h, Bool.or_true]

theorem exec_linkDown {s : State} {n : Nat} (h : n < 16) (hj : s.jobs = []) :
    ∃ t, exec (.linkDown (.fabric n)) s = .next t ∧ t.hub.fabstat.getLsbD n = false ∧ 3 ∈ t.hub.aplic := by
  refine ⟨raiseAplic { s with hub := setLink s.hub (.fabric n) false } 3, ?_, ?_, raiseAplic_pending _ _⟩
  · change execLinkDown (.fabric n) s = _
    rw [execLinkDown, hj]
    rfl
  · change (s.hub.fabstat &&& ~~~BitVec.ofNat 16 (2 ^ (n % 16))).getLsbD n = false
    rw [BitVec.getLsbD_and, BitVec.getLsbD_not, fabricBit h]
    simp

/-! Stores from outside (17 R425, R443). -/

theorem outsideStore_ram {s : State} {pa : Nat} {b : List Byte} (hb : b ≠ []) (hp : placeOf s pa = some (.ram pa))
    (he : placeOf s (pa + b.length - 1) = some (.ram (pa + b.length - 1))) (hr : placeReady s none (.ram pa) b.length = true) :
    outsideStore s pa b = writeRam (recallSpan s none (.ram pa) b.length) pa b := by
  have hr' : ramReady s none pa b.length = true := hr
  have hs : outsideStore s pa b = homeStore s pa b := by
    cases b with
    | nil => exact absurd rfl hb
    | cons x r => simp only [outsideStore, hp, he]
  rw [hs, homeStore, if_pos hr']

theorem placeOf_dram {s : State} {pa l : Nat} (h : placeOf s pa = some (.ram l)) : dramOk s pa = true := by
  unfold placeOf at h
  split at h
  next hd => exact hd
  next => split_ifs at h <;> cases h

theorem dramOk_lt {s : State} {pa : Nat} (h : dramOk s pa = true) : pa < 4 * dieSpan := by
  simp only [dramOk, Bool.and_eq_true, decide_eq_true_eq] at h
  exact h.1.1.1

theorem exec_applicationCoreStore {s : State} {pa : Nat} {b : List Byte} (hb : b ≠ []) (hp : placeOf s pa = some (.ram pa))
    (he : placeOf s (pa + b.length - 1) = some (.ram (pa + b.length - 1))) (hr : placeReady s none (.ram pa) b.length = true) :
    exec (.applicationCoreStore pa b) s = .next (writeRam (recallSpan s none (.ram pa) b.length) pa b) := by
  have hlt := dramOk_lt (placeOf_dram hp)
  have hd : 4 * dieSpan = 0xC000000000 := rfl
  have hh : hubBase = 0x10000000000 := rfl
  have hu : unitAddress pa = false := by
    have h1 : decide (aplicBase ≤ pa) = false := decide_eq_false (by rw [aplicBase]; omega)
    have h2 : decide (iommuBase ≤ pa) = false := decide_eq_false (by rw [iommuBase]; omega)
    have h3 : decide (ecamBase ≤ pa) = false := decide_eq_false (by rw [ecamBase]; omega)
    rw [unitAddress, h1, h2, h3]
    rfl
  change execApplicationCoreStore pa b s = _
  rw [execApplicationCoreStore, if_neg (by omega), hu, if_neg Bool.false_ne_true, outsideStore_ram hb hp he hr]

/-- An inbound write that is translated is a store from outside, with what the IOMMU notes of the translation. -/
theorem performInbound_write {s : State} {pa : Nat} {r : InboundRequest} {c : Option (List Byte)} (hi : inboundAt s r = .ok (pa, c))
    (hpage : r.pa % 4096 + r.bytes.length ≤ 4096) (hw : r.write = true) :
    ∃ io, performInbound s r = outsideStore { s with hub := { s.hub with iommu := io } } pa r.bytes := by
  rw [performInbound, if_neg (by omega), hi, hw]
  cases c with
  | none => exact ⟨s.hub.iommu, rfl⟩
  | some c => exact ⟨_, rfl⟩

theorem postedWaits_ready {s : State} {r : InboundRequest} (h : inboundReady s r = true)
    (ho : r.relaxed = true ∨ ∀ q ∈ s.hub.posted, q.requester ≠ r.requester) : postedWaits s s.hub.posted r = false := by
  have hany : (!r.relaxed && s.hub.posted.any fun q => q.write && q.requester == r.requester) = false := by
    obtain h | h := ho
    · rw [h]
      rfl
    · have : (s.hub.posted.any fun q => q.write && q.requester == r.requester) = false := by
        rw [List.any_eq_false]
        intro q hq
        simp [h q hq]
      rw [this, Bool.and_false]
  rw [postedWaits, h, hany]
  rfl

theorem exec_inbound {s : State} {r : InboundRequest} (h : postedWaits s s.hub.posted r = false) :
    exec (.pcieInboundRequest r) s = .next (performInbound s r) := by
  change execPcieInboundRequest r s = _
  rw [execPcieInboundRequest, h, if_neg Bool.false_ne_true]

/-- An inbound write that the IOMMU translates to memory lands there. -/
theorem inbound_lands {s : State} {pa : Nat} {b : List Byte} {r : InboundRequest} {c : Option (List Byte)} (hb : b ≠ [])
    (hp : placeOf s pa = some (.ram pa)) (he : placeOf s (pa + b.length - 1) = some (.ram (pa + b.length - 1)))
    (hr : placeReady s none (.ram pa) b.length = true) (hi : inboundAt s r = .ok (pa, c)) (hpage : r.pa % 4096 + b.length ≤ 4096)
    (hw : r.write = true) (hrb : r.bytes = b) (ho : r.relaxed = true ∨ ∀ q ∈ s.hub.posted, q.requester ≠ r.requester) :
    ∃ t, exec (.pcieInboundRequest r) s = .next t ∧ (∀ i, i < b.length → t.byte (pa + i) = b.getD i 0)
      ∧ (∀ a, a < pa ∨ pa + b.length ≤ a → t.byte a = s.byte a) ∧ t.harts = s.harts := by
  have hready : inboundReady s r = true := by
    rw [inboundReady, hi]
    simp only [hp, hrb, hr]
  obtain ⟨io, hio⟩ := performInbound_write hi (by rw [hrb]; exact hpage) hw
  obtain ⟨u, hu⟩ : ∃ u, ({ s with hub := { s.hub with iommu := io } } : State) = u := ⟨_, rfl⟩
  have hpu : placeOf u pa = some (.ram pa) := hu ▸ hp
  have heu : placeOf u (pa + b.length - 1) = some (.ram (pa + b.length - 1)) := hu ▸ he
  have hru : placeReady u none (.ram pa) b.length = true := hu ▸ hr
  have hum : u.mem = s.mem := hu ▸ rfl
  have huh : u.harts = s.harts := hu ▸ rfl
  have hrun : performInbound s r = writeRam (recallSpan u none (.ram pa) b.length) pa b := by
    rw [hio, hu, hrb, outsideStore_ram hb hpu heu hru]
  have hbyte (a : Nat) : (recallSpan u none (.ram pa) b.length).byte a = s.byte a := by
    rw [State.byte, recallSpan_mem, hum]
    rfl
  refine ⟨_, (exec_inbound (postedWaits_ready hready ho)).trans (congrArg _ hrun), fun i hi => ?_, fun a ha => ?_, ?_⟩
  · rw [writeRam_byte_in _ _ _ _ hi, List.getD_eq_getElem _ _ hi]
  · rw [writeRam_byte_out _ _ _ _ ha, hbyte]
  · rw [writeRam_harts, (recallSpan_homeKeeps u none (.ram pa) b.length).harts, huh]

theorem inbound_fails {s : State} {r : InboundRequest} {f : IoFault} (hq : s.hub.posted = [])
    (hpage : r.pa % 4096 + r.bytes.length ≤ 4096) (hi : inboundAt s r = .error f) (hc : f.cause ≠ stackHeld)
    (hw : recordWaits s f = false) : exec (.pcieInboundRequest r) s = .next (ioFail s r.requester r.pa r.write f) := by
  have hready : inboundReady s r = true := by
    rw [inboundReady, hi]
    simp [hc, hw]
  have hrun : performInbound s r = ioFail s r.requester r.pa r.write f := by
    rw [performInbound, if_neg (by omega), hi]
  rw [exec_inbound (postedWaits_ready hready (.inr (by rw [hq]; exact fun _ h => nomatch h))), hrun]

/-! Errors in memory (16 R418, R419). -/

theorem foldl_set_in (d v : Taint) (l : Nat) : ∀ (n : Nat) (m : SMap Taint) (k : Nat), k < n →
    Tab.get d ((List.range n).foldl (fun m i => Tab.set d (l + i) v m) m) (l + k) = v
  | n + 1, m, k, h => by
    rw [List.range_succ, List.foldl_append]
    by_cases hk : k = n
    · subst hk
      exact Tab.get_set_same _ _ _ _
    · refine (Tab.get_set_other d _ v _ _ (by omega)).trans (foldl_set_in d v l n m k (by omega))

theorem setTaint_in (s : State) (l n : Nat) (v : Taint) {k : Nat} (h : k < n) :
    Tab.get .sound (setTaint s l n v).taint (l + k) = v := foldl_set_in .sound v l n s.taint k h

theorem reportError_taint (s : State) (pa : Nat) : (reportError s pa).taint = s.taint := rfl

theorem uncache_taint (s : State) (l n : Nat) : (uncache s l n).taint = s.taint := rfl

/-- A sector of which an error is reported, its bytes as they stood once the queues were performed. -/
theorem spoiled_sector {s t : State} {pa l n : Nat} (ht : t = reportError (uncache (setTaint (performAll s) (pa / 32 * 32) 32 .error) l n) pa) :
    (∀ k, k < 32 → Tab.get .sound t.taint (pa / 32 * 32 + k) = .error)
    ∧ (t.keel.held.getLast?.map fun r => (r.kind, r.eval)) = some (6, BitVec.ofNat 64 pa)
    ∧ ∀ a, t.byte a = (performAll s).byte a := by
  subst ht
  generalize performAll s = u
  refine ⟨fun k hk => ?_, ?_, fun a => by rw [State.byte, reportError_mem, uncache_mem, setTaint_mem]; rfl⟩
  · rw [reportError_taint, uncache_taint]
    exact setTaint_in u _ _ .error hk
  · simp [reportError, pushRecord]

theorem performAll_quiet {s : State} (h : quiet s) : performAll s = s := by
  have hq (k : Nat) : (s.hart k).scalarQueue = [] ∧ (s.hart k).vectorQueue = [] := by
    obtain hd | hm := Tab.get_mem_or {} s.harts k
    · rw [State.hart, hd]
      exact ⟨rfl, rfl⟩
    · exact h _ hm
  have hfix (l : SMap Hart) : l.foldl (fun t e => performHart t e.1) s = s := by
    induction l with
    | nil => rfl
    | cons e l ih => rw [List.foldl_cons, performHart_empty (hq e.1).1 (hq e.1).2, ih]
  exact hfix s.harts

/-! Training (17 R448). -/

theorem linkEnabled_lt {p : Plate} {n : Nat} (h : linkEnabled p n = true) : n < 10 := by
  simp only [linkEnabled, Bool.and_eq_true, decide_eq_true_eq] at h
  exact h.1.1

theorem surroundings : Claims.Surroundings := by
  intro s n pa b
  refine ⟨fun hn hr => exec_linkUp hn hr, fun hn hj => exec_linkDown hn hj,
    fun hb hp he hr => ⟨fun r c hi hpage hw hrb ho => inbound_lands hb hp he hr hi hpage hw hrb ho,
      exec_applicationCoreStore hb hp he hr⟩,
    fun r f hq hpage hi hc hw => inbound_fails hq hpage hi hc hw, fun hd => ?_, fun hlt hdie => ?_, fun h53 => ⟨fun hl => ?_, fun hn hm => ?_, fun hn => ?_⟩⟩
  · obtain ⟨htaint, hheld, hbyte⟩ := spoiled_sector (s := s) (pa := pa) (l := pa) (n := 1) rfl
    refine ⟨_, if_pos hd, htaint, hheld, hbyte, fun hq a => ?_⟩
    rw [hbyte, performAll_quiet hq]
  · obtain ⟨htaint, -, hbyte⟩ := spoiled_sector (s := s) (pa := pa) (l := pa / 32 * 32) (n := 32) rfl
    refine ⟨_, ?_, htaint, hbyte, fun hq a => ?_⟩
    · change execPatrolScrub pa true s = _
      rw [execPatrolScrub, decide_eq_true hlt, decide_eq_true hdie]
      rfl
    · rw [hbyte, performAll_quiet hq]
  · have hn := linkEnabled_lt hl
    refine ⟨_, if_pos (by rw [hl, h53]; rfl), ?_⟩
    rw [(applyLatches_homeKeeps _ _).ready, releaseHeld_ready]
    exact settleDies_get _ (setReady_get_same s (by omega))
  · have hc : (true && s.plate.hbm.contains n && s.hub.ready.getLsbD 53) = true := by
      rw [h53, List.contains_iff_mem.mpr hm]
      rfl
    have hu := settleDies_get (setReady s n) (setReady_get_same s (b := n) (by omega))
    refine ⟨_, if_pos hc, ?_⟩
    generalize settleDies (setReady s n) = u at hu
    rw [(applyLatches_homeKeeps _ _).ready, releaseHeld_ready]
    exact hu
  · refine ⟨_, if_pos (by rw [h53, decide_eq_true hn]; rfl), setReady_get_same s (by omega)⟩

end Sys2Proof.Machine
end

section
/-! SUPPORT. The registers of the hub and the mailbox (15 R394 to R399; 17 R427 to R429). -/

namespace Sys2Proof.Machine

theorem recallSpan_sec (s : State) (c : Option Nat) (p : Place) (n : Nat) : (recallSpan s c p n).sec = s.sec := by
  rw [(recallSpan_onlyCaches s c p n).rest]

theorem recallSpan_plate (s : State) (c : Option Nat) (p : Place) (n : Nat) : (recallSpan s c p n).plate = s.plate := by
  rw [(recallSpan_onlyCaches s c p n).rest]

/-- The state in which a command of the mailbox finds its operand. -/
def operandRead (s : State) : State := recallSpan s none (.ram s.sec.opAddr.toNat) s.sec.opLen.toNat

theorem operandRead_onlyCaches (s : State) : OnlyCaches s (operandRead s) := recallSpan_onlyCaches _ _ _ _

theorem mailboxStart_idle {s : State} (hb : s.sec.busy = false) (hr : s.hub.ready.getLsbD 53 = true) (code : Nat) :
    mailboxStart s code = .next (performCommand s code) := by
  rw [mailboxStart, hb, hr]
  rfl

/-- The length of its operand suits a command. -/
def lengthOk (code n : Nat) : Bool := match commandLength code with | some k => decide (n = k) | none => decide (code = 4)

section
variable {s : State} {code : Nat} (hlen : lengthOk code s.sec.opLen.toNat = true) (hok : operandOk s = true)
include hlen hok

theorem performCommand_runs (hr : s.sec.opLen = 0 ∨ ramReady s none s.sec.opAddr.toNat s.sec.opLen.toNat = true)
    (ht : taintPlace s (.ram s.sec.opAddr.toNat) s.sec.opLen.toNat = .sound) :
    performCommand s code = mailboxDone (commandEffect (operandRead s) code
      (readPlace s (.ram s.sec.opAddr.toNat) s.sec.opLen.toNat)) := by
  have hwait : (decide (s.sec.opLen.toNat ≠ 0) && !ramReady s none s.sec.opAddr.toNat s.sec.opLen.toNat) = false := by
    obtain h | h := hr
    · rw [h]
      rfl
    · rw [h, Bool.not_true, Bool.and_false]
  unfold lengthOk at hlen
  cases hc : commandLength code with
  | none =>
    have hk : decide (code ≠ 4) = false := by
      rw [hc] at hlen
      simpa using hlen
    simp only [performCommand, hc, hk, hok, hwait, ht, operandRead, Bool.false_eq_true, if_false, Bool.not_true, ne_eq,
      not_true_eq_false]
  | some k =>
    have hk : decide (s.sec.opLen.toNat ≠ k) = false := by
      rw [hc] at hlen
      simpa using hlen
    simp only [performCommand, hc, hk, hok, hwait, ht, operandRead, Bool.false_eq_true, if_false, Bool.not_true, ne_eq,
      not_true_eq_false]

theorem performCommand_waits (hn : s.sec.opLen ≠ 0) (hr : ramReady s none s.sec.opAddr.toNat s.sec.opLen.toNat = false) :
    performCommand s code = { s with sec := { s.sec with busy := true, command := some code } } := by
  have hn' : decide (s.sec.opLen.toNat ≠ 0) = true := decide_eq_true fun h => hn (BitVec.eq_of_toNat_eq h)
  unfold lengthOk at hlen
  cases hc : commandLength code with
  | none =>
    have hk : decide (code ≠ 4) = false := by
      rw [hc] at hlen
      simpa using hlen
    simp only [performCommand, hc, hk, hok, hn', hr, Bool.false_eq_true, if_false, Bool.not_true, Bool.not_false, Bool.and_self,
      if_true]
  | some k =>
    have hk : decide (s.sec.opLen.toNat ≠ k) = false := by
      rw [hc] at hlen
      simpa using hlen
    simp only [performCommand, hc, hk, hok, hn', hr, Bool.false_eq_true, if_false, Bool.not_true, Bool.not_false, Bool.and_self,
      if_true]

end

/-- What the end of a command leaves, its response no longer than the room for it. -/
structure Answered (k : Nat) (b : List Byte) (u t : State) : Prop where
  busy : t.sec.busy = true
  result : t.sec.result = k
  response : t.sec.response = b
  measure : t.sec.measure = u.sec.measure
  extcount : t.sec.extcount = u.sec.extcount
  plate : t.plate = u.plate

theorem mailboxDone_answered {k : Nat} {b : List Byte} {u : State} (h : b.length ≤ u.sec.rspLen.toNat) :
    Answered k b u (mailboxDone (k, b, u)) := by
  have hl : decide (u.sec.rspLen.toNat < b.length) = false := decide_eq_false (by omega)
  unfold mailboxDone
  simp only [hl, Bool.false_eq_true, if_false]
  exact ⟨rfl, rfl, rfl, rfl, rfl, rfl⟩

theorem mailboxDone_busy (r : Nat × List Byte × State) : (mailboxDone r).sec.busy = true := rfl

theorem mailboxDone_stands {s : State} {r : Nat × List Byte × State} (hm : r.2.2.mem = s.mem) (hh : r.2.2.harts = s.harts) :
    memoryStands s (mailboxDone r) :=
  ⟨fun a => congrArg (Tab.get 0 · a) hm, fun h _ => congrArg (fun H => Tab.get ({} : Hart) H h) hh⟩

theorem quoteReport_length (s : State) {b : List Byte} (h : b.length = 32) : (quoteReport s b).length = 304 := by
  simp only [quoteReport, List.length_append, slice_length, leBytes_length, Config.partNumber, List.length_cons, List.length_nil,
    List.length_replicate, h]

/-! The effects of the commands. -/

theorem commandEffect_quote (s : State) (b : List Byte) : commandEffect s 1 b = (0, quoteReport s b, s) := rfl

theorem commandEffect_extend (s : State) (b : List Byte) : commandEffect s 2 b = (0, leBytes 4 (s.sec.extcount + 1).toNat,
    { s with sec := { s.sec with measure := digest (leBytes 64 s.sec.measure.toNat ++ b), extcount := s.sec.extcount + 1 } }) := rfl

/-- The package is verified by a function of its own here, which keeps the proof clear of evaluating it. -/
theorem commandEffect_plateupd (s : State) (b : List Byte) : commandEffect s 4 b =
    if ed25519Verify Config.plateKey b (Config.packageSignature b) && decide (s.plate.sequence < Config.packageSequence b) then
      (0, [], { s with plate := { s.plate with pending := some ⟨Config.packageSequence b, b⟩ } })
    else (1, [], s) := by
  have h (f : State → Nat → List Byte → Nat × List Byte × State) (hf : f = commandEffect) (verify : _) (hv : ed25519Verify = verify) :
      f s 4 b = if verify Config.plateKey b (Config.packageSignature b) && decide (s.plate.sequence < Config.packageSequence b) then
        (0, [], { s with plate := { s.plate with pending := some ⟨Config.packageSequence b, b⟩ } })
      else (1, [], s) := by
    delta commandEffect at hf
    rw [hv] at hf
    rw [hf]
    rfl
  exact h commandEffect rfl ed25519Verify rfl

/-- What a command does to a mailbox that is idle, its operand ready and sound. -/
structure MailboxIdle (s : State) : Prop where
  busy : s.sec.busy = false
  ready : s.hub.ready.getLsbD 53 = true
  operand : operandOk s = true
  stack : s.sec.opLen = 0 ∨ ramReady s none s.sec.opAddr.toNat s.sec.opLen.toNat = true
  sound : taintPlace s (.ram s.sec.opAddr.toNat) s.sec.opLen.toNat = .sound

theorem MailboxIdle.start {s : State} (h : MailboxIdle s) {code : Nat} (hlen : lengthOk code s.sec.opLen.toNat = true) :
    mailboxStart s code = .next (mailboxDone (commandEffect (operandRead s) code
      (readPlace s (.ram s.sec.opAddr.toNat) s.sec.opLen.toNat))) := by
  rw [mailboxStart_idle h.busy h.ready, performCommand_runs hlen h.operand h.stack h.sound]

theorem operandRead_sec (s : State) : (operandRead s).sec = s.sec := recallSpan_sec _ _ _ _

theorem operandRead_plate (s : State) : (operandRead s).plate = s.plate := recallSpan_plate _ _ _ _

theorem quote_reports {s : State} (h : MailboxIdle s) (hn : s.sec.opLen = 32) (hr : 304 ≤ s.sec.rspLen.toNat) :
    ∃ t, exec .quote s = .next t ∧ t.sec.busy = true ∧ t.sec.result = 0 ∧ t.sec.response.length = 304
      ∧ t.sec.measure = s.sec.measure ∧ memoryStands s t := by
  have hlen : (readPlace s (.ram s.sec.opAddr.toNat) s.sec.opLen.toNat).length = 32 := by rw [readPlace_length, hn]; rfl
  have hq := quoteReport_length (operandRead s) hlen
  have ha := mailboxDone_answered (k := 0)
    (b := quoteReport (operandRead s) (readPlace s (.ram s.sec.opAddr.toNat) s.sec.opLen.toNat)) (u := operandRead s)
    (by rw [hq, operandRead_sec]; exact hr)
  have hc := operandRead_onlyCaches s
  have hx := h.start (code := 1) (by rw [hn]; rfl)
  rw [commandEffect_quote] at hx
  refine ⟨_, hx, ha.busy, ha.result, by rw [ha.response]; exact hq, ?_, ?_⟩
  · rw [ha.measure, operandRead_sec]
  · exact mailboxDone_stands hc.mem hc.harts

theorem extend_measures {s : State} (h : MailboxIdle s) (hn : s.sec.opLen = 64) (hr : 4 ≤ s.sec.rspLen.toNat) :
    ∃ t, exec .extend s = .next t ∧ t.sec.busy = true ∧ t.sec.result = 0 ∧ t.sec.response = leBytes 4 t.sec.extcount.toNat
      ∧ t.sec.extcount = s.sec.extcount + 1
      ∧ t.sec.measure = digest (leBytes 64 s.sec.measure.toNat ++ readPlace s (.ram s.sec.opAddr.toNat) s.sec.opLen.toNat) := by
  have hx := h.start (code := 2) (by rw [hn]; rfl)
  rw [commandEffect_extend] at hx
  obtain ⟨b, hb⟩ : ∃ b, readPlace s (.ram s.sec.opAddr.toNat) s.sec.opLen.toNat = b := ⟨_, rfl⟩
  have hsec := operandRead_sec s
  rw [hb] at hx ⊢
  generalize operandRead s = u at hx hsec
  have ha := mailboxDone_answered (k := 0) (b := leBytes 4 (u.sec.extcount + 1).toNat)
    (u := { u with sec := { u.sec with measure := digest (leBytes 64 u.sec.measure.toNat ++ b), extcount := u.sec.extcount + 1 } })
    (by rw [leBytes_length, hsec]; exact hr)
  exact ⟨_, hx, ha.busy, ha.result, by rw [ha.response, ha.extcount], by rw [ha.extcount, hsec], by rw [ha.measure, hsec]⟩

theorem identity_answers {s : State} (h : MailboxIdle s) (hn : s.sec.opLen = 0) :
    ∃ t, exec .identity s = .next t ∧ t.sec.busy = true ∧ memoryStands s t :=
  have hc := operandRead_onlyCaches s
  ⟨_, h.start (code := 3) (by rw [hn]; rfl), mailboxDone_busy _, mailboxDone_stands hc.mem hc.harts⟩

theorem plateupd_answers {s : State} (h : MailboxIdle s) {b : List Byte}
    (hb : readPlace s (.ram s.sec.opAddr.toNat) s.sec.opLen.toNat = b) :
    ∃ t, exec .plateupd s = .next t ∧ t.sec.busy = true
      ∧ (ed25519Verify Config.plateKey b (Config.packageSignature b) = true → s.plate.sequence < Config.packageSequence b →
        t.sec.result = 0 ∧ t.plate.pending = some ⟨Config.packageSequence b, b⟩)
      ∧ (Config.packageSequence b ≤ s.plate.sequence → t.sec.result = 1 ∧ t.plate = s.plate) := by
  have hx := h.start (code := 4) rfl
  rw [hb] at hx
  rw [commandEffect_plateupd] at hx
  have hp := operandRead_plate s
  generalize operandRead s = u at hx hp
  refine ⟨_, hx, mailboxDone_busy _, fun hv hs => ?_, fun hs => ?_⟩
  · have ha := mailboxDone_answered (k := 0) (b := [])
      (u := { u with plate := { u.plate with pending := some ⟨Config.packageSequence b, b⟩ } }) (Nat.zero_le _)
    rw [hv, hp, decide_eq_true hs, Bool.and_self, if_pos rfl, ← hp]
    exact ⟨ha.result, by rw [ha.plate]⟩
  · have ha := mailboxDone_answered (k := 1) (b := []) (u := u) (Nat.zero_le _)
    rw [hp, decide_eq_false (Nat.not_lt.mpr hs), Bool.and_false, if_neg Bool.false_ne_true]
    exact ⟨ha.result, by rw [ha.plate, hp]⟩

theorem mailboxComplete_waits {s : State} (hb : s.sec.busy = false) (hr : s.hub.ready.getLsbD 53 = true) (hn : s.sec.opLen ≠ 0)
    (hok : operandOk s = true) (hst : ramReady s none s.sec.opAddr.toNat s.sec.opLen.toNat = false) :
    ∃ t, exec .plateupd s = .next t ∧ t.sec.busy = true ∧ t.sec.command = some 4 ∧ t.plate = s.plate
      ∧ exec .mailboxComplete t = .next t := by
  obtain ⟨t, ht⟩ : ∃ t, ({ s with sec := { s.sec with busy := true, command := some 4 } } : State) = t := ⟨_, rfl⟩
  have hp : performCommand s 4 = t := ht ▸ performCommand_waits rfl hok hn hst
  have hpt : performCommand t 4 = t := by
    have h := performCommand_waits (s := t) (code := 4) rfl (ht ▸ hok) (ht ▸ hn) (ht ▸ hst)
    rw [h, ← ht]
  have hbt : t.sec.busy = true := ht ▸ rfl
  have hct : t.sec.command = some 4 := ht ▸ rfl
  refine ⟨t, ?_, hbt, hct, ht ▸ rfl, ?_⟩
  · rw [← hp]
    exact mailboxStart_idle hb hr 4
  · change execMailboxComplete t = _
    simp only [execMailboxComplete, hbt, hct, Bool.not_true, Bool.false_eq_true, if_false, hpt]

theorem mailboxComplete_answers {s : State} {n : Nat} (hb : s.sec.busy = true) (hc : s.sec.command = none)
    (hl : s.sec.response.length = n) (hn : n ≠ 0) (hd : dramOk s s.sec.rspAddr.toNat = true)
    (hr : ramReady s none s.sec.rspAddr.toNat n = true) (he : dramOk s (s.sec.rspAddr.toNat + n - 1) = true) :
    ∃ t, exec .mailboxComplete s = .next t ∧ t.sec.busy = false ∧ 5 ∈ t.hub.aplic
      ∧ readPlace t (.ram s.sec.rspAddr.toNat) n = s.sec.response := by
  obtain ⟨u, hu⟩ : ∃ u, agentStore s (.ram s.sec.rspAddr.toNat) s.sec.response = u := ⟨_, rfl⟩
  refine ⟨raiseAplic { u with sec := { u.sec with busy := false, response := [] } } 5, ?_, rfl, raiseAplic_pending _ _, ?_⟩
  · change execMailboxComplete s = _
    simp only [execMailboxComplete, hb, hc, hl, hd, hr, he, hn, hu, Bool.not_true, Bool.false_eq_true, if_false, ne_eq,
      not_false_eq_true, decide_true, Bool.and_self, Bool.and_false, if_true]
  · have hm : (raiseAplic { u with sec := { u.sec with busy := false, response := [] } } 5).mem = u.mem := rfl
    rw [readPlace_ram_congr hm, ← hu, ← hl]
    exact readPlace_writeRam _ _ _

theorem hubRegisters : Claims.HubRegisters := by
  intro s v operand idle
  have hidle (h : idle) : MailboxIdle s := ⟨h.1, h.2.1, h.2.2.1, h.2.2.2.1, h.2.2.2.2⟩
  refine ⟨fun hv hs => ?_, fun hs => ?_, rfl, rfl, rfl, fun h hn hr => quote_reports (hidle h) hn hr,
    fun h hn hr => extend_measures (hidle h) hn hr, fun h hn => identity_answers (hidle h) hn,
    fun h => plateupd_answers (hidle h) rfl, fun hb hr hn hok hst => mailboxComplete_waits hb hr hn hok hst,
    fun n hb hc hl hn hd hr he => mailboxComplete_answers hb hc hl hn hd hr he⟩
  · refine ⟨{ s with hub := { s.hub with devid := v.truncate 22, devidSet := true } }, ?_, rfl, rfl⟩
    change execDevidsetWrite v s = _
    rw [execDevidsetWrite, hs, if_neg]
    rw [Nat.div_eq_of_lt hv]
    simp
  · change execDevidsetWrite v s = _
    rw [execDevidsetWrite, if_pos (.inl hs)]

/-- Settles O50: a command of the mailbox is one function of its operand, once that is ready and sound; what a stack's training
releases leaves the ready bits; and an error poisons its sector whatever the queues had left to perform. -/
theorem hubRegistersAndSurroundings : Obligations.HubRegistersAndSurroundings := ⟨hubRegisters, surroundings⟩

end Sys2Proof.Machine
end
